-- ==== Sys2Proof/Word.lean ====
section
/-!
DEFINITION. The word types of the Fletrivia Y8 (R9, R35, R178) and nothing else.
-/
namespace Sys2Proof

/-- A 64-bit value: a G register, a queue entry, a system register (R35, R46). -/
abbrev Word := BitVec 64

/-- A 32-bit value: an instruction word, a vector lane, an accumulator element (R205, R257, R183). -/
abbrev Word32 := BitVec 32

/-- A byte of memory (R9). -/
abbrev Byte := BitVec 8

end Sys2Proof
end

