-- ==== Sys2Proof/Machine/Bits.lean ====
section
/-!
DEFINITION. Bit-field, sign-extension and byte-order helpers (R9, R11, R208) on natural numbers, integers and words.
-/
namespace Sys2Proof

/-- Bits [lo + n - 1 : lo] of x (R9, R11). -/
def field (x lo n : Nat) : Nat := x / 2 ^ lo % 2 ^ n

/-- Bit k of x as a Bool. -/
def bitAt (x k : Nat) : Bool := x / 2 ^ k % 2 == 1

/-- `sext(x, …)` of R11: the low n bits of x read as two's complement. -/
def sextInt (n x : Nat) : Int :=
  let m := x % 2 ^ n
  if m < 2 ^ (n - 1) then (m : Int) else (m : Int) - (2 ^ n : Nat)

/-- An integer taken modulo 2^64 as a word. -/
def wordOfInt (z : Int) : Word := BitVec.ofInt 64 z

/-- `sext(x, 64)` of R11 for an n-bit x. -/
def sext64 (n x : Nat) : Word := wordOfInt (sextInt n x)

/-- Ceiling of a / b. -/
def ceilDiv (a b : Nat) : Nat := (a + b - 1) / b

/-- The little-endian value of a list of bytes (R9: the byte at the lowest address holds bits [7:0]). -/
def leNat : List Byte → Nat
  | [] => 0
  | b :: bs => b.toNat + 256 * leNat bs

/-- The n little-endian bytes of x (R9). -/
def leBytes : Nat → Nat → List Byte
  | 0, _ => []
  | n + 1, x => BitVec.ofNat 8 (x % 256) :: leBytes n (x / 256)

/-- Number of set bits among bits [n-1:0] of x. -/
def popCount : Nat → Nat → Nat
  | 0, _ => 0
  | n + 1, x => x % 2 + popCount n (x / 2)

/-- Number of zero bits of x above its highest set bit, within n bits (R229 CLZ). -/
def leadingZeros : Nat → Nat → Nat
  | 0, _ => 0
  | n + 1, x => if bitAt x n then 0 else 1 + leadingZeros n x

/-- Number of zero bits of x below its lowest set bit, within n bits (R229 CTZ). -/
def trailingZeros : Nat → Nat → Nat
  | 0, _ => 0
  | n + 1, x => if x % 2 = 1 then 0 else 1 + trailingZeros n (x / 2)

/-- x with bits [lo + n - 1 : lo] replaced by the low n bits of v. -/
def putField (x lo n v : Nat) : Nat :=
  x % 2 ^ lo + 2 ^ lo * (v % 2 ^ n) + 2 ^ (lo + n) * (x / 2 ^ (lo + n))

/-- 0, 1, …, n - 1. -/
def upto (n : Nat) : List Nat := List.range n

/-- A Bool as 0 or 1. -/
def b2n (b : Bool) : Nat := if b then 1 else 0

/-- The 24-bit little-endian groups of L6 codes, four to a group, as bytes (R179, R271). -/
def packL6 : Nat → List Nat → List Byte
  | 0, _ => []
  | n + 1, cs =>
    if cs = [] then []
    else leBytes 3 (cs.getD 0 0 + cs.getD 1 0 * 64 + cs.getD 2 0 * 4096 + cs.getD 3 0 * 262144) ++ packL6 n (cs.drop 4)

end Sys2Proof
end

