-- ==== Sys2Proof/Syntax.lean ====
section
/-!
DEFINITION. The syntax of the Fletrivia Y8: operand structures, the operands of events, and ONE inductive Instr with one
constructor for each row of spec/opcode_table.json (words of R205 to R217 and events of spec/95).
Fields a word does not use are not in the syntax (R219: an unused field is ignored).
-/
namespace Sys2Proof

/-- The context tag CT of R36. -/
inductive Tag
  | A | L | C | S
  deriving DecidableEq, Repr

/-- The three contexts of R35. -/
inductive Ctx
  | L | C | S
  deriving DecidableEq, Repr

/-- Rounding modes of R191. -/
inductive Rnd
  | rne | rtz | rup | rdn
  deriving DecidableEq, Repr

/-- Access sizes SZ of R207. -/
inductive Sz
  | b | h | w | d
  deriving DecidableEq, Repr

/-- An F-I immediate (R208): IMM12, or the extension literal. -/
inductive Imm
  | short (i : BitVec 12)
  | long (l : BitVec 32)
  deriving DecidableEq, Repr

/-- An F-B word offset (R208): OFF14, or the extension literal. -/
inductive Off
  | short (o : BitVec 14)
  | long (l : BitVec 32)
  deriving DecidableEq, Repr

/-- Branch conditions of R212 that `BC` takes. -/
inductive Cond
  | eqz | nez | ltz | gez | gtz | lez
  deriving DecidableEq, Repr

/-- Relations of FCMP (R238). -/
inductive FCond
  | eq | lt | le | un
  deriving DecidableEq, Repr

/-- Element types of VCMP (R266). -/
inductive VcmpTy
  | f32 | i32 | u32 | bf16
  deriving DecidableEq, Repr

/-- Conditions of VCMP (R266). -/
inductive VcmpCond
  | eq | lt | le | ne
  deriving DecidableEq, Repr

/-- Operations of VRED (R274). -/
inductive VredFn
  | sumF32 | maxF32 | minF32 | sumI32 | maxI32 | minI32 | and | or | xor
  deriving DecidableEq, Repr

/-- Atomic operations of R295. -/
inductive AmoFn
  | add | min | max | and | or | xor | swap | addf
  deriving DecidableEq, Repr

/-- Fence scopes (R126, R214). -/
inductive Scope
  | isle | die | dev | dom
  deriving DecidableEq, Repr

/-- The engines and their queues (R214, R327). -/
inductive Engine
  | mx | cp | at | cl | ci | td
  deriving DecidableEq, Repr

/-- Descriptor fields that TMOD edits (R326). -/
inductive TmodField
  | base | size0 | size1 | size2 | size3 | stride1 | stride2 | stride3 | sb | gsoff | fmt | space | ndim | flags
  deriving DecidableEq, Repr

/-- Collective operations (R348). -/
inductive CollFn
  | sum | max | min
  deriving DecidableEq, Repr

structure TagOp where
  ct : Tag
  deriving DecidableEq, Repr

/-- F-R with D, A, B (R207). -/
structure RRR where
  ct : Tag
  d : BitVec 5
  a : BitVec 5
  b : BitVec 5
  deriving DecidableEq, Repr

/-- F-R with D, A. -/
structure RR where
  ct : Tag
  d : BitVec 5
  a : BitVec 5
  deriving DecidableEq, Repr

/-- SEL (R232): the condition register is in FN. -/
structure SelOp where
  ct : Tag
  d : BitVec 5
  a : BitVec 5
  b : BitVec 5
  e : BitVec 5
  deriving DecidableEq, Repr

/-- LEA (R232). -/
structure LeaOp where
  ct : Tag
  d : BitVec 5
  a : BitVec 5
  b : BitVec 5
  s : BitVec 3
  deriving DecidableEq, Repr

/-- BFX, BFI (R235): pos and width minus 1. -/
structure BfOp where
  ct : Tag
  d : BitVec 5
  a : BitVec 5
  wm1 : BitVec 6
  pos : BitVec 6
  deriving DecidableEq, Repr

/-- F-I with D, A and an immediate (R233). -/
structure ImmOp where
  ct : Tag
  d : BitVec 5
  a : BitVec 5
  i : Imm
  deriving DecidableEq, Repr

/-- SHL, SHR, SAR immediate (R233): the count, and whether it came in an extension word. -/
structure ShiftOp where
  ct : Tag
  d : BitVec 5
  a : BitVec 5
  n : BitVec 6
  xw : Bool
  deriving DecidableEq, Repr

/-- LI (R234): A is unused. -/
structure LiOp where
  ct : Tag
  d : BitVec 5
  i : Imm
  deriving DecidableEq, Repr

/-- Scalar FP32 with a rounding mode (R213). -/
structure FpRRR where
  ct : Tag
  d : BitVec 5
  a : BitVec 5
  b : BitVec 5
  r : Rnd
  deriving DecidableEq, Repr

structure FpRR where
  ct : Tag
  d : BitVec 5
  a : BitVec 5
  r : Rnd
  deriving DecidableEq, Repr

structure FcmpOp where
  ct : Tag
  d : BitVec 5
  a : BitVec 5
  b : BitVec 5
  k : FCond
  deriving DecidableEq, Repr

/-- FFMA (R237): the addend register is in FN. -/
structure FfmaOp where
  ct : Tag
  d : BitVec 5
  a : BitVec 5
  b : BitVec 5
  e : BitVec 5
  r : Rnd
  deriving DecidableEq, Repr

/-- BR, CALL (R240, R243). -/
structure BrOp where
  ct : Tag
  o : Off
  deriving DecidableEq, Repr

structure BcOp where
  ct : Tag
  a : BitVec 5
  k : Cond
  o : Off
  deriving DecidableEq, Repr

structure LoopOp where
  ct : Tag
  a : BitVec 5
  o : Off
  deriving DecidableEq, Repr

/-- JR, CALLR: the register A. -/
structure ROp where
  ct : Tag
  a : BitVec 5
  deriving DecidableEq, Repr

/-- QPEEK, QCNT (R245, R246): D and a queue register. -/
structure QOp where
  ct : Tag
  d : BitVec 5
  q : BitVec 3
  deriving DecidableEq, Repr

/-- SRD, SWR (R247, R248): D and a system register number. -/
structure SysOp where
  ct : Tag
  d : BitVec 5
  sys : BitVec 12
  deriving DecidableEq, Repr

/-- TRAP, HINT, PMARK: a 12-bit code. -/
structure CodeOp where
  ct : Tag
  code : BitVec 12
  deriving DecidableEq, Repr

/-- LD, LDS, LD.AQ (R290). -/
structure LoadOp where
  ct : Tag
  d : BitVec 5
  a : BitVec 5
  land : BitVec 6
  sz : Sz
  m : BitVec 3
  off : Option (BitVec 32)
  deriving DecidableEq, Repr

/-- ST, ST.RL (R293). -/
structure StoreOp where
  ct : Tag
  s : BitVec 5
  a : BitVec 5
  sz : Sz
  off : Option (BitVec 32)
  deriving DecidableEq, Repr

/-- AMO and its release forms (R294): q is MOD[3], `.AQ` on major 0x25 and `.AR` on 0x26. -/
structure AmoOp where
  ct : Tag
  d : BitVec 5
  a : BitVec 5
  land : BitVec 6
  sz : Sz
  fn : AmoFn
  q : Bool
  off : Option (BitVec 32)
  deriving DecidableEq, Repr

/-- CAS (R296). -/
structure CasOp where
  ct : Tag
  d : BitVec 5
  a : BitVec 5
  land : BitVec 6
  sz : Sz
  rl : Bool
  aq : Bool
  off : Option (BitVec 32)
  deriving DecidableEq, Repr

/-- RED (R297). -/
structure RedOp where
  ct : Tag
  s : BitVec 5
  a : BitVec 5
  sz : Sz
  fn : AmoFn
  rl : Bool
  off : Option (BitVec 32)
  deriving DecidableEq, Repr

/-- PREF, CFLUSH, PGREQ (R300 to R302): an address alone. -/
structure AddrOp where
  ct : Tag
  a : BitVec 5
  off : Option (BitVec 32)
  deriving DecidableEq, Repr

structure FenceOp where
  ct : Tag
  sc : Bool
  scope : Scope
  deriving DecidableEq, Repr

structure BarOp where
  ct : Tag
  b : BitVec 5
  deriving DecidableEq, Repr

structure WaitOp where
  ct : Tag
  d : BitVec 5
  eng : Engine
  deriving DecidableEq, Repr

/-- LAUNCH, QTAIL (R312). -/
structure AbOp where
  ct : Tag
  a : BitVec 5
  b : BitVec 5
  deriving DecidableEq, Repr

/-- Vector floating point with VA, VB (R263); x is the rounding literal where XW = 1. -/
structure VfOp where
  ct : Tag
  v : BitVec 5
  a : BitVec 5
  b : BitVec 5
  m : BitVec 3
  x : Option Rnd
  deriving DecidableEq, Repr

/-- Vector operations with VA alone and an optional rounding literal (R263, R270, R273). -/
structure Vf1Op where
  ct : Tag
  v : BitVec 5
  a : BitVec 5
  m : BitVec 3
  x : Option Rnd
  deriving DecidableEq, Repr

/-- Vector operations with VA, VB and MK, and no extension word (R264, R265, R267, R275). -/
structure VOp where
  ct : Tag
  v : BitVec 5
  a : BitVec 5
  b : BitVec 5
  m : BitVec 3
  deriving DecidableEq, Repr

structure VcmpOp where
  ct : Tag
  md : BitVec 3
  a : BitVec 5
  b : BitVec 5
  m : BitVec 3
  t : VcmpTy
  k : VcmpCond
  deriving DecidableEq, Repr

/-- MAND, MOR, MXOR, MANDN (R268). -/
structure MmmOp where
  ct : Tag
  md : BitVec 3
  ma : BitVec 3
  mb : BitVec 3
  deriving DecidableEq, Repr

structure MmOp where
  ct : Tag
  md : BitVec 3
  ma : BitVec 3
  deriving DecidableEq, Repr

/-- MPOP, MTOG: a G destination and a mask. -/
structure GmOp where
  ct : Tag
  d : BitVec 5
  ma : BitVec 3
  deriving DecidableEq, Repr

/-- MFROMG: a mask destination and a G source. -/
structure MgOp where
  ct : Tag
  md : BitVec 3
  a : BitVec 5
  deriving DecidableEq, Repr

structure VredOp where
  ct : Tag
  d : BitVec 5
  a : BitVec 5
  m : BitVec 3
  f : VredFn
  x : Option Rnd
  deriving DecidableEq, Repr

structure VbcastOp where
  ct : Tag
  v : BitVec 5
  a : BitVec 5
  m : BitVec 3
  deriving DecidableEq, Repr

/-- VLD, VST (R277). The landing of VST is always 0. -/
structure VmemOp where
  ct : Tag
  v : BitVec 5
  a : BitVec 5
  land : BitVec 6
  m : BitVec 3
  off : Option (BitVec 32)
  deriving DecidableEq, Repr

/-- Strided and indexed vector accesses (R277): x is literal[31:27], the stride or index register; off is literal[26:0]. -/
structure VmemXOp where
  ct : Tag
  v : BitVec 5
  a : BitVec 5
  land : BitVec 6
  m : BitVec 3
  x : BitVec 5
  off : BitVec 27
  deriving DecidableEq, Repr

/-- TLD, TST (R325). -/
structure TmemOp where
  ct : Tag
  t : BitVec 6
  gx : BitVec 5
  off : BitVec 22
  deriving DecidableEq, Repr

structure TmodOp where
  ct : Tag
  t : BitVec 6
  gx : BitVec 5
  f : TmodField
  add : Bool
  deriving DecidableEq, Repr

structure MxmOp where
  ct : Tag
  ta : BitVec 6
  tb : BitVec 6
  acc : BitVec 3
  deriving DecidableEq, Repr

structure MxzOp where
  ct : Tag
  acc : BitVec 3
  deriving DecidableEq, Repr

structure MxdOp where
  ct : Tag
  ta : BitVec 6
  acc : BitVec 3
  i32 : Bool
  z : Bool
  deriving DecidableEq, Repr

/-- CPY, CPY.T8, CPY.T16, WLOAD: destination and source tensors (R339, R341). -/
structure CpyOp where
  ct : Tag
  td : BitVec 6
  ts : BitVec 6
  deriving DecidableEq, Repr

/-- GATHER, SCATTER, SCADD: destination, source and index tensors (R340). -/
structure IdxOp where
  ct : Tag
  td : BitVec 6
  ts : BitVec 6
  ti : BitVec 6
  deriving DecidableEq, Repr

structure AttOp where
  ct : Tag
  tq : BitVec 6
  tk : BitVec 6
  tv : BitVec 6
  gx : BitVec 5
  acco : BitVec 3
  accs : BitVec 3
  first : Bool
  last : Bool
  deriving DecidableEq, Repr

structure CopenOp where
  ct : Tag
  h : BitVec 3
  gx : BitVec 5
  gy : BitVec 5
  deriving DecidableEq, Repr

/-- CHOLD, CSEND, CSEND.RESUME, CSTAT: a handle and GX (R348). -/
structure HgOp where
  ct : Tag
  h : BitVec 3
  gx : BitVec 5
  deriving DecidableEq, Repr

structure HOp where
  ct : Tag
  h : BitVec 3
  deriving DecidableEq, Repr

structure TideOp where
  ct : Tag
  gx : BitVec 5
  link : BitVec 4
  deriving DecidableEq, Repr

/-- ARD, RSC (R348). -/
structure RedCollOp where
  ct : Tag
  td : BitVec 6
  ts : BitVec 6
  gx : BitVec 5
  gy : BitVec 5
  op : CollFn
  deriving DecidableEq, Repr

/-- AGT, BCT (R348). -/
structure CollOp where
  ct : Tag
  td : BitVec 6
  ts : BitVec 6
  gx : BitVec 5
  gy : BitVec 5
  deriving DecidableEq, Repr

structure TreeOp where
  ct : Tag
  gx : BitVec 5
  gy : BitVec 5
  deriving DecidableEq, Repr

structure RotaOp where
  ct : Tag
  ts : BitVec 6
  gx : BitVec 5
  acco : BitVec 3
  accs : BitVec 3
  att : Bool
  deriving DecidableEq, Repr

/-! ## Operands of events: what the outside, or an open moment, brings -/

/-- What an outside memory answers to one part of an access: its value, a refusal with the step nibble of R374, poison, or
a negative acknowledgement of a granule that is moving (R145). -/
inductive Answer
  | ok (v : Nat)
  | refused (step : BitVec 4)
  | poison
  | nack
  deriving DecidableEq, Repr

/-- A packet flow (R154): source isle, destination peer and isle, stream label. -/
structure Flow where
  src : Nat
  peer : Nat
  isle : Nat
  label : Nat
  deriving DecidableEq, Repr

/-- A window packet (R157, R158) on a flow of a source device, with its tenant and generation (R141) and the scratchpad offset it
writes at. -/
structure WindowPacket where
  srcPeer : Nat
  tenant : Nat
  gen : Nat
  flow : Flow
  cursor : Nat
  data : List Byte
  deriving DecidableEq, Repr

/-- What opened a circuit: a promotion (R162), a COPEN on a handle of its source (R164), or a ROTA (R365). -/
inductive CircKind
  | promoted
  | strait (h : Nat)
  | ring
  deriving DecidableEq, Repr

/-- A circuit: a promoted flow at its sender (R162), a strait bound to a handle of an isle (R164), the ring circuit of an isle (R365), or
a circuit of another device that ends here (R163), where the flow's peer names the source. -/
inductive CircuitRef
  | promoted (f : Flow)
  | arriving (f : Flow) (kind : CircKind)
  | strait (isle : Nat) (h : Nat)
  | ring (isle : Nat)
  deriving DecidableEq, Repr

/-- A probe (R161, R169): the source's number, tenant and generation (R141), the flow as its sender names it, what it opens, its priority
and its effective PREEMPTIBLE, the scratchpad range it is to write (first byte, length; none for a promotion), its backtracks so far, and
the fabric port by which it leaves the sender or reaches this device. -/
structure Probe where
  srcPeer : Nat
  tenant : Nat
  gen : Nat
  flow : Flow
  kind : CircKind
  prio : Nat
  pre : Bool
  range : Option (Nat × Nat)
  backtracks : Nat
  port : Nat
  deriving DecidableEq, Repr

/-- Where bytes on a circuit of a promotion or a strait come from (R163, R165): the source's number, tenant and generation (R141), the flow
as its sender names it, and whether a CSEND ends with them. -/
structure CircuitSrc where
  srcPeer : Nat
  tenant : Nat
  gen : Nat
  flow : Flow
  kind : CircKind
  ends : Bool
  deriving DecidableEq, Repr

/-- Bytes on a circuit: where they come from, and the scratchpad offset. -/
structure CircuitData where
  srcPeer : Nat
  tenant : Nat
  gen : Nat
  flow : Flow
  kind : CircKind
  off : Nat
  data : List Byte
  ends : Bool
  deriving DecidableEq, Repr

/-- What an arriving request asks for (R141). -/
inductive ReqKind
  | load (n : Nat)
  | store (data : List Byte)
  | amo (fn : AmoFn) (x : Nat) (n : Nat) (returns : Bool)
  | cas (cmp : Nat) (new : Nat) (n : Nat)
  | flush
  deriving DecidableEq, Repr

/-- A request arriving at the ingress (R140, R141); home names the device that forwards it to this holder (R144). -/
structure IngressReq where
  home : Option Nat
  src : Nat
  tenant : Nat
  gen : Nat
  addr : Nat
  label : Nat
  kind : ReqKind
  deriving DecidableEq, Repr

/-- A contribution to a collective (R361): the values it carries and its elements from number first on; one that takes more than a packet
carries comes in pieces (R152). -/
structure Contribution where
  tree : Nat
  tag : Nat
  command : Nat
  op : Nat
  format : Nat
  count : Nat
  n : Nat
  crank : Nat
  root : Nat
  first : Nat
  data : List Nat
  refused : Bool
  deriving DecidableEq, Repr

/-- What an uncorrectable flit carried (R390, R391): data of a load, or of a store or atomic, of access id; data that engine
command id reads from, or writes to, a line (local physical address / 64); data of a write of another agent; or a control message, with
the transactions in flight and the lines with a transaction pending. -/
inductive FlitHit
  | loadData (id : Nat)
  | storeData (id : Nat)
  | engineRead (id : Nat) (line : Nat)
  | engineWrite (id : Nat) (line : Nat)
  | arriving (line : Nat)
  | control (ids : List Nat) (lines : List Nat)
  deriving DecidableEq, Repr

/-- Life-cycle states (R405). -/
inductive LifeCycle
  | blank | provisioned | deployed | rma
  deriving DecidableEq, Repr

/-- Who commands a life-cycle change (R405). -/
inductive LifeCycleActor
  | vendor | owner
  deriving DecidableEq, Repr

/-- A host or firmware write to a register with no row of its own (R12, R397, R399 and the firmware registers it names). -/
inductive RegWrite
  | qbase (vf : Nat) (q : Nat) (value : Word)
  | qcfg (vf : Nat) (q : Nat) (value : Word)
  | qhead (vf : Nat) (q : Nat) (value : Word)
  | rootrcb (vf : Nat) (value : Word)
  | poolbase (vf : Nat) (value : Word)
  | poolsize (vf : Nat) (value : Word)
  | rrqbase (vf : Nat) (value : Word)
  | vfstat (vf : Nat) (value : Word)
  | ingress (index : Nat) (src : Nat) (tenant : Nat) (lbase : Nat) (logsz : Nat) (r : Bool) (w : Bool) (a : Bool) (gen : Nat) (isOpen : Bool)
  | portRole (port : Nat) (role : BitVec 2) (target : Nat)
  | promoThr (port : Nat) (units : Nat)
  | fabTimeout (us : Nat)
  | foreignLimit (part : Nat) (peer : Nat) (limit : Nat) (timeoutUs : Nat)
  | foreignReachable (part : Nat) (peer : Nat)
  | presence (peer : Nat) (on : Bool)
  | treeEntry (index : Nat) (image : List Byte)
  | targetChanged (peer : Nat)
  deriving DecidableEq, Repr

/-- A request of the host (R386, R387, R396): at a device location, or at an offset of BAR0 of a virtual function (R397); a bit error in a
cache line, an accumulator element or the latched operand (R343, R385), a correctable error on a die (R394), or a modified line that
leaves an L1 for its home L2 (R124). -/
inductive HostReq
  | read (pa : Nat) (n : Nat)
  | write (pa : Nat) (data : List Byte)
  | fetchAdd (pa : Nat) (n : Nat) (x : Nat)
  | swap (pa : Nat) (n : Nat) (x : Nat)
  | cas (pa : Nat) (n : Nat) (cmp : Nat) (new : Nat)
  | pageRead (vf : Nat) (off : Nat) (n : Nat)
  | pageWrite (vf : Nat) (off : Nat) (data : List Byte)
  | evict (line : Nat)
  | writeBack (line : Nat)
  | poison (pa : Nat)
  | badAcc (isle : Nat) (tile : Nat) (row : Nat) (col : Nat)
  | badLatch (isle : Nat) (index : Nat)
  | correctable (die : Nat)
  deriving DecidableEq, Repr

/-- One constructor for each row of spec/opcode_table.json. -/
inductive Instr
  /-- ADD (R229). -/
  | add (o : RRR)
  /-- SUB (R229). -/
  | sub (o : RRR)
  /-- MUL (R229). -/
  | mul (o : RRR)
  /-- MULH (R229). -/
  | mulh (o : RRR)
  /-- MULHU (R229). -/
  | mulhu (o : RRR)
  /-- DIV (R230). -/
  | div (o : RRR)
  /-- DIVU (R230). -/
  | divu (o : RRR)
  /-- REM (R230). -/
  | rem (o : RRR)
  /-- REMU (R230). -/
  | remu (o : RRR)
  /-- AND (R229). -/
  | and (o : RRR)
  /-- OR (R229). -/
  | or (o : RRR)
  /-- XOR (R229). -/
  | xor (o : RRR)
  /-- ANDN (R229). -/
  | andn (o : RRR)
  /-- SHL (R231). -/
  | shl (o : RRR)
  /-- SHR (R231). -/
  | shr (o : RRR)
  /-- SAR (R231). -/
  | sar (o : RRR)
  /-- ROL (R231). -/
  | rol (o : RRR)
  /-- MIN (R229). -/
  | min (o : RRR)
  /-- MAX (R229). -/
  | max (o : RRR)
  /-- MINU (R229). -/
  | minu (o : RRR)
  /-- MAXU (R229). -/
  | maxu (o : RRR)
  /-- SLT (R229). -/
  | slt (o : RRR)
  /-- SLTU (R229). -/
  | sltu (o : RRR)
  /-- SEQ (R229). -/
  | seq (o : RRR)
  /-- CLZ (R229). -/
  | clz (o : RR)
  /-- CTZ (R229). -/
  | ctz (o : RR)
  /-- POPC (R229). -/
  | popc (o : RR)
  /-- BSWAP (R229). -/
  | bswap (o : RR)
  /-- LOC (R254). -/
  | loc (o : RR)
  /-- SEL (R232). -/
  | sel (o : SelOp)
  /-- LEA (R232). -/
  | lea (o : LeaOp)
  /-- BFX (R235). -/
  | bfx (o : BfOp)
  /-- BFI (R235). -/
  | bfi (o : BfOp)
  /-- ADD_IMM (R233). -/
  | addImm (o : ImmOp)
  /-- MUL_IMM (R233). -/
  | mulImm (o : ImmOp)
  /-- AND_IMM (R233). -/
  | andImm (o : ImmOp)
  /-- OR_IMM (R233). -/
  | orImm (o : ImmOp)
  /-- XOR_IMM (R233). -/
  | xorImm (o : ImmOp)
  /-- SHL_IMM (R233). -/
  | shlImm (o : ShiftOp)
  /-- SHR_IMM (R233). -/
  | shrImm (o : ShiftOp)
  /-- SAR_IMM (R233). -/
  | sarImm (o : ShiftOp)
  /-- SLT_IMM (R233). -/
  | sltImm (o : ImmOp)
  /-- SLTU_IMM (R233). -/
  | sltuImm (o : ImmOp)
  /-- SEQ_IMM (R233). -/
  | seqImm (o : ImmOp)
  /-- LI (R234). -/
  | li (o : LiOp)
  /-- LUI (R234). -/
  | lui (o : ImmOp)
  /-- FADD (R237). -/
  | fadd (o : FpRRR)
  /-- FSUB (R237). -/
  | fsub (o : FpRRR)
  /-- FMUL (R237). -/
  | fmul (o : FpRRR)
  /-- FMIN (R237). -/
  | fmin (o : RRR)
  /-- FMAX (R237). -/
  | fmax (o : RRR)
  /-- FCMP (R238). -/
  | fcmp (o : FcmpOp)
  /-- FCVT_I32_F32 (R239). -/
  | fcvtI32F32 (o : FpRR)
  /-- FCVT_F32_I32 (R239). -/
  | fcvtF32I32 (o : FpRR)
  /-- FCVT_BF16_F32 (R239). -/
  | fcvtBf16F32 (o : FpRR)
  /-- FCVT_F32_BF16 (R239). -/
  | fcvtF32Bf16 (o : RR)
  /-- FCVT_F16_F32 (R239). -/
  | fcvtF16F32 (o : FpRR)
  /-- FCVT_F32_F16 (R239). -/
  | fcvtF32F16 (o : RR)
  /-- FCVT_L6_F32 (R239). -/
  | fcvtL6F32 (o : RR)
  /-- FCVT_F32_L6 (R239). -/
  | fcvtF32L6 (o : RR)
  /-- FFMA (R237). -/
  | ffma (o : FfmaOp)
  /-- BR (R240). -/
  | br (o : BrOp)
  /-- BC (R240). -/
  | bc (o : BcOp)
  /-- LOOP (R241). -/
  | loop (o : LoopOp)
  /-- CALL (R243). -/
  | call (o : BrOp)
  /-- JR (R243). -/
  | jr (o : ROp)
  /-- CALLR (R243). -/
  | callr (o : ROp)
  /-- RET (R243). -/
  | ret (o : TagOp)
  /-- QPEEK (R245). -/
  | qpeek (o : QOp)
  /-- QCNT (R246). -/
  | qcnt (o : QOp)
  /-- SRD (R247). -/
  | srd (o : SysOp)
  /-- SWR (R248). -/
  | swr (o : SysOp)
  /-- TRAP (R250). -/
  | trap (o : CodeOp)
  /-- EXIT (R251). -/
  | exit (o : TagOp)
  /-- NOP (R252). -/
  | nop (o : TagOp)
  /-- HINT (R252). -/
  | hint (o : CodeOp)
  /-- PMARK (R253). -/
  | pmark (o : CodeOp)
  /-- LD (R290). -/
  | ld (o : LoadOp)
  /-- LDS (R290). -/
  | lds (o : LoadOp)
  /-- LD_AQ (R292). -/
  | ldAq (o : LoadOp)
  /-- ST (R293). -/
  | st (o : StoreOp)
  /-- ST_RL (R293). -/
  | stRl (o : StoreOp)
  /-- AMO (R294). -/
  | amo (o : AmoOp)
  /-- AMO_RL (R294). -/
  | amoRl (o : AmoOp)
  /-- CAS (R296). -/
  | cas (o : CasOp)
  /-- RED (R297). -/
  | red (o : RedOp)
  /-- PREF (R300). -/
  | pref (o : AddrOp)
  /-- CFLUSH (R301). -/
  | cflush (o : AddrOp)
  /-- PGREQ (R302). -/
  | pgreq (o : AddrOp)
  /-- FENCE (R304). -/
  | fence (o : FenceOp)
  /-- BAR_ARR (R306). -/
  | barArr (o : BarOp)
  /-- BAR_WAIT (R307). -/
  | barWait (o : BarOp)
  /-- STEP (R308). -/
  | step (o : BarOp)
  /-- SUCC (R310). -/
  | succ (o : TagOp)
  /-- WAITVIS (R311). -/
  | waitvis (o : TagOp)
  /-- WAIT (R330). -/
  | wait (o : WaitOp)
  /-- LAUNCH (R313). -/
  | launch (o : AbOp)
  /-- QTAIL (R314). -/
  | qtail (o : AbOp)
  /-- VADD_F32 (R263). -/
  | vaddF32 (o : VfOp)
  /-- VSUB_F32 (R263). -/
  | vsubF32 (o : VfOp)
  /-- VMUL_F32 (R263). -/
  | vmulF32 (o : VfOp)
  /-- VFMA_F32 (R263). -/
  | vfmaF32 (o : VfOp)
  /-- VMIN_F32 (R263). -/
  | vminF32 (o : VfOp)
  /-- VMAX_F32 (R263). -/
  | vmaxF32 (o : VfOp)
  /-- VABS_F32 (R263). -/
  | vabsF32 (o : Vf1Op)
  /-- VNEG_F32 (R263). -/
  | vnegF32 (o : Vf1Op)
  /-- VADD_BF16 (R263). -/
  | vaddBf16 (o : VfOp)
  /-- VSUB_BF16 (R263). -/
  | vsubBf16 (o : VfOp)
  /-- VMUL_BF16 (R263). -/
  | vmulBf16 (o : VfOp)
  /-- VFMA_BF16 (R263). -/
  | vfmaBf16 (o : VfOp)
  /-- VMIN_BF16 (R263). -/
  | vminBf16 (o : VfOp)
  /-- VMAX_BF16 (R263). -/
  | vmaxBf16 (o : VfOp)
  /-- VABS_BF16 (R263). -/
  | vabsBf16 (o : Vf1Op)
  /-- VNEG_BF16 (R263). -/
  | vnegBf16 (o : Vf1Op)
  /-- VADD_F16 (R263). -/
  | vaddF16 (o : VfOp)
  /-- VSUB_F16 (R263). -/
  | vsubF16 (o : VfOp)
  /-- VMUL_F16 (R263). -/
  | vmulF16 (o : VfOp)
  /-- VFMA_F16 (R263). -/
  | vfmaF16 (o : VfOp)
  /-- VMIN_F16 (R263). -/
  | vminF16 (o : VfOp)
  /-- VMAX_F16 (R263). -/
  | vmaxF16 (o : VfOp)
  /-- VABS_F16 (R263). -/
  | vabsF16 (o : Vf1Op)
  /-- VNEG_F16 (R263). -/
  | vnegF16 (o : Vf1Op)
  /-- VADD_I32 (R264). -/
  | vaddI32 (o : VOp)
  /-- VSUB_I32 (R264). -/
  | vsubI32 (o : VOp)
  /-- VMUL_I32 (R264). -/
  | vmulI32 (o : VOp)
  /-- VMULH_I32 (R264). -/
  | vmulhI32 (o : VOp)
  /-- VMIN_I32 (R264). -/
  | vminI32 (o : VOp)
  /-- VMAX_I32 (R264). -/
  | vmaxI32 (o : VOp)
  /-- VMINU_I32 (R264). -/
  | vminuI32 (o : VOp)
  /-- VMAXU_I32 (R264). -/
  | vmaxuI32 (o : VOp)
  /-- VAND_I32 (R264). -/
  | vandI32 (o : VOp)
  /-- VOR_I32 (R264). -/
  | vorI32 (o : VOp)
  /-- VXOR_I32 (R264). -/
  | vxorI32 (o : VOp)
  /-- VANDN_I32 (R264). -/
  | vandnI32 (o : VOp)
  /-- VSHL_I32 (R264). -/
  | vshlI32 (o : VOp)
  /-- VSHR_I32 (R264). -/
  | vshrI32 (o : VOp)
  /-- VSAR_I32 (R264). -/
  | vsarI32 (o : VOp)
  /-- VADD_I16 (R265). -/
  | vaddI16 (o : VOp)
  /-- VSUB_I16 (R265). -/
  | vsubI16 (o : VOp)
  /-- VMUL_I16 (R265). -/
  | vmulI16 (o : VOp)
  /-- VADDS_I16 (R265). -/
  | vaddsI16 (o : VOp)
  /-- VSUBS_I16 (R265). -/
  | vsubsI16 (o : VOp)
  /-- VMIN_I16 (R265). -/
  | vminI16 (o : VOp)
  /-- VMAX_I16 (R265). -/
  | vmaxI16 (o : VOp)
  /-- VCMP (R266). -/
  | vcmp (o : VcmpOp)
  /-- VSEL (R267). -/
  | vsel (o : VOp)
  /-- MAND (R268). -/
  | mand (o : MmmOp)
  /-- MOR (R268). -/
  | mor (o : MmmOp)
  /-- MXOR (R268). -/
  | mxor (o : MmmOp)
  /-- MANDN (R268). -/
  | mandn (o : MmmOp)
  /-- MNOT (R268). -/
  | mnot (o : MmOp)
  /-- MPOP (R268). -/
  | mpop (o : GmOp)
  /-- MTOG (R268). -/
  | mtog (o : GmOp)
  /-- MFROMG (R268). -/
  | mfromg (o : MgOp)
  /-- VCVT_F32_I32 (R270). -/
  | vcvtF32I32 (o : Vf1Op)
  /-- VCVT_I32_F32 (R270). -/
  | vcvtI32F32 (o : Vf1Op)
  /-- VCVT_F32_BF16 (R270). -/
  | vcvtF32Bf16 (o : Vf1Op)
  /-- VCVT_BF16_F32 (R270). -/
  | vcvtBf16F32 (o : Vf1Op)
  /-- VCVT_F32_F16 (R270). -/
  | vcvtF32F16 (o : Vf1Op)
  /-- VCVT_F16_F32 (R270). -/
  | vcvtF16F32 (o : Vf1Op)
  /-- VL6PACK (R271). -/
  | vl6pack (o : Vf1Op)
  /-- VL6UNPK (R272). -/
  | vl6unpk (o : Vf1Op)
  /-- VEXP2 (R198). -/
  | vexp2 (o : Vf1Op)
  /-- VLOG2 (R199). -/
  | vlog2 (o : Vf1Op)
  /-- VRCP (R200). -/
  | vrcp (o : Vf1Op)
  /-- VRSQ (R201). -/
  | vrsq (o : Vf1Op)
  /-- VRED (R274). -/
  | vred (o : VredOp)
  /-- VPERM (R275). -/
  | vperm (o : VOp)
  /-- VBCAST (R276). -/
  | vbcast (o : VbcastOp)
  /-- VLD (R278). -/
  | vld (o : VmemOp)
  /-- VLDS (R278). -/
  | vlds (o : VmemXOp)
  /-- VLDX (R278). -/
  | vldx (o : VmemXOp)
  /-- VST (R283). -/
  | vst (o : VmemOp)
  /-- VSTS (R283). -/
  | vsts (o : VmemXOp)
  /-- VSTX (R283). -/
  | vstx (o : VmemXOp)
  /-- TLD (R325). -/
  | tld (o : TmemOp)
  /-- TST (R325). -/
  | tst (o : TmemOp)
  /-- TMOD (R326). -/
  | tmod (o : TmodOp)
  /-- MXM (R335). -/
  | mxm (o : MxmOp)
  /-- MXM_RB (R336). -/
  | mxmRb (o : MxmOp)
  /-- MXZ (R337). -/
  | mxz (o : MxzOp)
  /-- MXD (R338). -/
  | mxd (o : MxdOp)
  /-- CPY (R339). -/
  | cpy (o : CpyOp)
  /-- CPY_T8 (R339). -/
  | cpyT8 (o : CpyOp)
  /-- CPY_T16 (R339). -/
  | cpyT16 (o : CpyOp)
  /-- GATHER (R340). -/
  | gather (o : IdxOp)
  /-- SCATTER (R340). -/
  | scatter (o : IdxOp)
  /-- SCADD (R340). -/
  | scadd (o : IdxOp)
  /-- WLOAD (R341). -/
  | wload (o : CpyOp)
  /-- ATT (R342). -/
  | att (o : AttOp)
  /-- COPEN (R351). -/
  | copen (o : CopenOp)
  /-- CHOLD (R352). -/
  | chold (o : HgOp)
  /-- CSEND (R353). -/
  | csend (o : HgOp)
  /-- CSEND_RESUME (R353). -/
  | csendResume (o : HgOp)
  /-- CSHUT (R354). -/
  | cshut (o : HOp)
  /-- CSTAT (R355). -/
  | cstat (o : HgOp)
  /-- TIDE (R357). -/
  | tide (o : TideOp)
  /-- ARD (R360). -/
  | ard (o : RedCollOp)
  /-- AGT (R360). -/
  | agt (o : CollOp)
  /-- RSC (R360). -/
  | rsc (o : RedCollOp)
  /-- BCT (R360). -/
  | bct (o : CollOp)
  /-- TREE (R358). -/
  | tree (o : TreeOp)
  /-- ROTA (R365). -/
  | rota (o : RotaOp)
  /-- VC_ADVANCE (R58): an isle clock passes one virtual cycle for an unfrozen instance, and VCYC advances. -/
  | vcAdvance (isle : Nat)
  /-- TIMED_LANDING (R52): at vc t+LAND the landing value is written to its destination. -/
  | timedLanding (isle : Nat)
  /-- LANDING_DATA_ARRIVAL (R54): returning data reaches the landing buffer, and an interlocked destination is written. -/
  | landingDataArrival (isle : Nat) (id : Nat) (only : Option Nat) (answers : List (Nat × Answer))
  /-- FREEZE_END (R55): the freeze ends in the isle clock after the late data has arrived. -/
  | freezeEnd (isle : Nat)
  /-- WATCHDOG (R57): a freeze outlasts FRZ_LIMIT, and WATCHDOG is raised to the fault domain. -/
  | watchdog (isle : Nat)
  /-- PAGE_REFILL_DONE (R59): a scratchpad page of a resumed instance finishes refilling and is pinned. -/
  | pageRefillDone (isle : Nat) (page : Nat)
  /-- WRITE_ACKNOWLEDGE (R78): a destination acknowledges a store, atomic, engine write or stream of a launch. -/
  | writeAcknowledge (id : Nat) (die : Option Nat) (answers : List (Nat × Answer))
  /-- QUEUE_ENABLE (R68): a QCFG write sets EN from 0 to 1; the queue is cleared, forgets its history and is checked. -/
  | queueEnable (vf : Nat) (q : Nat) (value : Word)
  /-- QUEUE_DISABLE (R68): a QCFG write clears EN; parsing stops, and held packets and speculations are abandoned. -/
  | queueDisable (vf : Nat) (q : Nat) (value : Word)
  /-- TAIL_WRITE (R69): a host write to QTAIL is judged against HEAD. -/
  | tailWrite (vf : Nat) (q : Nat) (value : Word)
  /-- PARSE_NOP (R70): the queue parses a NOP packet at HEAD. -/
  | parseNop (vf : Nat) (q : Nat) (ext : List (Nat × Byte))
  /-- PARSE_LAUNCH (R77): the queue parses a LAUNCH packet, reads its header and judges it for rejection. -/
  | parseLaunch (vf : Nat) (q : Nat) (ext : List (Nat × Byte))
  /-- PARSE_FENCE (R72): the queue parses a FENCE packet and reads its counters. -/
  | parseFence (vf : Nat) (q : Nat) (ext : List (Nat × Byte))
  /-- FENCE_COUNTER_READ (R72): an unsatisfied FENCE counter is read again on a write at its home or every 2 µs. -/
  | fenceCounterRead (vf : Nat) (q : Nat) (ext : List (Nat × Byte))
  /-- PARSE_SIGNAL (R73): the queue parses a SIGNAL packet. -/
  | parseSignal (vf : Nat) (q : Nat) (ext : List (Nat × Byte))
  /-- SIGNAL_ADD (R73): after any wait for settle, VALUE is added to the counter at its home. -/
  | signalAdd (vf : Nat) (q : Nat)
  /-- LAUNCH_DISPATCH (R76): a dispatchable launch is placed on its isles, and its instances start. -/
  | launchDispatch (vf : Nat) (q : Nat) (ext : List (Nat × Byte))
  /-- SAVE_COMPLETE (R92): a victim's state has been written to its save slot. -/
  | saveComplete (isle : Nat)
  /-- INSTANCE_RESUME (R94): a saved instance is restored to an idle isle of its class code. -/
  | instanceResume (inst : Nat) (isle : Nat)
  /-- SPECULATION_TIMEOUT (R99): 1 ms passes without a claim, and the speculation is doomed. -/
  | speculationTimeout (vf : Nat) (q : Nat)
  /-- COMMIT_COMPLETE (R102): the last commit write is performed, and the stopped contexts continue. -/
  | commitComplete (vf : Nat) (q : Nat)
  /-- INGRESS_REQUEST (R141): an arriving request is checked against the ingress windows and performed, held or refused. -/
  | ingressRequest (r : IngressReq)
  /-- REFUSED_ACCESS (R143): a refusal reaches the source, and the access has its refusal outcome. -/
  | refusedAccess (id : Nat) (part : Nat) (step : BitVec 4)
  /-- FABRIC_TIMEOUT (R142): a fabric request reaches no ingress within FAB_TIMEOUT and is refused. -/
  | fabricTimeout (id : Nat)
  /-- GRANULE_MOVE_START (R145): firmware or the host begins to lend, return or re-lend a granule. -/
  | granuleMoveStart (home : Option Nat) (granule : Nat) (holder : Option Nat)
  /-- GRANULE_MOVE_END (R145): a move ends, and the held requests are performed at the new backing. -/
  | granuleMoveEnd (home : Option Nat) (granule : Nat) (backing : Nat) (image : List (Nat × Byte))
  /-- CONTEST_PIN_END (R146): 100 ms after the pin, lending is allowed again. -/
  | contestPinEnd (granule : Nat)
  /-- MOVE_RETRY (R145): a negatively acknowledged request is retried after its backoff. -/
  | moveRetry (req : Nat)
  /-- MOVE_RETRY_LIMIT (R145): a request still unaccepted 10 ms after its first attempt is refused. -/
  | moveRetryLimit (req : Nat)
  /-- FOREIGN_PEER_TIMEOUT (R177): a foreign peer does not answer within its timeout and becomes UNREACHABLE. -/
  | foreignPeerTimeout (part : Nat) (peer : Nat)
  /-- TURN_START (R149): after the hold-down, the link grants the highest-priority pending request and starts a turn. -/
  | turnStart (link : Nat)
  /-- TURN_END (R149): the turn ends; the granted request completes, and pending requests are judged again. -/
  | turnEnd (link : Nat)
  /-- TIDE_EXPIRED (R150): a request still pending after 100 µs completes EXPIRED. -/
  | tideExpired (link : Nat) (region : Nat)
  /-- WINDOW_PACKET_ARRIVAL (R158): a window packet is written to the destination scratchpad, or refused whole. -/
  | windowPacketArrival (p : WindowPacket)
  /-- METER_IDLE (R160): a metered flow sends nothing for 2 µs, and its count resets. -/
  | meterIdle (f : Flow)
  /-- PROBE_ARRIVAL (R163): a probe reaches the receiver and reserves a promotion buffer. -/
  | probeArrival (p : Probe)
  /-- PROBE_SUCCESS (R162): the probe succeeds, and the marked packet is sent. -/
  | probeSuccess (f : Flow) (backtracks : Nat)
  /-- PROBE_FAIL (R162): the probe fails, and the flow enters HOLD. -/
  | probeFail (f : Flow) (backtracks : Nat)
  /-- CIRCUIT_DATA_ARRIVAL (R163): circuit bytes arrive and are held or written, with tokens every 1 KiB. -/
  | circuitDataArrival (c : CircuitSrc) (off : Nat) (data : List Byte)
  /-- MARKED_PACKET_ARRIVAL (R163): the marked packet arrives, and the held circuit bytes are written from O onward. -/
  | markedPacketArrival (f : Flow) (off : Nat)
  /-- TOKEN_ARRIVAL (R165): an acknowledgement token reaches the sender, advancing ACKOFF and completing CSEND commands. -/
  | tokenArrival (c : CircuitRef) (off : Nat)
  /-- CIRCUIT_IDLE (R162): a promoted circuit carries no data for 2 µs, and the demotion mark is sent. -/
  | circuitIdle (f : Flow)
  /-- DEMOTION_MARK_ARRIVAL (R163): the receiver returns its final token and frees the buffer. -/
  | demotionMarkArrival (f : Flow)
  /-- CIRCUIT_BREAK (R162): a circuit is broken by link failure, pre-emption or a save. -/
  | circuitBreak (c : CircuitRef) (cause : BitVec 4)
  /-- TEARDOWN_REPORTED (R162): the circuit plane reports teardown at both ends, and the unacknowledged bytes are resent as packets. -/
  | teardownReported (f : Flow)
  /-- HOLD_EXPIRY (R162): 20 µs in HOLD pass, and the meter returns to PKT with count 0. -/
  | holdExpiry (f : Flow)
  /-- LEASE_EXPIRY (R167): a circuit's lease end is reached, and the handle becomes BROKEN with CAUSE LEASE. -/
  | leaseExpiry (isle : Nat) (h : Nat)
  /-- FALLBACK_DONE (R167): the last fallback packet is acknowledged; the handle is CLOSED, and the CSEND completes. -/
  | fallbackDone (isle : Nat) (h : Nat)
  /-- LINK_FAILURE (R155): a fabric link fails; requests in flight are refused and traffic is rerouted. -/
  | linkFailure (port : Nat)
  /-- LINK_RETRAIN (R155): a failed link retrains, and routing is restored. -/
  | linkRetrain (port : Nat)
  /-- MULTICAST_FORWARD (R171): an ingress forwards a tree packet to its children and delivers it locally. -/
  | multicastForward (tree : Nat) (tenant : Nat) (c : Contribution)
  /-- COLLECTIVE_CONTRIBUTION (R362): a contribution or result of a collective arrives and is combined, held or delivered. -/
  | collectiveContribution (isle : Nat) (c : Contribution)
  /-- RACK_TOKEN_ARRIVAL (R370): a rack free token arrives and is counted, held or discarded. -/
  | rackTokenArrival (isle : Nat) (fromPeer : Nat) (label : Nat)
  /-- CASK_ARRIVAL (R365): a cask is wholly written into a rack, and its step may proceed. -/
  | caskArrival (isle : Nat) (size : Nat) (n : Nat) (data : List Byte)
  /-- ROTA_REOPEN (R366): a broken ring circuit is reprobed 20 µs after the break. -/
  | rotaReopen (isle : Nat) (opened : Bool)
  /-- FAILURE_MARK_ARRIVAL (R366): a failure mark fails the ROTA, which passes the mark downstream. -/
  | failureMarkArrival (isle : Nat) (label : Nat)
  /-- ENGINE_COMMAND_START (R327): an engine starts the next command of its queue. -/
  | engineCommandStart (isle : Nat) (engine : Engine) (cmd : Nat)
  /-- ENGINE_COMMAND_COMPLETE (R328): a command's reads have returned and its writes are performed, and the engine counter advances. -/
  | engineCommandComplete (isle : Nat) (engine : Engine) (cmd : Nat) (row : Option Nat) (ext : List (Nat × Answer))
  /-- DIE_RESET (R389): firmware resets a stack group: stops, aborts, poisoning and wipe. -/
  | dieReset (die : Nat)
  /-- DIE_RESET_TIMEOUT (R389): a die is not back in service 10 ms after its reset began. -/
  | dieResetTimeout (die : Nat)
  /-- LINK_FLIT_ERROR (R390): a die-to-die flit stays uncorrectable after replay. -/
  | linkFlitError (link : Nat) (hit : FlitHit)
  /-- FABRIC_FLIT_ERROR (R391): a fabric flit stays uncorrectable after replay. -/
  | fabricFlitError (port : Nat) (hit : FlitHit)
  /-- CLOCK_THROTTLE (R407): the junction reaches 100 °C, and the isle clock is lowered in 50 MHz steps. -/
  | clockThrottle (junction : Nat)
  /-- SHUTDOWN (R407): the junction reaches 115 °C, and the device shuts down. -/
  | shutdown
  /-- DEVICE_RESET (R406): a device reset wipes every memory before any access is accepted. -/
  | deviceReset
  /-- FIRMWARE_LOAD (R403): the boot ROM verifies the supplied image and runs it, or enters BOOTFAIL. -/
  | firmwareLoad (image : List Byte) (signature : List Byte)
  /-- ATTESTATION (R404): a nonce request returns a signed 288-byte report. -/
  | attestation (nonce : List Byte)
  /-- LIFE_CYCLE_CHANGE (R405): an owner or vendor command advances the fused life-cycle state, with a wipe. -/
  | lifeCycleChange (target : LifeCycle) (actor : LifeCycleActor)
  /-- ABORTREQ (R399): a write raises an abort at the fault domain of the named region. -/
  | abortreq (vf : Nat) (value : Word)
  /-- RRQCTL_WRITE (R399): a write to RRQCTL takes HEAD, and takes LOGSZ only while every queue is disabled. -/
  | rrqctlWrite (vf : Nat) (value : Word)
  /-- RRQCTL_READ (R399): a read returns RRQCTL and clears DROPS. -/
  | rrqctlRead (vf : Nat)
  /-- SIDEBAND_RESET_REQUEST (R402): the board controller requests a device reset over I3C. -/
  | sidebandResetRequest
  /-- REGISTER_WRITE (R12): a host or firmware write to a register with no row of its own, by access code. -/
  | registerWrite (w : RegWrite)
  /-- HOST_LINK_REQUEST (R386): a read or write from the host arrives over the host link at a device memory location, is performed, and may clear or forward poison. -/
  | hostLinkRequest (r : HostReq)
  /-- DIE_RETURNS_TO_SERVICE (R389): a reset stack group returns to service, and the requests held during its reset proceed in arrival order. -/
  | dieReturnsToService (die : Nat)
  /-- CASK_CONSUMED (R173): the attention sequencer or copy finishes consuming a ROTA step's cask, freeing the rack token to return upstream and the next step to begin. -/
  | caskConsumed (isle : Nat)
  deriving DecidableEq, Repr

end Sys2Proof
end

