-- ==== Sys2Proof/Machine/Float.lean ====
section
/-!
DEFINITION. Number formats and exact arithmetic with one rounding (R178, R181, R182, R184, R190 to R194, R196 to R202).
A finite value is kept exactly as (-1)^neg × m × 2^e; every operation is exact until a named rounding.
-/
namespace Sys2Proof.Machine

/-- A binary interchange format: exponent bits, fraction bits (R178). -/
structure Fmt where
  eb : Nat
  mb : Nat
  deriving DecidableEq, Repr

def fF32 : Fmt := ⟨8, 23⟩
def fBF16 : Fmt := ⟨8, 7⟩
def fF16 : Fmt := ⟨5, 10⟩

def Fmt.bias (f : Fmt) : Nat := 2 ^ (f.eb - 1) - 1
/-- Least normal exponent. -/
def Fmt.emin (f : Fmt) : Int := 1 - (f.bias : Int)
/-- The pattern of +Inf. -/
def Fmt.inf (f : Fmt) : Nat := (2 ^ f.eb - 1) * 2 ^ f.mb
def Fmt.sign (f : Fmt) (neg : Bool) : Nat := b2n neg * 2 ^ (f.eb + f.mb)
/-- The canonical NaN (R190, R192). -/
def Fmt.nan (f : Fmt) : Nat := f.inf + 2 ^ (f.mb - 1)

/-- A decoded value; sig: a signalling NaN. -/
inductive FVal
  | nan (sig : Bool)
  | inf (neg : Bool)
  | fin (neg : Bool) (m : Nat) (e : Int)
  deriving DecidableEq, Repr

/-- The value of a pattern (R178). -/
def decodeF (f : Fmt) (w : Nat) : FVal :=
  let neg := bitAt w (f.eb + f.mb)
  let ex := field w f.mb f.eb
  let fr := field w 0 f.mb
  if ex = 2 ^ f.eb - 1 then (if fr = 0 then .inf neg else .nan (!bitAt w (f.mb - 1)))
  else if ex = 0 then .fin neg fr (f.emin - f.mb)
  else .fin neg (2 ^ f.mb + fr) ((ex : Int) - f.bias - f.mb)

/-! ## Flags (R195) -/

def flNV : BitVec 5 := 16
def flDZ : BitVec 5 := 8
def flOF : BitVec 5 := 4
def flUF : BitVec 5 := 2
def flNX : BitVec 5 := 1

/-! ## Rounding (R191) -/

/-- m / 2^s rounded to an integer in the mode, for a value of this sign. -/
def roundShift (r : Rnd) (neg : Bool) (m s : Nat) : Nat :=
  let q := m / 2 ^ s
  let rem := m % 2 ^ s
  let up : Bool := match r with
    | .rne => decide (2 ^ s < 2 * rem) || (decide (2 * rem = 2 ^ s) && decide (0 < s) && q % 2 == 1)
    | .rtz => false
    | .rup => !neg && rem != 0
    | .rdn => neg && rem != 0
  if up then q + 1 else q

/-- A magnitude m × 2^e so far below 2^lo that only its being non-zero counts. -/
def clampLow (lo : Int) (m : Nat) (e : Int) : Nat × Int :=
  if (Nat.log2 m : Int) + e < lo - 4 then (1, lo - 4) else (m, e)

/-- The pattern that overflow gives in the mode (R191). -/
def overflowBits (f : Fmt) (r : Rnd) (neg : Bool) : Nat :=
  let toInf : Bool := match r with
    | .rne => true
    | .rtz => false
    | .rup => !neg
    | .rdn => neg
  f.sign neg + (if toInf then f.inf else f.inf - 1)

/-- Rounds (-1)^neg × m × 2^e once to the format: pattern and flags; tininess after rounding (R191). -/
def roundFp (f : Fmt) (r : Rnd) (neg : Bool) (m0 : Nat) (e0 : Int) : Nat × BitVec 5 :=
  if m0 = 0 then (f.sign neg, 0)
  else
    let lo : Int := f.emin - f.mb
    let (m, e) := clampLow lo m0 e0
    let top : Int := (Nat.log2 m : Int) + e
    if (f.bias : Int) < top then (overflowBits f r neg, flOF ||| flNX)
    else
      let q : Int := if top - f.mb < lo then lo else top - f.mb
      let exact := decide (q ≤ e)
      let mant := if q ≤ e then m * 2 ^ (e - q).toNat else roundShift r neg m (q - e).toNat
      let inexact := !exact && m % 2 ^ (q - e).toNat != 0
      let bits := (q - lo).toNat * 2 ^ f.mb + mant
      if f.inf ≤ bits then (overflowBits f r neg, flOF ||| flNX)
      else
        let qu : Int := top - f.mb
        let tiny := decide (top < f.emin) &&
          (decide (top < f.emin - 1) || decide (qu ≤ e) || roundShift r neg m (qu - e).toNat != 2 ^ (f.mb + 1))
        (f.sign neg + bits, (if inexact then flNX else 0) ||| (if tiny && inexact then flUF else 0))

/-! ## Exact operations -/

def FVal.isNan : FVal → Bool
  | .nan _ => true
  | _ => false
def FVal.isSig : FVal → Bool
  | .nan s => s
  | _ => false
def FVal.isZero : FVal → Bool
  | .fin _ m _ => m = 0
  | _ => false
def FVal.neg : FVal → FVal
  | .nan s => .nan s
  | .inf n => .inf (!n)
  | .fin n m e => .fin (!n) m e
def FVal.isNeg : FVal → Bool
  | .nan _ => false
  | .inf n => n
  | .fin n _ _ => n

/-- The integer of a finite value in units of 2^e', e' not above its exponent. -/
def scaled (neg : Bool) (m : Nat) (e e' : Int) : Int :=
  let v : Int := (m * 2 ^ (e - e').toNat : Nat)
  if neg then -v else v

/-- The exact sum; zneg is the sign of an exact zero sum of operands that differ in sign. -/
def addExact (zneg : Bool) : FVal → FVal → FVal
  | .nan _, _ => .nan false
  | _, .nan _ => .nan false
  | .inf a, .inf b => if a = b then .inf a else .nan false
  | .inf a, .fin .. => .inf a
  | .fin .., .inf b => .inf b
  | .fin na ma ea, .fin nb mb eb =>
    if ma = 0 ∧ mb = 0 then .fin (if na = nb then na else zneg) 0 0
    else if ma = 0 then .fin nb mb eb
    else if mb = 0 then .fin na ma ea
    else
      let e := if ea ≤ eb then ea else eb
      let z := scaled na ma ea e + scaled nb mb eb e
      if z = 0 then .fin zneg 0 0 else .fin (decide (z < 0)) z.natAbs e

/-- The exact product; 0 × Inf is a NaN. -/
def mulExact : FVal → FVal → FVal
  | .nan _, _ => .nan false
  | _, .nan _ => .nan false
  | .inf a, .inf b => .inf (a != b)
  | .inf a, .fin n m _ => if m = 0 then .nan false else .inf (a != n)
  | .fin n m _, .inf b => if m = 0 then .nan false else .inf (n != b)
  | .fin na ma ea, .fin nb mb eb => .fin (na != nb) (ma * mb) (ea + eb)

/-- The quotient with a sticky bit below 80 guard bits: exact for every rounding of at most 24 bits. -/
def divExact : FVal → FVal → FVal
  | .nan _, _ => .nan false
  | _, .nan _ => .nan false
  | .inf _, .inf _ => .nan false
  | .inf a, .fin n _ _ => .inf (a != n)
  | .fin n _ _, .inf b => .fin (n != b) 0 0
  | .fin na ma ea, .fin nb mb eb =>
    if mb = 0 then (if ma = 0 then .nan false else .inf (na != nb))
    else
      let q := ma * 2 ^ 80 / mb
      let sticky := if ma * 2 ^ 80 % mb = 0 then 0 else 1
      .fin (na != nb) (2 * q + sticky) (ea - eb - 81)

/-- A value scaled by 2^k exactly. -/
def FVal.scale (k : Int) : FVal → FVal
  | .fin n m e => .fin n m (e + k)
  | v => v

/-- Rounds an exact value to the format; NaN is canonical (R192). -/
def roundVal (f : Fmt) (r : Rnd) : FVal → Nat × BitVec 5
  | .nan _ => (f.nan, 0)
  | .inf n => (f.sign n + f.inf, 0)
  | .fin n m e => roundFp f r n m e

/-- Sign of an exact zero difference in the mode (R191). -/
def zeroNeg (r : Rnd) : Bool := r = .rdn

/-- An operation whose result is NaN although no operand is one raises NV, as does a signalling operand (R192). -/
def nvOf (ops : List FVal) (res : FVal) : BitVec 5 :=
  if ops.any FVal.isSig || (res.isNan && !ops.any FVal.isNan) then flNV else 0

def addF (f : Fmt) (r : Rnd) (a b : FVal) : Nat × BitVec 5 :=
  let v := addExact (zeroNeg r) a b
  let (w, fl) := roundVal f r v
  (w, fl ||| nvOf [a, b] v)

def subF (f : Fmt) (r : Rnd) (a b : FVal) : Nat × BitVec 5 := addF f r a b.neg

def mulF (f : Fmt) (r : Rnd) (a b : FVal) : Nat × BitVec 5 :=
  let v := mulExact a b
  let (w, fl) := roundVal f r v
  (w, fl ||| nvOf [a, b] v)

/-- a × b + c rounded once; 0 × Inf raises NV whatever c is (R237, R263). -/
def fmaF (f : Fmt) (r : Rnd) (a b c : FVal) : Nat × BitVec 5 :=
  let p := mulExact a b
  let v := addExact (zeroNeg r) p c
  let (w, fl) := roundVal f r v
  (w, fl ||| nvOf [a, b, c] v ||| nvOf [a, b] p)

/-! ## Comparison, minimum, maximum (R192, R238) -/

/-- a < b for ordered values. -/
def ltF : FVal → FVal → Bool
  | .nan _, _ => false
  | _, .nan _ => false
  | .inf a, .inf b => a && !b
  | .inf a, .fin .. => a
  | .fin .., .inf b => !b
  | .fin na ma ea, .fin nb mb eb =>
    let e := if ea ≤ eb then ea else eb
    decide (scaled na ma ea e < scaled nb mb eb e)

/-- a = b for ordered values; +0 = -0. -/
def eqF (a b : FVal) : Bool := !a.isNan && !b.isNan && !ltF a b && !ltF b a

/-- a stands before b with -0 below +0. -/
def beforeF (a b : FVal) : Bool := ltF a b || (a.isZero && b.isZero && a.isNeg && !b.isNeg)

/-- minimumNumber and maximumNumber on patterns (R192). -/
def minMaxF (f : Fmt) (isMax : Bool) (wa wb : Nat) : Nat × BitVec 5 :=
  let a := decodeF f wa
  let b := decodeF f wb
  let fl := if a.isSig || b.isSig then flNV else 0
  if a.isNan && b.isNan then (f.nan, fl)
  else if a.isNan then (wb, fl)
  else if b.isNan then (wa, fl)
  else if isMax then (if beforeF a b then wb else wa, fl)
  else (if beforeF b a then wb else wa, fl)

/-! ## Conversions (R194) -/

/-- A finite value rounded to an integer in the mode, and whether it was inexact. -/
def toIntVal (r : Rnd) (neg : Bool) (m : Nat) (e : Int) : Int × Bool :=
  if 0 ≤ e then
    let v : Int := (m * 2 ^ e.toNat : Nat)
    (if neg then -v else v, false)
  else
    let q : Int := (roundShift r neg m (-e).toNat : Nat)
    (if neg then -q else q, m % 2 ^ (-e).toNat != 0)

/-- Saturation of an integer to n-bit two's complement. -/
def satInt (n : Nat) (z : Int) : Int :=
  if z < -(2 ^ (n - 1) : Nat) then -(2 ^ (n - 1) : Nat) else if ((2 ^ (n - 1) : Nat) : Int) ≤ z then (2 ^ (n - 1) : Nat) - 1 else z

/-- FP32 to INT32 (R194): pattern of 32 bits and flags. -/
def f32ToI32 (r : Rnd) (w : Nat) : Nat × BitVec 5 :=
  match decodeF fF32 w with
  | .nan _ => (0, flNV)
  | .inf n => (if n then 2 ^ 31 else 2 ^ 31 - 1, flNV)
  | .fin n m e =>
    let (z, inx) := toIntVal r n m e
    let s := satInt 32 z
    ((s % (2 ^ 32 : Nat)).toNat, if s = z then (if inx then flNX else 0) else flNV)

/-- INT32 to FP32 (R194). -/
def i32ToF32 (r : Rnd) (w : Nat) : Nat × BitVec 5 :=
  let z := sextInt 32 w
  roundFp fF32 r (decide (z < 0)) z.natAbs 0

/-- Between floating formats: exact or rounded once (R194). -/
def convF (from_ to_ : Fmt) (r : Rnd) (w : Nat) : Nat × BitVec 5 :=
  let v := decodeF from_ w
  let (x, fl) := roundVal to_ r v
  (x, fl ||| (if v.isSig then flNV else 0))

/-! ## L6 (R181, R182) -/

def tInt (n : Nat) : Nat :=
  match n % 4 with
  | 0 => 16384
  | 1 => 19484
  | 2 => 23170
  | _ => 27554

/-- l6_decode; NaR is a quiet NaN. -/
def l6Val (c : Nat) : FVal :=
  let neg := bitAt c 5
  let k := field c 0 5
  if k = 0 then (if neg then .nan false else .fin false 0 0)
  else .fin neg (tInt (k % 4)) ((k / 4 : Nat) - 4 - 14)

/-- |x| = m × 2^e is at least 2^((j - 15.5) / 4): both sides raised to the eighth power. -/
def l6Above (m : Nat) (e : Int) (j : Nat) : Bool :=
  let x : Int := 8 * e - (2 * (j : Int) - 31)
  if m = 0 then false
  else if 0 ≤ x then decide (1 ≤ m ^ 8 * 2 ^ x.toNat) else decide (2 ^ (-x).toNat ≤ m ^ 8)

/-- Exponent brought near the range of the codes, so that the comparison stays small. -/
def l6Near (m : Nat) (e : Int) : Nat × Int :=
  let top : Int := (Nat.log2 m : Int) + e
  if m = 0 then (0, 0) else if 8 < top then (1, 8) else if top < -8 then (1, -8) else (m, e)

/-- l6_encode (R182). -/
def l6Encode : FVal → Nat
  | .nan _ => 0b100000
  | .inf _ => 0b100000
  | .fin neg m e =>
    let (m', e') := l6Near m e
    let k := ((upto 31).filter (fun j => l6Above m' e' j)).length
    if k = 0 then 0 else b2n neg * 32 + k

/-! ## mx_round (R184) and drains (R190) -/

/-- x rounded to p significant bits, nearest-even, exponent unbounded; at or above 2^hi Inf, below 2^lo zero (R184, R190). -/
def roundFlush (f : Fmt) (p : Nat) (hi lo : Int) : FVal → Nat
  | .nan _ => f.nan
  | .inf n => f.sign n + f.inf
  | .fin n m e =>
    if m = 0 then f.sign n
    else
      let s := Nat.log2 m + 1 - p
      let m' := roundShift .rne n m s
      let e' := e + s
      let top : Int := (Nat.log2 m' : Int) + e'
      if hi ≤ top then f.sign n + f.inf
      else if top < lo then f.sign n
      else (roundFp f .rne n m' e').1

/-- mx_round (R184). -/
def mxRound (v : FVal) : Nat := roundFlush fF32 24 128 (-126) v
/-- mx_round and the value of its result. -/
def mxVal (v : FVal) : FVal := decodeF fF32 (mxRound v)
/-- Exact addition of R184. -/
def mxAdd (a b : FVal) : FVal := addExact false a b

/-- Integer conversion of a drain (R190). -/
def drainInt (n : Nat) : FVal → Nat
  | .nan _ => 0
  | .inf neg => if neg then 2 ^ (n - 1) else 2 ^ (n - 1) - 1
  | .fin neg m e =>
    let (z, _) := if (Nat.log2 m : Int) + e < 64 then toIntVal .rne neg m e else ((if neg then -(2 ^ 64 : Nat) else (2 ^ 64 : Nat)), false)
    (satInt n z % (2 ^ n : Nat)).toNat

/-! ## Transcendental procedures (R196 to R202) -/

/-- rnd(x): rounded once to FP32, nearest-even, as a value. -/
def rnd32 (v : FVal) : FVal := decodeF fF32 (roundVal fF32 .rne v).1
def fma32 (a b c : FVal) : FVal := decodeF fF32 (fmaF fF32 .rne a b c).1
def k32 (w : Nat) : FVal := decodeF fF32 w
def one32 : FVal := .fin false 1 0

/-- The exact integer of a finite value, ties to even, as a value and an Int. -/
def nearInt (neg : Bool) (m : Nat) (e : Int) : Int := (toIntVal .rne neg m e).1
def ofInt (z : Int) : FVal := .fin (decide (z < 0)) z.natAbs 0

def isInteger (m : Nat) (e : Int) : Bool := if 0 ≤ e then true else m % 2 ^ (-e).toNat = 0
/-- m is a power of two. -/
def isPow2 (m : Nat) : Bool := m = 2 ^ Nat.log2 m

/-- Horner steps p := fma(p, f, c). -/
def horner (f : FVal) : FVal → List Nat → FVal
  | p, [] => p
  | p, c :: cs => horner f (fma32 p f (k32 c)) cs

/-- R198 for a finite operand: value before the final rounding. -/
def exp2Core (neg : Bool) (m : Nat) (e : Int) : FVal :=
  let n := nearInt neg m e
  let f := addExact false (.fin neg m e) (ofInt (-n))
  let p := horner f (k32 0x377FE5FE) [0x39218489, 0x3AAEC3FF, 0x3C1D955B, 0x3D635847, 0x3E75FDF0, 0x3F317218]
  (fma32 p f one32).scale n

/-- VEXP2 (R196, R198). -/
def vexp2F (w : Nat) : Nat × BitVec 5 :=
  match decodeF fF32 w with
  | .nan s => (fF32.nan, if s then flNV else 0)
  | .inf n => (if n then 0 else fF32.inf, 0)
  | .fin neg m e =>
    if m = 0 then (0x3F800000, 0)
    else
      let (x, fl) := roundVal fF32 .rne (exp2Core neg m e)
      (x, fl ||| (if isInteger m e then 0 else flNX))

/-- att_exp2 (R202): a subnormal result becomes +0, no flags. -/
def attExp2 (w : Nat) : Nat :=
  let x := (vexp2F w).1
  if field x 23 8 = 0 then 0 else x

/-- R199 for a positive finite operand, m / 2^L and L + e split off. -/
def vlog2F (w : Nat) : Nat × BitVec 5 :=
  match decodeF fF32 w with
  | .nan s => (fF32.nan, if s then flNV else 0)
  | .inf n => if n then (fF32.nan, flNV) else (fF32.inf, 0)
  | .fin neg m e =>
    if m = 0 then (fF32.sign true + fF32.inf, flDZ)
    else if neg then (fF32.nan, flNV)
    else
      let l := Nat.log2 m
      let x : FVal := .fin false m (-(l : Int))
      let big := ltF (k32 0x3FB504F3) x
      let y := if big then x.scale (-1) else x
      let ex : Int := l + e + (if big then 1 else 0)
      let d := rnd32 (addExact false y one32)
      let s := rnd32 (divExact (addExact false y one32.neg) d)
      let z := rnd32 (mulExact s s)
      let q := horner z (k32 0x3E864D42) [0x3EA4258A, 0x3ED30BB1, 0x3F13BB63, 0x3F76384F, 0x4038AA3B]
      let (r, fl) := fmaF fF32 .rne s q (ofInt ex)
      (r, fl ||| (if isPow2 m then 0 else flNX))

/-- Newton steps of R200. -/
def rcpSteps (h : FVal) : Nat → FVal → FVal
  | 0, y => y
  | n + 1, y => rcpSteps h n (fma32 y (fma32 h.neg y one32) y)

/-- VRCP (R196, R200). -/
def vrcpF (w : Nat) : Nat × BitVec 5 :=
  match decodeF fF32 w with
  | .nan s => (fF32.nan, if s then flNV else 0)
  | .inf n => (fF32.sign n, 0)
  | .fin neg m e =>
    if m = 0 then (fF32.sign neg + fF32.inf, flDZ)
    else
      let l := Nat.log2 m
      let h : FVal := .fin false m (-(l : Int) - 1)
      let y := rcpSteps h 3 (fma32 (k32 0x3FF0F0F1).neg h (k32 0x4034B4B5))
      let v := y.scale (-(l + e) - 1)
      let (r, fl) := roundVal fF32 .rne (if neg then v.neg else v)
      (r, fl ||| (if isPow2 m then 0 else flNX))

/-- Newton steps of R201. -/
def rsqSteps (h : FVal) : Nat → FVal → FVal
  | 0, y => y
  | n + 1, y =>
    let t := rnd32 (mulExact y y)
    let u := fma32 h.neg t (k32 0x3FC00000)
    rsqSteps h n (rnd32 (mulExact y u))

/-- VRSQ (R196, R201). -/
def vrsqF (w : Nat) : Nat × BitVec 5 :=
  match decodeF fF32 w with
  | .nan s => (fF32.nan, if s then flNV else 0)
  | .inf n => if n then (fF32.nan, flNV) else (0, 0)
  | .fin neg m e =>
    if m = 0 then (fF32.sign neg + fF32.inf, flDZ)
    else if neg then (fF32.nan, flNV)
    else
      let top : Int := Nat.log2 m + e
      let ee : Int := 2 * (top / 2)
      let x : FVal := .fin false m (e - ee)
      let h := x.scale (-1)
      let y := rsqSteps h 4 (fma32 (k32 0x3E200000).neg x (k32 0x3F880000))
      let (r, fl) := roundVal fF32 .rne (y.scale (-(ee / 2)))
      (r, fl ||| (if isPow2 m && top % 2 = 0 then 0 else flNX))

end Sys2Proof.Machine
end

