-- ==== Sys2Proof/WellFormed.lean ====
section
/-!
DEFINITION. Static well-formedness of an instruction: the constraints of R207 to R219 that the operand structures do not
already express. What depends on the machine (slot, class, declared counts) is checked at issue by Machine/Operands.lean.
Events are well formed when they name things that exist by number.
-/
namespace Sys2Proof

/-- A G field of 24 to 31 names a queue register (R209). -/
def isQueue (g : BitVec 5) : Bool := decide (24 ≤ g.toNat)

/-- R48: a non-zero LAND with a queue destination is ILLEGAL at decode. -/
def landOk (d : BitVec 5) (land : BitVec 6) : Bool := land = 0 || !isQueue d

/-- The system register numbers of R218. -/
def sysAssigned (n : Nat) : Bool :=
  decide (n ≤ 0x005) || (decide (0x010 ≤ n) && decide (n ≤ 0x01B)) || (decide (0x020 ≤ n) && decide (n ≤ 0x025)) ||
  (decide (0x030 ≤ n) && decide (n ≤ 0x033)) || (decide (0x040 ≤ n) && decide (n ≤ 0x046)) ||
  (decide (0x050 ≤ n) && decide (n ≤ 0x052)) || (decide (0x060 ≤ n) && decide (n ≤ 0x063))

/-- The firmware registers of R218. -/
def sysFirmware (n : Nat) : Bool := decide (0xF00 ≤ n)

/-- AMO and RED sizes (R215): .W and .D. -/
def wideSz : Sz → Bool
  | .w => true
  | .d => true
  | .b => false
  | .h => false

/-- Rounding literals on FN 2, 4, 6 of major 0x48 (R216). -/
def exactRnd : Option Rnd → Bool
  | none => true
  | some r => r = .rne

namespace Instr

/-- What makes an instruction one that the encodings of R205 to R219 admit; for an event, one that names existing things. -/
def wellFormed : Instr → Bool
  | .bfx o | .bfi o => decide (o.pos.toNat + (o.wm1.toNat + 1) ≤ 64)
  | .loop o => decide (1 ≤ o.a.toNat) && decide (o.a.toNat ≤ 23)
  | .srd o | .swr o => sysAssigned o.sys.toNat || sysFirmware o.sys.toNat
  | .ld o | .ldAq o => landOk o.d o.land
  | .lds o => landOk o.d o.land && o.sz ≠ .d
  | .amo o | .amoRl o => landOk o.d o.land && wideSz o.sz && (o.fn ≠ .addf || o.sz = .w)
  | .cas o => wideSz o.sz && decide (o.d.toNat % 2 = 0) && decide (2 ≤ o.d.toNat) && decide (o.d.toNat ≤ 22)
  | .red o => wideSz o.sz && (o.fn ≠ .addf || o.sz = .w) && o.fn ≠ .swap
  | .vcmp o => o.md ≠ 0
  | .mand o | .mor o | .mxor o | .mandn o => o.md ≠ 0
  | .mnot o => o.md ≠ 0
  | .mfromg o => o.md ≠ 0
  | .vcvtF32Bf16 o | .vcvtF32F16 o | .vl6pack o => exactRnd o.x
  | .vred o => o.x = none || o.f = .sumF32
  | .vst o => o.land = 0
  | .vsts o | .vstx o => o.land = 0
  | .tide o => decide (o.link.toNat ≤ 10)
  | .vcAdvance k | .timedLanding k | .freezeEnd k | .watchdog k | .saveComplete k | .caskConsumed k => decide (k < 256)
  | .landingDataArrival k _ _ _ | .pageRefillDone k _ | .instanceResume _ k | .collectiveContribution k _
  | .rackTokenArrival k _ _ | .caskArrival k _ _ _ | .rotaReopen k _ | .failureMarkArrival k _
  | .engineCommandStart k _ _ | .engineCommandComplete k _ _ _ _ => decide (k < 256)
  | .leaseExpiry k h | .fallbackDone k h => decide (k < 256) && decide (h < 8)
  | .queueEnable vf q _ | .queueDisable vf q _ | .tailWrite vf q _ | .parseNop vf q _ | .parseLaunch vf q _
  | .parseFence vf q _ | .fenceCounterRead vf q _ | .parseSignal vf q _ | .signalAdd vf q | .launchDispatch vf q _
  | .speculationTimeout vf q | .commitComplete vf q => decide (1 ≤ vf) && decide (vf ≤ 64) && decide (q < 16)
  | .abortreq vf _ | .rrqctlWrite vf _ | .rrqctlRead vf => decide (1 ≤ vf) && decide (vf ≤ 64)
  | .turnStart l | .turnEnd l | .tideExpired l _ | .linkFlitError l _ => decide (l < 18)
  | .linkFailure p | .linkRetrain p | .fabricFlitError p _ => decide (p < 128)
  | .dieReset d | .dieResetTimeout d | .dieReturnsToService d => decide (d < 8)
  | .multicastForward t _ _ => decide (t < 256)
  | .writeAcknowledge .. | .ingressRequest .. | .refusedAccess .. | .fabricTimeout .. | .granuleMoveStart ..
  | .granuleMoveEnd .. | .contestPinEnd .. | .moveRetry .. | .moveRetryLimit .. | .foreignPeerTimeout ..
  | .windowPacketArrival .. | .meterIdle .. | .probeArrival .. | .probeSuccess .. | .probeFail .. | .circuitDataArrival ..
  | .markedPacketArrival .. | .tokenArrival .. | .circuitIdle .. | .demotionMarkArrival .. | .circuitBreak ..
  | .teardownReported .. | .holdExpiry .. | .clockThrottle .. | .shutdown | .deviceReset | .firmwareLoad ..
  | .attestation .. | .lifeCycleChange .. | .sidebandResetRequest | .registerWrite .. | .hostLinkRequest .. => true
  | .add _ | .sub _ | .mul _ | .mulh _ | .mulhu _ | .div _ | .divu _ | .rem _ | .remu _ | .and _ | .or _ | .xor _ | .andn _
  | .shl _ | .shr _ | .sar _ | .rol _ | .min _ | .max _ | .minu _ | .maxu _ | .slt _ | .sltu _ | .seq _ | .clz _ | .ctz _
  | .popc _ | .bswap _ | .loc _ | .sel _ | .lea _ | .addImm _ | .mulImm _ | .andImm _ | .orImm _ | .xorImm _ | .shlImm _
  | .shrImm _ | .sarImm _ | .sltImm _ | .sltuImm _ | .seqImm _ | .li _ | .lui _ | .fadd _ | .fsub _ | .fmul _ | .fmin _
  | .fmax _ | .fcmp _ | .fcvtI32F32 _ | .fcvtF32I32 _ | .fcvtBf16F32 _ | .fcvtF32Bf16 _ | .fcvtF16F32 _ | .fcvtF32F16 _
  | .fcvtL6F32 _ | .fcvtF32L6 _ | .ffma _ | .br _ | .bc _ | .call _ | .jr _ | .callr _ | .ret _ | .qpeek _ | .qcnt _
  | .trap _ | .exit _ | .nop _ | .hint _ | .pmark _ | .st _ | .stRl _ | .pref _ | .cflush _ | .pgreq _ | .fence _
  | .barArr _ | .barWait _ | .step _ | .succ _ | .waitvis _ | .wait _ | .launch _ | .qtail _ => true
  | .vaddF32 _ | .vsubF32 _ | .vmulF32 _ | .vfmaF32 _ | .vminF32 _ | .vmaxF32 _ | .vabsF32 _ | .vnegF32 _ | .vaddBf16 _
  | .vsubBf16 _ | .vmulBf16 _ | .vfmaBf16 _ | .vminBf16 _ | .vmaxBf16 _ | .vabsBf16 _ | .vnegBf16 _ | .vaddF16 _
  | .vsubF16 _ | .vmulF16 _ | .vfmaF16 _ | .vminF16 _ | .vmaxF16 _ | .vabsF16 _ | .vnegF16 _ | .vaddI32 _ | .vsubI32 _
  | .vmulI32 _ | .vmulhI32 _ | .vminI32 _ | .vmaxI32 _ | .vminuI32 _ | .vmaxuI32 _ | .vandI32 _ | .vorI32 _ | .vxorI32 _
  | .vandnI32 _ | .vshlI32 _ | .vshrI32 _ | .vsarI32 _ | .vaddI16 _ | .vsubI16 _ | .vmulI16 _ | .vaddsI16 _ | .vsubsI16 _
  | .vminI16 _ | .vmaxI16 _ | .vsel _ | .mpop _ | .mtog _ | .vcvtF32I32 _ | .vcvtI32F32 _ | .vcvtBf16F32 _
  | .vcvtF16F32 _ | .vl6unpk _ | .vexp2 _ | .vlog2 _ | .vrcp _ | .vrsq _ | .vperm _ | .vbcast _ | .vld _ | .vlds _
  | .vldx _ | .tld _ | .tst _ | .tmod _ | .mxm _ | .mxmRb _ | .mxz _ | .mxd _ | .cpy _ | .cpyT8 _ | .cpyT16 _ | .gather _
  | .scatter _ | .scadd _ | .wload _ | .att _ | .copen _ | .chold _ | .csend _ | .csendResume _ | .cshut _ | .cstat _
  | .ard _ | .agt _ | .rsc _ | .bct _ | .tree _ | .rota _ => true

end Instr
end Sys2Proof
end

