-- ==== Sys2Proof/Decode.lean ====
section
/-!
DEFINITION. The decoder and, after it, the encoder, both from the encoding tables of R205 to R219, R228, R262, R277, R286,
R303, R312, R324 and R348. Decoding is total: every pair of words gives an instruction or a named reason.
Fields that an instruction does not use are dropped by the decoder (R219) and are zero in what the encoder gives.
-/
namespace Sys2Proof

/-- Why a word is ILLEGAL at decode (R219, conditions 1 to 6), or that bytes are missing. -/
inductive DecodeError
  | truncated
  | unassignedOp
  | badFunction
  | xwForbidden
  | xwRequired
  | reservedNotZero
  | badRegister
  | badSize
  | badLand
  | badSystemRegister
  deriving DecidableEq, Repr

/-! ## Fields -/

def bv (w lo n : Nat) : BitVec n := BitVec.ofNat n (field w lo n)

/-- CT (R36). -/
def tagOf (w : Nat) : Tag :=
  match field w 30 2 with
  | 0 => .A
  | 1 => .L
  | 2 => .C
  | _ => .S

def dOf (w : Nat) : BitVec 5 := bv w 17 5
def aOf (w : Nat) : BitVec 5 := bv w 12 5
def bOf (w : Nat) : BitVec 5 := bv w 7 5

def rrrOf (w : Nat) : RRR := ⟨tagOf w, dOf w, aOf w, bOf w⟩
def rrOf (w : Nat) : RR := ⟨tagOf w, dOf w, aOf w⟩
def vfOf (w : Nat) (x : Option Rnd) : VfOp := ⟨tagOf w, dOf w, aOf w, bOf w, bv w 4 3, x⟩
def vf1Of (w : Nat) (x : Option Rnd) : Vf1Op := ⟨tagOf w, dOf w, aOf w, bv w 4 3, x⟩
def vOf (w : Nat) : VOp := ⟨tagOf w, dOf w, aOf w, bOf w, bv w 4 3⟩

/-- FN[6:5] or literal[1:0] as a rounding mode (R208, R213). -/
def rndOf (n : Nat) : Rnd :=
  match n with
  | 0 => .rne
  | 1 => .rtz
  | 2 => .rup
  | _ => .rdn

/-- SZ (R207). -/
def szOf (w : Nat) : Sz :=
  match field w 4 2 with
  | 0 => .b
  | 1 => .h
  | 2 => .w
  | _ => .d

/-- MOD[2:0] as an atomic operation (R215). -/
def amoFnOf (w : Nat) : AmoFn :=
  match field w 0 3 with
  | 0 => .add
  | 1 => .min
  | 2 => .max
  | 3 => .and
  | 4 => .or
  | 5 => .xor
  | 6 => .swap
  | _ => .addf

/-- Checks a condition of R219, or refuses with the reason e. -/
def need (b : Bool) (e : DecodeError) (r : Except DecodeError Instr) : Except DecodeError Instr :=
  if b then r else .error e

/-- The static constraints of WellFormed, refused as a register-range failure (R219, condition 5). -/
def checked (i : Instr) (e : DecodeError) : Except DecodeError Instr :=
  if i.wellFormed then .ok i else .error e

/-! ## The majors -/

/-- Major 0x00 (R212). -/
def decodeAlu (w : Nat) : Except DecodeError Instr :=
  match field w 0 7 with
  | 0 => .ok (.add (rrrOf w))
  | 1 => .ok (.sub (rrrOf w))
  | 2 => .ok (.mul (rrrOf w))
  | 3 => .ok (.mulh (rrrOf w))
  | 4 => .ok (.mulhu (rrrOf w))
  | 5 => .ok (.div (rrrOf w))
  | 6 => .ok (.divu (rrrOf w))
  | 7 => .ok (.rem (rrrOf w))
  | 8 => .ok (.remu (rrrOf w))
  | 9 => .ok (.and (rrrOf w))
  | 10 => .ok (.or (rrrOf w))
  | 11 => .ok (.xor (rrrOf w))
  | 12 => .ok (.andn (rrrOf w))
  | 13 => .ok (.shl (rrrOf w))
  | 14 => .ok (.shr (rrrOf w))
  | 15 => .ok (.sar (rrrOf w))
  | 16 => .ok (.rol (rrrOf w))
  | 17 => .ok (.min (rrrOf w))
  | 18 => .ok (.max (rrrOf w))
  | 19 => .ok (.minu (rrrOf w))
  | 20 => .ok (.maxu (rrrOf w))
  | 21 => .ok (.slt (rrrOf w))
  | 22 => .ok (.sltu (rrrOf w))
  | 23 => .ok (.seq (rrrOf w))
  | 24 => .ok (.clz (rrOf w))
  | 25 => .ok (.ctz (rrOf w))
  | 26 => .ok (.popc (rrOf w))
  | 27 => .ok (.bswap (rrOf w))
  | 28 => .ok (.loc (rrOf w))
  | _ => .error .badFunction

/-- SEL (R212): FN[6:5] reserved. -/
def decodeSel (w : Nat) : Except DecodeError Instr :=
  need (field w 5 2 = 0) .reservedNotZero (.ok (.sel ⟨tagOf w, dOf w, aOf w, bOf w, bv w 0 5⟩))

/-- LEA (R212): FN[6:3] reserved. -/
def decodeLea (w : Nat) : Except DecodeError Instr :=
  need (field w 3 4 = 0) .reservedNotZero (.ok (.lea ⟨tagOf w, dOf w, aOf w, bOf w, bv w 0 3⟩))

def bfOf (w : Nat) : BfOp := ⟨tagOf w, dOf w, aOf w, bv w 6 6, bv w 0 6⟩

/-- The F-I immediate (R208); with an extension word IMM12 is reserved (R228). -/
def withImm (w : Nat) (x : Option Nat) (k : Imm → Instr) : Except DecodeError Instr :=
  match x with
  | none => .ok (k (.short (bv w 0 12)))
  | some l => need (field w 0 12 = 0) .reservedNotZero (.ok (k (.long (BitVec.ofNat 32 l))))

def decodeImm (w : Nat) (x : Option Nat) (k : ImmOp → Instr) : Except DecodeError Instr :=
  withImm w x (fun i => k ⟨tagOf w, dOf w, aOf w, i⟩)

/-- Immediate shifts (R233): the count lies in 0 to 63. -/
def decodeShift (w : Nat) (x : Option Nat) (k : ShiftOp → Instr) : Except DecodeError Instr :=
  match x with
  | none => need (field w 6 6 = 0) .reservedNotZero (.ok (k ⟨tagOf w, dOf w, aOf w, bv w 0 6, false⟩))
  | some l => need (field w 0 12 = 0 && l < 64) .reservedNotZero (.ok (k ⟨tagOf w, dOf w, aOf w, BitVec.ofNat 6 l, true⟩))

/-- Major 0x12 (R213). -/
def decodeFp (w : Nat) : Except DecodeError Instr :=
  let r := rndOf (field w 5 2)
  let rne (i : Instr) := need (field w 5 2 = 0) .badFunction (.ok i)
  let rrr : FpRRR := ⟨tagOf w, dOf w, aOf w, bOf w, r⟩
  let rr : FpRR := ⟨tagOf w, dOf w, aOf w, r⟩
  match field w 0 5 with
  | 0x00 => .ok (.fadd rrr)
  | 0x01 => .ok (.fsub rrr)
  | 0x02 => .ok (.fmul rrr)
  | 0x03 => rne (.fmin (rrrOf w))
  | 0x04 => rne (.fmax (rrrOf w))
  | 0x08 => rne (.fcmp ⟨tagOf w, dOf w, aOf w, bOf w, .eq⟩)
  | 0x09 => rne (.fcmp ⟨tagOf w, dOf w, aOf w, bOf w, .lt⟩)
  | 0x0A => rne (.fcmp ⟨tagOf w, dOf w, aOf w, bOf w, .le⟩)
  | 0x0B => rne (.fcmp ⟨tagOf w, dOf w, aOf w, bOf w, .un⟩)
  | 0x10 => .ok (.fcvtI32F32 rr)
  | 0x11 => .ok (.fcvtF32I32 rr)
  | 0x12 => .ok (.fcvtBf16F32 rr)
  | 0x13 => rne (.fcvtF32Bf16 (rrOf w))
  | 0x14 => .ok (.fcvtF16F32 rr)
  | 0x15 => rne (.fcvtF32F16 (rrOf w))
  | 0x16 => rne (.fcvtL6F32 (rrOf w))
  | 0x17 => rne (.fcvtF32L6 (rrOf w))
  | _ => .error .badFunction

/-- The F-B offset (R208); with an extension word OFF14 is reserved (R228). -/
def withOff (w : Nat) (x : Option Nat) (k : Off → Instr) : Except DecodeError Instr :=
  match x with
  | none => .ok (k (.short (bv w 0 14)))
  | some l => need (field w 0 14 = 0) .reservedNotZero (.ok (k (.long (BitVec.ofNat 32 l))))

/-- Major 0x14 (R212): CND 0 is BR, CND 1 to 6 is BC. -/
def decodeBr (w : Nat) (x : Option Nat) : Except DecodeError Instr :=
  match field w 14 3 with
  | 0 => withOff w x (fun o => .br ⟨tagOf w, o⟩)
  | 1 => withOff w x (fun o => .bc ⟨tagOf w, dOf w, .eqz, o⟩)
  | 2 => withOff w x (fun o => .bc ⟨tagOf w, dOf w, .nez, o⟩)
  | 3 => withOff w x (fun o => .bc ⟨tagOf w, dOf w, .ltz, o⟩)
  | 4 => withOff w x (fun o => .bc ⟨tagOf w, dOf w, .gez, o⟩)
  | 5 => withOff w x (fun o => .bc ⟨tagOf w, dOf w, .gtz, o⟩)
  | 6 => withOff w x (fun o => .bc ⟨tagOf w, dOf w, .lez, o⟩)
  | _ => .error .badFunction

/-- LOOP (R241): CND 0 and A in 1 to 23. -/
def decodeLoop (w : Nat) (x : Option Nat) : Except DecodeError Instr :=
  need (field w 14 3 = 0) .badFunction
    (need (1 ≤ field w 17 5 && field w 17 5 ≤ 23) .badRegister
      (withOff w x (fun o => .loop ⟨tagOf w, dOf w, o⟩)))

/-- CALL (R243). -/
def decodeCall (w : Nat) (x : Option Nat) : Except DecodeError Instr :=
  need (field w 14 3 = 0) .badFunction (withOff w x (fun o => .call ⟨tagOf w, o⟩))

/-- Major 0x17 (R212). -/
def decodeJump (w : Nat) : Except DecodeError Instr :=
  match field w 0 7 with
  | 0 => .ok (.jr ⟨tagOf w, aOf w⟩)
  | 1 => .ok (.callr ⟨tagOf w, aOf w⟩)
  | 2 => .ok (.ret ⟨tagOf w⟩)
  | _ => .error .badFunction

/-- Major 0x18 (R212): A names a queue register. -/
def decodeQueue (w : Nat) : Except DecodeError Instr :=
  match field w 0 7 with
  | 0 => need (24 ≤ field w 12 5) .badRegister (.ok (.qpeek ⟨tagOf w, dOf w, BitVec.ofNat 3 (field w 12 5 - 24)⟩))
  | 1 => need (24 ≤ field w 12 5) .badRegister (.ok (.qcnt ⟨tagOf w, dOf w, BitVec.ofNat 3 (field w 12 5 - 24)⟩))
  | _ => .error .badFunction

/-- Major 0x19 (R214). -/
def decodeSys (w : Nat) : Except DecodeError Instr :=
  let sys : BitVec 12 := bv w 5 12
  match field w 0 5 with
  | 0 => checked (.srd ⟨tagOf w, dOf w, sys⟩) .badSystemRegister
  | 1 => checked (.swr ⟨tagOf w, dOf w, sys⟩) .badSystemRegister
  | 2 => .ok (.trap ⟨tagOf w, sys⟩)
  | 3 => need (sys = 0) .reservedNotZero (.ok (.exit ⟨tagOf w⟩))
  | 4 => need (sys = 0) .reservedNotZero (.ok (.nop ⟨tagOf w⟩))
  | 5 => .ok (.hint ⟨tagOf w, sys⟩)
  | 6 => .ok (.pmark ⟨tagOf w, sys⟩)
  | _ => .error .badFunction

/-- The F-M address offset (R207). -/
def offOf (x : Option Nat) : Option (BitVec 32) := x.map (BitVec.ofNat 32)

/-- LD, LDS, LD.AQ (R215). -/
def decodeLoad (w : Nat) (x : Option Nat) (k : LoadOp → Instr) : Except DecodeError Instr :=
  need (field w 3 1 = 0) .reservedNotZero
    (checked (k ⟨tagOf w, dOf w, aOf w, bv w 6 6, szOf w, bv w 0 3, offOf x⟩) .badLand)

/-- ST, ST.RL (R215). -/
def decodeStore (w : Nat) (x : Option Nat) (k : StoreOp → Instr) : Except DecodeError Instr :=
  need (field w 0 4 = 0) .reservedNotZero
    (need (field w 6 6 = 0) .badLand (.ok (k ⟨tagOf w, dOf w, aOf w, szOf w, offOf x⟩)))

/-- AMO on majors 0x25 and 0x26 (R215). -/
def decodeAmo (w : Nat) (x : Option Nat) (k : AmoOp → Instr) : Except DecodeError Instr :=
  checked (k ⟨tagOf w, dOf w, aOf w, bv w 6 6, szOf w, amoFnOf w, bitAt w 3, offOf x⟩) .badSize

/-- CAS (R215): MOD[0] `.AQ`, MOD[1] `.RL`. -/
def decodeCas (w : Nat) (x : Option Nat) : Except DecodeError Instr :=
  need (field w 2 2 = 0) .reservedNotZero
    (checked (.cas ⟨tagOf w, dOf w, aOf w, bv w 6 6, szOf w, bitAt w 1, bitAt w 0, offOf x⟩) .badRegister)

/-- RED (R215). -/
def decodeRed (w : Nat) (x : Option Nat) : Except DecodeError Instr :=
  need (field w 6 6 = 0) .badLand
    (checked (.red ⟨tagOf w, dOf w, aOf w, szOf w, amoFnOf w, bitAt w 3, offOf x⟩) .badSize)

/-- PREF, CFLUSH, PGREQ (R215). -/
def decodeAddr (w : Nat) (x : Option Nat) (k : AddrOp → Instr) : Except DecodeError Instr :=
  need (field w 0 4 = 0) .reservedNotZero
    (need (field w 6 6 = 0) .badLand (.ok (k ⟨tagOf w, aOf w, offOf x⟩)))

def scopeOf (n : Nat) : Scope :=
  match n with
  | 0 => .isle
  | 1 => .die
  | 2 => .dev
  | _ => .dom

/-- SYS[4:0] as a barrier id; SYS[11:5] reserved (R214). -/
def decodeBar (w : Nat) (k : BarOp → Instr) : Except DecodeError Instr :=
  need (field w 10 7 = 0) .reservedNotZero (.ok (k ⟨tagOf w, bv w 5 5⟩))

/-- WAIT (R214). -/
def decodeWait (w : Nat) : Except DecodeError Instr :=
  need (field w 8 9 = 0) .reservedNotZero
    (match field w 5 3 with
      | 0 => .ok (.wait ⟨tagOf w, dOf w, .mx⟩)
      | 1 => .ok (.wait ⟨tagOf w, dOf w, .cp⟩)
      | 2 => .ok (.wait ⟨tagOf w, dOf w, .at⟩)
      | 3 => .ok (.wait ⟨tagOf w, dOf w, .cl⟩)
      | 4 => .ok (.wait ⟨tagOf w, dOf w, .ci⟩)
      | 5 => .ok (.wait ⟨tagOf w, dOf w, .td⟩)
      | _ => .error .badFunction)

/-- Major 0x30 (R214). -/
def decodeSync (w : Nat) : Except DecodeError Instr :=
  match field w 0 5 with
  | 0 => need (field w 8 9 = 0) .reservedNotZero (.ok (.fence ⟨tagOf w, bitAt w 7, scopeOf (field w 5 2)⟩))
  | 1 => decodeBar w .barArr
  | 2 => decodeBar w .barWait
  | 3 => decodeBar w .step
  | 4 => need (field w 5 12 = 0) .reservedNotZero (.ok (.succ ⟨tagOf w⟩))
  | 5 => need (field w 5 12 = 0) .reservedNotZero (.ok (.waitvis ⟨tagOf w⟩))
  | 6 => decodeWait w
  | _ => .error .badFunction

/-- Major 0x31 (R214). -/
def decodeMsg (w : Nat) : Except DecodeError Instr :=
  match field w 0 7 with
  | 0 => .ok (.launch ⟨tagOf w, aOf w, bOf w⟩)
  | 1 => .ok (.qtail ⟨tagOf w, aOf w, bOf w⟩)
  | _ => .error .badFunction

/-! ## Vector majors -/

/-- The optional rounding literal of F-V (R208): literal[31:2] is reserved. -/
def withRnd (x : Option Nat) (k : Option Rnd → Except DecodeError Instr) : Except DecodeError Instr :=
  match x with
  | none => k none
  | some l => need (l < 4) .reservedNotZero (k (some (rndOf l)))

/-- Major 0x40 (R216). -/
def decodeVfF32 (w : Nat) (x : Option Rnd) : Except DecodeError Instr :=
  match field w 0 4 with
  | 0 => .ok (.vaddF32 (vfOf w x))
  | 1 => .ok (.vsubF32 (vfOf w x))
  | 2 => .ok (.vmulF32 (vfOf w x))
  | 3 => .ok (.vfmaF32 (vfOf w x))
  | 4 => .ok (.vminF32 (vfOf w x))
  | 5 => .ok (.vmaxF32 (vfOf w x))
  | 6 => .ok (.vabsF32 (vf1Of w x))
  | 7 => .ok (.vnegF32 (vf1Of w x))
  | _ => .error .badFunction

/-- Major 0x41 (R216). -/
def decodeVfBf16 (w : Nat) (x : Option Rnd) : Except DecodeError Instr :=
  match field w 0 4 with
  | 0 => .ok (.vaddBf16 (vfOf w x))
  | 1 => .ok (.vsubBf16 (vfOf w x))
  | 2 => .ok (.vmulBf16 (vfOf w x))
  | 3 => .ok (.vfmaBf16 (vfOf w x))
  | 4 => .ok (.vminBf16 (vfOf w x))
  | 5 => .ok (.vmaxBf16 (vfOf w x))
  | 6 => .ok (.vabsBf16 (vf1Of w x))
  | 7 => .ok (.vnegBf16 (vf1Of w x))
  | _ => .error .badFunction

/-- Major 0x42 (R216). -/
def decodeVfF16 (w : Nat) (x : Option Rnd) : Except DecodeError Instr :=
  match field w 0 4 with
  | 0 => .ok (.vaddF16 (vfOf w x))
  | 1 => .ok (.vsubF16 (vfOf w x))
  | 2 => .ok (.vmulF16 (vfOf w x))
  | 3 => .ok (.vfmaF16 (vfOf w x))
  | 4 => .ok (.vminF16 (vfOf w x))
  | 5 => .ok (.vmaxF16 (vfOf w x))
  | 6 => .ok (.vabsF16 (vf1Of w x))
  | 7 => .ok (.vnegF16 (vf1Of w x))
  | _ => .error .badFunction

/-- Major 0x43 (R216). -/
def decodeVi32 (w : Nat) : Except DecodeError Instr :=
  match field w 0 4 with
  | 0 => .ok (.vaddI32 (vOf w))
  | 1 => .ok (.vsubI32 (vOf w))
  | 2 => .ok (.vmulI32 (vOf w))
  | 3 => .ok (.vmulhI32 (vOf w))
  | 4 => .ok (.vminI32 (vOf w))
  | 5 => .ok (.vmaxI32 (vOf w))
  | 6 => .ok (.vminuI32 (vOf w))
  | 7 => .ok (.vmaxuI32 (vOf w))
  | 8 => .ok (.vandI32 (vOf w))
  | 9 => .ok (.vorI32 (vOf w))
  | 10 => .ok (.vxorI32 (vOf w))
  | 11 => .ok (.vandnI32 (vOf w))
  | 12 => .ok (.vshlI32 (vOf w))
  | 13 => .ok (.vshrI32 (vOf w))
  | 14 => .ok (.vsarI32 (vOf w))
  | _ => .error .badFunction

/-- Major 0x44 (R216). -/
def decodeVi16 (w : Nat) : Except DecodeError Instr :=
  match field w 0 4 with
  | 0 => .ok (.vaddI16 (vOf w))
  | 1 => .ok (.vsubI16 (vOf w))
  | 2 => .ok (.vmulI16 (vOf w))
  | 3 => .ok (.vaddsI16 (vOf w))
  | 4 => .ok (.vsubsI16 (vOf w))
  | 5 => .ok (.vminI16 (vOf w))
  | 6 => .ok (.vmaxI16 (vOf w))
  | _ => .error .badFunction

/-- Major 0x45 (R216): VD names a mask 1 to 7. -/
def decodeVcmp (w : Nat) : Except DecodeError Instr :=
  let t : VcmpTy := match field w 2 2 with
    | 0 => .f32
    | 1 => .i32
    | 2 => .u32
    | _ => .bf16
  let k : VcmpCond := match field w 0 2 with
    | 0 => .eq
    | 1 => .lt
    | 2 => .le
    | _ => .ne
  need (field w 17 5 < 8) .badRegister
    (checked (.vcmp ⟨tagOf w, bv w 17 3, aOf w, bOf w, bv w 4 3, t, k⟩) .badRegister)

/-- Major 0x47 (R216): masks named in 5-bit fields take 0 to 7. -/
def decodeMask (w : Nat) : Except DecodeError Instr :=
  let mmm : MmmOp := ⟨tagOf w, bv w 17 3, bv w 12 3, bv w 7 3⟩
  let d := field w 17 5 < 8
  let a := field w 12 5 < 8
  let b := field w 7 5 < 8
  match field w 0 4 with
  | 0 => need (d && a && b) .badRegister (checked (.mand mmm) .badRegister)
  | 1 => need (d && a && b) .badRegister (checked (.mor mmm) .badRegister)
  | 2 => need (d && a && b) .badRegister (checked (.mxor mmm) .badRegister)
  | 3 => need (d && a && b) .badRegister (checked (.mandn mmm) .badRegister)
  | 4 => need (d && a) .badRegister (checked (.mnot ⟨tagOf w, bv w 17 3, bv w 12 3⟩) .badRegister)
  | 5 => need a .badRegister (.ok (.mpop ⟨tagOf w, dOf w, bv w 12 3⟩))
  | 6 => need a .badRegister (.ok (.mtog ⟨tagOf w, dOf w, bv w 12 3⟩))
  | 7 => need d .badRegister (checked (.mfromg ⟨tagOf w, bv w 17 3, aOf w⟩) .badRegister)
  | _ => .error .badFunction

/-- Major 0x48 (R216). -/
def decodeVcvt (w : Nat) (x : Option Rnd) : Except DecodeError Instr :=
  match field w 0 4 with
  | 0 => .ok (.vcvtF32I32 (vf1Of w x))
  | 1 => .ok (.vcvtI32F32 (vf1Of w x))
  | 2 => checked (.vcvtF32Bf16 (vf1Of w x)) .reservedNotZero
  | 3 => .ok (.vcvtBf16F32 (vf1Of w x))
  | 4 => checked (.vcvtF32F16 (vf1Of w x)) .reservedNotZero
  | 5 => .ok (.vcvtF16F32 (vf1Of w x))
  | 6 => checked (.vl6pack (vf1Of w x)) .reservedNotZero
  | 7 => .ok (.vl6unpk (vf1Of w x))
  | _ => .error .badFunction

/-- Major 0x49 (R216). -/
def decodeVtrans (w : Nat) (x : Option Rnd) : Except DecodeError Instr :=
  match field w 0 4 with
  | 0 => .ok (.vexp2 (vf1Of w x))
  | 1 => .ok (.vlog2 (vf1Of w x))
  | 2 => .ok (.vrcp (vf1Of w x))
  | 3 => .ok (.vrsq (vf1Of w x))
  | _ => .error .badFunction

/-- Major 0x4A (R216): a rounding literal with FN 0 only. -/
def decodeVred (w : Nat) (x : Option Rnd) : Except DecodeError Instr :=
  let go (f : VredFn) := checked (.vred ⟨tagOf w, dOf w, aOf w, bv w 4 3, f, x⟩) .xwForbidden
  match field w 0 4 with
  | 0 => go .sumF32
  | 1 => go .maxF32
  | 2 => go .minF32
  | 3 => go .sumI32
  | 4 => go .maxI32
  | 5 => go .minI32
  | 6 => go .and
  | 7 => go .or
  | 8 => go .xor
  | _ => .error .badFunction

/-- Major 0x4B (R216). -/
def decodePerm (w : Nat) : Except DecodeError Instr :=
  match field w 0 4 with
  | 0 => .ok (.vperm (vOf w))
  | 1 => .ok (.vbcast ⟨tagOf w, dOf w, aOf w, bv w 4 3⟩)
  | _ => .error .badFunction

/-- VLD, VST (R215, R277): SZ is 0b10, MOD[3] is reserved; `checked` refuses a LAND on VST. -/
def decodeVmem (w : Nat) (x : Option Nat) (k : VmemOp → Instr) : Except DecodeError Instr :=
  need (field w 3 3 = 4) .badSize
    (checked (k ⟨tagOf w, dOf w, aOf w, bv w 6 6, bv w 0 3, offOf x⟩) .badLand)

/-- Strided and indexed accesses (R208, R277): the extension word is required. -/
def decodeVmemX (w : Nat) (x : Option Nat) (k : VmemXOp → Instr) : Except DecodeError Instr :=
  match x with
  | none => .error .xwRequired
  | some l =>
    need (field w 3 3 = 4) .badSize
      (checked (k ⟨tagOf w, dOf w, aOf w, bv w 6 6, bv w 0 3, bv l 27 5, bv l 0 27⟩) .badLand)

/-! ## F-E majors: w is the instruction word, l the literal -/

def taOf (w : Nat) : BitVec 6 := bv w 16 6
def tbOf (w : Nat) : BitVec 6 := bv w 10 6
def tcOf (w : Nat) : BitVec 6 := bv w 4 6
def gxOf (l : Nat) : BitVec 5 := bv l 27 5
def gyOf (l : Nat) : BitVec 5 := bv l 22 5

/-- TMOD codes (R326). -/
def tmodFieldOf (n : Nat) : Option TmodField :=
  match n with
  | 0 => some .base
  | 1 => some .size0
  | 2 => some .size1
  | 3 => some .size2
  | 4 => some .size3
  | 5 => some .stride1
  | 6 => some .stride2
  | 7 => some .stride3
  | 8 => some .sb
  | 9 => some .gsoff
  | 10 => some .fmt
  | 11 => some .space
  | 12 => some .ndim
  | 13 => some .flags
  | _ => none

/-- Major 0x60 (R324): GY is zero. -/
def decodeTens (w l : Nat) : Except DecodeError Instr :=
  need (field l 22 5 = 0) .reservedNotZero
    (match field w 0 4 with
      | 0 => .ok (.tld ⟨tagOf w, taOf w, gxOf l, bv l 0 22⟩)
      | 1 => .ok (.tst ⟨tagOf w, taOf w, gxOf l, bv l 0 22⟩)
      | 2 =>
        need (field l 5 17 = 0) .reservedNotZero
          (match tmodFieldOf (field l 0 4) with
            | some f => .ok (.tmod ⟨tagOf w, taOf w, gxOf l, f, bitAt l 4⟩)
            | none => .error .badFunction)
      | _ => .error .badFunction)

/-- Major 0x61 (R324): an accumulator in TC takes 0 to 7. -/
def decodeMx (w l : Nat) : Except DecodeError Instr :=
  let acc := field w 4 6 < 8
  match field w 0 4 with
  | 0 => need (l = 0) .reservedNotZero (need acc .badRegister (.ok (.mxm ⟨tagOf w, taOf w, tbOf w, bv w 4 3⟩)))
  | 1 => need (l = 0) .reservedNotZero (need acc .badRegister (.ok (.mxmRb ⟨tagOf w, taOf w, tbOf w, bv w 4 3⟩)))
  | 2 => need (l = 0) .reservedNotZero (need acc .badRegister (.ok (.mxz ⟨tagOf w, bv w 4 3⟩)))
  | 3 => need (l < 4) .reservedNotZero (need acc .badRegister (.ok (.mxd ⟨tagOf w, taOf w, bv w 4 3, bitAt l 0, bitAt l 1⟩)))
  | _ => .error .badFunction

/-- Major 0x62 (R324). -/
def decodeCp (w l : Nat) : Except DecodeError Instr :=
  let c : CpyOp := ⟨tagOf w, taOf w, tbOf w⟩
  let x : IdxOp := ⟨tagOf w, taOf w, tbOf w, tcOf w⟩
  need (l = 0) .reservedNotZero
    (match field w 0 4 with
      | 0 => .ok (.cpy c)
      | 1 => .ok (.cpyT8 c)
      | 2 => .ok (.cpyT16 c)
      | 3 => .ok (.gather x)
      | 4 => .ok (.scatter x)
      | 5 => .ok (.scadd x)
      | 6 => .ok (.wload c)
      | _ => .error .badFunction)

/-- Major 0x63 (R324). -/
def decodeAtt (w l : Nat) : Except DecodeError Instr :=
  need (field w 0 4 = 0) .badFunction
    (need (field l 8 19 = 0) .reservedNotZero
      (.ok (.att ⟨tagOf w, taOf w, tbOf w, tcOf w, gxOf l, bv l 0 3, bv l 3 3, bitAt l 6, bitAt l 7⟩)))

/-- Major 0x70 (R348): a handle in TA takes 0 to 7; unused fields must be zero. -/
def decodeCirc (w l : Nat) : Except DecodeError Instr :=
  let h : BitVec 3 := bv w 16 3
  let hg : HgOp := ⟨tagOf w, h, gxOf l⟩
  need (field w 4 12 = 0) .reservedNotZero
    (need (field w 16 6 < 8) .badRegister
      (match field w 0 4 with
        | 0 => need (field l 0 22 = 0) .reservedNotZero (.ok (.copen ⟨tagOf w, h, gxOf l, gyOf l⟩))
        | 1 => need (field l 0 27 = 0) .reservedNotZero (.ok (.chold hg))
        | 2 => need (field l 0 27 = 0) .reservedNotZero (.ok (.csend hg))
        | 3 => need (field l 0 27 = 0) .reservedNotZero (.ok (.csendResume hg))
        | 4 => need (l = 0) .reservedNotZero (.ok (.cshut ⟨tagOf w, h⟩))
        | 5 => need (field l 0 27 = 0) .reservedNotZero (.ok (.cstat hg))
        | _ => .error .badFunction))

/-- Major 0x71 (R348): a link of 11 to 15 is ILLEGAL. -/
def decodeTide (w l : Nat) : Except DecodeError Instr :=
  need (field w 0 4 = 0) .badFunction
    (need (field w 4 18 = 0 && field l 4 23 = 0) .reservedNotZero
      (checked (.tide ⟨tagOf w, gxOf l, bv l 0 4⟩) .badRegister))

/-- Literal[1:0] of ARD and RSC (R348): 3 is ILLEGAL. -/
def decodeCollFn (l : Nat) (k : CollFn → Instr) : Except DecodeError Instr :=
  match field l 0 2 with
  | 0 => .ok (k .sum)
  | 1 => .ok (k .max)
  | 2 => .ok (k .min)
  | _ => .error .badFunction

/-- Major 0x72 (R348). -/
def decodeColl (w l : Nat) : Except DecodeError Instr :=
  let c : CollOp := ⟨tagOf w, taOf w, tbOf w, gxOf l, gyOf l⟩
  need (field w 4 6 = 0) .reservedNotZero
    (match field w 0 4 with
      | 0 => need (field l 2 20 = 0) .reservedNotZero
          (decodeCollFn l (fun f => .ard ⟨tagOf w, taOf w, tbOf w, gxOf l, gyOf l, f⟩))
      | 1 => need (field l 0 22 = 0) .reservedNotZero (.ok (.agt c))
      | 2 => need (field l 2 20 = 0) .reservedNotZero
          (decodeCollFn l (fun f => .rsc ⟨tagOf w, taOf w, tbOf w, gxOf l, gyOf l, f⟩))
      | 3 => need (field l 0 22 = 0) .reservedNotZero (.ok (.bct c))
      | 4 => need (field l 0 22 = 0 && field w 10 12 = 0) .reservedNotZero (.ok (.tree ⟨tagOf w, gxOf l, gyOf l⟩))
      | _ => .error .badFunction)

/-- Major 0x73 (R348). -/
def decodeRota (w l : Nat) : Except DecodeError Instr :=
  need (field w 0 4 = 0) .badFunction
    (need (field w 4 12 = 0 && field l 7 20 = 0) .reservedNotZero
      (.ok (.rota ⟨tagOf w, taOf w, gxOf l, bv l 0 3, bv l 3 3, bitAt l 6⟩)))

/-! ## The whole word -/

/-- XW forbidden (R210). -/
def noX (x : Option Nat) (r : Except DecodeError Instr) : Except DecodeError Instr :=
  match x with
  | none => r
  | some _ => .error .xwForbidden

/-- XW required (R210). -/
def withX (x : Option Nat) (r : Nat → Except DecodeError Instr) : Except DecodeError Instr :=
  match x with
  | none => .error .xwRequired
  | some l => r l

/-- The major map (R210); x is the literal, present exactly where XW is set. -/
def decodeMajor (op w : Nat) (x : Option Nat) : Except DecodeError Instr :=
  match op with
  | 0x00 => noX x (decodeAlu w)
  | 0x01 => noX x (decodeSel w)
  | 0x02 => noX x (decodeLea w)
  | 0x03 => noX x (checked (.bfx (bfOf w)) .badRegister)
  | 0x04 => noX x (checked (.bfi (bfOf w)) .badRegister)
  | 0x05 => decodeImm w x .addImm
  | 0x06 => decodeImm w x .mulImm
  | 0x07 => decodeImm w x .andImm
  | 0x08 => decodeImm w x .orImm
  | 0x09 => decodeImm w x .xorImm
  | 0x0A => decodeShift w x .shlImm
  | 0x0B => decodeShift w x .shrImm
  | 0x0C => decodeShift w x .sarImm
  | 0x0D => decodeImm w x .sltImm
  | 0x0E => decodeImm w x .sltuImm
  | 0x0F => decodeImm w x .seqImm
  | 0x10 => withImm w x (fun i => .li ⟨tagOf w, dOf w, i⟩)
  | 0x11 => decodeImm w x .lui
  | 0x12 => noX x (decodeFp w)
  | 0x13 => noX x (.ok (.ffma ⟨tagOf w, dOf w, aOf w, bOf w, bv w 0 5, rndOf (field w 5 2)⟩))
  | 0x14 => decodeBr w x
  | 0x15 => decodeLoop w x
  | 0x16 => decodeCall w x
  | 0x17 => noX x (decodeJump w)
  | 0x18 => noX x (decodeQueue w)
  | 0x19 => noX x (decodeSys w)
  | 0x20 => decodeLoad w x .ld
  | 0x21 => decodeLoad w x .lds
  | 0x22 => decodeLoad w x .ldAq
  | 0x23 => decodeStore w x .st
  | 0x24 => decodeStore w x .stRl
  | 0x25 => decodeAmo w x .amo
  | 0x26 => decodeAmo w x .amoRl
  | 0x27 => decodeCas w x
  | 0x28 => decodeRed w x
  | 0x29 => decodeAddr w x .pref
  | 0x2A => decodeAddr w x .cflush
  | 0x2B => decodeAddr w x .pgreq
  | 0x30 => noX x (decodeSync w)
  | 0x31 => noX x (decodeMsg w)
  | 0x40 => withRnd x (decodeVfF32 w)
  | 0x41 => withRnd x (decodeVfBf16 w)
  | 0x42 => withRnd x (decodeVfF16 w)
  | 0x43 => noX x (decodeVi32 w)
  | 0x44 => noX x (decodeVi16 w)
  | 0x45 => noX x (decodeVcmp w)
  | 0x46 => noX x (need (field w 0 4 = 0) .badFunction (.ok (.vsel (vOf w))))
  | 0x47 => noX x (decodeMask w)
  | 0x48 => withRnd x (decodeVcvt w)
  | 0x49 => withRnd x (decodeVtrans w)
  | 0x4A => withRnd x (decodeVred w)
  | 0x4B => noX x (decodePerm w)
  | 0x50 => decodeVmem w x .vld
  | 0x51 => decodeVmemX w x .vlds
  | 0x52 => decodeVmemX w x .vldx
  | 0x53 => decodeVmem w x .vst
  | 0x54 => decodeVmemX w x .vsts
  | 0x55 => decodeVmemX w x .vstx
  | 0x60 => withX x (decodeTens w)
  | 0x61 => withX x (decodeMx w)
  | 0x62 => withX x (decodeCp w)
  | 0x63 => withX x (decodeAtt w)
  | 0x70 => withX x (decodeCirc w)
  | 0x71 => withX x (decodeTide w)
  | 0x72 => withX x (decodeColl w)
  | 0x73 => withX x (decodeRota w)
  | _ => .error .unassignedOp

/-- Decodes an instruction word (R205, R219); the literal is read only where XW is set. -/
def decodeWord (w lit : Nat) : Except DecodeError Instr :=
  decodeMajor (field w 22 7) w (if bitAt w 29 then some (lit % 2 ^ 32) else none)

/-- The word takes an extension word (R205). -/
def hasXw (w : Nat) : Bool := bitAt w 29

/-- Decodes the instruction at the head of a list of bytes and gives the rest (R9, R205). -/
def decode (bytes : List Byte) : Except DecodeError (Instr × List Byte) :=
  if bytes.length < 4 then .error .truncated
  else
    let w := leNat (bytes.take 4)
    if hasXw w then
      if bytes.length < 8 then .error .truncated
      else match decodeWord w (leNat ((bytes.drop 4).take 4)) with
        | .ok i => .ok (i, bytes.drop 8)
        | .error e => .error e
    else match decodeWord w 0 with
      | .ok i => .ok (i, bytes.drop 4)
      | .error e => .error e

/-- What the decoder reads from bits numbered as the opcode table numbers them: the words in the hardware's byte order, and
zeros above nbits up to the longest instruction of eight bytes. -/
def decodeTableWord (nbits w : Nat) : Option Instr :=
  match decode (leBytes 8 (w % 2 ^ nbits)) with
  | .ok (i, _) => some i
  | .error _ => none

/-! ## The encoder -/

def tagBits : Tag → Nat
  | .A => 0
  | .L => 1
  | .C => 2
  | .S => 3

def gn (g : BitVec 5) : Nat := g.toNat

/-- {CT, XW, OP, body} (R205). -/
def encWord (ct : Tag) (xw : Bool) (op body : Nat) : Nat :=
  tagBits ct * 2 ^ 30 + b2n xw * 2 ^ 29 + op * 2 ^ 22 + body

def encR (ct : Tag) (op d a b fn : Nat) : Nat := encWord ct false op (d * 2 ^ 17 + a * 2 ^ 12 + b * 2 ^ 7 + fn)
def encI (ct : Tag) (op d a imm : Nat) (xw : Bool) : Nat := encWord ct xw op (d * 2 ^ 17 + a * 2 ^ 12 + imm)
def encM (ct : Tag) (op d a land sz mod : Nat) (xw : Bool) : Nat :=
  encWord ct xw op (d * 2 ^ 17 + a * 2 ^ 12 + land * 2 ^ 6 + sz * 2 ^ 4 + mod)
def encB (ct : Tag) (op a cnd off : Nat) (xw : Bool) : Nat := encWord ct xw op (a * 2 ^ 17 + cnd * 2 ^ 14 + off)
def encV (ct : Tag) (op v a b : Nat) (m : BitVec 3) (fn : Nat) (xw : Bool) : Nat :=
  encWord ct xw op (v * 2 ^ 17 + a * 2 ^ 12 + b * 2 ^ 7 + m.toNat * 2 ^ 4 + fn)
def encE (ct : Tag) (op ta tb tc fn : Nat) : Nat := encWord ct true op (ta * 2 ^ 16 + tb * 2 ^ 10 + tc * 2 ^ 4 + fn)
def encS (ct : Tag) (op d sys fn : Nat) : Nat := encWord ct false op (d * 2 ^ 17 + sys * 2 ^ 5 + fn)
/-- The F-E literal {GX, GY, fields} (R208). -/
def feLit (gx gy fields : Nat) : Nat := gx * 2 ^ 27 + gy * 2 ^ 22 + fields
def encLit (gx gy fields : Nat) : Option Nat := some (feLit gx gy fields)

def Imm.bits : Imm → Nat
  | .short i => i.toNat
  | .long _ => 0
def Imm.isLong : Imm → Bool
  | .short _ => false
  | .long _ => true
def Imm.lit : Imm → Option Nat
  | .short _ => none
  | .long l => some l.toNat
def Off.bits : Off → Nat
  | .short i => i.toNat
  | .long _ => 0
def Off.isLong : Off → Bool
  | .short _ => false
  | .long _ => true
def Off.lit : Off → Option Nat
  | .short _ => none
  | .long l => some l.toNat

def rndBits : Rnd → Nat
  | .rne => 0
  | .rtz => 1
  | .rup => 2
  | .rdn => 3
def rndLit (x : Option Rnd) : Option Nat := x.map rndBits
def szBits : Sz → Nat
  | .b => 0
  | .h => 1
  | .w => 2
  | .d => 3
def fcondBits : FCond → Nat
  | .eq => 0x08
  | .lt => 0x09
  | .le => 0x0A
  | .un => 0x0B
def condBits : Cond → Nat
  | .eqz => 1
  | .nez => 2
  | .ltz => 3
  | .gez => 4
  | .gtz => 5
  | .lez => 6
def amoBits : AmoFn → Nat
  | .add => 0
  | .min => 1
  | .max => 2
  | .and => 3
  | .or => 4
  | .xor => 5
  | .swap => 6
  | .addf => 7
def scopeBits : Scope → Nat
  | .isle => 0
  | .die => 1
  | .dev => 2
  | .dom => 3
def engBits : Engine → Nat
  | .mx => 0
  | .cp => 1
  | .at => 2
  | .cl => 3
  | .ci => 4
  | .td => 5
def vcmpTyBits : VcmpTy → Nat
  | .f32 => 0
  | .i32 => 1
  | .u32 => 2
  | .bf16 => 3
def vcmpCondBits : VcmpCond → Nat
  | .eq => 0
  | .lt => 1
  | .le => 2
  | .ne => 3
def vredBits : VredFn → Nat
  | .sumF32 => 0
  | .maxF32 => 1
  | .minF32 => 2
  | .sumI32 => 3
  | .maxI32 => 4
  | .minI32 => 5
  | .and => 6
  | .or => 7
  | .xor => 8
def tmodBits : TmodField → Nat
  | .base => 0
  | .size0 => 1
  | .size1 => 2
  | .size2 => 3
  | .size3 => 4
  | .stride1 => 5
  | .stride2 => 6
  | .stride3 => 7
  | .sb => 8
  | .gsoff => 9
  | .fmt => 10
  | .space => 11
  | .ndim => 12
  | .flags => 13
def collBits : CollFn → Nat
  | .sum => 0
  | .max => 1
  | .min => 2

def offLit (x : Option (BitVec 32)) : Option Nat := x.map (·.toNat)
def encLoad (op : Nat) (o : LoadOp) : Nat × Option Nat :=
  (encM o.ct op (gn o.d) (gn o.a) o.land.toNat (szBits o.sz) o.m.toNat o.off.isSome, offLit o.off)
def encStore (op : Nat) (o : StoreOp) : Nat × Option Nat :=
  (encM o.ct op (gn o.s) (gn o.a) 0 (szBits o.sz) 0 o.off.isSome, offLit o.off)
def encAmo (op : Nat) (o : AmoOp) : Nat × Option Nat :=
  (encM o.ct op (gn o.d) (gn o.a) o.land.toNat (szBits o.sz) (amoBits o.fn + 8 * b2n o.q) o.off.isSome, offLit o.off)
def encAddr (op : Nat) (o : AddrOp) : Nat × Option Nat := (encM o.ct op 0 (gn o.a) 0 0 0 o.off.isSome, offLit o.off)
def encVmem (op : Nat) (o : VmemOp) : Nat × Option Nat :=
  (encM o.ct op (gn o.v) (gn o.a) o.land.toNat 2 o.m.toNat o.off.isSome, offLit o.off)
def encVmemX (op : Nat) (o : VmemXOp) : Nat × Option Nat :=
  (encM o.ct op (gn o.v) (gn o.a) o.land.toNat 2 o.m.toNat true, some (gn o.x * 2 ^ 27 + o.off.toNat))
def encHg (fn : Nat) (o : HgOp) : Nat × Option Nat := (encE o.ct 0x70 o.h.toNat 0 0 fn, encLit (gn o.gx) 0 0)
def encCpy (fn : Nat) (o : CpyOp) : Nat × Option Nat := (encE o.ct 0x62 o.td.toNat o.ts.toNat 0 fn, some 0)
def encIdx (fn : Nat) (o : IdxOp) : Nat × Option Nat := (encE o.ct 0x62 o.td.toNat o.ts.toNat o.ti.toNat fn, some 0)
def encRedColl (fn : Nat) (o : RedCollOp) : Nat × Option Nat :=
  (encE o.ct 0x72 o.td.toNat o.ts.toNat 0 fn, encLit (gn o.gx) (gn o.gy) (collBits o.op))
def encColl (fn : Nat) (o : CollOp) : Nat × Option Nat :=
  (encE o.ct 0x72 o.td.toNat o.ts.toNat 0 fn, encLit (gn o.gx) (gn o.gy) 0)

/-- The instruction word and its literal; an event has no words. -/
def encodeWord (i : Instr) : Option (Nat × Option Nat) :=
  match i with
  | .add o => some (encR o.ct 0x00 (gn o.d) (gn o.a) (gn o.b) 0, none)
  | .sub o => some (encR o.ct 0x00 (gn o.d) (gn o.a) (gn o.b) 1, none)
  | .mul o => some (encR o.ct 0x00 (gn o.d) (gn o.a) (gn o.b) 2, none)
  | .mulh o => some (encR o.ct 0x00 (gn o.d) (gn o.a) (gn o.b) 3, none)
  | .mulhu o => some (encR o.ct 0x00 (gn o.d) (gn o.a) (gn o.b) 4, none)
  | .div o => some (encR o.ct 0x00 (gn o.d) (gn o.a) (gn o.b) 5, none)
  | .divu o => some (encR o.ct 0x00 (gn o.d) (gn o.a) (gn o.b) 6, none)
  | .rem o => some (encR o.ct 0x00 (gn o.d) (gn o.a) (gn o.b) 7, none)
  | .remu o => some (encR o.ct 0x00 (gn o.d) (gn o.a) (gn o.b) 8, none)
  | .and o => some (encR o.ct 0x00 (gn o.d) (gn o.a) (gn o.b) 9, none)
  | .or o => some (encR o.ct 0x00 (gn o.d) (gn o.a) (gn o.b) 10, none)
  | .xor o => some (encR o.ct 0x00 (gn o.d) (gn o.a) (gn o.b) 11, none)
  | .andn o => some (encR o.ct 0x00 (gn o.d) (gn o.a) (gn o.b) 12, none)
  | .shl o => some (encR o.ct 0x00 (gn o.d) (gn o.a) (gn o.b) 13, none)
  | .shr o => some (encR o.ct 0x00 (gn o.d) (gn o.a) (gn o.b) 14, none)
  | .sar o => some (encR o.ct 0x00 (gn o.d) (gn o.a) (gn o.b) 15, none)
  | .rol o => some (encR o.ct 0x00 (gn o.d) (gn o.a) (gn o.b) 16, none)
  | .min o => some (encR o.ct 0x00 (gn o.d) (gn o.a) (gn o.b) 17, none)
  | .max o => some (encR o.ct 0x00 (gn o.d) (gn o.a) (gn o.b) 18, none)
  | .minu o => some (encR o.ct 0x00 (gn o.d) (gn o.a) (gn o.b) 19, none)
  | .maxu o => some (encR o.ct 0x00 (gn o.d) (gn o.a) (gn o.b) 20, none)
  | .slt o => some (encR o.ct 0x00 (gn o.d) (gn o.a) (gn o.b) 21, none)
  | .sltu o => some (encR o.ct 0x00 (gn o.d) (gn o.a) (gn o.b) 22, none)
  | .seq o => some (encR o.ct 0x00 (gn o.d) (gn o.a) (gn o.b) 23, none)
  | .clz o => some (encR o.ct 0x00 (gn o.d) (gn o.a) 0 24, none)
  | .ctz o => some (encR o.ct 0x00 (gn o.d) (gn o.a) 0 25, none)
  | .popc o => some (encR o.ct 0x00 (gn o.d) (gn o.a) 0 26, none)
  | .bswap o => some (encR o.ct 0x00 (gn o.d) (gn o.a) 0 27, none)
  | .loc o => some (encR o.ct 0x00 (gn o.d) (gn o.a) 0 28, none)
  | .sel o => some (encR o.ct 0x01 (gn o.d) (gn o.a) (gn o.b) (gn o.e), none)
  | .lea o => some (encR o.ct 0x02 (gn o.d) (gn o.a) (gn o.b) o.s.toNat, none)
  | .bfx o => some (encI o.ct 0x03 (gn o.d) (gn o.a) (o.wm1.toNat * 2 ^ 6 + o.pos.toNat) false, none)
  | .bfi o => some (encI o.ct 0x04 (gn o.d) (gn o.a) (o.wm1.toNat * 2 ^ 6 + o.pos.toNat) false, none)
  | .addImm o => some (encI o.ct 0x05 (gn o.d) (gn o.a) o.i.bits o.i.isLong, o.i.lit)
  | .mulImm o => some (encI o.ct 0x06 (gn o.d) (gn o.a) o.i.bits o.i.isLong, o.i.lit)
  | .andImm o => some (encI o.ct 0x07 (gn o.d) (gn o.a) o.i.bits o.i.isLong, o.i.lit)
  | .orImm o => some (encI o.ct 0x08 (gn o.d) (gn o.a) o.i.bits o.i.isLong, o.i.lit)
  | .xorImm o => some (encI o.ct 0x09 (gn o.d) (gn o.a) o.i.bits o.i.isLong, o.i.lit)
  | .shlImm o => some (encI o.ct 0x0A (gn o.d) (gn o.a) (if o.xw then 0 else o.n.toNat) o.xw, if o.xw then some o.n.toNat else none)
  | .shrImm o => some (encI o.ct 0x0B (gn o.d) (gn o.a) (if o.xw then 0 else o.n.toNat) o.xw, if o.xw then some o.n.toNat else none)
  | .sarImm o => some (encI o.ct 0x0C (gn o.d) (gn o.a) (if o.xw then 0 else o.n.toNat) o.xw, if o.xw then some o.n.toNat else none)
  | .sltImm o => some (encI o.ct 0x0D (gn o.d) (gn o.a) o.i.bits o.i.isLong, o.i.lit)
  | .sltuImm o => some (encI o.ct 0x0E (gn o.d) (gn o.a) o.i.bits o.i.isLong, o.i.lit)
  | .seqImm o => some (encI o.ct 0x0F (gn o.d) (gn o.a) o.i.bits o.i.isLong, o.i.lit)
  | .li o => some (encI o.ct 0x10 (gn o.d) 0 o.i.bits o.i.isLong, o.i.lit)
  | .lui o => some (encI o.ct 0x11 (gn o.d) (gn o.a) o.i.bits o.i.isLong, o.i.lit)
  | .fadd o => some (encR o.ct 0x12 (gn o.d) (gn o.a) (gn o.b) (rndBits o.r * 2 ^ 5 + 0x00), none)
  | .fsub o => some (encR o.ct 0x12 (gn o.d) (gn o.a) (gn o.b) (rndBits o.r * 2 ^ 5 + 0x01), none)
  | .fmul o => some (encR o.ct 0x12 (gn o.d) (gn o.a) (gn o.b) (rndBits o.r * 2 ^ 5 + 0x02), none)
  | .fmin o => some (encR o.ct 0x12 (gn o.d) (gn o.a) (gn o.b) 0x03, none)
  | .fmax o => some (encR o.ct 0x12 (gn o.d) (gn o.a) (gn o.b) 0x04, none)
  | .fcmp o => some (encR o.ct 0x12 (gn o.d) (gn o.a) (gn o.b) (fcondBits o.k), none)
  | .fcvtI32F32 o => some (encR o.ct 0x12 (gn o.d) (gn o.a) 0 (rndBits o.r * 2 ^ 5 + 0x10), none)
  | .fcvtF32I32 o => some (encR o.ct 0x12 (gn o.d) (gn o.a) 0 (rndBits o.r * 2 ^ 5 + 0x11), none)
  | .fcvtBf16F32 o => some (encR o.ct 0x12 (gn o.d) (gn o.a) 0 (rndBits o.r * 2 ^ 5 + 0x12), none)
  | .fcvtF32Bf16 o => some (encR o.ct 0x12 (gn o.d) (gn o.a) 0 0x13, none)
  | .fcvtF16F32 o => some (encR o.ct 0x12 (gn o.d) (gn o.a) 0 (rndBits o.r * 2 ^ 5 + 0x14), none)
  | .fcvtF32F16 o => some (encR o.ct 0x12 (gn o.d) (gn o.a) 0 0x15, none)
  | .fcvtL6F32 o => some (encR o.ct 0x12 (gn o.d) (gn o.a) 0 0x16, none)
  | .fcvtF32L6 o => some (encR o.ct 0x12 (gn o.d) (gn o.a) 0 0x17, none)
  | .ffma o => some (encR o.ct 0x13 (gn o.d) (gn o.a) (gn o.b) (rndBits o.r * 2 ^ 5 + gn o.e), none)
  | .br o => some (encB o.ct 0x14 0 0 o.o.bits o.o.isLong, o.o.lit)
  | .bc o => some (encB o.ct 0x14 (gn o.a) (condBits o.k) o.o.bits o.o.isLong, o.o.lit)
  | .loop o => some (encB o.ct 0x15 (gn o.a) 0 o.o.bits o.o.isLong, o.o.lit)
  | .call o => some (encB o.ct 0x16 0 0 o.o.bits o.o.isLong, o.o.lit)
  | .jr o => some (encR o.ct 0x17 0 (gn o.a) 0 0, none)
  | .callr o => some (encR o.ct 0x17 0 (gn o.a) 0 1, none)
  | .ret o => some (encR o.ct 0x17 0 0 0 2, none)
  | .qpeek o => some (encR o.ct 0x18 (gn o.d) (24 + o.q.toNat) 0 0, none)
  | .qcnt o => some (encR o.ct 0x18 (gn o.d) (24 + o.q.toNat) 0 1, none)
  | .srd o => some (encS o.ct 0x19 (gn o.d) o.sys.toNat 0, none)
  | .swr o => some (encS o.ct 0x19 (gn o.d) o.sys.toNat 1, none)
  | .trap o => some (encS o.ct 0x19 0 o.code.toNat 2, none)
  | .exit o => some (encS o.ct 0x19 0 0 3, none)
  | .nop o => some (encS o.ct 0x19 0 0 4, none)
  | .hint o => some (encS o.ct 0x19 0 o.code.toNat 5, none)
  | .pmark o => some (encS o.ct 0x19 0 o.code.toNat 6, none)
  | .ld o => some (encLoad 0x20 o)
  | .lds o => some (encLoad 0x21 o)
  | .ldAq o => some (encLoad 0x22 o)
  | .st o => some (encStore 0x23 o)
  | .stRl o => some (encStore 0x24 o)
  | .amo o => some (encAmo 0x25 o)
  | .amoRl o => some (encAmo 0x26 o)
  | .cas o => some (encM o.ct 0x27 (gn o.d) (gn o.a) o.land.toNat (szBits o.sz) (2 * b2n o.rl + b2n o.aq) o.off.isSome, offLit o.off)
  | .red o => some (encM o.ct 0x28 (gn o.s) (gn o.a) 0 (szBits o.sz) (amoBits o.fn + 8 * b2n o.rl) o.off.isSome, offLit o.off)
  | .pref o => some (encAddr 0x29 o)
  | .cflush o => some (encAddr 0x2A o)
  | .pgreq o => some (encAddr 0x2B o)
  | .fence o => some (encS o.ct 0x30 0 (4 * b2n o.sc + scopeBits o.scope) 0, none)
  | .barArr o => some (encS o.ct 0x30 0 (gn o.b) 1, none)
  | .barWait o => some (encS o.ct 0x30 0 (gn o.b) 2, none)
  | .step o => some (encS o.ct 0x30 0 (gn o.b) 3, none)
  | .succ o => some (encS o.ct 0x30 0 0 4, none)
  | .waitvis o => some (encS o.ct 0x30 0 0 5, none)
  | .wait o => some (encS o.ct 0x30 (gn o.d) (engBits o.eng) 6, none)
  | .launch o => some (encR o.ct 0x31 0 (gn o.a) (gn o.b) 0, none)
  | .qtail o => some (encR o.ct 0x31 0 (gn o.a) (gn o.b) 1, none)
  | .vaddF32 o => some (encV o.ct 0x40 (gn o.v) (gn o.a) (gn o.b) o.m 0 o.x.isSome, rndLit o.x)
  | .vsubF32 o => some (encV o.ct 0x40 (gn o.v) (gn o.a) (gn o.b) o.m 1 o.x.isSome, rndLit o.x)
  | .vmulF32 o => some (encV o.ct 0x40 (gn o.v) (gn o.a) (gn o.b) o.m 2 o.x.isSome, rndLit o.x)
  | .vfmaF32 o => some (encV o.ct 0x40 (gn o.v) (gn o.a) (gn o.b) o.m 3 o.x.isSome, rndLit o.x)
  | .vminF32 o => some (encV o.ct 0x40 (gn o.v) (gn o.a) (gn o.b) o.m 4 o.x.isSome, rndLit o.x)
  | .vmaxF32 o => some (encV o.ct 0x40 (gn o.v) (gn o.a) (gn o.b) o.m 5 o.x.isSome, rndLit o.x)
  | .vabsF32 o => some (encV o.ct 0x40 (gn o.v) (gn o.a) 0 o.m 6 o.x.isSome, rndLit o.x)
  | .vnegF32 o => some (encV o.ct 0x40 (gn o.v) (gn o.a) 0 o.m 7 o.x.isSome, rndLit o.x)
  | .vaddBf16 o => some (encV o.ct 0x41 (gn o.v) (gn o.a) (gn o.b) o.m 0 o.x.isSome, rndLit o.x)
  | .vsubBf16 o => some (encV o.ct 0x41 (gn o.v) (gn o.a) (gn o.b) o.m 1 o.x.isSome, rndLit o.x)
  | .vmulBf16 o => some (encV o.ct 0x41 (gn o.v) (gn o.a) (gn o.b) o.m 2 o.x.isSome, rndLit o.x)
  | .vfmaBf16 o => some (encV o.ct 0x41 (gn o.v) (gn o.a) (gn o.b) o.m 3 o.x.isSome, rndLit o.x)
  | .vminBf16 o => some (encV o.ct 0x41 (gn o.v) (gn o.a) (gn o.b) o.m 4 o.x.isSome, rndLit o.x)
  | .vmaxBf16 o => some (encV o.ct 0x41 (gn o.v) (gn o.a) (gn o.b) o.m 5 o.x.isSome, rndLit o.x)
  | .vabsBf16 o => some (encV o.ct 0x41 (gn o.v) (gn o.a) 0 o.m 6 o.x.isSome, rndLit o.x)
  | .vnegBf16 o => some (encV o.ct 0x41 (gn o.v) (gn o.a) 0 o.m 7 o.x.isSome, rndLit o.x)
  | .vaddF16 o => some (encV o.ct 0x42 (gn o.v) (gn o.a) (gn o.b) o.m 0 o.x.isSome, rndLit o.x)
  | .vsubF16 o => some (encV o.ct 0x42 (gn o.v) (gn o.a) (gn o.b) o.m 1 o.x.isSome, rndLit o.x)
  | .vmulF16 o => some (encV o.ct 0x42 (gn o.v) (gn o.a) (gn o.b) o.m 2 o.x.isSome, rndLit o.x)
  | .vfmaF16 o => some (encV o.ct 0x42 (gn o.v) (gn o.a) (gn o.b) o.m 3 o.x.isSome, rndLit o.x)
  | .vminF16 o => some (encV o.ct 0x42 (gn o.v) (gn o.a) (gn o.b) o.m 4 o.x.isSome, rndLit o.x)
  | .vmaxF16 o => some (encV o.ct 0x42 (gn o.v) (gn o.a) (gn o.b) o.m 5 o.x.isSome, rndLit o.x)
  | .vabsF16 o => some (encV o.ct 0x42 (gn o.v) (gn o.a) 0 o.m 6 o.x.isSome, rndLit o.x)
  | .vnegF16 o => some (encV o.ct 0x42 (gn o.v) (gn o.a) 0 o.m 7 o.x.isSome, rndLit o.x)
  | .vaddI32 o => some (encV o.ct 0x43 (gn o.v) (gn o.a) (gn o.b) o.m 0 false, none)
  | .vsubI32 o => some (encV o.ct 0x43 (gn o.v) (gn o.a) (gn o.b) o.m 1 false, none)
  | .vmulI32 o => some (encV o.ct 0x43 (gn o.v) (gn o.a) (gn o.b) o.m 2 false, none)
  | .vmulhI32 o => some (encV o.ct 0x43 (gn o.v) (gn o.a) (gn o.b) o.m 3 false, none)
  | .vminI32 o => some (encV o.ct 0x43 (gn o.v) (gn o.a) (gn o.b) o.m 4 false, none)
  | .vmaxI32 o => some (encV o.ct 0x43 (gn o.v) (gn o.a) (gn o.b) o.m 5 false, none)
  | .vminuI32 o => some (encV o.ct 0x43 (gn o.v) (gn o.a) (gn o.b) o.m 6 false, none)
  | .vmaxuI32 o => some (encV o.ct 0x43 (gn o.v) (gn o.a) (gn o.b) o.m 7 false, none)
  | .vandI32 o => some (encV o.ct 0x43 (gn o.v) (gn o.a) (gn o.b) o.m 8 false, none)
  | .vorI32 o => some (encV o.ct 0x43 (gn o.v) (gn o.a) (gn o.b) o.m 9 false, none)
  | .vxorI32 o => some (encV o.ct 0x43 (gn o.v) (gn o.a) (gn o.b) o.m 10 false, none)
  | .vandnI32 o => some (encV o.ct 0x43 (gn o.v) (gn o.a) (gn o.b) o.m 11 false, none)
  | .vshlI32 o => some (encV o.ct 0x43 (gn o.v) (gn o.a) (gn o.b) o.m 12 false, none)
  | .vshrI32 o => some (encV o.ct 0x43 (gn o.v) (gn o.a) (gn o.b) o.m 13 false, none)
  | .vsarI32 o => some (encV o.ct 0x43 (gn o.v) (gn o.a) (gn o.b) o.m 14 false, none)
  | .vaddI16 o => some (encV o.ct 0x44 (gn o.v) (gn o.a) (gn o.b) o.m 0 false, none)
  | .vsubI16 o => some (encV o.ct 0x44 (gn o.v) (gn o.a) (gn o.b) o.m 1 false, none)
  | .vmulI16 o => some (encV o.ct 0x44 (gn o.v) (gn o.a) (gn o.b) o.m 2 false, none)
  | .vaddsI16 o => some (encV o.ct 0x44 (gn o.v) (gn o.a) (gn o.b) o.m 3 false, none)
  | .vsubsI16 o => some (encV o.ct 0x44 (gn o.v) (gn o.a) (gn o.b) o.m 4 false, none)
  | .vminI16 o => some (encV o.ct 0x44 (gn o.v) (gn o.a) (gn o.b) o.m 5 false, none)
  | .vmaxI16 o => some (encV o.ct 0x44 (gn o.v) (gn o.a) (gn o.b) o.m 6 false, none)
  | .vcmp o => some (encV o.ct 0x45 o.md.toNat (gn o.a) (gn o.b) o.m (4 * vcmpTyBits o.t + vcmpCondBits o.k) false, none)
  | .vsel o => some (encV o.ct 0x46 (gn o.v) (gn o.a) (gn o.b) o.m 0 false, none)
  | .mand o => some (encV o.ct 0x47 o.md.toNat o.ma.toNat o.mb.toNat 0 0 false, none)
  | .mor o => some (encV o.ct 0x47 o.md.toNat o.ma.toNat o.mb.toNat 0 1 false, none)
  | .mxor o => some (encV o.ct 0x47 o.md.toNat o.ma.toNat o.mb.toNat 0 2 false, none)
  | .mandn o => some (encV o.ct 0x47 o.md.toNat o.ma.toNat o.mb.toNat 0 3 false, none)
  | .mnot o => some (encV o.ct 0x47 o.md.toNat o.ma.toNat 0 0 4 false, none)
  | .mpop o => some (encV o.ct 0x47 (gn o.d) o.ma.toNat 0 0 5 false, none)
  | .mtog o => some (encV o.ct 0x47 (gn o.d) o.ma.toNat 0 0 6 false, none)
  | .mfromg o => some (encV o.ct 0x47 o.md.toNat (gn o.a) 0 0 7 false, none)
  | .vcvtF32I32 o => some (encV o.ct 0x48 (gn o.v) (gn o.a) 0 o.m 0 o.x.isSome, rndLit o.x)
  | .vcvtI32F32 o => some (encV o.ct 0x48 (gn o.v) (gn o.a) 0 o.m 1 o.x.isSome, rndLit o.x)
  | .vcvtF32Bf16 o => some (encV o.ct 0x48 (gn o.v) (gn o.a) 0 o.m 2 o.x.isSome, rndLit o.x)
  | .vcvtBf16F32 o => some (encV o.ct 0x48 (gn o.v) (gn o.a) 0 o.m 3 o.x.isSome, rndLit o.x)
  | .vcvtF32F16 o => some (encV o.ct 0x48 (gn o.v) (gn o.a) 0 o.m 4 o.x.isSome, rndLit o.x)
  | .vcvtF16F32 o => some (encV o.ct 0x48 (gn o.v) (gn o.a) 0 o.m 5 o.x.isSome, rndLit o.x)
  | .vl6pack o => some (encV o.ct 0x48 (gn o.v) (gn o.a) 0 o.m 6 o.x.isSome, rndLit o.x)
  | .vl6unpk o => some (encV o.ct 0x48 (gn o.v) (gn o.a) 0 o.m 7 o.x.isSome, rndLit o.x)
  | .vexp2 o => some (encV o.ct 0x49 (gn o.v) (gn o.a) 0 o.m 0 o.x.isSome, rndLit o.x)
  | .vlog2 o => some (encV o.ct 0x49 (gn o.v) (gn o.a) 0 o.m 1 o.x.isSome, rndLit o.x)
  | .vrcp o => some (encV o.ct 0x49 (gn o.v) (gn o.a) 0 o.m 2 o.x.isSome, rndLit o.x)
  | .vrsq o => some (encV o.ct 0x49 (gn o.v) (gn o.a) 0 o.m 3 o.x.isSome, rndLit o.x)
  | .vred o => some (encV o.ct 0x4A (gn o.d) (gn o.a) 0 o.m (vredBits o.f) o.x.isSome, rndLit o.x)
  | .vperm o => some (encV o.ct 0x4B (gn o.v) (gn o.a) (gn o.b) o.m 0 false, none)
  | .vbcast o => some (encV o.ct 0x4B (gn o.v) (gn o.a) 0 o.m 1 false, none)
  | .vld o => some (encVmem 0x50 o)
  | .vlds o => some (encVmemX 0x51 o)
  | .vldx o => some (encVmemX 0x52 o)
  | .vst o => some (encVmem 0x53 o)
  | .vsts o => some (encVmemX 0x54 o)
  | .vstx o => some (encVmemX 0x55 o)
  | .tld o => some (encE o.ct 0x60 o.t.toNat 0 0 0, encLit (gn o.gx) 0 o.off.toNat)
  | .tst o => some (encE o.ct 0x60 o.t.toNat 0 0 1, encLit (gn o.gx) 0 o.off.toNat)
  | .tmod o => some (encE o.ct 0x60 o.t.toNat 0 0 2, encLit (gn o.gx) 0 (tmodBits o.f + 16 * b2n o.add))
  | .mxm o => some (encE o.ct 0x61 o.ta.toNat o.tb.toNat o.acc.toNat 0, some 0)
  | .mxmRb o => some (encE o.ct 0x61 o.ta.toNat o.tb.toNat o.acc.toNat 1, some 0)
  | .mxz o => some (encE o.ct 0x61 0 0 o.acc.toNat 2, some 0)
  | .mxd o => some (encE o.ct 0x61 o.ta.toNat 0 o.acc.toNat 3, some (b2n o.i32 + 2 * b2n o.z))
  | .cpy o => some (encCpy 0 o)
  | .cpyT8 o => some (encCpy 1 o)
  | .cpyT16 o => some (encCpy 2 o)
  | .gather o => some (encIdx 3 o)
  | .scatter o => some (encIdx 4 o)
  | .scadd o => some (encIdx 5 o)
  | .wload o => some (encCpy 6 o)
  | .att o => some (encE o.ct 0x63 o.tq.toNat o.tk.toNat o.tv.toNat 0,
      encLit (gn o.gx) 0 (o.acco.toNat + 8 * o.accs.toNat + 64 * b2n o.first + 128 * b2n o.last))
  | .copen o => some (encE o.ct 0x70 o.h.toNat 0 0 0, encLit (gn o.gx) (gn o.gy) 0)
  | .chold o => some (encHg 1 o)
  | .csend o => some (encHg 2 o)
  | .csendResume o => some (encHg 3 o)
  | .cshut o => some (encE o.ct 0x70 o.h.toNat 0 0 4, some 0)
  | .cstat o => some (encHg 5 o)
  | .tide o => some (encE o.ct 0x71 0 0 0 0, encLit (gn o.gx) 0 o.link.toNat)
  | .ard o => some (encRedColl 0 o)
  | .agt o => some (encColl 1 o)
  | .rsc o => some (encRedColl 2 o)
  | .bct o => some (encColl 3 o)
  | .tree o => some (encE o.ct 0x72 0 0 0 4, encLit (gn o.gx) (gn o.gy) 0)
  | .rota o => some (encE o.ct 0x73 o.ts.toNat 0 0 0, encLit (gn o.gx) 0 (o.acco.toNat + 8 * o.accs.toNat + 64 * b2n o.att))
  | .vcAdvance .. | .timedLanding .. | .landingDataArrival .. | .freezeEnd .. | .watchdog .. | .pageRefillDone ..
  | .writeAcknowledge .. | .queueEnable .. | .queueDisable .. | .tailWrite .. | .parseNop .. | .parseLaunch ..
  | .parseFence .. | .fenceCounterRead .. | .parseSignal .. | .signalAdd .. | .launchDispatch .. | .saveComplete ..
  | .instanceResume .. | .speculationTimeout .. | .commitComplete .. | .ingressRequest .. | .refusedAccess ..
  | .fabricTimeout .. | .granuleMoveStart .. | .granuleMoveEnd .. | .contestPinEnd .. | .moveRetry ..
  | .moveRetryLimit .. | .foreignPeerTimeout .. | .turnStart .. | .turnEnd .. | .tideExpired ..
  | .windowPacketArrival .. | .meterIdle .. | .probeArrival .. | .probeSuccess .. | .probeFail ..
  | .circuitDataArrival .. | .markedPacketArrival .. | .tokenArrival .. | .circuitIdle .. | .demotionMarkArrival ..
  | .circuitBreak .. | .teardownReported .. | .holdExpiry .. | .leaseExpiry .. | .fallbackDone .. | .linkFailure ..
  | .linkRetrain .. | .multicastForward .. | .collectiveContribution .. | .rackTokenArrival .. | .caskArrival ..
  | .rotaReopen .. | .failureMarkArrival .. | .engineCommandStart .. | .engineCommandComplete .. | .dieReset ..
  | .dieResetTimeout .. | .linkFlitError .. | .fabricFlitError .. | .clockThrottle .. | .shutdown
  | .deviceReset | .firmwareLoad .. | .attestation .. | .lifeCycleChange .. | .abortreq .. | .rrqctlWrite ..
  | .rrqctlRead .. | .sidebandResetRequest | .registerWrite .. | .hostLinkRequest .. | .dieReturnsToService ..
  | .caskConsumed .. => none

/-- The words of an instruction, its first word first (R205); an event has none. -/
def encode (i : Instr) : List Nat :=
  match encodeWord i with
  | some (w, some l) => [w, l]
  | some (w, none) => [w]
  | none => []

/-- The words as the hardware stores them, each little-endian, the first at the lowest address (R205). -/
def encodeBytes (i : Instr) : List Byte := (encode i).flatMap (leBytes 4)

end Sys2Proof
end

