-- ==== Sys2Proof/Config.lean ====
section
/-!
DEFINITION. What an implementation fixes and the free values. A free value is an opaque constant with no body, applied to a
plain counter of State or to the operands it depends on; nothing in Lean can evaluate it.
-/
namespace Sys2Proof.Config

/-- Ticks of wall time in a microsecond: every isle clock from 800 MHz down to 400 MHz in steps of 50 MHz (R4, R407) has a
whole number of ticks per period. DESIGN CHOICE (log 2). -/
def ticksPerUs : Nat := 36036000

/-- A free word: the value of a register of a counter block whose layout the spec does not give (R397, R407; log 20). -/
opaque freeWord : Nat → Word

/-- A byte of a structure of this device in a granule that is lent, as its holder gives it at a time: outside memory (R144; log 64). -/
opaque outsideByte : Nat → Nat → Byte

/-- Which counter stands in an 8-byte register of the counter blocks, by its offset / 8; none for one this model does not drive
(R397, R407; log 20). -/
opaque counterAt : Nat → Option Nat

/-- The place on its V-die's mesh, y × 8 + x, of the router of a fabric port, and of the router of a V-V link of R357 on one of its dies
(R153; log 59). -/
opaque portRouter : Nat → BitVec 5
opaque linkRouter : Nat → Nat → BitVec 5

/-- Whether a line that was modified and not flushed had reached its vault when a die reset began (R389; log 23). -/
opaque lineLost : Nat → Nat → Bool

/-- The SHAKE256 digest, 64 bytes, of an image or key (R403, R404; log 24). -/
opaque shake256 : List Byte → List Byte

/-- Whether a Falcon-1024 signature over a digest verifies against the fused vendor key (R403; log 24). -/
opaque falconVerifies : List Byte → List Byte → Bool

/-- The Falcon-1024 signature by the device identity key over a digest (R404; log 24). -/
opaque falconSign : List Byte → List Byte

/-- The code of a life-cycle state in a report, by its row in the table of R405: the spec gives none (log 24). -/
opaque lifeCycleCode : Nat → BitVec 16

/-- SHAKE256 digest of the identity public key (R404; log 24). -/
opaque identityDigest : List Byte

end Sys2Proof.Config
end

