-- ==== Sys2Proof/Machine/Sparse.lean ====
section
/-!
DEFINITION. Sparse maps as plain data: a list of (key, value) pairs with keys strictly rising and no entry equal to the
default, so that equal maps are equal lists. Memories, register files and tiles are held in this form.
-/
namespace Sys2Proof.Sparse

/-- The value at key k: the listed one, or the default d where k is not listed. -/
def get {α : Type} (d : α) : List (Nat × α) → Nat → α
  | [], _ => d
  | (k', v) :: rest, k => if k' = k then v else get d rest k

/-- The map without key k. -/
def erase {α : Type} : List (Nat × α) → Nat → List (Nat × α)
  | [], _ => []
  | (k', v) :: rest, k => if k' = k then rest else (k', v) :: erase rest k

/-- The map with (k, v) listed at its place, whatever v is. -/
def insert {α : Type} : List (Nat × α) → Nat → α → List (Nat × α)
  | [], k, v => [(k, v)]
  | (k', v') :: rest, k, v =>
    if k < k' then (k, v) :: (k', v') :: rest
    else if k' = k then (k, v) :: rest
    else (k', v') :: insert rest k v

/-- The map that reads v at k and is m elsewhere, in canonical form: writing the default removes the entry. -/
def set {α : Type} [DecidableEq α] (d : α) (m : List (Nat × α)) (k : Nat) (v : α) : List (Nat × α) :=
  if v = d then erase m k else insert m k v

/-- Every key of the list is above b, the keys rise strictly, and no value is the default. -/
def wfAbove {α : Type} [DecidableEq α] (d : α) : Option Nat → List (Nat × α) → Bool
  | _, [] => true
  | b, (k, v) :: rest =>
    (match b with
      | none => true
      | some b => decide (b < k)) && decide (v ≠ d) && wfAbove d (some k) rest

/-- The canonical form. -/
def wf {α : Type} [DecidableEq α] (d : α) (m : List (Nat × α)) : Bool := wfAbove d none m

/-- Sets a list of (key, value) pairs, the later ones over the earlier ones. -/
def setAll {α : Type} [DecidableEq α] (d : α) : List (Nat × α) → List (Nat × α) → List (Nat × α)
  | m, [] => m
  | m, (k, v) :: rest => setAll d (set d m k v) rest

end Sys2Proof.Sparse
end

