-- ==== Sys2Proof/Machine/Assoc.lean ====
section
/-!
DEFINITION. Keyed lists of records without a default: keys strictly rising, so equal tables are equal lists.
-/
namespace Sys2Proof.Assoc

/-- The record at key k. -/
def find {α : Type} : List (Nat × α) → Nat → Option α
  | [], _ => none
  | (k', v) :: rest, k => if k' = k then some v else find rest k

/-- The table with the record at k replaced or added. -/
def put {α : Type} (t : List (Nat × α)) (k : Nat) (v : α) : List (Nat × α) := Sparse.insert t k v

/-- The table without key k. -/
def del {α : Type} (t : List (Nat × α)) (k : Nat) : List (Nat × α) := Sparse.erase t k

/-- The table with f applied to the record at k, if there is one. -/
def upd {α : Type} (t : List (Nat × α)) (k : Nat) (f : α → α) : List (Nat × α) :=
  t.map (fun p => if p.1 = k then (k, f p.2) else p)

/-- The keys, rising. -/
def keys {α : Type} (t : List (Nat × α)) : List Nat := t.map (fun p => p.1)

end Sys2Proof.Assoc
end

