-- ==== Sys2Proof/Machine/State.lean ====
section
/-!
DEFINITION. The state of the Fletrivia Y8 as plain data: everything spec/ gives the machine, and State.reset.
Maps are sparse lists (Machine/Sparse.lean) with keys strictly rising; an unlisted key reads as the default named beside it.
Wall time is in ticks (Config.ticksPerUs).
-/
namespace Sys2Proof.Machine

/-- Why a step stops with a fault. -/
inductive Fault
  /-- An instruction word is executed where no live context stands at its turn to issue. Raised by every word's meaning
  through `runWord`; it stops where the hardware has nothing that could execute a word. Safe. -/
  | noContext
  deriving DecidableEq, Repr

/-- Why a step has no meaning. -/
inductive Refusal
  /-- The instruction has no meaning in this model yet. Raised by Dispatch.lean alone. Safe. -/
  | notModelled (mnemonic : String)
  deriving DecidableEq, Repr

/-! ## Memory targets and accesses -/

/-- ORD of a segment (R113). -/
inductive Ord
  | so | rc | un
  deriving DecidableEq, Repr

/-- APL of a segment (R113). -/
inductive Apl
  | near | mem | host
  deriving DecidableEq, Repr

/-- A segment-table entry with V = 1 as the device read it (R113); bad: malformed (R114). -/
structure Seg where
  vabase : Nat
  log2sz : Nat
  resid : Bool
  apl : Apl
  ord : Ord
  x : Bool
  w : Bool
  r : Bool
  rem : Bool
  peer : Nat
  lbase : Nat
  hbase : Nat
  resoff : Nat
  bad : Bool
  deriving DecidableEq, Repr

/-- What an address names (R104, R105, R110, R115). -/
inductive Tgt
  /-- DRAM byte, by its local-view address (R105). -/
  | dram (pa : Nat)
  /-- Weight-store byte, by its local physical address (R104). -/
  | ws (pa : Nat)
  /-- Scratchpad window of an isle (R107). -/
  | spad (isle : Nat) (off : Nat)
  /-- Own scratchpad window (R107). -/
  | own (off : Nat)
  /-- Message window (R108, R157). -/
  | msgwin (isle : Nat) (win : Nat) (off : Nat)
  /-- MMIO offset (R397). -/
  | mmio (off : Nat)
  /-- Host bus address (R115). -/
  | host (addr : Nat)
  /-- Local physical address at a peer (R110). -/
  | peer (p : Nat) (pa : Nat)
  /-- An unmapped local address (R109). -/
  | unmapped (pa : Nat)
  deriving DecidableEq, Repr

/-- Outcome of one element of an access (R290): delivered, non-resident, refused with the nibble of R374, poisoned. -/
inductive Status
  | ok | nonres | refused (step : BitVec 4) | poison
  deriving DecidableEq, Repr

/-- One element of an access: a scalar, or one lane of a vector access (R277), or one part cut at a boundary (R131, R141). -/
structure Part where
  lane : Nat
  va : Word
  tgt : Tgt
  len : Nat
  ord : Ord
  /-- Placement of an atomic (R122). -/
  apl : Apl
  /-- When its request left for an outside home; none while it has not. The model's own (R142, R155, R177). -/
  sent : Option Nat
  /-- Store data or atomic operand; for CAS the compare value. -/
  x : Nat
  /-- New value of CAS. -/
  y : Nat
  done : Bool
  res : Nat
  st : Status
  deriving DecidableEq, Repr

/-- What an access does. -/
inductive AccKind
  | load | fetch | tld
  | store | amo (fn : AmoFn) | cas | red (fn : AmoFn)
  | cflush
  /-- A window packet (R157): its flow and cursor. -/
  | packet (f : Flow) (cursor : Nat)
  /-- A packet of the fallback of handle h (R167). -/
  | fallback (f : Flow) (cursor : Nat) (h : Nat)
  /-- The packet read of LAUNCH, or a QTAIL (R313, R314). -/
  | tail
  /-- The slot write of a LAUNCH to queue q, before its TAIL write (R313). -/
  | slot (q : Nat)
  /-- The zero-length read of a FENCE on the host link (R139). -/
  | hostFence
  /-- DRAM-space bytes that engine command cmd reads from outside (R323). -/
  | engRead (cmd : Nat)
  /-- DRAM-space bytes that engine command cmd writes where they are not performed at once (R328). -/
  | engWrite (cmd : Nat)
  /-- An element update of SCADD command cmd; lane is its column, y its row (R340). -/
  | engAmo (cmd : Nat) (fn : AmoFn)
  /-- A line of a claimed speculation's cellar (R100). -/
  | commit
  /-- A contribution of collective command cmd (R362). -/
  | contrib (cmd : Nat)
  deriving DecidableEq, Repr

/-- Negative acknowledgement of a request to a moving granule (R145): first attempt, next attempt, current backoff. -/
structure Nack where
  first : Nat
  next : Nat
  backoff : Nat
  deriving DecidableEq, Repr

/-- An access that is not yet performed everywhere, in issue order of ids (R126, R129). -/
structure Access where
  id : Nat
  isle : Nat
  uid : Nat
  launch : Nat
  ctx : Ctx
  /-- Instance rank and class of record entries (R378). -/
  rank : Nat
  pc : Word
  kind : AccKind
  parts : List Part
  acq : Bool
  /-- Performed at its home (R126). -/
  atHome : Bool
  /-- V-dies on which a performed store is visible (R132). -/
  vis : BitVec 8
  nack : Option Nack
  /-- Hand-off bounds of R136 at issue: ids of L, C and S below which scratchpad accesses come first. -/
  after : Nat × Nat × Nat
  deriving DecidableEq, Repr

/-- A store performed at its home and not yet visible on every die (R132); versions stand in coherence order (R128). -/
structure Version where
  acc : Nat
  vis : BitVec 8
  cells : List (Nat × Byte)
  deriving DecidableEq, Repr

/-! ## Contexts -/

/-- Why a context did not issue (R65, R289). -/
inductive Block
  | none
  | queue (q : Nat)
  /-- The slip window has no room for this many words (R44). -/
  | slip (need : Nat)
  | interlock
  | landingBuffer
  | engineQueue
  | wait
  | barrier
  | waitvis
  | refill
  | specStop
  | order
  | foreignLimit
  | fetch
  deriving DecidableEq, Repr

/-- A context's own state (R35, R43, R242, R305). -/
structure CtxState where
  /-- G1 to G23, default 0 (R35; start zero, R34). -/
  g : List (Nat × Word)
  /-- PC (R34). -/
  pc : Word
  /-- Walk position, zero at entry (R43). -/
  walk : Word
  /-- Return stack, newest first, at most seven (R242); empty at start. -/
  stack : List Word
  /-- Not yet exited (R41). -/
  live : Bool
  /-- Block cause (R65) and the vc in which it began. -/
  block : Block
  blockVc : Word
  /-- The count a WAIT read or popped (R330). -/
  waitCount : Option (BitVec 32)
  /-- A STEP has made its arrival (R308). -/
  stepped : Bool
  /-- A FENCE has begun its zero-length read of the host link (R139). -/
  fenced : Bool
  /-- The context has written to the host link, by itself or through commands it observed (R139). -/
  hostWr : Bool
  /-- Lag per barrier id, default 0 (R305). -/
  lag : List (Nat × BitVec 16)
  /-- Stores and commands observed and not yet performed everywhere (R130, R133). -/
  observed : List Nat
  /-- Ids of L, C, S below which scratchpad accesses come before this context's later ones (R136). -/
  after : Nat × Nat × Nat
  /-- The words fetched from outside this device's memories from an address on (R206). -/
  fetched : Option (Word × List (Nat × Status))
  deriving DecidableEq, Repr

/-- One entry of a queue register (R46, R48): data none while reserved by the access tag; by and bound carry R136. -/
structure QEnt where
  data : Option Word
  tag : Nat
  by_ : Ctx
  bound : Nat
  deriving DecidableEq, Repr

/-- A queue register: entries at the start of the vc less pops, pops and pushes of this vc (R46, R227). -/
structure Fifo where
  ents : List QEnt
  popped : Nat
  pushes : List QEnt
  deriving DecidableEq, Repr

/-! ## Results on their way -/

/-- System registers that SWR and instructions write (R248). -/
inductive SysDst
  | win | tmode | fexSet | fexOr | mflagsClear | eccClear | mwsel
  /-- MWCFG and MWCUR of the window selected when the SWR issued (R249). -/
  | mwcfg (w : Nat) | mwcur (w : Nat)
  deriving DecidableEq, Repr

/-- A destination of a fixed-latency result. -/
inductive WbDst
  | g (c : Ctx) (n : Nat)
  | v (n : Nat) (lane : Nat)
  | m (n : Nat)
  | t (n : Nat)
  | sys (d : SysDst)
  deriving DecidableEq, Repr

/-- A fixed-latency result written at vc u, visible from u + 1 (R52); ctx is the issuing context. -/
structure Wb where
  ctx : Ctx
  dst : WbDst
  val : BitVec 256
  deriving DecidableEq, Repr

/-- Destination of a landing (R54). -/
inductive LandDst
  | discard
  | g (c : Ctx) (n : Nat) (sx : Nat)
  | v (n : Nat)
  | q (n : Nat) (sx : Nat)
  | t (n : Nat)
  deriving DecidableEq, Repr

/-- A landing request or landing-buffer entry (R51, R54, R281). -/
structure Req where
  /-- The access that brings the data. -/
  id : Nat
  pc : Word
  ctx : Ctx
  dst : LandDst
  /-- The flag mask, 0 for none (R120). -/
  mask : Nat
  /-- 0: interlocked; else the vc of landing (R51). -/
  timed : Bool
  due : Word
  /-- Issue vc (R52). -/
  issued : Word
  arrived : Bool
  /-- Elements (lane, value) and, per lane, a failure. -/
  data : List (Nat × Nat)
  fails : List (Nat × Status)
  /-- POISON detail of R374, and the virtual address of the lowest poisoned element once the data has come (R378). -/
  poisonDetail : Nat
  va : Word
  deriving DecidableEq, Repr

/-! ## Engines -/

/-- Progress of a command. -/
inductive Phase
  | queued
  | running
  /-- COPEN waits for its probe (R351). -/
  | probing
  /-- CSEND streams [from, to) of the handle's range (R353). -/
  | streaming (frm : Nat) (upTo : Nat)
  /-- A tide request is pending or turning at its link (R150). -/
  | pending
  /-- A collective gathers contributions (R360). -/
  | gathering
  /-- A rotation (R365). -/
  | rotating
  /-- Every row is done; writes await their acknowledgement (R328). -/
  | writing
  /-- Finished, to be counted in queue order (R328). -/
  | finished
  deriving DecidableEq, Repr

/-- Progress of a rotation (R365, R366). -/
structure Ring where
  /-- Casks consumed, casks sent, sends acknowledged, casks received. -/
  consumed : Nat
  sent : Nat
  acked : Nat
  received : Nat
  /-- Free tokens of the downstream racks held (R173). -/
  tokens : Nat
  /-- Free tokens returned upstream. -/
  returned : Nat
  /-- The downstream circuit is open; reopening probes made since it broke, and when it broke or the last of them was made. -/
  up : Bool
  probes : Nat
  tried : Nat
  /-- Bytes of the casks sent that are acknowledged, in all (R366). -/
  ackOff : Nat
  /-- Effective PREEMPTIBLE of the circuit (R365). -/
  pre : Bool
  /-- The circuit's first probe has left (R365, R370). -/
  asked : Bool
  deriving DecidableEq, Repr

/-- The ring of a command that has not started. -/
def Ring.start : Ring := ⟨0, 0, 0, 0, 0, 0, false, 0, 0, 0, false, false⟩

/-- MXM.RB's latch (R336): B descriptor, B element patterns and scales as read, B's span in its space, and the indices of elements
and scales whose latched value is uncorrectable (R343). -/
structure Latch where
  desc : BitVec 256
  elems : List Nat
  scales : List Nat
  space : Nat
  lo : Nat
  hi : Nat
  bad : List Nat
  deriving DecidableEq, Repr

/-- An engine command with everything it snapshotted at issue (R327). -/
structure Cmd where
  /-- Number in the order of issue, shared with access ids (R334). -/
  id : Nat
  pc : Word
  word : Instr
  /-- Descriptors named, in field order (R320). -/
  ds : List (BitVec 256)
  gx : Word
  gy : Word
  /-- ROTA's parameter block (R363). -/
  block : List Byte
  /-- Scratchpad footprints for the range checker, [first, last], less the bytes whose accesses are performed (R333, R334). -/
  reads : List (Nat × Nat)
  writes : List (Nat × Nat)
  phase : Phase
  /-- Rows done (R332), and the indices read (R340). -/
  rows : Nat
  idx : List (Option Int)
  ring : Ring
  /-- Contributions received (R361). -/
  contribs : List Contribution
  /-- Lines whose transfer for this command was lost on a link: local physical address / 64, and whether it was written (R390). -/
  lost : List (Nat × Bool)
  /-- TIDE_ST value of a completed tide request (R150, R151). -/
  res : Word
  after : Nat × Nat × Nat
  /-- Parts read from outside (R323). -/
  got : List Part
  /-- Stores its reads observed that were not performed everywhere (R133). -/
  obs : List Nat
  /-- The latched operand that MXM.RB found valid at its start (R336). -/
  latched : Option Latch
  deriving DecidableEq, Repr

/-- STATE of a circuit handle (R166). -/
inductive HStateKind
  | closed | opening | opened | broken | fallback | failed
  deriving DecidableEq, Repr

/-- A circuit handle H0 to H7 (R166). -/
structure Handle where
  st : HStateKind
  cause : BitVec 4
  autofb : Bool
  prio : BitVec 3
  pre : Bool
  peer : BitVec 12
  isle : BitVec 8
  label : BitVec 8
  lbase : BitVec 22
  rbase : BitVec 22
  len : BitVec 23
  ackoff : BitVec 23
  sentoff : BitVec 23
  /-- Lease end in ticks (R164, R352). -/
  leaseEnd : Nat
  deriving DecidableEq, Repr

/-- A handle in the state of R34: closed. -/
def Handle.closed : Handle :=
  ⟨.closed, 0, false, 0, false, 0, 0, 0, 0, 0, 0, 0, 0, 0⟩

/-- A message window (R156, R157): registers and the open packet. -/
structure MsgWin where
  en : Bool
  peer : BitVec 12
  isle : BitVec 8
  label : BitVec 8
  cursor : BitVec 22
  /-- CURSOR at the start of the vc, as SRD reads it (R247). -/
  shown : BitVec 22
  /-- Open packet: its length so far; 0 when none is open. -/
  len : Nat
  /-- Payload bytes written, default 0. -/
  payload : List (Nat × Byte)
  deriving DecidableEq, Repr

def MsgWin.start : MsgWin := ⟨false, 0, 0, 0, 0, 0, 0, []⟩

/-! ## Instances -/

/-- Where an instance stands (R78, R92, R107, R376). -/
inductive Life
  | running
  /-- Being saved (R92). -/
  | saving
  /-- Retired, its engines and landings draining (R78). -/
  | retired
  /-- Stopped (R376). -/
  | stopped
  /-- Its speculation was discarded (R101). -/
  | discarded
  deriving DecidableEq, Repr

/-- The declared counts of the kernel header (R61, R63). -/
structure Counts where
  gregs : Nat
  vregs : Nat
  spad : Nat
  bars : Nat
  tensors : Nat
  circuits : Nat
  deriving DecidableEq, Repr

/-- An instance on an isle, or saved (R32, R34, R93). -/
structure Inst where
  /-- Number of the instance, unique. -/
  uid : Nat
  launch : Nat
  /-- RANK (R33). -/
  rank : Nat
  /-- Class code of the isle of first dispatch (R27). -/
  cls : BitVec 2
  counts : Counts
  /-- Contexts L, C, S (R35). -/
  ctxL : CtxState
  ctxC : CtxState
  ctxS : CtxState
  /-- Q0 to Q7 (R46); empty at start. -/
  qs : List Fifo
  /-- V0 to V31: key 64 n + lane, default 0 (R257). -/
  v : List (Nat × BitVec 32)
  /-- M1 to M7, default 0 (R34). -/
  m : List (Nat × Word)
  /-- T0 to T63, default the invalid descriptor 0 (R320). -/
  t : List (Nat × BitVec 256)
  /-- H0 to H7, default closed (R166). -/
  h : List (Nat × Handle)
  /-- ACC0 to ACC7: key 16384 c + 128 i + j, default 0 (R18, R183). -/
  acc : List (Nat × BitVec 32)
  /-- Accumulator elements with an uncorrectable error, by the same key (R343, R381). -/
  accPoison : List (Nat × Bool)
  /-- Scratchpad by offset, default 0 (R34), and its poisoned words (R385). -/
  spad : List (Nat × Byte)
  spadPoison : List (Nat × Bool)
  /-- VCYC (R58). -/
  vcyc : Word
  /-- WIN (R45). -/
  win : BitVec 12
  /-- TMODE.MODE (R56). -/
  tmode : Bool
  /-- FEX (R195). -/
  fex : BitVec 5
  /-- MFLAGS (R121). -/
  mflags : BitVec 3
  /-- FLT_CAUSE, FLT_PC, FLT_ADDR (R380). -/
  fltCause : Word
  fltPc : Word
  fltAddr : Word
  /-- ECC_LOG (R381). -/
  eccLog : Word
  /-- CNT_MX, CNT_CP, CNT_AT, CNT_CL, CNT_CI, CNT_TD (R329). -/
  cntMx : BitVec 32
  cntCp : BitVec 32
  cntAt : BitVec 32
  cntCl : BitVec 32
  cntCi : BitVec 32
  cntTd : BitVec 32
  /-- TIDE_ST (R151). -/
  tideSt : Word
  /-- MWSEL (R156) and the 16 message windows (default MsgWin.start). -/
  mwsel : BitVec 4
  wins : List (Nat × MsgWin)
  /-- ARR per barrier id, default 0 (R305). -/
  arr : List (Nat × BitVec 16)
  /-- Has executed SUCC (R74, R310). -/
  succ : Bool
  /-- Fixed-latency results of the current vc, in issue order (R52). -/
  wb : List Wb
  /-- Landing requests in issue order (R54). -/
  reqs : List Req
  /-- Engine commands not yet counted, in issue order (R327). -/
  cmds : List Cmd
  latch : Option Latch
  /-- Stores that the reads of counted commands observed, by engine (R133). -/
  engObs : List (Engine × Nat)
  /-- A command of the instance has written to the host link (R139). -/
  engHost : Bool
  /-- DOWN, UP and LABEL of the rotations that have completed or failed here (R366, R370). -/
  rotaDone : List (Nat × Nat × Nat)
  /-- Frozen since (R55). -/
  frozen : Option Nat
  /-- Scratchpad pages in refill after a resumption (R59). -/
  refill : List Nat
  life : Life
  /-- Time of dispatch or last resumption (R91). -/
  since : Nat
  /-- Backing-pool pages held (R401). -/
  pool : Nat
  /-- Class and slot data of a save: save-pool base and slot number (R85). -/
  slotBase : Nat
  slotNo : Nat
  /-- The isle that a resumption of this saved instance has taken, while it drains (R75). -/
  goes : Option Nat
  deriving DecidableEq, Repr

/-! ## Launches and queues -/

/-- Effective budgets of one block (R81, R82): isles of each class, scratchpad pages, circuit handles. -/
structure Budget where
  max : List Nat
  spad : Nat
  circ : Nat
  deriving DecidableEq, Repr

/-- Effective region values held for the life of a launch, with the budgets of every block of its chain (R82, R86, R88). -/
structure Eff where
  prio : Nat
  preemptible : Bool
  tideright : Bool
  frzlim : Nat
  budgets : List Budget
  cellarq : Nat
  segtab : Nat
  part : Nat
  resmap : Nat
  saveBase : Nat
  saveN : Nat
  deriving DecidableEq, Repr

/-- The partition snapshot of a launch (R111): VALID and FOREIGN as 4096-bit maps. -/
structure Partition where
  pa : Nat
  valid : Nat
  foreign : Nat
  selfValid : Bool
  self : Nat
  tenant : Nat
  deriving DecidableEq, Repr

/-- The predictor key of a launch (R95). -/
structure Key where
  kaddr : Nat
  rcb : Nat
  masked : Bool
  sel : Nat
  arglen : Nat
  hash : Nat
  deriving DecidableEq, Repr

/-- A launch that is live, or waits in a queue after its header was read (R71, R84). -/
structure Launch where
  id : Nat
  vf : Nat
  q : Nat
  /-- The 64 packet bytes (R71), the header snapshot (R62), the isle mask as a number, the argument block (R76). -/
  packet : List Byte
  header : List Byte
  mask : Nat
  args : List Byte
  key : Key
  /-- Block addresses from the launch's region to the root (R87). -/
  chain : List Nat
  /-- The fault domains among those blocks at its dispatch, its own first (R84, R383). -/
  doms : List Nat
  eff : Eff
  segs : List Seg
  part : Partition
  isles : List Nat
  /-- DONE per barrier id, default 0 (R305). -/
  done : List (Nat × BitVec 16)
  /-- P of R74. -/
  pred : Option Nat
  /-- Speculative (R97); the commit of a claim is under way (R100). -/
  spec : Bool
  claiming : Bool
  /-- Every instance has exited in all contexts or stopped (R78). -/
  retired : Bool
  /-- An instance took a precise trap; the others stop in the next clock (R375). -/
  trapped : Bool
  /-- STATUS bits due (R79). -/
  status : Nat
  /-- Cellar bytes and read-set pages of a speculation (R98); start time (R99). -/
  cellar : List (Nat × Option Byte)
  readset : List Nat
  since : Nat
  deriving DecidableEq, Repr

/-- One entry of a queue's predictor history (R96). -/
structure Hist where
  prev : Key
  next : Key
  packet : List Byte
  args : List Byte
  header : List Byte
  mask : Nat
  count : Nat
  deriving DecidableEq, Repr

/-- A waiting FENCE: pairs not yet satisfied (virtual address, target, value), and the last read (R72). -/
structure FenceWait where
  pairs : List (Nat × Tgt × Word)
  lastRead : Nat
  deriving DecidableEq, Repr

/-- A SIGNAL at the head of its queue (R73). -/
structure SignalWait where
  tgt : Tgt
  value : Word
  settled : Bool
  part : Partition
  /-- The request for the addition has left, and is not answered. -/
  sent : Bool
  deriving DecidableEq, Repr

/-- ERR of QHEAD (R67). -/
inductive QErr
  | none | badpkt | overflow | badqueue | badaddr
  deriving DecidableEq, Repr

/-- A hardware queue (R67 to R73, R96 to R102). -/
structure HwQueue where
  /-- QBASE and QCFG as written (R67). -/
  base : Word
  rcb : Nat
  en : Bool
  logsz : Nat
  head : BitVec 32
  tail : BitVec 32
  stopped : Bool
  err : QErr
  /-- The LAUNCH most recently dispatched since enable, and its key (R74). -/
  last : Option Nat
  lastKey : Option Key
  /-- Launches parsed since enable that have not settled (R73). -/
  unsettled : List Nat
  /-- A LAUNCH at the head, judged and not yet dispatched (R70). -/
  held : Option Launch
  fence : Option FenceWait
  /-- A SIGNAL at the head: counter address and addend, waiting for SETTLED (R73). -/
  signal : Option SignalWait
  /-- Predictor history, most recent first, at most 16 (R96). -/
  history : List Hist
  /-- The speculation of this queue, by launch id (R97). -/
  spec : Option Nat
  /-- Look for a prediction for this key (R97). -/
  want : Option Key
  /-- Host writes of TAIL that wait while a LAUNCH makes its append (R313). -/
  tails : List (BitVec 32)
  deriving DecidableEq, Repr

/-- A queue as reset leaves it (R67). -/
def HwQueue.reset : HwQueue :=
  ⟨0, 0, false, 0, 0, 0, false, .none, none, none, [], none, none, none, [], none, none, []⟩

/-- A virtual function's page and counters (R103, R396, R399). -/
structure Vf where
  queues : List (Nat × HwQueue)
  rootrcb : Nat
  poolbase : Nat
  poolsize : Nat
  rrqbase : Nat
  rrqDrops : Nat
  rrqTail : Nat
  rrqHead : Nat
  rrqLogsz : Nat
  fail : Bool
  aborting : Bool
  predHit : Word
  predMiss : Word
  predDoom : Word
  deriving DecidableEq, Repr

/-- A virtual function as reset leaves it (R399). -/
def Vf.reset : Vf := ⟨[], 0, 0, 0, 0, 0, 0, 0, 0, false, false, 0, 0, 0⟩

/-! ## Links, flows, fabric -/

/-- A pending tide request (R150). -/
structure TideReq where
  isle : Nat
  uid : Nat
  cmd : Nat
  region : Nat
  wanted : Nat
  prio : Nat
  entered : Nat
  deriving DecidableEq, Repr

/-- A die-to-die link (R148 to R150): 0 to 7 V-M by stack group, 8 to 17 V-V links 1 to 10 (R357). -/
structure Link where
  /-- Bundles in the V to M, or forward, direction. -/
  split : Nat
  pending : List TideReq
  /-- The turn under way: the granted request, its split, and when its bundles carry traffic again. -/
  turning : Option (TideReq × Nat × Nat)
  /-- End of the previous turn; starts of recent turns. -/
  lastEnd : Option Nat
  starts : List Nat
  deriving DecidableEq, Repr

/-- Sender state of a meter entry (R162). -/
inductive MeterSt
  | pkt | probe | circ
  /-- Waiting for the final token after a demotion mark. -/
  | demoting
  /-- Waiting for the teardown report after a break. -/
  | breaking
  | hold
  deriving DecidableEq, Repr

/-- A packet held or on a circuit at the metering port (R162, R372): access id, cursor, bytes. -/
structure SentPacket where
  acc : Nat
  cursor : Nat
  data : List Byte
  deriving DecidableEq, Repr

/-- A flow-meter entry (R160, R162); the entries of a port stand most recently used first. -/
structure Meter where
  port : Nat
  flow : Flow
  /-- Peer of the source partition and instance of the sender. -/
  uid : Nat
  count : Nat
  endOff : Nat
  st : MeterSt
  lastSend : Nat
  /-- Acknowledged offset A of the circuit. -/
  acked : Nat
  /-- Packets whose payload is on the circuit and not acknowledged. -/
  onCircuit : List SentPacket
  /-- Packets closed since the break, or waiting for a final token. -/
  waiting : List SentPacket
  /-- Time of the last change of state. -/
  since : Nat
  deriving DecidableEq, Repr

/-- Receiver side of a promoted circuit (R163); the flow's peer names the source. -/
structure Receiver where
  flow : Flow
  /-- The offset O of the marked packet once it has come (state CIRC). -/
  mark : Option Nat
  /-- Data held before the marked packet (offset, bytes), and packets held behind it. -/
  held : List (Nat × List Byte)
  packets : List (Nat × List Byte)
  /-- Offset reached and offset of the last token. -/
  reached : Nat
  token : Nat
  deriving DecidableEq, Repr

/-- The receiving side of a strait (R165): the sender's flow with the source as its peer, the sender's handle, and the scratchpad offset of
the last token, or of the first byte of the stream; none before it. -/
structure Strait where
  flow : Flow
  h : Nat
  token : Option Nat
  deriving DecidableEq, Repr

/-- A crosspoint of this device (R161): the output of a mesh router in direction 0 +x, 1 -x, 2 +y, 3 -y; the near or far end of a V-V link
of R357 in direction 0 forward, 1 back; a fabric port, inward or outward. -/
inductive Xpt
  | router (isle : Nat) (dir : Nat)
  | link (l : Nat) (dir : Nat) (far : Bool)
  | port (p : Nat) (out : Bool)
  deriving DecidableEq, Repr

/-- A message of this device to itself, with the event it stands for when it arrives; bytes that a stopped circuit carries stand here too
(R163). -/
inductive Loop
  /-- PROBE_ARRIVAL. -/
  | probe (p : Probe)
  /-- PROBE_SUCCESS and PROBE_FAIL, with the backtracks. -/
  | found (f : Flow) (backtracks : Nat)
  | failed (f : Flow) (backtracks : Nat)
  /-- CIRCUIT_DATA_ARRIVAL. -/
  | data (d : CircuitData)
  /-- MARKED_PACKET_ARRIVAL. -/
  | marked (f : Flow) (off : Nat)
  /-- DEMOTION_MARK_ARRIVAL. -/
  | demotion (f : Flow)
  /-- TOKEN_ARRIVAL. -/
  | token (c : CircuitRef) (off : Nat)
  /-- CIRCUIT_BREAK. -/
  | broken (c : CircuitRef) (cause : BitVec 4)
  /-- TEARDOWN_REPORTED. -/
  | torn (f : Flow)
  deriving DecidableEq, Repr

/-- A reserved crosspoint (R161): the circuit or probe that holds it, with what R169 asks of it. -/
structure Xhold where
  xpt : Xpt
  circ : CircuitRef
  prio : Nat
  pre : Bool
  deriving DecidableEq, Repr

/-- An ingress window table entry (R140). -/
structure IngressEntry where
  src : Nat
  tenant : Nat
  lbase : Nat
  logsz : Nat
  r : Bool
  w : Bool
  a : Bool
  gen : Nat
  opened : Bool
  deriving DecidableEq, Repr

/-- An unused entry of the ingress window table. -/
def IngressEntry.unused : IngressEntry := ⟨0, 0, 0, 0, false, false, false, 0, false⟩

/-- Placement of a granule at its home (R144). -/
inductive Placement
  | home | moving | lent
  deriving DecidableEq, Repr

/-- A granule of this device that is not plainly HOME, or has been moved lately (R144 to R146). -/
structure Granule where
  place : Placement
  /-- Holder before the move, and the one it moves to. -/
  holder : Option Nat
  target : Option Nat
  /-- Requests held during the move, oldest first (R145): accesses by id, or arrived requests. -/
  held : List (Nat ⊕ IngressReq)
  /-- Flows that were negatively acknowledged, each with the first request turned away (R145). -/
  nacked : List ((Nat × Nat) × (Nat ⊕ IngressReq))
  /-- Times at which the moves in the current window completed (R146), and the end of a pin. -/
  moves : List Nat
  pin : Option Nat
  deriving DecidableEq, Repr

/-- A plain HOME granule. -/
def Granule.atHome : Granule := ⟨.home, none, none, [], [], [], none⟩

/-- A guest entry at the holder (R144): home peer, granule there, local backing. -/
structure Guest where
  home : Nat
  granule : Nat
  backing : Nat
  deriving DecidableEq, Repr

/-- A foreign peer of a partition (R177). -/
structure Foreign where
  part : Nat
  peer : Nat
  limit : Nat
  timeout : Nat
  reachable : Bool
  deriving DecidableEq, Repr

/-- A role of a fabric port (R170). -/
inductive PortRole
  | unused
  | row (c : Nat)
  | col (r : Nat)
  | ualink
  deriving DecidableEq, Repr

/-- A fabric port (R155, R160, R170). -/
structure Port where
  role : PortRole
  /-- PROMO_THR in bytes; 0 disables promotion. -/
  promoThr : Nat
  failed : Bool
  deriving DecidableEq, Repr

/-- A fabric port as reset leaves it (log 4). -/
def Port.reset : Port := ⟨.unused, 0, false⟩

/-- A multicast tree entry (R171), as its 32 bytes read as a number; 0 is an entry that is not VALID. -/
abbrev TreeEntry := BitVec 256

/-! ## What the device sends outside -/

/-- Messages to the outside, newest last. -/
inductive Out
  /-- A fabric request of one part of an access or command (R111, R141). -/
  | request (id : Nat) (part : Nat) (peer : Nat) (tenant : Nat) (gen : Nat) (addr : Nat) (label : Nat) (kind : ReqKind)
  /-- A request that the home of a lent granule sends on to its holder (R144). -/
  | forward (holder : Nat) (r : IngressReq)
  /-- A host-link request; ro: the Relaxed Ordering attribute (R139). -/
  | hostRequest (id : Nat) (part : Nat) (addr : Nat) (ro : Bool) (kind : ReqKind)
  /-- The zero-length read of a FENCE (R139). -/
  | hostFence (isle : Nat)
  | response (src : Nat) (a : Answer) (value : Nat)
  | hostResponse (a : Answer) (value : Nat)
  | packet (p : WindowPacket)
  | marked (f : Flow) (off : Nat)
  | probe (p : Probe)
  /-- What becomes of a probe that reached this device (R161, R351, R366). -/
  | probeAnswer (dst : Nat) (f : Flow) (kind : CircKind) (accepted : Bool) (backtracks : Nat)
  | circuitData (d : CircuitData)
  | demotionMark (f : Flow)
  | token (dst : Nat) (f : Flow) (kind : CircKind) (off : Nat)
  | teardown (c : CircuitRef)
  | contribution (isle : Nat) (c : Contribution)
  | multicast (port : Nat) (tree : Nat) (tenant : Nat) (c : Contribution)
  /-- A rack token, with this device's own number (R370). -/
  | rackToken (isle : Nat) (fromPeer : Nat) (toPeer : Nat) (label : Nat)
  /-- Bytes of a cask from offset off on (R365, R366). -/
  | cask (isle : Nat) (toPeer : Nat) (label : Nat) (size : Nat) (n : Nat) (off : Nat) (data : List Byte)
  | failureMark (isle : Nat) (toPeer : Nat) (label : Nat)
  | msix (vf : Nat) (vector : Nat)
  | attestation (report : List Byte) (signature : List Byte)
  | attestationFailed
  | bootFailed
  deriving DecidableEq, Repr

/-- Boot state (R403). -/
inductive Boot
  | rom | running | bootfail
  deriving DecidableEq, Repr

/-- Whose turn it is. -/
inductive Turn
  /-- Between virtual cycles: events act. -/
  | clock
  /-- The start of the vc of an isle: landings become visible. -/
  | land (isle : Nat)
  /-- A context of an isle may issue. -/
  | issue (isle : Nat) (c : Ctx)
  /-- The end of the vc of an isle. -/
  | edge (isle : Nat)
  deriving DecidableEq, Repr

/-- A PMARK buffer entry (R407). -/
structure PmarkEntry where
  marker : BitVec 12
  ctx : Ctx
  isle : Nat
  vcyc : Word
  deriving DecidableEq, Repr

/-! ## The machine -/

/-- The whole machine. -/
structure State where
  /-- Wall time in ticks since reset (R10); 0 at reset. -/
  time : Nat
  /-- Isle clock in MHz, 800 at reset, lowered by throttling (R4, R407). -/
  mhz : Nat
  /-- Whose turn it is (R40); the model's own sequencing of R35 to R58. -/
  turn : Turn
  /-- Inputs of the outside and moments the spec leaves open: (time due, event). The model's own. -/
  agenda : List (Nat × Instr)
  /-- Counter that free values are applied to. The model's own. -/
  fresh : Nat
  /-- Next number of an access or command, of an instance, of a launch. The model's own. -/
  nextId : Nat
  nextUid : Nat
  nextLaunch : Nat
  /-- Boot state (R403) and the running firmware image. -/
  boot : Boot
  image : List Byte
  /-- Life-cycle state (R405). -/
  lifeCycle : LifeCycle
  /-- Device failure reported (R408). -/
  failed : Bool
  /-- POPMAP0-3, MXMAP0-3, VWMAP0-3 (R29). -/
  popmap : BitVec 256
  mxmap : BitVec 256
  vwmap : BitVec 256
  /-- DRAM by local-view address and weight store by local physical address (R104, R105); zero where not listed (R406). -/
  mem : List Host.Cell
  /-- Poisoned DRAM lines by address / 64, and poisoned weight-store words by address / 8 (R385). -/
  poison : List (Nat × Bool)
  poisonWs : List (Nat × Bool)
  /-- Lines written and not known to have reached their vault: 1 + isle whose L1 may hold it, 257 for L2 (R124, R389). -/
  dirty : List (Nat × Nat)
  /-- Accesses not yet performed everywhere, by rising id (R126). -/
  acc : List Access
  /-- Stores not yet visible on every die, in coherence order (R128, R132). -/
  versions : List Version
  /-- Instances on isles, by isle (R32). -/
  slots : List (Nat × Inst)
  /-- Saved instances, oldest save first (R92, R93). -/
  saved : List Inst
  /-- Live launches by id (R84). -/
  launches : List (Nat × Launch)
  /-- Virtual functions VF1 to VF64 (R396), default Vf.reset. -/
  vfs : List (Nat × Vf)
  /-- Deficit D per region block (R89), default 0. -/
  deficit : List (Nat × Int)
  /-- The order of R90: an isle has freed, or a save or resumption has ended, since it was evaluated last; the launches that were
  dispatchable then; an evaluation is under way; the levels whose deficits it has topped up. The model's own. -/
  freed : Bool
  offered : List Nat
  ordering : Bool
  topped : List Nat
  /-- An isle has freed since the predictors last looked (R97). The model's own. -/
  respec : Bool
  /-- Die-to-die links (R148). -/
  links : List (Nat × Link)
  /-- Flow meters (R160), most recently used first. -/
  meters : List Meter
  /-- Receiver sides of promoted circuits (R163) and of straits (R165). -/
  receivers : List Receiver
  straits : List Strait
  /-- Crosspoints that probes and circuits hold (R161). -/
  xpts : List Xhold
  /-- Messages of this device to itself, and bytes that stand on a stopped circuit (R163), oldest first. The model's own. -/
  loop : List Loop
  /-- Ingress window table (R140), default an unused entry. -/
  ingress : List (Nat × IngressEntry)
  /-- Granules of this device (R144), default HOME; guest entries. -/
  granules : List (Nat × Granule)
  guests : List Guest
  /-- MIG_CONTEST (R147). -/
  migContest : Word
  /-- Fabric presence bits (R112). -/
  presence : Nat
  /-- Fabric ports (R16, R170), default Port.reset. -/
  ports : List (Nat × Port)
  /-- FAB_TIMEOUT in µs (R155). -/
  fabTimeout : Nat
  /-- Foreign peers (R177). -/
  foreign : List Foreign
  /-- Multicast tree entries by tree id (R171), default 0. -/
  trees : List (Nat × TreeEntry)
  /-- Contributions that came before their command, by isle (R362). -/
  heldColl : List (Nat × Contribution)
  /-- Rack tokens that came before their ROTA: isle, sender, label (R370). -/
  heldTok : List (Nat × Nat × Nat)
  /-- DOWN, UP and LABEL of rotations that ended on an isle whose instance has left it since (R366, R370). -/
  rotaEnded : List (Nat × Nat × Nat × Nat)
  /-- Stack groups in reset, with the time the reset began (R388). -/
  dieDown : List (Nat × Nat)
  /-- Requests held for a die in reset, oldest first (R388). -/
  dieHeld : List IngressReq
  /-- PMARK buffers by stack group (R407). -/
  pmark : List (Nat × List PmarkEntry)
  /-- Counters of R407 that events drive: key 64 * block + counter, default 0. -/
  counters : List (Nat × Word)
  /-- What was sent outside, oldest first. -/
  out : List Out
  deriving DecidableEq, Repr

/-- A link as reset leaves it (R148): 20 of 24 bundles V to M, 8 of 16 forward. -/
def Link.reset (n : Nat) : Link := ⟨if n < 8 then 20 else 8, [], none, none, []⟩

/-- The links of R15 and R2, at their reset splits. -/
def resetLinks : List (Nat × Link) := (List.range 18).map (fun n => (n, Link.reset n))

/-- The machine right after reset: memories zero (R406), splits of R148, registers at the values their maps give; the fuse
maps and the firmware-held tables have the values of log 3 and log 4. -/
def State.reset : State where
  time := 0
  mhz := 800
  turn := .clock
  agenda := []
  fresh := 0
  nextId := 0
  nextUid := 0
  nextLaunch := 0
  boot := .rom
  image := []
  lifeCycle := .deployed
  failed := false
  popmap := BitVec.allOnes 256
  mxmap := BitVec.allOnes 256
  vwmap := BitVec.allOnes 256
  mem := []
  poison := []
  poisonWs := []
  dirty := []
  acc := []
  versions := []
  slots := []
  saved := []
  launches := []
  vfs := []
  deficit := []
  freed := false
  offered := []
  ordering := false
  topped := []
  respec := false
  links := resetLinks
  meters := []
  receivers := []
  straits := []
  xpts := []
  loop := []
  ingress := []
  granules := []
  guests := []
  migContest := 0
  presence := 0
  ports := []
  fabTimeout := 100
  foreign := []
  trees := []
  heldColl := []
  heldTok := []
  rotaEnded := []
  dieDown := []
  dieHeld := []
  pmark := []
  counters := []
  out := []

end Sys2Proof.Machine
end

