-- ==== Sys2Proof/Machine/Map.lean ====
section
/-!
DEFINITION. The address map (R20, R104 to R111), segment tables and translation (R113 to R119).
-/
namespace Sys2Proof.Machine

/-! ## The local physical map (R104) -/

def spreadBase : Nat := 0x0080_0000_0000
def wsBase : Nat := 0x0100_0000_0000
def spadBase : Nat := 0x0102_0000_0000
def ownBase : Nat := 0x0102_4000_0000
def msgBase : Nat := 0x0102_8000_0000
def mmioBase : Nat := 0x0103_0000_0000

/-- Local-view address of the byte that spread-view offset a names (R105). -/
def spreadToLocal (a : Nat) : Nat :=
  let vault := (field a 12 8) ^^^ (field a 20 8)
  vault * 2 ^ 31 + field a 20 19 * 2 ^ 12 + field a 0 12

/-- What a 45-bit local physical address names (R104). -/
def localTgt (pa : Nat) : Tgt :=
  if pa < spreadBase then .dram pa
  else if pa < wsBase then .dram (spreadToLocal (pa - spreadBase))
  else if pa < spadBase then .ws pa
  else if pa < spadBase + 0x4000_0000 then .spad (field (pa - spadBase) 22 8) (field (pa - spadBase) 0 22)
  else if ownBase ≤ pa ∧ pa < ownBase + 0x40_0000 then .own (pa - ownBase)
  else if msgBase ≤ pa ∧ pa < msgBase + 0x1000_0000 then
    .msgwin (field (pa - msgBase) 20 8) (field (pa - msgBase) 16 4) (field (pa - msgBase) 0 16)
  else if mmioBase ≤ pa ∧ pa < mmioBase + 0x1000_0000 then .mmio (pa - mmioBase)
  else .unmapped pa

/-- The range of R104 that an address lies in, by number; 7 to 9 are the unmapped ranges, 10 lies above the 45 bits. -/
def rangeOf (pa : Nat) : Nat :=
  if pa < spreadBase then 0
  else if pa < wsBase then 1
  else if pa < spadBase then 2
  else if pa < spadBase + 0x4000_0000 then 3
  else if pa < ownBase + 0x40_0000 then 4
  else if pa < msgBase then 7
  else if pa < msgBase + 0x1000_0000 then 5
  else if pa < mmioBase then 8
  else if pa < mmioBase + 0x1000_0000 then 6
  else if pa < 2 ^ 45 then 9
  else 10

/-- Vault of a local-view DRAM address (R20). -/
def vaultOf (pa : Nat) : Nat := field pa 31 8

/-- The isle whose slice holds a weight-store address (R20). -/
def wsIsle (pa : Nat) : Nat := 32 * field (pa - wsBase) 30 3 + field (pa - wsBase) 25 5

/-- The V-die of an isle (R17). -/
def dieOfIsle (k : Nat) : Nat := k / 32

/-- The V-die that counts for the multi-copy atomicity of a DRAM or weight-store address (R31, R132). -/
def homeDie (pa : Nat) : Nat := if pa < wsBase then vaultOf pa / 32 else wsIsle pa / 32

/-- The line of a local-view DRAM address (R105). -/
def lineOf (pa : Nat) : Nat := pa / 64

/-- The n bytes at a cut at every multiple of m: first byte and length of each piece. -/
def piecesOf (m : Nat) : Nat → Nat → Nat → List (Nat × Nat)
  | 0, _, _ => []
  | f + 1, a, n =>
    if n = 0 then [] else
      let z := Nat.min n (m - a % m)
      (a, z) :: piecesOf m f (a + z) (n - z)

/-! ## Isles and classes (R21, R29) -/

def populated (s : State) (k : Nat) : Bool := decide (k < 256) && s.popmap.getLsbD k
def hasMx (s : State) (k : Nat) : Bool := s.mxmap.getLsbD k
def isWide (s : State) (k : Nat) : Bool := s.vwmap.getLsbD k

/-- Class code {NOT MXMAP, NOT VWMAP} (R29). -/
def classOf (s : State) (k : Nat) : BitVec 2 := BitVec.ofNat 2 (2 * b2n (!hasMx s k) + b2n (!isWide s k))

/-- VLANES (R28). -/
def lanesOf (s : State) (k : Nat) : Nat := if isWide s k then 64 else 32

/-- A weight-store address lies in a slice out of service (R25). -/
def wsOut (s : State) (pa : Nat) : Bool := !(populated s (wsIsle pa) && hasMx s (wsIsle pa))

/-! ## Segments (R113, R114) -/

/-- APL of bits [13:12]; the reserved value is caught by `segOf`. -/
def aplOf (n : Nat) : Apl :=
  match n with
  | 0 => .near
  | 1 => .mem
  | _ => .host

/-- ORD of bits [11:10]. -/
def ordOf (n : Nat) : Ord :=
  match n with
  | 0 => .so
  | 1 => .rc
  | _ => .un

/-- The four 8-byte parts of an entry as a segment; none where V = 0 (R113, R114). -/
def segOf (w0 w1 w2 w3 : Nat) : Option Seg :=
  if !bitAt w0 15 then none
  else
    let l := field w0 0 6
    let va := field w0 16 32 * 2 ^ 16
    let host := decide (field w0 12 2 = 2)
    let lb := field w1 16 29 * 2 ^ 16
    let inRange := decide (rangeOf lb = rangeOf (lb + 2 ^ l - 1)) && decide (lb + 2 ^ l ≤ 2 ^ 45)
    let bad :=
      field w0 48 16 != 0 || w3 != 0 || field w2 32 32 != 0 || field w1 0 16 != 0 ||
      (!host && field w1 57 7 != 0) ||
      l < 16 || 39 < l || va % 2 ^ l != 0 ||
      field w0 12 2 == 3 || field w0 10 2 == 3 || (bitAt w0 6 && host) ||
      (!host && !inRange)
    some { vabase := va, log2sz := l, resid := bitAt w0 14, apl := aplOf (field w0 12 2), ord := ordOf (field w0 10 2),
           x := bitAt w0 9, w := bitAt w0 8, r := bitAt w0 7, rem := bitAt w0 6, peer := field w1 45 12, lbase := lb,
           hbase := field w1 16 48 * 2 ^ 16, resoff := field w2 0 32, bad := bad }

/-- The test of R114 for a malformed entry: LOG2SZ clamped into 16 to 39. -/
def Seg.matchesBad (e : Seg) (v : Nat) : Bool :=
  let l := if e.log2sz < 16 then 16 else if 39 < e.log2sz then 39 else e.log2sz
  decide (e.vabase ≤ v) && decide (v < e.vabase + 2 ^ l)

/-- A well-formed entry matches v[47:0] (R115). -/
def Seg.matchesVa (e : Seg) (v : Nat) : Bool :=
  !e.bad && decide (e.vabase ≤ v) && decide (v < e.vabase + 2 ^ e.log2sz)

/-- SEGV details of R117. -/
def dNOSEG : Nat := 1
def dBADENT : Nat := 2
def dPERM : Nat := 3
def dNONRES : Nat := 4
def dNOATOM : Nat := 5
def dBADPA : Nat := 6
def dOUTSVC : Nat := 7

/-- The entry that translates v, or the SEGV detail (R115). -/
def findSeg (segs : List Seg) (v : Nat) : Except Nat Seg :=
  if v / 2 ^ 48 ≠ 0 then .error dNOSEG
  else match segs.find? (fun e => e.matchesVa v) with
    | some e => .ok e
    | none => if segs.any (fun e => e.bad && e.matchesBad v) then .error dBADENT else .error dNOSEG

/-- The target of v under its entry (R115, R110): an FPA with the device's own number is local. -/
def segTgt (self : Option Nat) (e : Seg) (v : Nat) : Tgt :=
  let off := v - e.vabase
  match e.apl with
  | .host => .host (e.hbase + off)
  | _ =>
    if e.rem then
      if self = some e.peer then localTgt (e.lbase + off) else .peer e.peer (e.lbase + off)
    else localTgt (e.lbase + off)

/-- Granule bit index of v in a PARTIAL segment (R119). -/
def granuleBit (e : Seg) (v : Nat) : Nat :=
  if e.log2sz < 21 then e.resoff else e.resoff + (v - e.vabase) / 2 ^ 21

/-- First virtual address of the granule of v (R302). -/
def granuleVa (e : Seg) (v : Nat) : Nat :=
  if e.log2sz < 21 then e.vabase else e.vabase + (v - e.vabase) / 2 ^ 21 * 2 ^ 21

/-- The device's own peer number in a launch's partition, where SELF is valid (R28, R111). -/
def selfOf (p : Partition) : Option Nat := if p.selfValid then some p.self else none

/-- The peer's VALID and presence bits stand, and a FOREIGN peer has a station (R112). -/
def peerOk (s : State) (p : Partition) (n : Nat) : Bool :=
  bitAt p.valid n && bitAt s.presence n && (!bitAt p.foreign n || s.ports.any (fun q => q.2.role == .ualink))

end Sys2Proof.Machine
end

