-- ==== Sys2Proof/Machine/Base.lean ====
section
/-!
DEFINITION. Named reads and updates of the state's tables: instances and contexts, launches, virtual functions and queues.
-/
namespace Sys2Proof.Machine

/-- A microsecond in ticks. -/
def usec : Nat := Config.ticksPerUs

/-- One isle clock in ticks (R4, R407). -/
def State.period (s : State) : Nat := Config.ticksPerUs / s.mhz

/-! ## Instances and contexts -/

/-- The instance on isle k. -/
def State.inst (s : State) (k : Nat) : Option Inst := Assoc.find s.slots k
def State.setInst (s : State) (k : Nat) (i : Inst) : State := { s with slots := Assoc.put s.slots k i }
def State.updInst (s : State) (k : Nat) (f : Inst → Inst) : State := { s with slots := Assoc.upd s.slots k f }

/-- The isle that holds instance uid. -/
def State.isleOf (s : State) (uid : Nat) : Option Nat := (s.slots.find? (fun p => p.2.uid = uid)).map (fun p => p.1)

def Inst.ctx (i : Inst) : Ctx → CtxState
  | .L => i.ctxL
  | .C => i.ctxC
  | .S => i.ctxS

def Inst.setCtx (i : Inst) (c : Ctx) (x : CtxState) : Inst :=
  match c with
  | .L => { i with ctxL := x }
  | .C => { i with ctxC := x }
  | .S => { i with ctxS := x }

def Inst.updCtx (i : Inst) (c : Ctx) (f : CtxState → CtxState) : Inst := i.setCtx c (f (i.ctx c))

/-- The contexts in the order of R40. -/
def ctxs : List Ctx := [.L, .C, .S]

/-- Place in the order L, C, S (R40). -/
def ctxRank : Ctx → Nat
  | .L => 0
  | .C => 1
  | .S => 2

/-- CTX field of a fault record entry (R378). -/
def ctxCode : Ctx → Nat
  | .L => 1
  | .C => 2
  | .S => 3

/-- The instance runs in the sense of R107. -/
def Inst.runs (i : Inst) : Bool := i.life = .running

/-- A context may act: its instance runs and it has not exited (R41). -/
def Inst.acts (i : Inst) (c : Ctx) : Bool := i.runs && (i.ctx c).live

/-- Live contexts in the order L, C, S. -/
def Inst.liveCtxs (i : Inst) : List Ctx := ctxs.filter (fun c => (i.ctx c).live)

/-- Smallest walk position among the live contexts (R44); 0 where none is live. -/
def Inst.lowWalk (i : Inst) : Nat :=
  match i.liveCtxs.map (fun c => (i.ctx c).walk.toNat) with
  | [] => 0
  | w :: ws => ws.foldl Nat.min w

/-- Completion counters (R329). -/
def Inst.cnt (i : Inst) : Engine → BitVec 32
  | .mx => i.cntMx
  | .cp => i.cntCp
  | .at => i.cntAt
  | .cl => i.cntCl
  | .ci => i.cntCi
  | .td => i.cntTd

def Inst.addCnt (i : Inst) : Engine → Inst
  | .mx => { i with cntMx := i.cntMx + 1 }
  | .cp => { i with cntCp := i.cntCp + 1 }
  | .at => { i with cntAt := i.cntAt + 1 }
  | .cl => { i with cntCl := i.cntCl + 1 }
  | .ci => { i with cntCi := i.cntCi + 1 }
  | .td => { i with cntTd := i.cntTd + 1 }

/-- Scratchpad bytes of the instance: SPAD × 16 KiB (R63). -/
def Inst.spadBytes (i : Inst) : Nat := i.counts.spad * 16384

def Inst.handle (i : Inst) (h : Nat) : Handle := Sparse.get .closed i.h h
def Inst.setHandle (i : Inst) (h : Nat) (x : Handle) : Inst := { i with h := Sparse.set .closed i.h h x }
def Inst.msgWin (i : Inst) (w : Nat) : MsgWin := Sparse.get .start i.wins w
def Inst.setMsgWin (i : Inst) (w : Nat) (x : MsgWin) : Inst := { i with wins := Sparse.set .start i.wins w x }

/-! ## Launches, virtual functions, queues -/

def State.launch (s : State) (id : Nat) : Option Launch := Assoc.find s.launches id
def State.updLaunch (s : State) (id : Nat) (f : Launch → Launch) : State :=
  { s with launches := Assoc.upd s.launches id f }

def State.vf (s : State) (v : Nat) : Vf := Sparse.get .reset s.vfs v
def State.setVf (s : State) (v : Nat) (x : Vf) : State := { s with vfs := Sparse.set .reset s.vfs v x }
def Vf.queue (v : Vf) (q : Nat) : HwQueue := Sparse.get .reset v.queues q
def Vf.setQueue (v : Vf) (q : Nat) (x : HwQueue) : Vf := { v with queues := Sparse.set .reset v.queues q x }
def State.queue (s : State) (v q : Nat) : HwQueue := (s.vf v).queue q
def State.setQueue (s : State) (v q : Nat) (x : HwQueue) : State := s.setVf v ((s.vf v).setQueue q x)

/-- Every (VF, queue) that was touched since reset, ascending. -/
def State.queues (s : State) : List (Nat × Nat) :=
  s.vfs.flatMap (fun p => p.2.queues.map (fun q => (p.1, q.1)))

/-- A message to the outside. -/
def State.send (s : State) (m : Out) : State := { s with out := s.out ++ [m] }

/-- Adds one to a counter of R407. -/
def State.count (s : State) (block idx : Nat) : State :=
  let k := 64 * block + idx
  { s with counters := Sparse.set 0 s.counters k (Sparse.get 0 s.counters k + 1) }
def State.countN (s : State) (block idx n : Nat) : State :=
  let k := 64 * block + idx
  { s with counters := Sparse.set 0 s.counters k (Sparse.get 0 s.counters k + BitVec.ofNat 64 n) }

/-- Counter blocks of R407 by number: stack group n, link l, port p. -/
def blkDie (n : Nat) : Nat := n
def blkLink (l : Nat) : Nat := 16 + l
def blkPort (p : Nat) : Nat := 64 + p

/-- Counters of a link by direction: flits 0, turns 1, replays 2, retrains 3 of the V-M or forward direction, 4 more for the other
(log 20). A turn counts in the direction that gains bundles. -/
def idxTURNS (back : Bool) : Nat := if back then 5 else 1
def idxRETRAINS : Nat := 3

/-! ## Speculations (R99, R101) -/

/-- How a speculation ends without a claim (R102). -/
inductive SpecEnd
  | miss | doom
  deriving DecidableEq, Repr

/-- Discards the speculation of launch id: its isles drain, its cellar and read set go, the counter steps (R101, R102). -/
def discardSpec (why : SpecEnd) (id : Nat) (s : State) : State :=
  match s.launch id with
  | none => s
  | some l =>
    let v := s.vf l.vf
    let v := match why with
      | .miss => { v with predMiss := v.predMiss + 1 }
      | .doom => { v with predDoom := v.predDoom + 1 }
    let v := v.setQueue l.q { v.queue l.q with spec := none }
    let s := s.setVf l.vf v
    { s with
      launches := Assoc.del s.launches id
      acc := s.acc.filter (fun a => a.launch ≠ id)
      slots := s.slots.map (fun p => if p.2.launch = id then
        (p.1, { p.2 with life := .discarded, wb := [], reqs := [],
                         cmds := p.2.cmds.filter (fun c => c.phase != .queued) }) else p) }

end Sys2Proof.Machine
end

