-- ==== Sys2Proof/Machine/Memory.lean ====
section
/-!
DEFINITION. DRAM and weight-store bytes: what each die sees (R128, R132), writes and poison (R385 to R387).
A cell is (address, byte): a local-view DRAM address, or a local physical address of the weight store.
-/
namespace Sys2Proof.Machine

/-- What an unlisted byte reads as: zero (R406). -/
def memDefault : Byte := 0

/-- The canonical form of a memory. -/
abbrev MemWf (m : List Host.Cell) : Prop := Sparse.wf memDefault m = true

/-- The byte that is visible to every die. -/
def memByte (s : State) (a : Nat) : Byte := Sparse.get memDefault s.mem a

/-- The newest version of byte a that die d sees, in coherence order (R128, R132). -/
def versionByte (d : Nat) : List Version → Nat → Option Byte
  | [], _ => none
  | v :: rest, a =>
    match versionByte d rest a with
    | some b => some b
    | none => if v.vis.getLsbD d then Assoc.find v.cells a else none

/-- The newest version of byte a in coherence order, whoever sees it (R128). -/
def newestByte : List Version → Nat → Option Byte
  | [], _ => none
  | v :: rest, a =>
    match newestByte rest a with
    | some b => some b
    | none => Assoc.find v.cells a

/-- Byte a as an agent on die d reads it. -/
def dieByte (s : State) (d a : Nat) : Byte := (versionByte d s.versions a).getD (memByte s a)

/-- Byte a at its home: the last in its coherence order. -/
def homeByte (s : State) (a : Nat) : Byte := (newestByte s.versions a).getD (memByte s a)

def dieBytes (s : State) (d a n : Nat) : List Byte := (upto n).map (fun k => dieByte s d (a + k))
def homeBytes (s : State) (a n : Nat) : List Byte := (upto n).map (fun k => homeByte s (a + k))

/-- A little-endian number of n bytes at its home (R9). -/
def homeNat (s : State) (a n : Nat) : Nat := leNat (homeBytes s a n)

/-- Versions that die d has seen among the bytes a to a + n - 1 and that some die does not see yet (R130). -/
def seenVersions (s : State) (d a n : Nat) : List Nat :=
  (s.versions.filter (fun v => v.vis.getLsbD d && v.cells.any (fun c => decide (a ≤ c.1) && decide (c.1 < a + n)))).map
    (fun v => v.acc)

/-! ## Poison (R385, R387) -/

/-- The bytes a to a + n - 1 of DRAM or the weight store hold poison. -/
def memPoison (s : State) (a n : Nat) : Bool :=
  if a < wsBase then (upto (lineOf (a + n - 1) - lineOf a + 1)).any (fun k => Sparse.get false s.poison (lineOf a + k))
  else (upto ((a + n - 1) / 8 - a / 8 + 1)).any (fun k => Sparse.get false s.poisonWs (a / 8 + k))

/-- Cells cover the whole of unit u of size z. -/
def covers (cells : List (Nat × Byte)) (z u : Nat) : Bool := (upto z).all (fun b => cells.any (fun c => c.1 = z * u + b))

/-- Poison marks that a write covering whole lines or words clears (R387). -/
def clearPoison (cells : List (Nat × Byte)) (s : State) : State :=
  { s with
    poison := s.poison.filter (fun p => !covers cells 64 p.1)
    poisonWs := s.poisonWs.filter (fun p => !covers cells 8 p.1) }

/-- The POISON bit of the line, or the mark of the weight-store word, of address a (R385). -/
def setPoison (a : Nat) (s : State) : State :=
  if a < wsBase then { s with poison := Sparse.set false s.poison (lineOf a) true }
  else { s with poisonWs := Sparse.set false s.poisonWs (a / 8) true }

/-- Poisons a line of DRAM, or the words of a line of the weight store, by its number (R385, R390). -/
def poisonLine (n : Nat) (s : State) : State := (upto 8).foldl (fun s k => setPoison (64 * n + 8 * k) s) s

/-! ## Writes -/

/-- Who performs a write: a launch of this device, or another agent. -/
abbrev Writer := Option Nat

/-- Speculations that a write at cells by writer w dooms (R99): a page of their read set is written by another agent. -/
def doomedBy (s : State) (w : Writer) (cells : List (Nat × Byte)) : List Nat :=
  (s.launches.filter (fun p => p.2.spec && !p.2.claiming && w ≠ some p.1 &&
    cells.any (fun c => p.2.readset.contains (c.1 / 4096)))).map (fun p => p.1)

def doomWritten (w : Writer) (cells : List (Nat × Byte)) (s : State) : State :=
  (doomedBy s w cells).foldl (fun s id => discardSpec .doom id s) s

/-- Marks the DRAM lines of cells as modified: 1 + isle where an L1 may hold the copy, 257 for L2 (R124, R389). -/
def markDirty (code : Nat) (cells : List (Nat × Byte)) (s : State) : State :=
  { s with dirty := cells.foldl (fun d c => if c.1 < wsBase then Sparse.set 0 d (lineOf c.1) code else d) s.dirty }

/-- Writes cells into the memory that every die sees; versions of those bytes give way (R128). -/
def putCells (cells : List (Nat × Byte)) (s : State) : State :=
  { s with
    mem := Sparse.setAll memDefault s.mem cells
    versions := (s.versions.map (fun v => { v with cells := v.cells.filter (fun c => !cells.any (fun d => d.1 = c.1)) })) }

/-- A write performed at once with respect to every agent of the device. -/
def writeCells (w : Writer) (code : Nat) (cells : List (Nat × Byte)) (s : State) : State :=
  if cells = [] then s
  else doomWritten w cells (markDirty code cells (clearPoison cells (putCells cells s)))

/-- A write by the device itself or an outside agent, at the home L2. -/
def writeHome (cells : List (Nat × Byte)) (s : State) : State := writeCells none 257 cells s

/-- Cells of the n low bytes of x at address a (R9). -/
def cellsOf (a n x : Nat) : List (Nat × Byte) := (upto n).map (fun k => (a + k, BitVec.ofNat 8 (x / 2 ^ (8 * k))))

/-- Cells of a list of bytes at address a. -/
def cellsAt : Nat → List Byte → List (Nat × Byte)
  | _, [] => []
  | a, b :: bs => (a, b) :: cellsAt (a + 1) bs

/-! ## The device's own reads and writes of its structures (R144, R145, R388) -/

/-- A granule of this device (R144). -/
def granuleOf (s : State) (g : Nat) : Granule := Sparse.get .atHome s.granules g
def State.setGranule (s : State) (g : Nat) (x : Granule) : State := { s with granules := Sparse.set .atHome s.granules g x }

/-- A spread-view or local-view address of a peer as its local-view byte; other addresses as they are (R105). -/
def normPa (pa : Nat) : Nat :=
  match localTgt pa with
  | .dram a => a
  | _ => pa

/-- The guest entry of this device for a granule of a peer (R144). -/
def guestOf (s : State) (p pa : Nat) : Option Guest := s.guests.find? (fun g => g.home = p && g.granule = normPa pa / 2 ^ 21)

/-- The stack group is in reset (R388). -/
def dieIsDown (s : State) (d : Nat) : Bool := (Assoc.find s.dieDown d).isSome

/-- Loads of a granule go to the holder: it is lent, or on its way from a holder (R144, R145). -/
def Granule.readsOut (x : Granule) : Bool := x.place ≠ .home && x.holder.isSome

/-- Byte a of DRAM as the device reads a structure: at its home, or a free value where a holder has it. -/
def structByte (s : State) (a : Nat) : Byte :=
  if a < wsBase && (granuleOf s (a / 2 ^ 21)).readsOut then Config.outsideByte s.time a else homeByte s a

def structNat (s : State) (a n : Nat) : Nat := leNat ((upto n).map (fun k => structByte s (a + k)))

/-- The source number of the device's own requests; peers have numbers below 4,096 (R110). -/
def ownSrc : Nat := 4097

/-- Performs a write of the device, or an atomic OR or ADD, at its home. -/
def ownPerform (a : Nat) (kind : ReqKind) (s : State) : State :=
  match kind with
  | .store d => writeHome (cellsAt a d) s
  | .amo .or x n _ => writeHome (cellsOf a n (homeNat s a n ||| x)) s
  | .amo _ x n _ => writeHome (cellsOf a n (homeNat s a n + x)) s
  | _ => s

/-- A write of the device to its own DRAM: held while the home's die is in reset or the granule moves, sent on to a holder, or
performed. -/
def ownRequest (a : Nat) (kind : ReqKind) (s : State) : State :=
  let r : IngressReq := ⟨none, ownSrc, 0, 0, a, 0, kind⟩
  if dieIsDown s (homeDie a) then { s with dieHeld := s.dieHeld ++ [r] }
  else
    let x := granuleOf s (a / 2 ^ 21)
    match x.place, x.holder with
    | .moving, _ => s.setGranule (a / 2 ^ 21) { x with held := x.held ++ [.inr r] }
    | .lent, some h => s.send (.forward h r)
    | _, _ => ownPerform a kind s

/-- Consecutive cells as runs that stay within a granule: first address and bytes. -/
def runsOf : List (Nat × Byte) → List (Nat × List Byte)
  | [] => []
  | c :: cs => match runsOf cs with
    | [] => [(c.1, [c.2])]
    | (a, bs) :: rest => if a = c.1 + 1 ∧ a % 2 ^ 21 ≠ 0 then (c.1, c.2 :: bs) :: rest else (c.1, [c.2]) :: (a, bs) :: rest

/-- A write of the device to cells of its own DRAM. -/
def ownWrite (cells : List (Nat × Byte)) (s : State) : State := (runsOf cells).foldl (fun s r => ownRequest r.1 (.store r.2) s) s

/-- The device's own additions to the 8 bytes at a that are held or under way for a holder count (R379). -/
def pendingAdd (s : State) (a : Nat) : Bool :=
  let adds (r : IngressReq) : Bool := r.src = ownSrc && r.addr = a
  s.dieHeld.any adds || (granuleOf s (a / 2 ^ 21)).held.any (fun h => match h with
    | .inr r => adds r
    | .inl _ => false)

/-! ## Stores on their way to the dies (R132) -/

/-- V-dies that hold the backing of cells. -/
def homeDies (cells : List (Nat × Byte)) : BitVec 8 :=
  cells.foldl (fun m c => m ||| BitVec.ofNat 8 (2 ^ (homeDie c.1))) 0

/-- Performs the cells of store acc at their home, visible to the dies of vis and to the home dies (R128, R132). -/
def performHome (acc : Nat) (w : Writer) (code : Nat) (vis : BitVec 8) (cells : List (Nat × Byte)) (s : State) : State :=
  if cells = [] then s
  else
    let s := clearPoison cells s
    let s := { s with versions := s.versions ++ [⟨acc, vis ||| homeDies cells, cells⟩] }
    doomWritten w cells (markDirty code cells s)

/-- Drops a version whose bytes every die sees, its bytes written through and the older versions of them gone. -/
def foldVersion (acc : Nat) (s : State) : State :=
  match s.versions.find? (fun v => v.acc = acc) with
  | none => s
  | some v =>
    let older := s.versions.takeWhile (fun u => u.acc ≠ acc)
    let newer := (s.versions.dropWhile (fun u => u.acc ≠ acc)).drop 1
    let strip (u : Version) : Version := { u with cells := u.cells.filter (fun c => !v.cells.any (fun d => d.1 = c.1)) }
    { s with mem := Sparse.setAll memDefault s.mem v.cells, versions := older.map strip ++ newer }

/-- Store acc becomes visible on die d too. -/
def showVersion (acc : Nat) (d : Nat) (s : State) : State :=
  { s with versions := s.versions.map (fun v => if v.acc = acc then { v with vis := v.vis ||| BitVec.ofNat 8 (2 ^ d) } else v) }

/-! ## Scratchpads (R107, R125, R385) -/

def spadByte (i : Inst) (off : Nat) : Byte := Sparse.get 0 i.spad off
def spadBytesAt (i : Inst) (off n : Nat) : List Byte := (upto n).map (fun k => spadByte i (off + k))
def spadPoisoned (i : Inst) (off n : Nat) : Bool :=
  (upto ((off + n - 1) / 8 - off / 8 + 1)).any (fun k => Sparse.get false i.spadPoison (off / 8 + k))

/-- Writes cells into a scratchpad; a write of all 8 bytes of a word clears its poison (R387). -/
def putSpad (cells : List (Nat × Byte)) (i : Inst) : Inst :=
  { i with
    spad := Sparse.setAll 0 i.spad cells
    spadPoison := i.spadPoison.filter (fun p => !covers cells 8 p.1) }

def setSpadPoison (off : Nat) (i : Inst) : Inst := { i with spadPoison := Sparse.set false i.spadPoison (off / 8) true }

/-- Clears the latch of R336 where a write of the isle to bytes lo to hi of a space meets the latched span. -/
def Inst.unlatch (i : Inst) (space lo hi : Nat) : Inst :=
  match i.latch with
  | none => i
  | some l => if l.space = space && decide (l.lo ≤ hi) && decide (lo ≤ l.hi) then { i with latch := none } else i

/-! ## The cellar (R98) -/

def cellarByte (l : Launch) (a : Nat) : Option Byte := Sparse.get none l.cellar a

/-- Cellar lines in use, 64 bytes each (R98). -/
def cellarLines (l : Launch) : Nat := (l.cellar.map (fun p => p.1 / 64)).eraseDups.length

end Sys2Proof.Machine
end

