-- ==== Sys2Proof/Machine/Region.lean ====
section
/-!
DEFINITION. Region control blocks, their chains and effective values (R81 to R87), fault records (R374, R378, R379) and
completion records (R79, R80).
-/
namespace Sys2Proof.Machine

/-! ## Blocks (R81) -/

def blkParent (s : State) (a : Nat) : Nat := structNat s a 8
def blkOvr (s : State) (a : Nat) : Nat := structNat s (a + 0x08) 2
def blkPrio (s : State) (a : Nat) : Nat := structNat s (a + 0x0A) 1
def blkFlags (s : State) (a : Nat) : Nat := structNat s (a + 0x0B) 1
def blkFrz (s : State) (a : Nat) : Nat := structNat s (a + 0x0C) 4
def blkMax (s : State) (a c : Nat) : Nat := structNat s (a + 0x10 + 2 * c) 2
def blkSpad (s : State) (a : Nat) : Nat := structNat s (a + 0x18) 4
def blkCirc (s : State) (a : Nat) : Nat := structNat s (a + 0x1C) 2
def blkCellar (s : State) (a : Nat) : Nat := structNat s (a + 0x1E) 2
def blkSegtab (s : State) (a : Nat) : Nat := structNat s (a + 0x20) 8
def blkPart (s : State) (a : Nat) : Nat := structNat s (a + 0x28) 8
def blkResmap (s : State) (a : Nat) : Nat := structNat s (a + 0x30) 8
def blkSave (s : State) (a : Nat) : Nat := structNat s (a + 0x38) 8

/-- A block is aligned, in the DRAM local view, with reserved fields zero and overridden fields in range (R87). -/
def blkOk (s : State) (a : Nat) : Bool :=
  let ovr := blkOvr s a
  let on (b : Nat) (c : Bool) : Bool := !bitAt ovr b || c
  decide (a % 128 = 0) && decide (a + 128 ≤ spreadBase) &&
  decide (ovr / 2 ^ 12 = 0) && decide (blkPrio s a < 8) && decide (blkFlags s a < 8) &&
  decide (blkFrz s a / 2 ^ 20 = 0) && decide (field (blkSave s a) 45 3 = 0) && decide (field (blkSave s a) 0 16 = 0) &&
  on 3 (decide (1 ≤ blkFrz s a) && decide (blkFrz s a ≤ 1000000)) &&
  on 4 ((upto 4).all (fun c => decide (blkMax s a c ≤ 256))) &&
  on 5 (decide (blkSpad s a ≤ 65536)) && on 6 (decide (blkCirc s a ≤ 2048)) && on 7 (decide (blkCellar s a ≤ 256)) &&
  on 8 (decide (blkSegtab s a % 8192 = 0) && decide (blkSegtab s a + 8192 ≤ spreadBase)) &&
  on 9 (decide (blkPart s a % 64 = 0) && decide (blkPart s a + 9224 ≤ spreadBase)) &&
  on 10 (decide (blkResmap s a < 2 ^ 45))

/-- Block addresses from a up to the root, when PARENT reaches it in at most n steps (R87). -/
def climb (s : State) (root : Nat) : Nat → Nat → Option (List Nat)
  | 0, a => if blkOk s a && a = root then some [a] else none
  | n + 1, a =>
    if !blkOk s a then none
    else if a = root then some [a]
    else (climb s root n (blkParent s a)).map (fun r => a :: r)

/-- What a block adds to its parent's effective values (R82); none of the address fields has a root default. -/
structure PreEff where
  prio : Nat
  preemptible : Bool
  tideright : Bool
  frzlim : Nat
  max : List Nat
  spadmax : Nat
  circmax : Nat
  cellarq : Nat
  segtab : Option Nat
  part : Option Nat
  resmap : Option Nat
  save : Nat
  deriving DecidableEq, Repr

/-- Root defaults (R82). -/
def PreEff.root : PreEff :=
  ⟨4, false, false, 1000, [256, 256, 256, 256], 65536, 2048, 8, none, none, none, 0⟩

/-- Effective values of the block at a under its parent's; isRoot marks the root (R82). -/
def stepEff (s : State) (isRoot : Bool) (p : PreEff) (a : Nat) : PreEff :=
  let ovr := blkOvr s a
  let on := bitAt ovr
  let fl := blkFlags s a
  { prio := if on 0 then (if isRoot then blkPrio s a else Nat.min (blkPrio s a) p.prio) else p.prio
    preemptible := if on 1 then bitAt fl 1 else p.preemptible
    tideright := if on 2 then (if isRoot then bitAt fl 2 else bitAt fl 2 && p.tideright) else p.tideright
    frzlim := if on 3 then field (blkFrz s a) 0 20 else p.frzlim
    max := if on 4 then (upto 4).map (fun c => blkMax s a c) else p.max
    spadmax := if on 5 then blkSpad s a else p.spadmax
    circmax := if on 6 then blkCirc s a else p.circmax
    cellarq := if on 7 then blkCellar s a else p.cellarq
    segtab := if on 8 then some (blkSegtab s a) else p.segtab
    part := if on 9 then some (blkPart s a) else p.part
    resmap := if on 10 then some (blkResmap s a) else p.resmap
    save := if on 11 then blkSave s a else p.save }

/-- Effective values along a chain given from the root down. -/
def foldEff (s : State) : Bool → PreEff → List Nat → PreEff
  | _, p, [] => p
  | r, p, a :: rest => foldEff s false (stepEff s r p a) rest

/-- Effective budgets of the blocks of a chain given from the root down, the last block first. -/
def foldBudgets (s : State) : Bool → PreEff → List Nat → List Budget
  | _, _, [] => []
  | r, p, a :: rest =>
    let p := stepEff s r p a
    foldBudgets s false p rest ++ [⟨p.max, p.spadmax, p.circmax⟩]

/-- The effective values of a chain; none where an address field has no value anywhere on it (log 15). -/
def effOf (s : State) (chain : List Nat) : Option Eff :=
  let p := foldEff s true .root chain.reverse
  match p.segtab, p.part, p.resmap with
  | some st, some pt, some rm =>
    some ⟨p.prio, p.preemptible, p.tideright, p.frzlim, foldBudgets s true .root chain.reverse, p.cellarq, st, pt, rm,
      field p.save 16 29 * 2 ^ 16, field p.save 48 16⟩
  | _, _, _ => none

/-- The chain of a region under the root of a virtual function, and its effective values (R87, R86). -/
def chainOf (s : State) (vf rcb : Nat) : Option (List Nat × Eff) :=
  match climb s (s.vf vf).rootrcb 7 rcb with
  | none => none
  | some c => (effOf s c).map (fun e => (c, e))

/-- FAULTDOM of a block: its own bit, 1 for a root (R82). -/
def isFaultDom (s : State) (root a : Nat) : Bool := a = root || bitAt (blkFlags s a) 0

/-- The fault domains among the blocks of a chain, the nearest first (R383). -/
def domainsOf (s : State) (chain : List Nat) : List Nat := chain.filter (isFaultDom s (chain.getLastD 0))

/-- The fault domain of a region, and that of a launch as it stood at its dispatch (R84, R383). -/
def domainOf (s : State) (chain : List Nat) : Nat := (domainsOf s chain).headD 0
def Launch.dom (l : Launch) : Nat := l.doms.headD 0

/-- The segment table at a, 256 entries of 32 bytes (R113); entries with V = 0 are left out. -/
def segsAt (s : State) (a : Nat) : List Seg :=
  (upto 256).filterMap (fun n =>
    let e := a + 32 * n
    segOf (structNat s e 8) (structNat s (e + 8) 8) (structNat s (e + 16) 8) (structNat s (e + 24) 8))

/-- The partition snapshot at a (R111). -/
def partAt (s : State) (a : Nat) : Partition :=
  let sf := structNat s (a + 0x400) 2
  { pa := a, valid := structNat s a 512, foreign := structNat s (a + 0x200) 512, selfValid := bitAt sf 12, self := field sf 0 12,
    tenant := structNat s (a + 0x402) 2 }

/-- GEN of a peer, read as each request leaves (R111). -/
def genOf (s : State) (p : Partition) (n : Nat) : Nat := structNat s (p.pa + 0x408 + 2 * n) 2

/-! ## Fault records (R374, R378, R379) -/

/-- An entry before it is laid out (R378). -/
structure FaultEntry where
  cause : Nat
  detail : Nat
  ctx : Nat
  rank : Nat
  isle : Nat
  pc : Word
  addr : Word
  late : Bool
  deriving DecidableEq, Repr

/-- Bytes 0 to 7 of an entry (R378). -/
def FaultEntry.head (e : FaultEntry) : Nat :=
  e.cause % 256 + (e.ctx % 4) * 2 ^ 26 + (e.detail % 4096) * 2 ^ 28 + (e.isle % 256) * 2 ^ 40 + (e.rank % 256) * 2 ^ 48 +
    b2n e.late * 2 ^ 63

/-- Cells of the 24 bytes of an entry at address a. -/
def FaultEntry.cells (e : FaultEntry) (a : Nat) : List (Nat × Byte) :=
  cellsOf a 8 e.head ++ cellsOf (a + 8) 8 e.pc.toNat ++ cellsOf (a + 16) 8 e.addr.toNat

/-- Makes an entry in the record of block a, in the order of R379. -/
def recordEntry (a : Nat) (e : FaultEntry) (s : State) : State :=
  let r := a + 0x40
  let first := structNat s r 8 = 0 && !pendingAdd s r
  let s := ownRequest (r + 8) (.amo .or (2 ^ (e.cause % 32)) 4 false) s
  let s := ownRequest r (.amo .add 1 8 false) s
  let s := if first then ownWrite (e.cells (r + 0x10)) s else s
  ownWrite (e.cells (r + 0x28)) s

/-- Cause codes of R374. -/
def cILLEGAL : Nat := 0x01
def cPRIV : Nat := 0x02
def cOVERREACH : Nat := 0x03
def cSEGV : Nat := 0x04
def cPEERBAD : Nat := 0x05
def cALIGN : Nat := 0x06
def cQDEAD : Nat := 0x07
def cSCHEDMISS : Nat := 0x08
def cWATCHDOG : Nat := 0x09
def cPOISON : Nat := 0x0A
def cBARBAD : Nat := 0x0B
def cTRAP : Nat := 0x0C
def cREFUSED : Nat := 0x10
def cNOWRITE : Nat := 0x11
def cREJECT : Nat := 0x12
def cQUEUE : Nat := 0x13
def cTREE : Nat := 0x14
def cCOLLECTIVE : Nat := 0x15
def cROTA : Nat := 0x16
def cABORT : Nat := 0x17
def cLINKERR : Nat := 0x18
def cDIERESET : Nat := 0x19

/-- STATUS bits of R79. -/
def stINVALID : Nat := 1
def stTRAP : Nat := 2
def stABORT : Nat := 4
def stLATE : Nat := 8
def stWATCHDOG : Nat := 16

/-- ORs STATUS bits due into a launch (R79, R80). -/
def addStatus (id bits : Nat) (s : State) : State := s.updLaunch id (fun l => { l with status := l.status ||| bits })

/-- An entry about a launch, in its region's block; after retire it is LATE and sets STATUS.LATE (R393). -/
def launchFault (id : Nat) (e : FaultEntry) (s : State) : State :=
  match s.launch id with
  | none => s
  | some l =>
    if l.spec then s
    else
      let s := recordEntry (l.chain.headD 0) { e with late := l.retired } s
      if l.retired then addStatus id stLATE s else s

/-- FLT_* take an entry that lets the instance continue (R380). -/
def noteFault (e : FaultEntry) (i : Inst) : Inst :=
  let seq := (field i.fltCause.toNat 40 8 + 1) % 256
  { i with
    fltCause := BitVec.ofNat 64 (seq * 2 ^ 40 + (e.detail % 4096) * 2 ^ 28 + (e.ctx % 4) * 2 ^ 26 + e.cause % 256)
    fltPc := e.pc
    fltAddr := e.addr }

/-- A recorded event of instance uid that lets it continue (R374, R380, R393). -/
def instFault (uid launch : Nat) (e : FaultEntry) (s : State) : State :=
  let s := launchFault launch e s
  match s.isleOf uid with
  | some k => s.updInst k (fun i => if i.runs || i.life = .saving then noteFault e i else i)
  | none => { s with saved := s.saved.map (fun i => if i.uid = uid then noteFault e i else i) }

end Sys2Proof.Machine
end

