-- ==== Sys2Proof/Machine/Regs.lean ====
section
/-!
DEFINITION. Registers and queue registers: reads, and results that become visible at the next vc (R46 to R49, R52, R226, R227).
-/
namespace Sys2Proof.Machine

/-! ## Reads -/

/-- G n of a context; G0 reads zero (R49). -/
def CtxState.gGet (x : CtxState) (n : Nat) : Word := if n = 0 then 0 else Sparse.get 0 x.g n

/-- Lane l of V n (R257). -/
def Inst.vGet (i : Inst) (n l : Nat) : BitVec 32 := Sparse.get 0 i.v (64 * n + l)

/-- All lanes of V n, 0 to lanes - 1. -/
def Inst.vRow (i : Inst) (lanes n : Nat) : List (BitVec 32) := (upto lanes).map (fun l => i.vGet n l)

/-- The mask with bits 0 to lanes - 1 set: M0 (R23). -/
def onesMask (lanes : Nat) : Word := BitVec.ofNat 64 (2 ^ lanes - 1)

/-- M n; M0 has every lane set, and bits beyond the lanes read zero (R23). -/
def Inst.mGet (i : Inst) (lanes n : Nat) : Word := if n = 0 then onesMask lanes else Sparse.get 0 i.m n &&& onesMask lanes

/-- T n as 32 bytes (R320). -/
def Inst.tGet (i : Inst) (n : Nat) : BitVec 256 := Sparse.get 0 i.t n

/-! ## Writes visible now -/

def CtxState.gSet (x : CtxState) (n : Nat) (v : Word) : CtxState :=
  if n = 0 then x else { x with g := Sparse.set 0 x.g n v }
def Inst.gSet (i : Inst) (c : Ctx) (n : Nat) (v : Word) : Inst := i.updCtx c (fun x => x.gSet n v)
def Inst.vSet (i : Inst) (n l : Nat) (v : BitVec 32) : Inst := { i with v := Sparse.set 0 i.v (64 * n + l) v }
def Inst.mSet (i : Inst) (n : Nat) (v : Word) : Inst := if n = 0 then i else { i with m := Sparse.set 0 i.m n v }
def Inst.tSet (i : Inst) (n : Nat) (v : BitVec 256) : Inst := { i with t := Sparse.set 0 i.t n v }

/-- MWCFG as a word (R156). -/
def MsgWin.cfg (w : MsgWin) : Word :=
  BitVec.ofNat 64 (b2n w.en * 2 ^ 40 + w.peer.toNat * 2 ^ 28 + w.isle.toNat * 2 ^ 20 + w.label.toNat * 2 ^ 12)

/-- A write to MWCFG: the fields take the value and an open packet is discarded (R156). -/
def MsgWin.setCfg (w : MsgWin) (v : Nat) : MsgWin :=
  { w with en := bitAt v 40, peer := BitVec.ofNat 12 (field v 28 12), isle := BitVec.ofNat 8 (field v 20 8),
           label := BitVec.ofNat 8 (field v 12 8), len := 0, payload := [] }

/-- A write to MWCUR (R156). -/
def MsgWin.setCur (w : MsgWin) (v : Nat) : MsgWin := { w with cursor := BitVec.ofNat 22 v, shown := BitVec.ofNat 22 v, len := 0, payload := [] }

/-- A system-register write as it becomes visible (R195, R248, R381). -/
def Inst.sysSet (i : Inst) (d : SysDst) (v : Nat) : Inst :=
  match d with
  | .win => { i with win := BitVec.ofNat 12 v }
  | .tmode => { i with tmode := bitAt v 0 }
  | .fexSet => { i with fex := BitVec.ofNat 5 v }
  | .fexOr => { i with fex := i.fex ||| BitVec.ofNat 5 v }
  | .mflagsClear => { i with mflags := i.mflags &&& ~~~(BitVec.ofNat 3 v) }
  | .eccClear => { i with eccLog := i.eccLog &&& ~~~(BitVec.ofNat 64 (field v 62 2 * 2 ^ 62)) }
  | .mwsel => { i with mwsel := BitVec.ofNat 4 v }
  | .mwcfg w => i.setMsgWin w ((i.msgWin w).setCfg v)
  | .mwcur w => i.setMsgWin w ((i.msgWin w).setCur v)

/-- A fixed-latency result as it becomes visible (R52). -/
def Inst.applyWb (i : Inst) (w : Wb) : Inst :=
  match w.dst with
  | .g c n => i.gSet c n (w.val.setWidth 64)
  | .v n l => i.vSet n l (w.val.setWidth 32)
  | .m n => i.mSet n (w.val.setWidth 64)
  | .t n => i.tSet n w.val
  | .sys d => i.sysSet d w.val.toNat

/-! ## Writes visible from the next vc -/

/-- Adds a result of context c, visible from the next vc (R52). -/
def Inst.later (i : Inst) (c : Ctx) (d : WbDst) (v : BitVec 256) : Inst := { i with wb := i.wb ++ [⟨c, d, v⟩] }

/-- Adds a list of results of context c. -/
def Inst.laterAll (i : Inst) (c : Ctx) (ws : List (WbDst × BitVec 256)) : Inst :=
  { i with wb := i.wb ++ ws.map (fun w => ⟨c, w.1, w.2⟩) }

/-! ## Queue registers (R46, R47, R226, R227) -/

def Fifo.empty : Fifo := ⟨[], 0, []⟩
def Inst.fifo (i : Inst) (n : Nat) : Fifo := i.qs.getD n .empty
def Inst.setFifo (i : Inst) (n : Nat) (f : Fifo) : Inst := { i with qs := i.qs.set n f }

/-- Free room for pushes: that of the start of the vc, less the pushes of this vc; own: pops of the same instruction, which
make room for its push (R47, R227). -/
def Fifo.room (f : Fifo) (own : Nat) : Nat := 4 - (f.ents.length + (f.popped - own) + f.pushes.length)

/-- The end of a vc: pushes join the queue, room of pops is seen (R227). -/
def Fifo.turn (f : Fifo) : Fifo := ⟨f.ents ++ f.pushes, 0, []⟩

/-- The later of two hand-off bounds (R136). -/
def joinAfter (a b : Nat × Nat × Nat) : Nat × Nat × Nat := (Nat.max a.1 b.1, Nat.max a.2.1 b.2.1, Nat.max a.2.2 b.2.2)

/-- The bound that a push by context c at id n hands over (R136). -/
def boundOf (c : Ctx) (n : Nat) : Nat × Nat × Nat :=
  match c with
  | .L => (n, 0, 0)
  | .C => (0, n, 0)
  | .S => (0, 0, n)

/-- What reading source fields gives: the wait that keeps the word from issuing, or the values and the instance after pops. -/
inductive Fetched
  | wait (b : Block)
  | ok (vals : List Word) (i : Inst)

/-- Reads G fields in the order of R226, popping queue registers. -/
def readG (c : Ctx) : Inst → List (BitVec 5) → Fetched
  | i, [] => .ok [] i
  | i, f :: fs =>
    if 24 ≤ f.toNat then
      let n := f.toNat - 24
      let q := i.fifo n
      match q.ents with
      | [] => .wait (.queue n)
      | e :: rest =>
        match e.data with
        | none => .wait .interlock
        | some v =>
          let i := i.setFifo n { q with ents := rest, popped := q.popped + 1 }
          let i := i.updCtx c (fun x => { x with after := joinAfter x.after (boundOf e.by_ e.bound) })
          match readG c i fs with
          | .wait b => .wait b
          | .ok vs i => .ok (v :: vs) i
    else
      match readG c i fs with
      | .wait b => .wait b
      | .ok vs j => .ok ((i.ctx c).gGet f.toNat :: vs) j

/-- A G field as a destination has room: a queue field for one push more, beside the pops that the same word has made (R46, R226). -/
def pushRoom (before after : Inst) (d : BitVec 5) : Bool :=
  if 24 ≤ d.toNat then
    let n := d.toNat - 24
    let q := after.fifo n
    decide (0 < q.room (q.popped - (before.fifo n).popped))
  else true

/-- Writes a result to a G field: a push, a discarded write to G0, or a register write visible from the next vc (R226).
`bound` is the next access id, handed over under R136. -/
def writeG (c : Ctx) (bound : Nat) (d : BitVec 5) (v : Word) (i : Inst) : Inst :=
  if 24 ≤ d.toNat then
    let n := d.toNat - 24
    let q := i.fifo n
    i.setFifo n { q with pushes := q.pushes ++ [⟨some v, 0, c, bound⟩] }
  else if d = 0 then i
  else i.later c (.g c d.toNat) (v.setWidth 256)

/-- Reserves a tail entry for access id (R48). -/
def reserveQ (c : Ctx) (id n : Nat) (i : Inst) : Inst :=
  let q := i.fifo n
  i.setFifo n { q with pushes := q.pushes ++ [⟨none, id, c, id⟩] }

/-- Data for the entry that access id reserved (R48). -/
def fillQ (id n : Nat) (v : Word) (i : Inst) : Inst :=
  let q := i.fifo n
  let fill (e : QEnt) : QEnt := if e.tag = id && e.data = none then { e with data := some v } else e
  i.setFifo n { q with ents := q.ents.map fill, pushes := q.pushes.map fill }

/-! ## Scoreboard (R53) -/

/-- A request still holds its destination: it is interlocked and its data has not been written. -/
def Req.holds (r : Req) : Bool := !r.timed

def Inst.gBusy (i : Inst) (c : Ctx) (n : Nat) : Bool :=
  i.reqs.any (fun r => r.holds && (match r.dst with
    | .g c' n' _ => c' = c && n' = n
    | _ => false))
def Inst.vBusy (i : Inst) (n : Nat) : Bool :=
  i.reqs.any (fun r => r.holds && (match r.dst with
    | .v n' => n' = n
    | _ => false))
def Inst.mBusy (i : Inst) (n : Nat) : Bool := n ≠ 0 && i.reqs.any (fun r => r.holds && r.mask = n)
def Inst.tBusy (i : Inst) (n : Nat) : Bool :=
  i.reqs.any (fun r => r.holds && (match r.dst with
    | .t n' => n' = n
    | _ => false))

/-- Landing-buffer entries in use (R54): every request with a destination, TLD's apart (R325). -/
def Inst.landingUsed (i : Inst) : Nat :=
  (i.reqs.filter (fun r => match r.dst with
    | .discard => false
    | .t _ => false
    | _ => true)).length

end Sys2Proof.Machine
end

