-- ==== Sys2Proof/Machine/Routes.lean ====
section
/-!
DEFINITION. Routes and the circuit plane of this device (R14 to R17, R153, R155, R161, R169): ports, the way of a probe over mesh
routers, links and ports, its backtracks, and the crosspoints that circuits hold. What other devices' crosspoints do comes with the
events. Egress ports are numbered 0 to 127 for fabric ports (R16) and 128 + 2 l + d for V-V link l of R357, d = 0 forward, 1 back.
-/
namespace Sys2Proof.Machine

/-! ## Dies, links, ports (R14, R15, R153, R155, R170) -/

/-- The V-V link between two neighbouring V-dies and its direction (R148, R357). -/
def vvLink (a b : Nat) : Option (Nat × Nat) :=
  let lo := Nat.min a b
  let hi := Nat.max a b
  let d := if a < b then 0 else 1
  if hi = lo + 4 then some (7 + lo, d)
  else if hi = lo + 1 ∧ lo / 4 = hi / 4 then some (if lo < 4 then 1 + lo else lo, d)
  else none

/-- The next V-die on the way from die a to die b: along the grid row, then along the column (R153). -/
def nextDie (a b : Nat) : Nat :=
  if a % 4 < b % 4 then a + 1 else if b % 4 < a % 4 then a - 1 else if a < b then a + 4 else a - 4

def State.port (s : State) (p : Nat) : Port := Sparse.get .reset s.ports p

/-- A working port of this role: to a device of this row in column c (row hop), or of this column in row r (R170). -/
def findPort (s : State) (want : PortRole) : Option Nat :=
  (s.ports.find? (fun p => p.1 < 128 && p.2.role = want && !p.2.failed)).map (fun p => p.1)

/-- Fabric ports towards peer p from a device with number self, in the order in which they are tried: the hop of R153, then the
intermediates of the row or column in ascending order after the target, wrapping at 63 and skipping source and target (R155, R161). -/
def candPorts (s : State) (self p : Nat) : List Nat :=
  let (mk, src, tgt) : (Nat → PortRole) × Nat × Nat :=
    if self % 64 ≠ p % 64 then (.row, self % 64, p % 64) else (.col, self / 64, p / 64)
  let after := ((upto 63).map (fun n => (tgt + 1 + n) % 64)).filter (fun k => k ≠ src)
  (tgt :: after).filterMap (fun k => findPort s (mk k))

/-- The fabric port towards peer p (R153, R155). -/
def fabricPort (s : State) (self p : Nat) : Option Nat := (candPorts s self p).head?

/-- The port by which requests to foreign peers leave: the first working member of a UALink station group (R175; log 60). -/
def foreignPort (s : State) : Option Nat := findPort s .ualink

/-- The first die egress port of a flow (R160): none on one V-die. -/
def egressPort (s : State) (self : Option Nat) (f : Flow) : Option Nat :=
  let src := dieOfIsle f.src
  let toDie (d : Nat) : Option Nat := if src = d then none else (vvLink src (nextDie src d)).map (fun l => 128 + 2 * l.1 + l.2)
  if self = some f.peer then toDie (dieOfIsle f.isle)
  else match self with
    | none => none
    | some me => match fabricPort s me f.peer with
      | none => none
      | some p => if src = p / 16 then some p else toDie (p / 16)

/-- p is this device's own number in the partition of a live launch (R111). -/
def State.isSelf (s : State) (p : Nat) : Bool := s.launches.any (fun l => selfOf l.2.part = some p)

/-! ## Crosspoints (R161, R169) -/

/-- Who sends a probe. -/
structure Prober where
  circ : CircuitRef
  prio : Nat
  pre : Bool

/-- The circuit, or the probe for it, comes from a promotion. -/
def promotedRef : CircuitRef → Bool
  | .promoted _ => true
  | .arriving _ .promoted => true
  | _ => false

/-- The probe is that of a COPEN. -/
def straitRef : CircuitRef → Bool
  | .strait _ _ => true
  | .arriving _ (.strait _) => true
  | _ => false

/-- The probe may pre-empt this crosspoint (R169). -/
def Prober.mayTake (p : Prober) (x : Xhold) : Bool :=
  !promotedRef p.circ && decide (x.prio + 2 ≤ p.prio) && (if promotedRef x.circ then straitRef p.circ else x.pre)

/-- A probe on its way: the router it stands at, by the isle of its place, an intermediate V-die it heads for, what it has reserved, the
circuits it pre-empts, its backtracks. -/
structure Walk where
  here : Nat
  via : Option Nat
  held : List Xpt
  broken : List CircuitRef
  backs : Nat

/-- Takes crosspoints xs: none where one of them is in conflict (R161). -/
def Walk.take (s : State) (p : Prober) (w : Walk) (xs : List Xpt) : Option Walk :=
  let met := s.xpts.filter (fun x => xs.contains x.xpt && x.circ ≠ p.circ)
  if met.all p.mayTake then
    some { w with held := w.held ++ xs.filter (fun x => !w.held.contains x), broken := (w.broken ++ met.map (fun x => x.circ)).eraseDups }
  else none

/-- A conflict: one backtrack more, none after the third (R161). -/
def Walk.back (w : Walk) : Option Walk := if 3 ≤ w.backs then none else some { w with backs := w.backs + 1 }

/-- Column and row of a router on its V-die's mesh (R17), and the router next to it in a direction. -/
def meshX (k : Nat) : Nat := k % 8
def meshY (k : Nat) : Nat := k % 32 / 8
def meshNext (k dir : Nat) : Nat :=
  match dir with
  | 0 => k + 1
  | 1 => k - 1
  | 2 => k + 8
  | _ => k - 8

/-- The direction from a router to another of its V-die: along x, then along y (R153). -/
def meshDir (k t : Nat) : Nat :=
  if meshX k < meshX t then 0 else if meshX t < meshX k then 1 else if meshY k < meshY t then 2 else 3

/-- The direction to the adjacent line: ascending, or descending at the edge (R161). -/
def meshAside (k dir : Nat) : Nat :=
  if dir ≤ 1 then (if meshY k < 3 then 2 else 3) else (if meshX k < 7 then 0 else 1)

/-- One hop on the mesh towards router t; in a conflict the hop to the adjacent line instead. -/
def Walk.mesh (s : State) (p : Prober) (t : Nat) (w : Walk) : Option Walk :=
  let go (w : Walk) (dir : Nat) : Option Walk :=
    (w.take s p [.router w.here dir]).map (fun v => { v with here := meshNext w.here dir })
  match go w (meshDir w.here t) with
  | some v => some v
  | none => w.back.bind (fun w => go w (meshAside w.here (meshDir w.here t)))

/-- The V-die beside the hop from die a to die b, where that hop is in conflict: on the module grid as on a mesh (R161). -/
def dieAside (a b : Nat) : Nat := if a / 4 = b / 4 then (if a < 4 then a + 4 else a - 4) else (if a % 4 < 3 then a + 1 else a - 1)

/-- One hop towards the neighbouring V-die d: to the router of the link, then over it. -/
def Walk.cross (s : State) (p : Prober) (d : Nat) (w : Walk) : Option Walk :=
  let a := dieOfIsle w.here
  match vvLink a d with
  | none => none
  | some (l, dir) =>
    let at_ := 32 * a + (Config.linkRouter l a).toNat
    if w.here ≠ at_ then w.mesh s p at_
    else match w.take s p [.link l dir false, .link l dir true] with
      | some v => some { v with here := 32 * d + (Config.linkRouter l d).toNat }
      | none => w.back.map (fun w => { w with via := some (dieAside a d) })

/-- The way to router t, within a number of hops. -/
def Walk.to (s : State) (p : Prober) (t : Nat) : Nat → Walk → Option Walk
  | 0, _ => none
  | n + 1, w =>
    let w := if w.via = some (dieOfIsle w.here) then { w with via := none } else w
    if w.here = t && w.via.isNone then some w
    else
      let next := if dieOfIsle w.here = dieOfIsle t && w.via.isNone then w.mesh s p t
        else w.cross s p (match w.via with
          | some d => d
          | none => nextDie (dieOfIsle w.here) (dieOfIsle t))
      next.bind (Walk.to s p t n)

/-- More hops than any way has. -/
def walkHops : Nat := 128

/-- The router of a fabric port (R16). -/
def portAt (q : Nat) : Nat := 32 * (q / 16) + (Config.portRouter q).toNat

/-- The way out of the device by the first of these ports whose crosspoint is free (R161); with the port. -/
def Walk.out (s : State) (p : Prober) : List Nat → Walk → Option (Walk × Nat)
  | [], _ => none
  | q :: qs, w => match w.to s p (portAt q) walkHops with
    | none => none
    | some w => match w.take s p [.port q true] with
      | some v => some (v, q)
      | none => w.back.bind (Walk.out s p qs)

/-- A probe at the router of isle k. -/
def Walk.start (k : Nat) : Walk := ⟨k, none, [], [], 0⟩

/-- A circuit gives its crosspoints up. -/
def dropXpts (c : CircuitRef) (s : State) : State := { s with xpts := s.xpts.filter (fun x => x.circ ≠ c) }

/-- A probe's reservations. -/
def reserve (p : Prober) (w : Walk) (s : State) : State :=
  { s with xpts := s.xpts ++ w.held.map (fun x => ⟨x, p.circ, p.prio, p.pre⟩) }

/-- CAUSE of a circuit that a probe has pre-empted (R166). -/
def caPREEMPT : BitVec 4 := 3

/-- A probe takes its way; the circuits that it pre-empts break, whole (R161, R169). -/
def takeWay (p : Prober) (w : Walk) (s : State) : State :=
  reserve p w (w.broken.foldl (fun s c => { dropXpts c s with loop := s.loop ++ [.broken c caPREEMPT] }) s)

/-- The way of a probe from isle k: to isle j of this device, or out to a peer. -/
def probeWay (s : State) (self : Option Nat) (p : Prober) (f : Flow) : Option (Walk × Option Nat) :=
  if self = some f.peer then ((Walk.start f.src).to s p f.isle walkHops).map (fun w => (w, none))
  else match self with
    | none => none
    | some me => ((Walk.start f.src).out s p (candPorts s me f.peer)).map (fun w => (w.1, some w.2))

/-- The way of a probe that comes in by a port to isle j, after its backtracks so far. -/
def probeIn (s : State) (p : Prober) (port j backs : Nat) : Option Walk :=
  ({ Walk.start (portAt port) with backs := backs }.take s p [.port port false]).bind (Walk.to s p j walkHops)

/-! ## Messages of the device to itself -/

/-- A message of a flow: to this device itself, else to the outside. -/
def sendFlow (here : Bool) (own : Loop) (out : Out) (s : State) : State :=
  if here then { s with loop := s.loop ++ [own] } else s.send out

/-- What is under way on a circuit of flow f is dropped with it; its marks find no receiver any more. -/
def dropCircuitData (f : Flow) (kind : CircKind) (s : State) : State :=
  { s with loop := s.loop.filter (fun m => match m with
    | .data d => !({ d.flow with peer := d.srcPeer } = f && d.kind = kind)
    | .marked g _ => !(g = f && kind = .promoted)
    | .demotion g => !(g = f && kind = .promoted)
    | _ => true) }

/-- The flow of a handle: its fallback packets and its stream (R167). -/
def Handle.flow (k : Nat) (h : Handle) : Flow := ⟨k, h.peer.toNat, h.isle.toNat, h.label.toNat⟩

/-- The circuit, or the probe, of handle h of isle k is torn down: its crosspoints are free and bytes under way on it are gone. -/
def tearStrait (k h : Nat) (x : Handle) (s : State) : State :=
  let f := x.flow k
  let s := dropXpts (.strait k h) s
  if s.isSelf f.peer then dropCircuitData f (.strait h) { s with straits := s.straits.filter (fun y => !(y.flow = f && y.h = h)) }
  else s.send (.teardown (.strait k h))

end Sys2Proof.Machine
end

