-- ==== Sys2Proof/Machine/Packet.lean ====
section
/-!
DEFINITION. Window packets and the sender side of flow promotion (R156 to R163, R372): meters, closing a packet, resending after a break.
-/
namespace Sys2Proof.Machine

/-! ## Packets on the packet plane -/

/-- Where a packet's first byte goes: an isle of this device, or of a peer, through its scratchpad window. -/
def packetTgt (self : Option Nat) (f : Flow) (off : Nat) : Tgt :=
  if self = some f.peer then .spad f.isle off else .peer f.peer (spadBase + f.isle * 2 ^ 22 + off)

/-- A packet to a peer leaves when it closes; one to an isle of this device is performed here. -/
def sentAt (now : Nat) : Tgt → Option Nat
  | .peer _ _ => some now
  | _ => none

/-- A packet goes on the packet plane: to the outside, or left to its access where its destination is on this device. -/
def putOnPackets (part : Partition) (f : Flow) (cursor : Nat) (data : List Byte) (s : State) : State :=
  if selfOf part = some f.peer then s
  else s.send (.packet ⟨(selfOf part).getD 0, part.tenant, genOf s part f.peer, f, cursor, data⟩)

/-! ## Meter entries (R160) -/

/-- The entry has a probe or a circuit under way, or waits for the end of one. -/
def Meter.active (m : Meter) : Bool := !(m.st = .pkt || m.st = .hold)

/-- The entry of a flow: the active one where there is one, else the most recently used. -/
def State.meter (s : State) (f : Flow) : Option Meter :=
  match s.meters.find? (fun m => m.flow = f && m.active) with
  | some m => some m
  | none => s.meters.find? (fun m => m.flow = f)

/-- Updates the entry of a flow. -/
def State.updMeter (s : State) (f : Flow) (g : Meter → Meter) : State :=
  match s.meter f with
  | none => s
  | some m => { s with meters := s.meters.map (fun x => if x.flow = f && x.port = m.port then g x else x) }

/-- The packet is held at its port or goes on a circuit. -/
def heldBack (m : Meter) (id : Nat) : Bool := m.onCircuit.any (fun p => p.acc = id) || m.waiting.any (fun p => p.acc = id)

/-! ## After a break or a demotion (R162, R372) -/

/-- Bytes cut every 2,048 from the first one resent (R372). -/
def cut2048 : Nat → List Byte → List (List Byte)
  | 0, _ => []
  | n + 1, bs => if bs = [] then [] else bs.take 2048 :: cut2048 n (bs.drop 2048)

/-- The bytes of packets on the circuit from the acknowledged offset on, in offset order (R162). -/
def unackedBytes (m : Meter) : List Byte :=
  let all := m.onCircuit.flatMap (fun p => p.data)
  match m.onCircuit with
  | [] => []
  | p :: _ => all.drop ((m.acked + 2 ^ 22 - p.cursor) % 2 ^ 22)

/-- The sender of resent bytes: isle, instance, launch and rank (R411). -/
structure Sender where
  isle : Nat
  uid : Nat
  launch : Nat
  rank : Nat
  deriving DecidableEq, Repr

/-- Sends pieces as packets of the flow in offset order, each a write that counts towards settle (R162, R167, R372, R411). -/
def resend (w : Sender) (part : Partition) (kind : Nat → AccKind) (f : Flow) : Nat → List (List Byte) → State → State
  | _, [], s => s
  | off, b :: bs, s =>
    let a : Access :=
      { id := s.nextId, isle := w.isle, uid := w.uid, launch := w.launch, ctx := .S, rank := w.rank, pc := 0, kind := kind off,
        parts := [⟨0, 0, packetTgt (selfOf part) f off, b.length, .rc, .near, sentAt s.time (packetTgt (selfOf part) f off), leNat b, 0,
          false, 0, .ok⟩],
        acq := false, atHome := false, vis := 0, nack := none, after := (0, 0, 0) }
    resend w part kind f ((off + b.length) % 2 ^ 22) bs
      (putOnPackets part f off b { s with nextId := s.nextId + 1, acc := s.acc ++ [a] })

/-- The sender of a packet and the partition of its launch, by its access. -/
def packetPart (s : State) (acc : Nat) : Option (Sender × Partition) :=
  match s.acc.find? (fun a => a.id = acc) with
  | none => none
  | some a => (s.launch a.launch).map (fun l => (⟨a.isle, a.uid, a.launch, a.rank⟩, l.part))

/-- A packet that waited goes on the packet plane behind what was sent since it closed: its access takes a new number. -/
def releasePacket (port : Nat) (f : Flow) (s : State) (p : SentPacket) : State :=
  match s.acc.find? (fun a => a.id = p.acc), packetPart s p.acc with
  | some a, some (_, part) =>
    let b := { a with id := s.nextId, parts := a.parts.map (fun q => { q with sent := sentAt s.time q.tgt }) }
    (putOnPackets part f p.cursor p.data { s with nextId := s.nextId + 1, acc := s.acc.filter (fun a => a.id ≠ p.acc) ++ [b] }).count
      (blkPort port) 0
  | _, _ => s

/-- Counters of a port (R407). -/
def idxMARKED : Nat := 1
def idxBACKTRACKS : Nat := 3
def idxSETUP : Nat := 4
def idxRESENTBYTES : Nat := 6
def idxRESENTPACKETS : Nat := 7
def idxTOKENS : Nat := 9
/-- Circuits broken, by cause. -/
def idxBROKEN (cause : BitVec 4) : Nat := 16 + cause.toNat

/-- The bytes of the circuit that are not acknowledged go as packets of the flow in place of its packets (R162, R372). -/
def resendMeter (m : Meter) (s : State) : State :=
  match m.onCircuit with
  | [] => s
  | p :: _ => match packetPart s p.acc with
    | none => s
    | some (w, part) =>
      let ids := m.onCircuit.map (fun (p : SentPacket) => p.acc)
      let bs := unackedBytes m
      let pieces := cut2048 (bs.length / 2048 + 1) bs
      let s := resend w part (fun off => .packet m.flow off) m.flow m.acked pieces { s with acc := s.acc.filter (fun a => !ids.contains a.id) }
      (s.countN (blkPort m.port) idxRESENTBYTES bs.length).countN (blkPort m.port) idxRESENTPACKETS pieces.length

/-- The packets of an entry whose circuit is gone: the bytes it lost, then the packets that waited. -/
def settleMeter (m : Meter) (s : State) : State := m.waiting.foldl (releasePacket m.port m.flow) (resendMeter m s)

/-- The entry of a flow gives way to another: its probe or circuit is torn down, and nothing of its packets is lost (log 61). -/
def evictMeter (m : Meter) (s : State) : State :=
  if !m.active then s else settleMeter m ((dropXpts (.promoted m.flow) s).send (.teardown (.promoted m.flow)))

/-- Puts the entry of a flow first at its port, as the most recently used; a port keeps 256 entries (R160). -/
def touchMeter (m : Meter) (s : State) : State :=
  let rest := s.meters.filter (fun x => !(x.flow = m.flow && x.port = m.port))
  let same := rest.filter (fun x => x.port = m.port)
  if same.length < 256 then { s with meters := m :: rest }
  else match same.getLast? with
    | none => { s with meters := m :: rest }
    | some v => evictMeter v { s with meters := m :: rest.filter (fun x => !(x.flow = v.flow && x.port = v.port)) }

/-! ## The sender's steps (R162) -/

/-- A promotion probe leaves: it pre-empts nothing, and one that finds no way on this device has failed (R161, R169). -/
def launchProbe (part : Partition) (prio : Nat) (f : Flow) (s : State) : State :=
  let self := selfOf part
  let p : Prober := ⟨.promoted f, prio, false⟩
  match probeWay s self p f with
  | none => { s with loop := s.loop ++ [.failed f 3] }
  | some (w, q) =>
    let m : Probe := ⟨self.getD 0, part.tenant, genOf s part f.peer, f, .promoted, prio, false, none, w.backs, q.getD 0⟩
    sendFlow q.isNone (.probe m) (.probe m) (reserve p w s)

/-- Payload bytes go on a promoted circuit, raw, at their offset. -/
def sendPromoted (part : Partition) (f : Flow) (off : Nat) (data : List Byte) (s : State) : State :=
  let d : CircuitData := ⟨(selfOf part).getD 0, part.tenant, genOf s part f.peer, f, .promoted, off, data, false⟩
  sendFlow (selfOf part = some f.peer) (.data d) (.circuitData d) s

/-- The demotion mark goes at the end of a promoted circuit, counted at its port. -/
def sendDemotion (here : Bool) (port : Nat) (f : Flow) (s : State) : State :=
  (sendFlow here (.demotion f) (.demotionMark f) s).count (blkPort port) 8

/-- A closed packet reaches its metering port (R160, R162): acc is its access. An active entry keeps its flow, wherever its route now
leaves; else the flow is metered at the port it leaves by. -/
def meterPacket (part : Partition) (prio uid acc : Nat) (f : Flow) (cursor : Nat) (data : List Byte)
    (s : State) : State :=
  let fin := (cursor + data.length) % 2 ^ 22
  let at_ : Option Nat := match s.meters.find? (fun m => m.flow = f && m.active) with
    | some m => some m.port
    | none => if bitAt part.foreign f.peer then none else egressPort s (selfOf part) f
  match at_ with
  | none => putOnPackets part f cursor data s
  | some port =>
    let here : Bool := selfOf part = some f.peer
    let thr := (s.port port).promoThr
    let old := s.meters.find? (fun m => m.flow = f && m.port = port)
    let m : Meter := old.getD ⟨port, f, uid, 0, 0, .pkt, s.time, 0, [], [], s.time⟩
    let seq : Bool := old.isSome && m.endOff = cursor
    let n := Nat.min (2 ^ 32 - 1) (if seq then m.count + data.length else data.length)
    let m := { m with uid := uid, count := n, endOff := fin, lastSend := s.time }
    let pk : SentPacket := ⟨acc, cursor, data⟩
    let plain (m : Meter) (s : State) : State :=
      (putOnPackets part f cursor data (touchMeter m s)).count (blkPort port) 0
    match m.st with
    | .pkt =>
      if seq && thr ≠ 0 && thr ≤ n then
        (launchProbe part prio f (plain { m with st := .probe, since := s.time } s)).count (blkPort port) 2
      else plain m s
    | .probe => plain m s
    | .hold => plain m s
    | .circ =>
      if seq then
        (sendPromoted part f cursor data (touchMeter { m with onCircuit := m.onCircuit ++ [pk] } s)).countN (blkPort port) 5 data.length
      else sendDemotion here port f (touchMeter { m with st := .demoting, since := s.time, waiting := m.waiting ++ [pk] } s)
    | .demoting => touchMeter { m with waiting := m.waiting ++ [pk] } s
    | .breaking => touchMeter { m with waiting := m.waiting ++ [pk] } s

/-! ## Closing a window packet (R157, R158) -/

/-- The payload of an open packet: bytes not written are zero (R157). -/
def MsgWin.bytes (w : MsgWin) : List Byte := (upto w.len).map (fun k => Sparse.get 0 w.payload k)

/-- Closes the open packet of window w of the instance on isle k (R157), a store of S; pc and va are those of the closing store. -/
def closePacket (k w : Nat) (pc va : Word) (s : State) : State :=
  match s.inst k with
  | none => s
  | some i =>
    let x := i.msgWin w
    if x.len = 0 then s
    else match s.launch i.launch with
      | none => s
      | some l =>
        let f : Flow := ⟨k, x.peer.toNat, x.isle.toNat, x.label.toNat⟩
        let self := selfOf l.part
        let cur := x.cursor.toNat
        let data := x.bytes
        let id := s.nextId
        let a : Access :=
          { id := id, isle := k, uid := i.uid, launch := i.launch, ctx := .S, rank := i.rank, pc := pc,
            kind := .packet f cur, parts := [⟨0, va, packetTgt self f cur, data.length, .rc, .near, sentAt s.time (packetTgt self f cur), leNat data, 0, false, 0, .ok⟩],
            acq := false, atHome := false, vis := 0, nack := none, after := (0, 0, 0) }
        let s := s.setInst k (i.setMsgWin w { x with cursor := BitVec.ofNat 22 (cur + data.length), len := 0, payload := [] })
        let s := { s with nextId := id + 1, acc := s.acc ++ [a] }
        meterPacket l.part l.eff.prio i.uid id f cur data s

/-- Places bytes in the open packet of a window at payload offset off; later bytes win (R157). -/
def placeBytes (w off : Nat) (bs : List Byte) (i : Inst) : Inst :=
  let x := i.msgWin w
  i.setMsgWin w { x with len := Nat.max x.len (off + bs.length), payload := Sparse.setAll 0 x.payload (cellsAt off bs) }

end Sys2Proof.Machine
end

