-- ==== Sys2Proof/Machine/Ops.lean ====
section
/-!
DEFINITION. The shared operations on instances and launches: counting finished commands, barriers, retire, settle, stopping an
instance, TAKING A PRECISE TRAP, aborting a fault domain (R41, R42, R78, R159, R305, R328, R374 to R384).
No handler of a program runs on this machine and no instruction returns from a trap: a precise trap ends the launch (R375).
-/
namespace Sys2Proof.Machine

/-! ## Engine commands -/

/-- The engine queue a command enters (R324, R348); none for other instructions. -/
def engineOf : Instr → Option Engine
  | .mxm _ | .mxmRb _ | .mxz _ | .mxd _ => some .mx
  | .cpy _ | .cpyT8 _ | .cpyT16 _ | .gather _ | .scatter _ | .scadd _ | .wload _ => some .cp
  | .att _ => some .at
  | .ard _ | .agt _ | .rsc _ | .bct _ | .tree _ | .rota _ => some .cl
  | .copen _ | .chold _ | .csend _ | .csendResume _ | .cshut _ | .cstat _ => some .ci
  | .tide _ => some .td
  | _ => none

def Cmd.isOf (e : Engine) (c : Cmd) : Bool := engineOf c.word = some e
def Cmd.isDone (c : Cmd) : Bool := c.phase = .finished

/-- A copy-engine command stops at a row boundary (R92, R376). -/
def Cmd.isCopy (c : Cmd) : Bool := c.isOf .cp
def Cmd.isCopen (c : Cmd) : Bool :=
  match c.word with
  | .copen _ => true
  | _ => false
def Cmd.isRota (c : Cmd) : Bool :=
  match c.word with
  | .rota _ => true
  | _ => false
def Cmd.isColl (c : Cmd) : Bool :=
  match c.word with
  | .ard _ | .agt _ | .rsc _ | .bct _ => true
  | _ => false

/-- Counts the finished commands at the head of engine e's queue (R328), with the stores their reads observed (R133); TIDE_ST takes
each tide completion in turn (R150). -/
def countFinished (e : Engine) : List Cmd → Inst → List Cmd → Inst
  | [], i, kept => { i with cmds := kept.reverse }
  | c :: cs, i, kept =>
    if c.isOf e then
      if c.isDone then
        let i := i.addCnt e
        let i := { i with engObs := i.engObs ++ c.obs.map (fun n => (e, n)) }
        countFinished e cs (if e = .td then { i with tideSt := c.res } else i) kept
      else { i with cmds := kept.reverse ++ c :: cs }
    else countFinished e cs i (c :: kept)

def Inst.updCmd (i : Inst) (id : Nat) (f : Cmd → Cmd) : Inst :=
  { i with cmds := i.cmds.map (fun c => if c.id = id then f c else c) }

/-- Command id of the instance finishes, and what can be counted is counted (R328). -/
def Inst.finish (i : Inst) (id : Nat) : Inst :=
  match i.cmds.find? (fun c => c.id = id) with
  | none => i
  | some c =>
    let i := i.updCmd id (fun c => { c with phase := .finished })
    match engineOf c.word with
    | some e => countFinished e i.cmds i []
    | none => i

/-! ## Tide completions (R150, R151) -/

def tsGRANTED : Nat := 1
def tsSUPERSEDED : Nat := 2
def tsEXPIRED : Nat := 3
def tsWITHDRAWN : Nat := 4

/-- Link number of R357 as an index of State.links for an isle, and back. -/
def linkIndex (isle n : Nat) : Nat := if n = 0 then isle / 32 else 7 + n
def linkNumber (l : Nat) : Nat := if l < 8 then 0 else l - 7

def State.link (s : State) (l : Nat) : Link := (Assoc.find s.links l).getD (Link.reset l)
def State.setLink (s : State) (l : Nat) (x : Link) : State := { s with links := Assoc.put s.links l x }

/-- A tide request completes: its command finishes with this TIDE_ST, whose SPLIT is the link's at this moment (R150, R151; log 72). -/
def finishTide (l : Nat) (status : Nat) (r : TideReq) (s : State) : State :=
  let v : Word := BitVec.ofNat 64 ((s.link l).split * 2 ^ 16 + linkNumber l * 2 ^ 8 + status)
  let fin (i : Inst) : Inst := (i.updCmd r.cmd (fun c => { c with res := v })).finish r.cmd
  match s.isleOf r.uid with
  | some k => s.updInst k fin
  | none => { s with saved := s.saved.map (fun i => if i.uid = r.uid then fin i else i) }

/-- Pending requests of instance uid complete WITHDRAWN (R150). -/
def withdrawTide (uid : Nat) (s : State) : State :=
  s.links.foldl (fun s p =>
    let gone := p.2.pending.filter (fun r => r.uid = uid)
    let s := s.setLink p.1 { p.2 with pending := p.2.pending.filter (fun r => r.uid ≠ uid) }
    gone.foldl (fun s r => finishTide p.1 tsWITHDRAWN r s) s) s

/-! ## Barriers (R305) -/

def Launch.doneOf (l : Launch) (b : Nat) : BitVec 16 := Sparse.get 0 l.done b
def Inst.arrOf (i : Inst) (b : Nat) : BitVec 16 := Sparse.get 0 i.arr b
def CtxState.lagOf (x : CtxState) (b : Nat) : BitVec 16 := Sparse.get 0 x.lag b

/-- Instances of a launch that have not retired, saved ones among them (R305). -/
def unretired (s : State) (id : Nat) : List Inst :=
  ((s.slots.map (fun p => p.2)).filter (fun i => i.launch = id && (i.life = .running || i.life = .saving))) ++
    s.saved.filter (fun i => i.launch = id)

/-- DONE advances when every unretired instance has arrived (R305). -/
def evalBarrier (id b : Nat) (s : State) : State :=
  match s.launch id with
  | none => s
  | some l =>
    let n := l.doneOf b + 1
    let is := unretired s id
    if is ≠ [] ∧ is.all (fun i => i.arrOf b = n) then
      s.updLaunch id (fun l => { l with done := Sparse.set 0 l.done b n })
    else s

def evalBarriers (id : Nat) (s : State) : State := (upto 32).foldl (fun s b => evalBarrier id b s) s

/-! ## Retire and settle (R41, R78 to R80, R159) -/

/-- The access counts towards settle (R78). -/
def Access.settles (a : Access) : Bool :=
  match a.kind with
  | .load | .fetch | .tld | .engRead _ => false
  | _ => true

/-- Target of a byte of a launch's structure, translated through its segment table with permission (R77, R409). -/
def launchTgt (segs : List Seg) (self : Option Nat) (perm : Seg → Bool) (v : Nat) : Option (Seg × Tgt) :=
  match findSeg segs v with
  | .ok e => if perm e then some (e, segTgt self e v) else none
  | .error _ => none

/-- CADDR of a LAUNCH packet (R71). -/
def packetField (p : List Byte) (off n : Nat) : Nat := leNat ((p.drop off).take n)

/-- Targets that R409 allows for a completion record: DRAM of this device or of a peer that is valid (R112). -/
def recordTgt (s : State) (part : Partition) : Tgt → Bool
  | .dram _ => true
  | .peer p a => peerOk s part p && (match localTgt a with
    | .dram _ => true
    | _ => false)
  | _ => false

/-- A memory-side atomic of the device on 8 bytes of a completion record (R80, R409): at its home, wherever the bytes are, or as a
request to a peer. -/
def recordAmo (segs : List Seg) (part : Partition) (va : Nat) (f : AmoFn) (x : Nat) (s : State) : State :=
  match launchTgt segs (selfOf part) (fun e => e.w) va with
  | some (_, .dram a) => ownRequest a (.amo f x 8 false) s
  | some (_, .peer p a) => (match guestOf s p a with
    | some g => ownRequest (g.backing + normPa a % 2 ^ 21) (.amo f x 8 false) s
    | none =>
      { s.send (.request s.nextId 0 p part.tenant (genOf s part p) a 0 (.amo f x 8 false)) with nextId := s.nextId + 1 })
  | _ => s

/-- Writes the completion record at CADDR: ORs STATUS where bits are due, then adds 1 to COUNT (R79, R80). -/
def completionAt (s : State) (segs : List Seg) (part : Partition) (caddr status : Nat) : State :=
  if caddr = 0 then s
  else
    let s := if status = 0 then s else recordAmo segs part (caddr + 8) .or status s
    recordAmo segs part caddr .add 1 s

/-- CADDR translates, with W permission, to a target that R409 allows for a completion record, first and last byte of it. -/
def completionOk (s : State) (segs : List Seg) (part : Partition) (caddr : Nat) : Bool :=
  [caddr, caddr + 15].all (fun va => match launchTgt segs (selfOf part) (fun e => e.w) va with
    | some (_, t) => recordTgt s part t
    | none => false)

/-- A retired launch whose writes are all acknowledged settles (R78, R80). -/
def settleLaunch (id : Nat) (s : State) : State :=
  match s.launch id with
  | none => s
  | some l =>
    let busy := s.acc.any (fun a => a.launch = id && a.settles) || s.slots.any (fun p => p.2.launch = id && !p.2.cmds.isEmpty)
    if l.retired && !busy && !l.claiming then
      let s := completionAt s l.segs l.part (packetField l.packet 0x18 8) l.status
      let q := s.queue l.vf l.q
      let s := s.setQueue l.vf l.q { q with unsettled := q.unsettled.filter (fun x => x ≠ id) }
      { s with launches := Assoc.del s.launches id }
    else s

/-- The instance has ended, its commands have completed and its landings are written or discarded (R78). -/
def Inst.drained (i : Inst) : Bool :=
  (i.life = .retired || i.life = .stopped || i.life = .discarded) && i.cmds.isEmpty && i.reqs.all (fun r => r.arrived)

/-- Rotations that ended on isles whose instance leaves now (R370). -/
def endedOn (s : State) : List (Nat × Nat × Nat × Nat) :=
  (s.slots.filter (fun p => p.2.drained)).flatMap (fun p => p.2.rotaDone.map (fun r => (p.1, r)))

/-- Frees drained isles, retires launches without live instances, settles retired ones (R78). -/
def sweep (s : State) : State :=
  let frees := s.slots.any (fun p => p.2.drained)
  let s := { s with slots := s.slots.filter (fun p => !p.2.drained), rotaEnded := s.rotaEnded ++ endedOn s
                    freed := s.freed || frees, respec := s.respec || frees }
  let s := s.launches.foldl (fun s p =>
    if !p.2.retired && !p.2.spec && (unretired s p.1).isEmpty then s.updLaunch p.1 (fun l => { l with retired := true }) else s) s
  s.launches.foldl (fun s p => settleLaunch p.1 s) s

/-- DOWN, UP and LABEL of a ROTA parameter block (R363). -/
def rotaDown (b : List Byte) : Nat := leNat ((b.drop 4).take 2) % 4096
def rotaUp (b : List Byte) : Nat := leNat ((b.drop 6).take 2) % 4096
def rotaLabel (b : List Byte) : Nat := leNat ((b.drop 9).take 1)

/-- Discards tokens held for an isle whose instance ends, but for those that a ROTA it has issued matches (R370). -/
def dropTokens (k : Nat) (s : State) : State :=
  let matched (t : Nat × Nat × Nat) : Bool := match s.inst k with
    | none => false
    | some i => i.cmds.any (fun c => c.isRota && !c.isDone && rotaDown c.block = t.2.1 && rotaLabel c.block = t.2.2)
  { s with heldTok := s.heldTok.filter (fun t => t.1 ≠ k || matched t) }

/-- The instance on isle k retires (R41): open packets close and count, tide requests are withdrawn (R150, R159). -/
def retireInst (k : Nat) (s : State) : State :=
  match s.inst k with
  | none => s
  | some i =>
    let s := (upto 16).foldl (fun s w => closePacket k w 0 0 s) s
    let s := withdrawTide i.uid s
    let s := s.updInst k (fun i => { i with life := .retired })
    sweep (evalBarriers i.launch (dropTokens k s))

/-! ## Failing collectives and rotations (R361, R366) -/

/-- An entry about an engine command of an instance (R378). -/
def cmdEntry (k : Nat) (i : Inst) (c : Cmd) (cause detail : Nat) : FaultEntry := ⟨cause, detail, 0, i.rank, k, c.pc, 0, false⟩


/-- A collective fails at this participant: nothing is written, the cause is recorded, the command completes (R361). The packet
that tells the others carries the DETAIL in its operation field. -/
def failColl (k : Nat) (id detail : Nat) (s : State) : State :=
  match s.inst k with
  | none => s
  | some i => match i.cmds.find? (fun c => c.id = id) with
    | none => s
    | some c =>
      let s := instFault i.uid i.launch (cmdEntry k i c cCOLLECTIVE detail) s
      let s := s.send (.contribution k ⟨field c.gx.toNat 32 8, field c.gy.toNat 0 16, 0, detail, 0, 0, field c.gx.toNat 12 13,
        field c.gx.toNat 0 12, 0, 0, [], true⟩)
      s.updInst k (fun i => i.finish id)

/-- The rotation of a command has ended on the instance (R370). -/
def Inst.endRota (i : Inst) (c : Cmd) : Inst :=
  { i with rotaDone := (i.rotaDone ++ [(rotaDown c.block, rotaUp c.block, rotaLabel c.block)]).eraseDups }

/-- A rotation fails: the cause is recorded, a failure mark goes downstream and closes the circuit, the command completes (R366). -/
def failRota (k : Nat) (id detail : Nat) (s : State) : State :=
  match s.inst k with
  | none => s
  | some i => match i.cmds.find? (fun c => c.id = id) with
    | none => s
    | some c =>
      let s := instFault i.uid i.launch (cmdEntry k i c cROTA detail) s
      let s := if leNat (c.block.take 2) = 0 then s else s.send (.failureMark k (rotaDown c.block) (rotaLabel c.block))
      dropXpts (.ring k) (s.updInst k (fun i => (i.endRota c).finish id))

/-! ## Stopping an instance (R376) -/

/-- Commands of a stopped or saved instance whose failure is recorded: rotations, then collectives. -/
def failStarted (k dRota dColl : Nat) (s : State) : State :=
  match s.inst k with
  | none => s
  | some i =>
    let started (c : Cmd) : Bool := c.phase ≠ .queued && !c.isDone
    let s := (i.cmds.filter (fun c => c.isRota && started c)).foldl (fun s c => failRota k c.id dRota s) s
    (i.cmds.filter (fun c => c.isColl && started c)).foldl (fun s c => failColl k c.id dColl s) s

/-- Reads that engine commands of an instance have under way are dropped: a copy command has stopped at a row boundary (R92, R376). -/
def dropReads (uid : Nat) (s : State) : State :=
  { s with acc := s.acc.filter (fun a => a.uid ≠ uid || (match a.kind with
    | .engRead _ => false
    | _ => true)) }

/-- Ends the instance on isle k without saving it (R376): commands not started go; started ones run to their boundary and are
counted, a copy command at its row boundary once its writes are acknowledged, a circuit command at once as its circuits are torn down. -/
def stopInst (k : Nat) (s : State) : State :=
  match s.inst k with
  | none => s
  | some i =>
    if i.life = .running ∨ i.life = .saving then
      let s := withdrawTide i.uid s
      let s := failStarted k 4 5 s
      let s := i.h.foldl (fun s p => if p.2.st = .opened || p.2.st = .opening then tearStrait k p.1 p.2 s else s) s
      let s := s.updInst k (fun i =>
        { i with
          life := .stopped, wb := [], wins := [], h := []
          reqs := (i.reqs.filter (fun r => !r.arrived)).map (fun r => { r with dst := .discard, mask := 0 })
          cmds := (i.cmds.filter (fun c => c.phase ≠ .queued)).map (fun c =>
            if c.isCopy && !c.isDone then { c with phase := .writing } else c) })
      let s := dropReads i.uid s
      let s := s.updInst k (fun i => (i.cmds.filter (fun c => c.isOf .ci)).foldl (fun i c => i.finish c.id) i)
      let s := dropTokens k s
      evalBarriers i.launch s
    else s

/-- Discards the saved instances that p selects, their slots freed (R377, R384). -/
def dropSaved (p : Inst → Bool) (s : State) : State := { s with saved := s.saved.filter (fun i => !p i) }

/-- Stops every instance of launch id (R375, R384). -/
def stopLaunch (id : Nat) (s : State) : State :=
  let ks := (s.slots.filter (fun p => p.2.launch = id)).map (fun p => p.1)
  let s := ks.foldl (fun s k => stopInst k s) s
  let s := dropSaved (fun i => i.launch = id) s
  sweep (evalBarriers id s)

/-! ## Taking a precise trap (R42, R374, R375, R378) -/

/-- The instance on isle k takes a precise trap: the entry is recorded in the block of its region, the instance stops, and its
launch ends, the other instances stopping in the next clock. In a speculation it dooms the speculation and records nothing. -/
def takeTrap (k ctx cause detail : Nat) (pc addr : Word) (s : State) : State :=
  match s.inst k with
  | none => s
  | some i =>
    if i.life = .running ∨ i.life = .saving then
      match s.launch i.launch with
      | none => s
      | some l =>
        if l.spec then sweep (discardSpec .doom i.launch s)
        else
          let s := launchFault i.launch ⟨cause, detail, ctx, i.rank, k, pc, addr, false⟩ s
          let s := s.updLaunch i.launch (fun l => { l with trapped := true, status := l.status ||| stTRAP })
          sweep (stopInst k s)
    else s

/-- The other instances of a trapped launch stop at the next clock (R375). -/
def stopTrapped (s : State) : State :=
  s.launches.foldl (fun s p => if p.2.trapped then (stopLaunch p.1 s).updLaunch p.1 (fun l => { l with trapped := false }) else s) s

/-! ## Fault domains (R383, R384) -/

/-- Ends every launch of the subtree of block dom, speculations doomed, live and saved instances gone (R384). -/
def endSubtree (dom : Nat) (s : State) : State :=
  s.launches.foldl (fun s p =>
    if p.2.chain.contains dom then
      if p.2.spec then discardSpec .doom p.1 s else stopLaunch p.1 (addStatus p.1 stABORT s)
    else s) s

/-- The functions that a domain belongs to: those of the launches and of the enabled queues of its subtree. -/
def domainVfs (s : State) (dom : Nat) : List Nat :=
  (s.launches.filter (fun p => p.2.chain.contains dom)).map (fun p => p.2.vf) ++
  (s.vfs.filter (fun v => v.2.queues.any (fun q => q.2.en && (match climb s v.2.rootrcb 7 q.2.rcb with
    | some c => c.contains dom
    | none => false)))).map (fun v => v.1)

/-- A fault domain aborts: one ABORT entry in its own block, then its subtree ends (R384); MSI-X vector 2 tells the functions it
belongs to, and those that asked, that the abort is complete (R396). -/
def abortDomain (dom detail : Nat) (asked : List Nat) (s : State) : State :=
  let t := sweep (endSubtree dom (recordEntry dom ⟨cABORT, detail, 0, 0, 0, 0, 0, false⟩ s))
  (asked ++ domainVfs s dom).eraseDups.foldl (fun s v => s.send (.msix v 2)) t

end Sys2Proof.Machine
end

