-- ==== Sys2Proof/Machine/Operands.lean ====
section
/-!
DEFINITION. Operand forms and the frame in which every instruction word executes: the context tag, slot classes (R36, R38, R39),
declared counts (R63), reading and writing G fields with pops and pushes (R47, R226), scoreboard waits (R53), branches (R240,
R43, R44) and the outcomes of an attempt to issue (R42, R65).
-/
namespace Sys2Proof.Machine

/-- Slot classes of R38. -/
inductive Slot
  | scalar | sync | memoryRead | memoryWrite | message | vector | engineCommand
  deriving DecidableEq, Repr

/-- The context tag of a word; an event has none. -/
def tagOfInstr : Instr → Option Tag
  | .add o | .sub o | .mul o | .mulh o | .mulhu o | .div o | .divu o | .rem o | .remu o | .and o | .or o | .xor o
  | .andn o | .shl o | .shr o | .sar o | .rol o | .min o | .max o | .minu o | .maxu o | .slt o | .sltu o | .seq o
  | .fmin o | .fmax o => some o.ct
  | .clz o | .ctz o | .popc o | .bswap o | .loc o | .fcvtF32Bf16 o | .fcvtF32F16 o | .fcvtL6F32 o | .fcvtF32L6 o => some o.ct
  | .sel o => some o.ct
  | .lea o => some o.ct
  | .bfx o | .bfi o => some o.ct
  | .addImm o | .mulImm o | .andImm o | .orImm o | .xorImm o | .sltImm o | .sltuImm o | .seqImm o | .lui o => some o.ct
  | .shlImm o | .shrImm o | .sarImm o => some o.ct
  | .li o => some o.ct
  | .fadd o | .fsub o | .fmul o => some o.ct
  | .fcmp o => some o.ct
  | .fcvtI32F32 o | .fcvtF32I32 o | .fcvtBf16F32 o | .fcvtF16F32 o => some o.ct
  | .ffma o => some o.ct
  | .br o | .call o => some o.ct
  | .bc o => some o.ct
  | .loop o => some o.ct
  | .jr o | .callr o => some o.ct
  | .ret o | .exit o | .nop o | .succ o | .waitvis o => some o.ct
  | .qpeek o | .qcnt o => some o.ct
  | .srd o | .swr o => some o.ct
  | .trap o | .hint o | .pmark o => some o.ct
  | .ld o | .lds o | .ldAq o => some o.ct
  | .st o | .stRl o => some o.ct
  | .amo o | .amoRl o => some o.ct
  | .cas o => some o.ct
  | .red o => some o.ct
  | .pref o | .cflush o | .pgreq o => some o.ct
  | .fence o => some o.ct
  | .barArr o | .barWait o | .step o => some o.ct
  | .wait o => some o.ct
  | .launch o | .qtail o => some o.ct
  | .vaddF32 o | .vsubF32 o | .vmulF32 o | .vfmaF32 o | .vminF32 o | .vmaxF32 o | .vaddBf16 o | .vsubBf16 o
  | .vmulBf16 o | .vfmaBf16 o | .vminBf16 o | .vmaxBf16 o | .vaddF16 o | .vsubF16 o | .vmulF16 o | .vfmaF16 o
  | .vminF16 o | .vmaxF16 o => some o.ct
  | .vabsF32 o | .vnegF32 o | .vabsBf16 o | .vnegBf16 o | .vabsF16 o | .vnegF16 o | .vcvtF32I32 o | .vcvtI32F32 o
  | .vcvtF32Bf16 o | .vcvtBf16F32 o | .vcvtF32F16 o | .vcvtF16F32 o | .vl6pack o | .vl6unpk o | .vexp2 o | .vlog2 o
  | .vrcp o | .vrsq o => some o.ct
  | .vaddI32 o | .vsubI32 o | .vmulI32 o | .vmulhI32 o | .vminI32 o | .vmaxI32 o | .vminuI32 o | .vmaxuI32 o
  | .vandI32 o | .vorI32 o | .vxorI32 o | .vandnI32 o | .vshlI32 o | .vshrI32 o | .vsarI32 o | .vaddI16 o
  | .vsubI16 o | .vmulI16 o | .vaddsI16 o | .vsubsI16 o | .vminI16 o | .vmaxI16 o | .vsel o | .vperm o => some o.ct
  | .vcmp o => some o.ct
  | .mand o | .mor o | .mxor o | .mandn o => some o.ct
  | .mnot o => some o.ct
  | .mpop o | .mtog o => some o.ct
  | .mfromg o => some o.ct
  | .vred o => some o.ct
  | .vbcast o => some o.ct
  | .vld o | .vst o => some o.ct
  | .vlds o | .vldx o | .vsts o | .vstx o => some o.ct
  | .tld o | .tst o => some o.ct
  | .tmod o => some o.ct
  | .mxm o | .mxmRb o => some o.ct
  | .mxz o => some o.ct
  | .mxd o => some o.ct
  | .cpy o | .cpyT8 o | .cpyT16 o | .wload o => some o.ct
  | .gather o | .scatter o | .scadd o => some o.ct
  | .att o => some o.ct
  | .copen o => some o.ct
  | .chold o | .csend o | .csendResume o | .cstat o => some o.ct
  | .cshut o => some o.ct
  | .tide o => some o.ct
  | .ard o | .rsc o => some o.ct
  | .agt o | .bct o => some o.ct
  | .tree o => some o.ct
  | .rota o => some o.ct
  | .vcAdvance .. | .timedLanding .. | .landingDataArrival .. | .freezeEnd .. | .watchdog .. | .pageRefillDone ..
  | .writeAcknowledge .. | .queueEnable .. | .queueDisable .. | .tailWrite .. | .parseNop .. | .parseLaunch ..
  | .parseFence .. | .fenceCounterRead .. | .parseSignal .. | .signalAdd .. | .launchDispatch .. | .saveComplete ..
  | .instanceResume .. | .speculationTimeout .. | .commitComplete .. | .ingressRequest .. | .refusedAccess ..
  | .fabricTimeout .. | .granuleMoveStart .. | .granuleMoveEnd .. | .contestPinEnd .. | .moveRetry ..
  | .moveRetryLimit .. | .foreignPeerTimeout .. | .turnStart .. | .turnEnd .. | .tideExpired ..
  | .windowPacketArrival .. | .meterIdle .. | .probeArrival .. | .probeSuccess .. | .probeFail ..
  | .circuitDataArrival .. | .markedPacketArrival .. | .tokenArrival .. | .circuitIdle .. | .demotionMarkArrival ..
  | .circuitBreak .. | .teardownReported .. | .holdExpiry .. | .leaseExpiry .. | .fallbackDone .. | .linkFailure ..
  | .linkRetrain .. | .multicastForward .. | .collectiveContribution .. | .rackTokenArrival .. | .caskArrival ..
  | .rotaReopen .. | .failureMarkArrival .. | .engineCommandStart .. | .engineCommandComplete .. | .dieReset ..
  | .dieResetTimeout .. | .linkFlitError .. | .fabricFlitError .. | .clockThrottle .. | .shutdown | .deviceReset
  | .firmwareLoad .. | .attestation .. | .lifeCycleChange .. | .abortreq .. | .rrqctlWrite .. | .rrqctlRead ..
  | .sidebandResetRequest | .registerWrite .. | .hostLinkRequest .. | .dieReturnsToService .. | .caskConsumed .. => none

/-- The slot class of a word's major (R210). -/
def slotOf : Instr → Option Slot
  | .add _ | .sub _ | .mul _ | .mulh _ | .mulhu _ | .div _ | .divu _ | .rem _ | .remu _ | .and _ | .or _ | .xor _
  | .andn _ | .shl _ | .shr _ | .sar _ | .rol _ | .min _ | .max _ | .minu _ | .maxu _ | .slt _ | .sltu _ | .seq _
  | .clz _ | .ctz _ | .popc _ | .bswap _ | .loc _ | .sel _ | .lea _ | .bfx _ | .bfi _ | .addImm _ | .mulImm _
  | .andImm _ | .orImm _ | .xorImm _ | .shlImm _ | .shrImm _ | .sarImm _ | .sltImm _ | .sltuImm _ | .seqImm _ | .li _
  | .lui _ | .fadd _ | .fsub _ | .fmul _ | .fmin _ | .fmax _ | .fcmp _ | .fcvtI32F32 _ | .fcvtF32I32 _
  | .fcvtBf16F32 _ | .fcvtF32Bf16 _ | .fcvtF16F32 _ | .fcvtF32F16 _ | .fcvtL6F32 _ | .fcvtF32L6 _ | .ffma _ | .br _
  | .bc _ | .loop _ | .call _ | .jr _ | .callr _ | .ret _ | .qpeek _ | .qcnt _ | .srd _ | .swr _ | .trap _ | .exit _
  | .nop _ | .hint _ | .pmark _ => some .scalar
  | .fence _ | .barArr _ | .barWait _ | .step _ | .succ _ | .waitvis _ | .wait _ => some .sync
  | .ld _ | .lds _ | .ldAq _ | .pref _ | .pgreq _ | .vld _ | .vlds _ | .vldx _ => some .memoryRead
  | .st _ | .stRl _ | .amo _ | .amoRl _ | .cas _ | .red _ | .cflush _ | .vst _ | .vsts _ | .vstx _ => some .memoryWrite
  | .launch _ | .qtail _ => some .message
  | .vaddF32 _ | .vsubF32 _ | .vmulF32 _ | .vfmaF32 _ | .vminF32 _ | .vmaxF32 _ | .vabsF32 _ | .vnegF32 _
  | .vaddBf16 _ | .vsubBf16 _ | .vmulBf16 _ | .vfmaBf16 _ | .vminBf16 _ | .vmaxBf16 _ | .vabsBf16 _ | .vnegBf16 _
  | .vaddF16 _ | .vsubF16 _ | .vmulF16 _ | .vfmaF16 _ | .vminF16 _ | .vmaxF16 _ | .vabsF16 _ | .vnegF16 _
  | .vaddI32 _ | .vsubI32 _ | .vmulI32 _ | .vmulhI32 _ | .vminI32 _ | .vmaxI32 _ | .vminuI32 _ | .vmaxuI32 _
  | .vandI32 _ | .vorI32 _ | .vxorI32 _ | .vandnI32 _ | .vshlI32 _ | .vshrI32 _ | .vsarI32 _ | .vaddI16 _
  | .vsubI16 _ | .vmulI16 _ | .vaddsI16 _ | .vsubsI16 _ | .vminI16 _ | .vmaxI16 _ | .vcmp _ | .vsel _ | .mand _
  | .mor _ | .mxor _ | .mandn _ | .mnot _ | .mpop _ | .mtog _ | .mfromg _ | .vcvtF32I32 _ | .vcvtI32F32 _
  | .vcvtF32Bf16 _ | .vcvtBf16F32 _ | .vcvtF32F16 _ | .vcvtF16F32 _ | .vl6pack _ | .vl6unpk _ | .vexp2 _ | .vlog2 _
  | .vrcp _ | .vrsq _ | .vred _ | .vperm _ | .vbcast _ => some .vector
  | .tld _ | .tst _ | .tmod _ | .mxm _ | .mxmRb _ | .mxz _ | .mxd _ | .cpy _ | .cpyT8 _ | .cpyT16 _ | .gather _
  | .scatter _ | .scadd _ | .wload _ | .att _ | .copen _ | .chold _ | .csend _ | .csendResume _ | .cshut _ | .cstat _
  | .tide _ | .ard _ | .agt _ | .rsc _ | .bct _ | .tree _ | .rota _ => some .engineCommand
  | .vcAdvance .. | .timedLanding .. | .landingDataArrival .. | .freezeEnd .. | .watchdog .. | .pageRefillDone ..
  | .writeAcknowledge .. | .queueEnable .. | .queueDisable .. | .tailWrite .. | .parseNop .. | .parseLaunch ..
  | .parseFence .. | .fenceCounterRead .. | .parseSignal .. | .signalAdd .. | .launchDispatch .. | .saveComplete ..
  | .instanceResume .. | .speculationTimeout .. | .commitComplete .. | .ingressRequest .. | .refusedAccess ..
  | .fabricTimeout .. | .granuleMoveStart .. | .granuleMoveEnd .. | .contestPinEnd .. | .moveRetry ..
  | .moveRetryLimit .. | .foreignPeerTimeout .. | .turnStart .. | .turnEnd .. | .tideExpired ..
  | .windowPacketArrival .. | .meterIdle .. | .probeArrival .. | .probeSuccess .. | .probeFail ..
  | .circuitDataArrival .. | .markedPacketArrival .. | .tokenArrival .. | .circuitIdle .. | .demotionMarkArrival ..
  | .circuitBreak .. | .teardownReported .. | .holdExpiry .. | .leaseExpiry .. | .fallbackDone .. | .linkFailure ..
  | .linkRetrain .. | .multicastForward .. | .collectiveContribution .. | .rackTokenArrival .. | .caskArrival ..
  | .rotaReopen .. | .failureMarkArrival .. | .engineCommandStart .. | .engineCommandComplete .. | .dieReset ..
  | .dieResetTimeout .. | .linkFlitError .. | .fabricFlitError .. | .clockThrottle .. | .shutdown | .deviceReset
  | .firmwareLoad .. | .attestation .. | .lifeCycleChange .. | .abortreq .. | .rrqctlWrite .. | .rrqctlRead ..
  | .sidebandResetRequest | .registerWrite .. | .hostLinkRequest .. | .dieReturnsToService .. | .caskConsumed .. => none

/-- Words of the instruction: two with an extension word (R205). -/
def sizeOf (i : Instr) : Nat := (encode i).length

/-- The contexts that own a slot class (R38). -/
def owns (c : Ctx) : Slot → Bool
  | .scalar => true
  | .sync => true
  | .memoryRead => c = .L
  | .memoryWrite => c = .S
  | .message => c = .S
  | .vector => c = .C
  | .engineCommand => c = .C

/-- The word may stand under this tag: an A-tagged word is scalar or sync (R39). -/
def slotLegal (t : Tag) (c : Ctx) (sl : Slot) : Bool :=
  match t with
  | .A => sl = .scalar || sl = .sync
  | _ => owns c sl

/-- The tag names this context (R36). -/
def tagFor (t : Tag) (c : Ctx) : Bool :=
  match t, c with
  | .A, _ => true
  | .L, .L => true
  | .C, .C => true
  | .S, .S => true
  | _, _ => false

/-! ## The frame of a word -/

/-- The instance and context that execute a word. -/
structure Env where
  s : State
  k : Nat
  c : Ctx
  i : Inst

def Env.x (e : Env) : CtxState := e.i.ctx e.c
def Env.pc (e : Env) : Word := e.x.pc
def Env.lanes (e : Env) : Nat := lanesOf e.s e.k
/-- The launch of the instance; instances always have one. -/
def Env.launch (e : Env) : Option Launch := e.s.launch e.i.launch
def Env.spec (e : Env) : Bool :=
  match e.launch with
  | some l => l.spec
  | none => false

/-- The launch of the instance, handed on; an instance without one does not issue. -/
def Env.withLaunch {α : Type} (e : Env) (none_ : α) (f : Launch → α) : α :=
  match e.launch with
  | some l => f l
  | none => none_

/-- What an attempt to execute a word ends in. -/
inductive Verdict
  /-- A precise trap with its detail and ADDR; nothing of the word takes effect (R42). -/
  | trap (cause detail : Nat) (addr : Word)
  /-- The context does not issue in this vc (R65). -/
  | block (b : Block)
  /-- The context does not issue, but the word has read its count or made its arrival once (R308, R330). -/
  | hold (s : State) (b : Block)
  /-- Issued; the context continues at the next sequential PC. -/
  | go (s : State)
  /-- Issued; the branch, call or return is taken to the target. -/
  | jump (target : Word) (s : State)
  /-- EXIT (R251). -/
  | exit

/-- The context has advanced past n words without a branch (R43, R205). -/
def CtxState.advance (x : CtxState) (n : Nat) : CtxState :=
  { x with pc := x.pc + BitVec.ofNat 64 (4 * n), walk := x.walk + BitVec.ofNat 64 n, block := .none, waitCount := none,
           stepped := false, fenced := false }

/-- The context has taken a branch from an instruction of n words (R43). -/
def CtxState.branch (x : CtxState) (n : Nat) (target : Word) : CtxState :=
  { x with pc := target, walk := x.walk + BitVec.ofNat 64 (n + 1), block := .none, waitCount := none, stepped := false,
           fenced := false }

/-- A block that counts for QDEAD (R65). -/
def Block.isQueue : Block → Bool
  | .queue _ => true
  | _ => false
def Block.isSlip : Block → Bool
  | .slip _ => true
  | _ => false

/-- The context is blocked in vc v; a queue block that goes on, or a slip block that goes on, keeps the vc in which it began (R50). -/
def CtxState.blocked (x : CtxState) (b : Block) (v : Word) : CtxState :=
  { x with block := b, blockVc :=
      if (x.block.isQueue && b.isQueue) || (x.block.isSlip && b.isSlip) then x.blockVc else v }

/-- The room the slip window leaves a context to advance by n words (R44): WIN = 0 and the trailing context are free. -/
def slipOk (i : Inst) (c : Ctx) (n : Nat) : Bool :=
  let w := (i.ctx c).walk.toNat
  i.win = 0 || w = i.lowWalk || w + n ≤ i.lowWalk + i.win.toNat

/-- The effect of a verdict on the machine. A branch that has room for its own words is judged whole, its traps and waits before the
extra position that it takes when taken: the slip window holds back only a taken branch that would issue (R43, R44; DESIGN CHOICE,
log 57). -/
def settleVerdict (e : Env) (n : Nat) : Verdict → State
  | .trap cause detail addr => takeTrap e.k (ctxCode e.c) cause detail e.pc addr e.s
  | .block b => e.s.updInst e.k (fun i => i.updCtx e.c (fun x => x.blocked b i.vcyc))
  | .hold s b => s.updInst e.k (fun i => i.updCtx e.c (fun x => x.blocked b i.vcyc))
  | .go s => s.updInst e.k (fun i => i.updCtx e.c (fun x => x.advance n))
  | .jump t s =>
    if slipOk e.i e.c (n + 1) then s.updInst e.k (fun i => i.updCtx e.c (fun x => x.branch n t))
    else e.s.updInst e.k (fun i => i.updCtx e.c (fun x => x.blocked (.slip (n + 1)) i.vcyc))
  | .exit =>
    let s := e.s.updInst e.k (fun i => i.updCtx e.c (fun x => { x.advance n with live := false, stack := [] }))
    match s.inst e.k with
    | some i => if i.liveCtxs.isEmpty && !e.spec then retireInst e.k s else s
    | none => s

/-- Executes a word in the context whose turn it is: a word of another context is passed over (R36); a word that is not well
formed, or whose slot class the context does not own, takes ILLEGAL (R39, R219). -/
def runWord (ins : Instr) (s : State) (body : Env → Verdict) : Host.Outcome State Fault Refusal :=
  match s.turn with
  | .issue k c =>
    match s.inst k with
    | none => .fault .noContext
    | some i =>
      if !i.acts c then .fault .noContext
      else
        let e : Env := ⟨s, k, c, i⟩
        let n := sizeOf ins
        match tagOfInstr ins, slotOf ins with
        | some t, some sl =>
          if !tagFor t c then .next (s.updInst k (fun i => i.updCtx c (fun x => x.advance n)))
          else if !ins.wellFormed then .next (settleVerdict e n (.trap cILLEGAL 1 0))
          else if !slotLegal t c sl then .next (settleVerdict e n (.trap cILLEGAL 2 0))
          else .next (settleVerdict e n (body e))
        | _, _ => .fault .noContext
  | _ => .fault .noContext

/-! ## Declared counts (R63, R374) -/

/-- A G field names a register beyond GREGS. -/
def gOver (i : Inst) (f : BitVec 5) : Bool := decide (i.counts.gregs ≤ f.toNat) && decide (f.toNat ≤ 23)
/-- A V field names a register beyond VREGS. -/
def vOver (i : Inst) (f : BitVec 5) : Bool := decide (i.counts.vregs ≤ f.toNat)
/-- A tensor field names an identifier beyond TENSORS. -/
def tOver (i : Inst) (f : BitVec 6) : Bool := decide (i.counts.tensors ≤ f.toNat)
def hOver (i : Inst) (f : BitVec 3) : Bool := decide (i.counts.circuits ≤ f.toNat)
def bOver (i : Inst) (f : BitVec 5) : Bool := decide (i.counts.bars ≤ f.toNat)

def ovGREGS : Nat := 1
def ovVREGS : Nat := 2
def ovSPAD : Nat := 3
def ovBARS : Nat := 4
def ovTENSORS : Nat := 5
def ovCIRCUITS : Nat := 6

/-- OVERREACH of G fields, then V fields; none where every count holds. -/
def overreach (i : Inst) (gs : List (BitVec 5)) (vs : List (BitVec 5)) : Option Nat :=
  if gs.any (gOver i) then some ovGREGS else if vs.any (vOver i) then some ovVREGS else none

/-- A G field names a register of the context that an interlocked landing holds (R53). -/
def gFieldBusy (i : Inst) (c : Ctx) (f : BitVec 5) : Bool := decide (f.toNat < 24) && i.gBusy c f.toNat

/-! ## Scalar instructions with G operands -/

/-- A result and the floating-point flags it raises (R195). -/
structure Res where
  val : Word
  flags : BitVec 5

def Res.pure (v : Word) : Res := ⟨v, 0⟩

/-- ORs flags into FEX from the next vc (R52, R195). -/
def orFlags (c : Ctx) (f : BitVec 5) (i : Inst) : Inst := if f = 0 then i else i.later c (.sys .fexOr) (f.setWidth 256)

/-- A trap with its cause, detail and ADDR. -/
abbrev TrapOf := Nat × Nat × Word

/-- The value that each of the G fields reads, in field order, where it stands ready (R226). -/
def peekG (c : Ctx) (i : Inst) : List (BitVec 5) → List (Option Word)
  | [] => []
  | f :: fs =>
    match readG c i [f] with
    | .wait _ => none :: peekG c i fs
    | .ok vs j => some (vs.headD 0) :: peekG c j fs

/-- Reads G fields in order, checks counts, scoreboard, pops, and hands the values on with the instance after the pops. A word that
would be queue-blocked takes the trap that `chk` finds from the values that stand ready: queue blocking is decided only for a word
that meets no trap (R64). -/
def withChecked (e : Env) (gs : List (BitVec 5)) (dst : List (BitVec 5)) (vs : List (BitVec 5))
    (chk : List (Option Word) → Option TrapOf) (k : List Word → Inst → Verdict) : Verdict :=
  match overreach e.i (gs ++ dst) vs with
  | some d => .trap cOVERREACH d 0
  | none =>
    if (gs ++ dst).any (gFieldBusy e.i e.c) then .block .interlock
    else match readG e.c e.i gs with
      | .wait b => match chk (peekG e.c e.i gs) with
        | some (cause, d, a) => .trap cause d a
        | none => .block b
      | .ok vals i => k vals i

/-- `withChecked` for a word that meets no trap that depends on its sources alone. -/
def withSources (e : Env) (gs : List (BitVec 5)) (dst : List (BitVec 5)) (vs : List (BitVec 5))
    (k : List Word → Inst → Verdict) : Verdict := withChecked e gs dst vs (fun _ => none) k

/-- `withChecked` for a word that also names V and M registers: their scoreboard comes before the pops (R53, R63). -/
def withVecChecked (e : Env) (gs dst : List (BitVec 5)) (vs : List (BitVec 5)) (ms : List (BitVec 3))
    (chk : List (Option Word) → Option TrapOf) (k : List Word → Inst → Verdict) : Verdict :=
  if (overreach e.i (gs ++ dst) vs).isNone && (vs.any (fun r => e.i.vBusy r.toNat) || ms.any (fun r => e.i.mBusy r.toNat)) then
    .block .interlock
  else withChecked e gs dst vs chk k

def withVec (e : Env) (gs dst : List (BitVec 5)) (vs : List (BitVec 5)) (ms : List (BitVec 3))
    (k : List Word → Inst → Verdict) : Verdict := withVecChecked e gs dst vs ms (fun _ => none) k

/-- Writes one result to D after the pops, where a push has room. -/
def finishG (e : Env) (d : BitVec 5) (r : Res) (i : Inst) : Verdict :=
  if !pushRoom e.i i d then .block (.queue (d.toNat - 24))
  else .go (e.s.setInst e.k (orFlags e.c r.flags (writeG e.c e.s.nextId d r.val i)))

/-- A scalar instruction: sources in field order, one destination (R226, R229). -/
def scalarOp (gs : List (BitVec 5)) (d : BitVec 5) (f : List Word → Res) (e : Env) : Verdict :=
  withSources e gs [d] [] (fun vals i => finishG e d (f vals) i)

/-- Value n of a list of sources; sources are always as many as were named. -/
def src (vals : List Word) (n : Nat) : Word := vals.getD n 0

/-- Register form with D, A and B (R229). -/
def binOp (f : Word → Word → Res) (o : RRR) : Env → Verdict :=
  scalarOp [o.a, o.b] o.d (fun v => f (src v 0) (src v 1))

/-- Register form with D and A. -/
def unOp (f : Word → Res) (o : RR) : Env → Verdict := scalarOp [o.a] o.d (fun v => f (src v 0))

/-- The value of an F-I immediate (R208). -/
def immVal : Imm → Word
  | .short i => i.signExtend 64
  | .long l => l.signExtend 64

/-- Immediate form (R233). -/
def immOp (f : Word → Word → Res) (o : ImmOp) : Env → Verdict := scalarOp [o.a] o.d (fun v => f (src v 0) (immVal o.i))

/-- Immediate shift (R233). -/
def shiftOp (f : Word → Word → Res) (o : ShiftOp) : Env → Verdict :=
  scalarOp [o.a] o.d (fun v => f (src v 0) (o.n.setWidth 64))

/-! ## Branches (R208, R240, R243) -/

/-- The word offset of an F-B word (R208). -/
def offVal : Off → Word
  | .short o => o.signExtend 64
  | .long l => l.signExtend 64

/-- PC + 4 × o (R240). -/
def branchTarget (pc : Word) (o : Off) : Word := pc + 4 * offVal o

end Sys2Proof.Machine
end

