-- ==== Sys2Proof/Machine/Flags.lean ====
section
/-!
DEFINITION. Flag computations: the floating-point flags of scalar operations (R195, R236 to R239) and of the active lanes of
vector operations (R261), the MFLAGS bits (R121) and the mask flags of masked loads (R120).
-/
namespace Sys2Proof.Machine

/-- The low 32 bits of a source (R236). -/
def lo32 (v : Word) : Nat := v.toNat % 2 ^ 32
def lo16 (v : Word) : Nat := v.toNat % 2 ^ 16

/-- A pattern and its flags as a scalar result, zero-extended (R236). -/
def fpRes (r : Nat × BitVec 5) : Res := ⟨BitVec.ofNat 64 r.1, r.2⟩

/-- The value and flags of FCMP (R238). -/
def fcmpRes (k : FCond) (wa wb : Nat) : Res :=
  let a := decodeF fF32 wa
  let b := decodeF fF32 wb
  let nan := a.isNan || b.isNan
  let sig := a.isSig || b.isSig
  let holds := match k with
    | .eq => eqF a b
    | .lt => ltF a b
    | .le => !nan && (ltF a b || eqF a b)
    | .un => nan
  let nv := match k with
    | .eq => sig
    | .lt => nan
    | .le => nan
    | .un => sig
  ⟨BitVec.ofNat 64 (b2n holds), if nv then flNV else 0⟩

/-- The OR of the flags of a list of results (R261). -/
def orAll (fs : List (BitVec 5)) : BitVec 5 := fs.foldl (fun a f => a ||| f) 0

/-- MFLAGS bits (R121). -/
def mfNONRES : BitVec 3 := 1
def mfREFUSED : BitVec 3 := 2
def mfPOISON : BitVec 3 := 4

/-- MFLAGS bit of a failure (R121). -/
def mflagOf : Status → BitVec 3
  | .ok => 0
  | .nonres => mfNONRES
  | .refused _ => mfREFUSED
  | .poison => mfPOISON

/-- The mask flag bits of the failed elements, by lane (R120, R282). -/
def flagBits (fails : List (Nat × Status)) : Word :=
  fails.foldl (fun m p => m ||| BitVec.ofNat 64 (2 ^ p.1)) 0

/-- The MFLAGS bits of the failed elements. -/
def mflagBits (fails : List (Nat × Status)) : BitVec 3 := fails.foldl (fun m p => m ||| mflagOf p.2) 0

end Sys2Proof.Machine
end

