-- ==== Sys2Proof/Machine/Access.lean ====
section
/-!
DEFINITION. Accesses of contexts: the checks at issue (R64, R110 to R122, R287, R280), issue, the order in which accesses may be
performed (R129 to R137), and performing one part at its place (R107, R122, R132, R143 to R145, R385 to R387, R98).
-/
namespace Sys2Proof.Machine

/-! ## Where an access leads -/

/-- The space and the address of a target, so that equal bytes have equal numbers. -/
def Tgt.spot : Tgt → Nat × Nat
  | .dram a => (0, a)
  | .ws a => (1, a)
  | .own o => (2, o)
  | .mmio o => (3, o)
  | .host a => (4, a)
  | .unmapped a => (5, a)
  | .spad k o => (1000 + k, o)
  | .msgwin k w o => (2000 + 16 * k + w, o)
  | .peer p a => (10000 + p, normPa a)

/-- Two parts share a byte. -/
def Part.overlaps (p q : Part) : Bool :=
  let a := p.tgt.spot
  let b := q.tgt.spot
  decide (a.1 = b.1) && decide (a.2 < b.2 + q.len) && decide (b.2 < a.2 + p.len)

/-- A target with an access through its own isle's window brought to the own window (R63, R107). -/
def ownName (k : Nat) : Tgt → Tgt
  | .spad j o => if j = k then .own o else .spad j o
  | t => t

/-- The own-scratchpad bytes of a part. -/
def Part.ownRange (p : Part) : Option (Nat × Nat) :=
  match p.tgt with
  | .own o => if p.len = 0 then none else some (o, o + p.len - 1)
  | _ => none

/-- A byte of memory by its physical address, as the device itself reads a structure: zero where no memory stands. -/
def physByte (s : State) (pa : Nat) : Byte :=
  match localTgt pa with
  | .dram a => structByte s a
  | .ws a => homeByte s a
  | _ => 0

/-- The granule of v is resident (R119). -/
def resident (s : State) (eff : Eff) (e : Seg) (v : Nat) : Bool :=
  !e.resid || bitAt (physByte s (eff.resmap + granuleBit e v / 8)).toNat (granuleBit e v % 8)

/-! ## Checks at issue -/

/-- What a word wants of an element (R116). -/
inductive Want
  /-- A load; masked: it names M1 to M7 (R120). -/
  | load (masked : Bool)
  | store
  | amo (fn : AmoFn)
  | cas
  | red (fn : AmoFn)
  | cflush
  /-- The packet read of LAUNCH (R313). -/
  | launch
  deriving DecidableEq, Repr

def Want.reads : Want → Bool
  | .store => false
  | .red _ => false
  | _ => true
def Want.writes : Want → Bool
  | .load _ => false
  | .cflush => false
  | .launch => false
  | _ => true
def Want.isAtomic : Want → Bool
  | .amo _ => true
  | .cas => true
  | .red _ => true
  | _ => false

/-- The permissions an element needs (R116). -/
def Want.permits (w : Want) (e : Seg) : Bool := (!w.reads || e.r) && (!w.writes || e.w)

/-- PCI Express AtomicOps and foreign endpoints take ADD, SWAP and CAS; RED only ADD (R123, R298). -/
def Want.narrow : Want → Bool
  | .amo fn => fn = .add || fn = .swap
  | .red fn => fn = .add
  | _ => true

/-- The target takes this kind of atomic (R122, R298). -/
def takesAtomic (l : Launch) (w : Want) : Tgt → Bool
  | .dram _ => true
  | .own _ => true
  | .spad _ _ => true
  | .host _ => w.narrow
  | .peer p pa =>
    if bitAt l.part.foreign p then w.narrow
    else match localTgt pa with
      | .ws _ => false
      | .msgwin .. => false
      | .mmio _ => false
      | _ => true
  | _ => false

/-- The range a target of this device lies in is unmapped (R109), or the access is one that R108, R157 or R313 turn away. -/
def badTarget (k : Nat) (i : Inst) (w : Want) : Tgt → Bool
  | .msgwin j n _ => (match w with
    | .load _ => false
    | .cflush => false
    | .store => !(j = k && (i.msgWin n).en)
    | .launch => true
    | _ => false)
  | .mmio _ => w = Want.launch
  | .peer _ pa => (match localTgt pa with
    | .msgwin .. => w = .store || w = .launch
    | .mmio _ => w = .launch
    | _ => false)
  | _ => false

/-- One element that passed its checks. -/
structure Elem where
  lane : Nat
  va : Word
  tgt : Tgt
  ord : Ord
  apl : Apl
  st : Status
  deriving DecidableEq, Repr

/-- A trap of an element: its place in the order of R64, cause and detail. -/
structure ElemTrap where
  rank : Nat
  cause : Nat
  detail : Nat
  deriving DecidableEq, Repr

/-- The local address is in an unmapped range, here or at a peer that is a device of this kind (R109, R110). -/
def unmappedAt (part : Partition) : Tgt → Bool
  | .unmapped _ => true
  | .peer p pa => !bitAt part.foreign p && (match localTgt pa with
    | .unmapped _ => true
    | _ => false)
  | _ => false

/-- SEGV of an element, in the order translation, BADPA, PERM, NONRES, OUTSVC, then what the target does not take (R117). -/
def segvOf (s : State) (k : Nat) (i : Inst) (l : Launch) (w : Want) (e : Seg) (va : Nat) (t : Tgt) : Option Nat :=
  let out := match t with
    | .ws a => wsOut s a
    | _ => false
  if unmappedAt l.part t then some dBADPA
  else if !w.permits e then some dPERM
  else if w ≠ .cflush && w ≠ .load true && !resident s l.eff e va then some dNONRES
  else if out && w ≠ .cflush then some dOUTSVC
  else if badTarget k i w t then some dBADPA
  else if w.isAtomic && !takesAtomic l w t then some dNOATOM
  else none

/-- Natural alignment, and the widths that MMIO takes (R118, R397). -/
def misaligned (w : Want) (va n : Nat) (t : Tgt) : Bool :=
  w ≠ .cflush && (va % n != 0 || (match t with
    | .mmio _ => !(n = 4 || n = 8)
    | _ => false))

/-- Where n bytes at va begin, or the first trap of R64 that the byte at va meets: an access beyond the own scratchpad is OVERREACH
(R63). -/
def elemAt (s : State) (k : Nat) (i : Inst) (l : Launch) (w : Want) (n : Nat) (va : Nat) : Except ElemTrap (Seg × Tgt) :=
  match findSeg l.segs va with
  | .error d => .error ⟨5, cSEGV, d⟩
  | .ok e =>
    let t := ownName k (segTgt (selfOf l.part) e va)
    let beyond := match t with
      | .own o => decide (i.spadBytes < o + n) && w ≠ Want.cflush
      | _ => false
    let badPeer := match t with
      | .peer p _ => if peerOk s l.part p then none else some p
      | _ => none
    if beyond then .error ⟨3, cOVERREACH, ovSPAD⟩
    else match badPeer with
      | some p => .error ⟨4, cPEERBAD, p⟩
      | none =>
        match segvOf s k i l w e va t with
        | some d => .error ⟨5, cSEGV, d⟩
        | none => .ok (e, t)

/-- `elemAt` for a misaligned access too, whose last byte may lie in another segment or granule (R64, R118). -/
def elemAll (s : State) (k : Nat) (i : Inst) (l : Launch) (w : Want) (n : Nat) (va : Nat) : Except ElemTrap (Seg × Tgt) :=
  if va % n = 0 ∨ w = .cflush then elemAt s k i l w n va
  else match elemAt s k i l w n va, elemAt s k i l w 1 (va + n - 1) with
    | .ok x, .ok _ => .ok x
    | .error t, .ok _ => .error t
    | .ok _, .error t => .error t
    | .error t, .error t' => .error (if t'.rank < t.rank then t' else t)

/-- Order of an access through a segment: that of the segment, RC at a foreign peer (R139). -/
def ordAt (part : Partition) (e : Seg) : Tgt → Ord
  | .peer p _ => if bitAt part.foreign p then .rc else e.ord
  | _ => e.ord

/-- Checks one element of n bytes (R287, R280); an atomic to an FPA has its place at the home whatever APL says (R122). -/
def checkElem (s : State) (k : Nat) (i : Inst) (l : Launch) (w : Want) (n : Nat) (lane : Nat) (va : Word) :
    Except ElemTrap Elem :=
  match elemAll s k i l w n va.toNat with
  | .error t => .error t
  | .ok (e, t) =>
    if misaligned w va.toNat n t then .error ⟨6, cALIGN, 0⟩
    else .ok ⟨lane, va, t, ordAt l.part e t, if e.rem then .mem else e.apl, if resident s l.eff e va.toNat then .ok else .nonres⟩

/-- Checks every element; the first trap of R64 among them wins, at the lowest lane that meets it (R280). -/
def checkAll (s : State) (k : Nat) (i : Inst) (l : Launch) (w : Want) (n : Nat) :
    List (Nat × Word) → Except (ElemTrap × Word) (List Elem)
  | [] => .ok []
  | (lane, va) :: rest =>
    match checkElem s k i l w n lane va, checkAll s k i l w n rest with
    | .ok e, .ok es => .ok (e :: es)
    | .error t, .ok _ => .error (t, va)
    | .ok _, .error t => .error t
    | .error t, .error (t', va') => if t'.rank < t.rank then .error (t', va') else .error (t, va)

/-! ## Speculative stops (R98) -/

/-- A speculative instance stops before an element with this target. -/
def stopsAt (w : Want) (e : Elem) : Bool :=
  (match e.tgt with
    | .peer .. => true
    | .host _ => true
    | .spad .. => true
    | .msgwin .. => true
    | .mmio _ => true
    | _ => false) || (w.writes && e.ord = .so)

/-! ## What earlier work holds back at issue -/

/-- The engine command whose DRAM-space bytes an access moves (R138), or whose contribution it carries. -/
def AccKind.cmd : AccKind → Option Nat
  | .engRead c => some c
  | .engWrite c => some c
  | .engAmo c _ => some c
  | .contrib c => some c
  | _ => none

/-- The flow of a packet. -/
def AccKind.flow : AccKind → Option Flow
  | .packet f _ => some f
  | .fallback f _ _ => some f
  | _ => none

/-- The access was made by a word of a context, a window packet by S (R157); those of engines and of commits were not. -/
def AccKind.ofCtx : AccKind → Bool
  | .fallback _ _ _ => false
  | .commit => false
  | k => k.cmd.isNone

def Access.same (a : Access) (uid : Nat) (c : Ctx) : Bool := a.uid = uid && a.ctx = c && a.kind.ofCtx

/-- A window packet or a packet of a fallback. -/
def Access.isPacket (a : Access) : Bool := a.kind.flow.isSome

/-- An acquire of the context is not performed yet (R130, R289). -/
def acquirePending (s : State) (uid : Nat) (c : Ctx) : Bool := s.acc.any (fun a => a.same uid c && a.acq)

/-- The limits of a foreign peer for a partition: 64 requests and 50 µs where nothing was set (R177). -/
def foreignOf (s : State) (part peer : Nat) : Foreign :=
  (s.foreign.find? (fun f => f.part = part && f.peer = peer)).getD ⟨part, peer, 64, 50, true⟩

/-- The target is at foreign peer q. -/
def Tgt.atPeer (q : Nat) : Tgt → Bool
  | .peer p _ => p = q
  | _ => false

/-- Requests of a partition to a peer that have no response yet; those of an engine count from when they leave (R177). -/
def outstanding (s : State) (part peer : Nat) : Nat :=
  (s.acc.map (fun a => match s.launch a.launch with
    | some l => if l.part.pa = part then
        (a.parts.filter (fun p => !p.done && p.tgt.atPeer peer && (a.kind.ofCtx || p.sent.isSome))).length else 0
    | none => 0)).sum

/-- An access to these targets would exceed the limit of a foreign peer (R177); one that is over the limit by itself goes when no
other is outstanding. -/
def foreignFull (s : State) (l : Launch) (ts : List Tgt) : Bool :=
  ts.any (fun t => match t with
    | .peer q _ =>
      bitAt l.part.foreign q && (foreignOf s l.part.pa q).reachable &&
        (let n := outstanding s l.part.pa q
         n ≠ 0 && decide ((foreignOf s l.part.pa q).limit < n + (ts.filter (Tgt.atPeer q)).length))
    | _ => false)

/-- What keeps a context from issuing an access to these targets: an acquire (R130, R289), or a foreign peer's limit (R177). -/
def accessHeld (e : Env) (l : Launch) (ts : List Tgt) : Option Block :=
  if acquirePending e.s e.i.uid e.c then some .order
  else if foreignFull e.s l ts then some .foreignLimit
  else none

/-- `accessHeld` as a test before the rest. -/
def orHeld (e : Env) (l : Launch) (ts : List Tgt) (k : Verdict) : Verdict :=
  match accessHeld e l ts with
  | some b => .block b
  | none => k

/-- The release condition of R130: earlier accesses and observed stores are performed everywhere; window packets are ordered by R154
and by FENCE alone (R157). -/
def releaseReady (s : State) (uid : Nat) (c : Ctx) (x : CtxState) : Bool :=
  !s.acc.any (fun a => (a.same uid c && !a.isPacket) || x.observed.contains a.id)

/-- A store is performed with respect to the agents of V-die d (R132). -/
def Access.seenBy (a : Access) (d : Nat) : Bool := a.atHome && a.vis.getLsbD d

/-- The condition of a FENCE of scope sc (R133, R304). -/
def fenceReady (s : State) (k : Nat) (uid : Nat) (c : Ctx) (x : CtxState) (sc : Scope) : Bool :=
  match sc with
  | .isle | .die => !s.acc.any (fun a => (a.same uid c || x.observed.contains a.id) && !a.seenBy (dieOfIsle k))
  | .dev | .dom => !s.acc.any (fun a => a.same uid c || x.observed.contains a.id)

/-! ## Issue -/

/-- The landing a word asks for (R51). -/
structure Landing where
  dst : LandDst
  mask : Nat
  land : Nat
  poisonDetail : Nat

def AccKind.writes : AccKind → Bool
  | .load | .fetch | .tld | .cflush | .tail | .hostFence | .engRead _ => false
  | _ => true

/-- The access writes to the host link (R139). -/
def writesHost (kind : AccKind) (parts : List Part) : Bool :=
  kind.writes && parts.any (fun p => match p.tgt with
    | .host _ => true
    | _ => false)

/-- Adds an access of context e.c with these parts, numbered in issue order. -/
def addAccess (e : Env) (kind : AccKind) (acq : Bool) (parts : List Part) (s : State) : State :=
  let x := match s.inst e.k with
    | some i => (i.ctx e.c).after
    | none => (0, 0, 0)
  let s := if writesHost kind parts then s.updInst e.k (fun i => i.updCtx e.c (fun x => { x with hostWr := true })) else s
  { s with
    nextId := s.nextId + 1
    acc := s.acc ++ [{ id := s.nextId, isle := e.k, uid := e.i.uid, launch := e.i.launch, ctx := e.c, rank := e.i.rank,
                       pc := e.pc, kind := kind, parts := parts, acq := acq, atHome := false, vis := 0, nack := none,
                       after := x }] }

/-- The request a landing adds to the instance (R51, R54). -/
def landReq (e : Env) (id : Nat) (ld : Landing) : Req :=
  { id := id, pc := e.pc, ctx := e.c, dst := ld.dst, mask := ld.mask, timed := decide (ld.land ≠ 0),
    due := e.i.vcyc + BitVec.ofNat 64 ld.land, issued := e.i.vcyc, arrived := false, data := [], fails := [],
    poisonDetail := ld.poisonDetail, va := 0 }

/-- Issues an access and its landing request: the id is the next one. Its outside requests leave as its order allows (`sendReady`). -/
def issueAccess (e : Env) (kind : AccKind) (acq : Bool) (parts : List Part) (ld : Option Landing) (i : Inst)
    (s : State) : State :=
  let id := s.nextId
  let i := match ld with
    | none => i
    | some ld =>
      let i := { i with reqs := i.reqs ++ [landReq e id ld] }
      match ld.dst with
      | .q n _ => reserveQ e.c id n i
      | _ => i
  addAccess e kind acq parts (s.setInst e.k i)

/-- A part of an element that carries no data yet. -/
def Elem.part (n : Nat) (x y : Nat) (e : Elem) : Part :=
  ⟨e.lane, e.va, e.tgt, n, e.ord, e.apl, none, x, y, decide (e.st = .nonres), 0, e.st⟩

/-! ## Which accesses may be performed -/

def rangesMeet (a b : Nat × Nat) : Bool := decide (a.1 ≤ b.2) && decide (b.1 ≤ a.2)

/-- Part p of an access and the part of the scratchpad footprint of a command that is not performed yet meet, one of them writing
(R137, R333, R334). -/
def cmdClash (writes : Bool) (p : Part) (c : Cmd) : Bool :=
  !c.isDone && (match p.ownRange with
    | none => false
    | some r => c.writes.any (rangesMeet r) || (writes && c.reads.any (rangesMeet r)))

/-- Page-kind order of two parts (R129, R131, R283): both SO, or overlapping and neither UN. -/
def pageOrder (p q : Part) : Bool := (p.ord = .so && q.ord = .so) || (p.ord ≠ .un && q.ord ≠ .un && p.overlaps q)

/-- Number in the bounds of R136 for a context. -/
def bound (n : Nat × Nat × Nat) : Ctx → Nat
  | .L => n.1
  | .C => n.2.1
  | .S => n.2.2

/-- Packets of one flow are delivered in order (R154), whichever instance of the isle sent them. -/
def sameFlow (a b : Access) : Bool := a.isPacket && a.kind.flow = b.kind.flow

/-- Part q of access b is not performed yet with respect to every agent. -/
def Access.open (b : Access) (q : Part) : Bool := !q.done || (b.kind.writes && q.st = .ok)

/-- Program order of one context holds for these two accesses; window packets stand outside it (R129, R157). -/
def ordered (a b : Access) : Bool := a.ctx = b.ctx && a.kind.ofCtx && b.kind.ofCtx && !a.isPacket && !b.isPacket

/-- Two accesses of one engine command, one of them writing: bytes they share are met in the order of the command (R339, R340). -/
def sameCmd (a b : Access) : Bool := a.kind.cmd.isSome && a.kind.cmd = b.kind.cmd && (a.kind.writes || b.kind.writes)

/-- Part p of access a waits for part q of the earlier access b of its instance (R129, R136, R137, R340). -/
def waitsPart (a b : Access) (p q : Part) : Bool :=
  (ordered a b && b.open q && pageOrder p q) || (sameCmd a b && !q.done && p.overlaps q) ||
    (!q.done && p.ownRange.isSome && q.ownRange.isSome &&
      (((a.kind.writes || b.kind.writes) && p.overlaps q) || decide (b.id < bound a.after b.ctx)))

/-- Part p of access a waits for the earlier access b (R129, R136, R137, R154). -/
def waitsFor (a : Access) (p : Part) (b : Access) : Bool :=
  decide (b.id < a.id) && (sameFlow a b || (a.uid = b.uid && b.parts.any (waitsPart a b p)))

/-- Part p waits for an earlier part q of its own access: both SO, overlapping outside UN pages, or both MMIO (R131, R283, R284). -/
def waitsSibling (p q : Part) : Bool :=
  !q.done && (pageOrder p q || (match p.tgt, q.tgt with
    | .mmio _, .mmio _ => true
    | _, _ => false))

/-- The instance numbered uid, on an isle or saved. -/
def State.instOf (s : State) (uid : Nat) : Option Inst :=
  match s.slots.find? (fun p => p.2.uid = uid) with
  | some p => some p.2
  | none => s.saved.find? (fun i => i.uid = uid)

def State.updUid (s : State) (uid : Nat) (f : Inst → Inst) : State :=
  { s with
    slots := s.slots.map (fun p => if p.2.uid = uid then (p.1, f p.2) else p)
    saved := s.saved.map (fun i => if i.uid = uid then f i else i) }

/-- A page of the instance is in refill (R59). -/
def refilling (i : Inst) (o n : Nat) : Bool := n ≠ 0 && i.refill.any (fun g => rangesMeet (o, o + n - 1) (16384 * g, 16384 * g + 16383))

/-- Part p of access a may be performed now, as far as the instance's own order goes. -/
def partFree (s : State) (a : Access) (p : Part) : Bool :=
  !s.acc.any (waitsFor a p) &&
  (match s.instOf a.uid with
    | none => true
    | some i => !i.cmds.any (fun c => decide (c.id < a.id) && cmdClash a.kind.writes p c) &&
        !(match p.ownRange with
          | some r => refilling i r.1 p.len
          | none => false))

/-- Every part of the access may be performed now. -/
def mayPerform (s : State) (a : Access) : Bool := a.parts.all (fun p => p.done || partFree s a p)

/-! ## Performing one part -/

/-- Where a part is performed. -/
inductive Place
  /-- DRAM or weight-store bytes of this device. -/
  | cell (a : Nat)
  /-- A scratchpad of this device, by instance. -/
  | pad (uid : Nat) (off : Nat)
  | zero
  | mmio (off : Nat)
  | refuse (step : BitVec 4)
  /-- Outside: the answer comes with the event. -/
  | outside
  /-- Held: a die in reset. -/
  | held
  /-- A store or atomic to a moving granule (R145). -/
  | moving (granule : Nat)
  /-- The scratchpad is gone (R107, R376). -/
  | gone


/-- Place of a DRAM address of this device (R144, R145, R388). -/
def dramPlace (s : State) (write : Bool) (a : Nat) : Place :=
  if dieIsDown s (homeDie a) then .held
  else
    let g := granuleOf s (a / 2 ^ 21)
    if g.place = .moving && write then .moving (a / 2 ^ 21) else if g.readsOut then .outside else .cell a

/-- The key of a flow that a granule remembers: source and stream label; isles of this device stand above the peers, the host and
the device itself. -/
def localFlow (isle : Nat) : Nat × Nat := (8192 + isle, 0)

/-- The flow has been turned away by the granule, and the request is not the first that was; an access of this device only where it is a
later one (R145). -/
def Granule.turnsAway (x : Granule) (key : Nat × Nat) (r : Nat ⊕ IngressReq) : Bool :=
  x.nacked.any (fun n => n.1 = key && (match n.2, r with
    | .inl m, .inl k => decide (m < k)
    | a, b => a ≠ b))

/-- The non-speculative instance that runs on isle j in the sense of R107. -/
def runningOn (s : State) (j : Nat) : Option Inst :=
  match s.inst j with
  | none => none
  | some i =>
    if !i.runs then none
    else match s.launch i.launch with
      | some l => if l.spec then none else some i
      | none => none

def padPlace (s : State) (j o n : Nat) : Place :=
  if dieIsDown s (dieOfIsle j) then .held
  else match runningOn s j with
    | none => .refuse 4
    | some i => if i.spadBytes < o + n then .refuse 4 else .pad i.uid o

def launchSpec (s : State) (id : Nat) : Bool :=
  match s.launch id with
  | some l => l.spec
  | none => false
def launchClaiming (s : State) (id : Nat) : Bool :=
  match s.launch id with
  | some l => l.claiming
  | none => false

/-- Every byte of n at a is in the cellar of a speculation (R98). -/
def inCellar (s : State) (id a n : Nat) : Bool :=
  match s.launch id with
  | some l => l.spec && (upto n).all (fun k => (cellarByte l (a + k)).isSome)
  | none => false

/-- Place of a part with this target. A speculation's writes of DRAM go to its cellar wherever the granule is (R98). -/
def tgtPlace (s : State) (a : Access) (p : Part) : Place :=
  match p.tgt with
  | .dram x =>
    if launchSpec s a.launch && a.kind.writes || inCellar s a.launch x p.len then .cell x
    else if a.kind.writes && (granuleOf s (x / 2 ^ 21)).turnsAway (localFlow a.isle) (.inl a.id) then .moving (x / 2 ^ 21)
    else dramPlace s a.kind.writes x
  | .ws x => if dieIsDown s (homeDie x) then .held else .cell x
  | .own o => if (s.instOf a.uid).isSome then .pad a.uid o else .gone
  | .spad j o => padPlace s j o p.len
  | .msgwin .. => .zero
  | .mmio o => .mmio o
  | .host _ => .outside
  | .peer q pa =>
    match guestOf s q pa with
    | some g =>
      let x := g.backing + normPa pa % 2 ^ 21
      if dieIsDown s (homeDie x) then .held else .cell x
    | none => match s.launch a.launch with
      | some l => if (foreignOf s l.part.pa q).reachable then .outside else .refuse 6
      | none => .outside
  | .unmapped _ => .refuse 4

/-- Where a part of access a is performed: a discarded speculation's writes are gone (R101), and a request that has left is
answered from outside. -/
def placeOf (s : State) (a : Access) (p : Part) : Place :=
  if a.kind.writes && (s.launch a.launch).isNone then .gone
  else if p.sent.isSome then .outside
  else tgtPlace s a p

/-! ### MMIO (R397 to R399) -/

/-- VFSTAT (R399). -/
def vfstatWord (v : Vf) : Nat := b2n v.fail * 4 + b2n v.aborting * 2 + b2n (v.queues.any (fun q => q.2.stopped))

def QErr.code : QErr → Nat
  | .none => 0
  | .badpkt => 1
  | .overflow => 2
  | .badqueue => 3
  | .badaddr => 4

/-- QCFG, QHEAD and RRQCTL as read (R67, R399). -/
def qcfgWord (q : HwQueue) : Nat := q.rcb + b2n q.en * 32 + q.logsz
def qheadWord (q : HwQueue) : Nat := b2n q.stopped * 2 ^ 36 + q.err.code * 2 ^ 32 + q.head.toNat
def rrqctlWord (v : Vf) : Nat := v.rrqDrops * 2 ^ 48 + v.rrqTail * 2 ^ 32 + v.rrqHead * 2 ^ 16 + v.rrqLogsz

/-- The 8-byte register of a function page at offset o (R67, R399). -/
def pageWord (v : Vf) (o : Nat) : Nat :=
  if o < 0x400 then
    let q := v.queue (o / 0x40)
    match o % 0x40 with
    | 0x00 => q.base.toNat
    | 0x08 => qcfgWord q
    | 0x10 => qheadWord q
    | 0x18 => q.tail.toNat
    | _ => 0
  else match o with
    | 0x800 => v.rootrcb
    | 0x808 => v.poolbase
    | 0x810 => v.poolsize
    | 0x818 => v.rrqbase
    | 0x820 => rrqctlWord v
    | 0x830 => vfstatWord v
    | _ => 0

/-- A counter block holds the offset (R397). -/
def inCounters (o : Nat) : Bool :=
  (decide (0x1000000 ≤ o) && decide (o < 0x1080000)) || (decide (0x1800000 ≤ o) && decide (o < 0x1810000)) ||
  (decide (0x1C00000 ≤ o) && decide (o < 0x1C08000))

/-- A read of n bytes at offset r of a function page reads DROPS, bits 63 to 48 of RRQCTL (R12, R399). -/
def readsDrops (r n : Nat) : Bool := decide (r < 0x828) && decide (0x826 < r + n)

/-- A read of DROPS clears it (R399). -/
def clearDrops (v : Nat) (s : State) : State := s.setVf v { s.vf v with rrqDrops := 0 }

/-- The key of MIG_CONTEST among the counters (R147). -/
def keyMIG : Nat := 2 ^ 20

/-- The 8-byte register of a counter block at offset o: a counter of this model, MIG_CONTEST, or a free value; where each counter
stands is open (log 20). -/
def counterWord (s : State) (o : Nat) : Word :=
  match Config.counterAt (o / 8) with
  | none => Config.freeWord s.fresh
  | some k => if k = keyMIG then s.migContest else Sparse.get 0 s.counters k

/-- The n bytes at offset o of a counter block. -/
def counterBytes (s : State) (o n : Nat) : Nat := (counterWord s o).toNat / 2 ^ (8 * (o % 8)) % 2 ^ (8 * n)

/-- A program's MMIO read: value or refusal, and the state after it (R398). -/
def mmioRead (vf o n : Nat) (s : State) : Nat × Status × State :=
  if o / 0x10000 = vf ∧ o < 0x410000 then
    let r := o % 0x10000
    let w := pageWord (s.vf vf) (r / 8 * 8) / 2 ^ (8 * (r % 8)) % 2 ^ (8 * n)
    (w, .ok, if readsDrops r n then clearDrops vf s else s)
  else if inCounters o then (counterBytes s o n, .ok, { s with fresh := s.fresh + 1 })
  else (0, .refused 4, s)

/-! ### Atomics (R295) -/

/-- amo_op on n bytes; in 2 bytes ADDF stands for the BF16 and ADD for the FP16 update of a SCADD of another device (R340). -/
def amoOp (fn : AmoFn) (old x n : Nat) : Nat :=
  let m := 2 ^ (8 * n)
  let so := sextInt (8 * n) old
  let sx := sextInt (8 * n) x
  match fn with
  | .add => if n = 2 then (addF fF16 .rne (decodeF fF16 old) (decodeF fF16 x)).1 else (old + x) % m
  | .min => if sx < so then x % m else old
  | .max => if so < sx then x % m else old
  | .and => Nat.land old (x % m)
  | .or => Nat.lor old (x % m)
  | .xor => Nat.xor old (x % m)
  | .swap => x % m
  | .addf =>
    let f := if n = 2 then fBF16 else fF32
    (addF f .rne (decodeF f old) (decodeF f x)).1

/-- The new value of an atomic, none where it writes nothing. -/
def atomicNew (kind : AccKind) (old : Nat) (p : Part) : Option Nat :=
  match kind with
  | .amo fn => some (amoOp fn old p.x p.len)
  | .red fn => some (amoOp fn old p.x p.len)
  | .engAmo _ fn => some (amoOp fn old p.x p.len)
  | .cas => if old = p.x % 2 ^ (8 * p.len) then some p.y else none
  | _ => none

/-! ### The cellar (R98, R99) -/

/-- The pages of n bytes at a join the read set; beyond 2,048 pages the speculation is doomed (R98, R99). -/
def addRead (id a n : Nat) (s : State) : State :=
  match s.launch id with
  | none => s
  | some l =>
    let new := ((upto n).map (fun k => (a + k) / 4096)).eraseDups.filter (fun g => !l.readset.contains g)
    let s := s.updLaunch id (fun l => { l with readset := l.readset ++ new })
    if 2048 < l.readset.length + new.length then discardSpec .doom id s else s

/-- Cellar bytes in use on the device: 64 a line (R99). -/
def cellarTotal (s : State) : Nat := (s.launches.map (fun p => cellarLines p.2 * 64)).sum

/-- Cells go to the cellar; beyond CELLARQ or the device's 256 MiB the speculation is doomed (R98, R99). -/
def cellarWrite (id : Nat) (cells : List (Nat × Byte)) (s : State) : State :=
  match s.launch id with
  | none => s
  | some l =>
    let c := Sparse.setAll none l.cellar (cells.map (fun x => (x.1, some x.2)))
    let s := s.updLaunch id (fun l => { l with cellar := c })
    if l.eff.cellarq * 2 ^ 20 < cellarLines { l with cellar := c } * 64 ∨ 2 ^ 28 < cellarTotal s then discardSpec .doom id s
    else s

/-- n bytes at a as launch id reads them on die d: cellar bytes first in a speculation (R98). -/
def launchBytes (s : State) (id d a n : Nat) : List Byte :=
  (upto n).map (fun k =>
    match s.launch id with
    | some l => if l.spec then (cellarByte l (a + k)).getD (dieByte s d (a + k)) else dieByte s d (a + k)
    | none => dieByte s d (a + k))

/-! ### One part -/

/-- Result of an attempt on one part. -/
inductive Tried
  /-- It has to wait. -/
  | wait
  /-- It meets a moving granule of this device (R145). -/
  | moving (granule : Nat)
  /-- A home outside negatively acknowledged it (R145). -/
  | nacked
  /-- Performed: value, status, state. -/
  | done (v : Nat) (st : Status) (s : State)

/-- Adds observed stores to the context's list, or to that of the engine command (R130, R133). -/
def observe (a : Access) (ids : List Nat) (s : State) : State :=
  if ids = [] then s
  else match a.kind.cmd with
    | some n => s.updUid a.uid (fun i => i.updCmd n (fun c => { c with obs := (c.obs ++ ids).eraseDups }))
    | none => s.updUid a.uid (fun i => i.updCtx a.ctx (fun x => { x with observed := (x.observed ++ ids).eraseDups }))

/-- A load, or the read of an atomic, of n bytes at cell x. -/
def cellRead (a : Access) (x n : Nat) (s : State) : Nat × Status × State :=
  let d := dieOfIsle a.isle
  let sp := launchSpec s a.launch
  let v := leNat (launchBytes s a.launch d x n)
  let st := if memPoison s x n then .poison else .ok
  let s := observe a (seenVersions s d x n) s
  (v, st, if sp then addRead a.launch x n s else s)

/-- The engine command that access a belongs to. -/
def cmdOf (s : State) (a : Access) : Option Cmd :=
  match a.kind.cmd, s.instOf a.uid with
  | some n, some i => i.cmds.find? (fun c => c.id = n)
  | _, _ => none

/-- The transfer of the command of access a for this line was lost on a link; written: on its way to the line (R390). -/
def lostFor (s : State) (a : Access) (line : Nat) (written : Bool) : Bool :=
  match cmdOf s a with
  | some c => c.lost.contains (line, written)
  | none => false

/-- The line of a scratchpad byte of instance uid, numbered by its local physical address (R104). -/
def padLine (s : State) (uid o : Nat) : Nat := (spadBase + (s.isleOf uid).getD 0 * 2 ^ 22 + o) / 64

/-- Poisons the words of the n bytes at o of the scratchpad of instance uid (R385). -/
def poisonPad (uid o n : Nat) (s : State) : State :=
  s.updUid uid (fun i => (upto ((o + n - 1) / 8 - o / 8 + 1)).foldl (fun i k => setSpadPoison (8 * (o / 8 + k)) i) i)

/-- The lines of cells. -/
def linesIn (cells : List (Nat × Byte)) : List Nat := (cells.map (fun c => lineOf c.1)).eraseDups

/-- Cells that an engine writes: to the cellar in a speculation (R98); a line whose transfer was lost is poisoned and its bytes are not
performed (R390). -/
def engCells (a : Access) (cells : List (Nat × Byte)) (s : State) : State :=
  if launchSpec s a.launch then cellarWrite a.launch cells s
  else
    let lost := (linesIn cells).filter (fun n => lostFor s a n true)
    let s := writeCells (some a.launch) 257 (cells.filter (fun c => !lost.contains (lineOf c.1))) s
    lost.foldl (fun s n => poisonLine n s) s

/-- The same for the scratchpad of another isle of this device. -/
def engPad (a : Access) (uid : Nat) (cells : List (Nat × Byte)) (s : State) : State :=
  let lost (o : Nat) : Bool := lostFor s a (padLine s uid o) true
  let s' := s.updUid uid (putSpad (cells.filter (fun c => !lost c.1)))
  (cells.filter (fun c => lost c.1)).foldl (fun s c => poisonPad uid c.1 1 s) s'

/-- What may hold the modified line after a store: the issuing isle's L1, or the home L2 for what no L1 holds (R124). -/
def Part.storeCode (isle : Nat) (p : Part) : Nat :=
  match p.tgt with
  | .dram _ => 1 + isle
  | _ => 257

/-- The same after an atomic: in the issuing isle's L1 for APL NEAR, at the home L2 otherwise, any L1 copy recalled (R122, R123). -/
def Part.atomicCode (isle : Nat) (p : Part) : Nat := if p.apl = .near then p.storeCode isle else 257

/-- An atomic at cell x, at its home and visible everywhere at once (R122, R123). -/
def cellAtomic (a : Access) (p : Part) (x : Nat) (s : State) : Tried :=
  if lostFor s a (lineOf x) true then .done 0 .ok (poisonLine (lineOf x) s)
  else if memPoison s x p.len then .done 0 .poison s
  else
    let old := homeNat s x p.len
    let s := observe a (seenVersions s (dieOfIsle a.isle) x p.len) s
    match atomicNew a.kind old p with
    | none => .done old .ok s
    | some v =>
      let code := if a.kind.ofCtx then p.atomicCode a.isle else 257
      .done old .ok (writeCells (some a.launch) code (cellsOf x p.len v) s)

/-- A part on a scratchpad of this device. -/
def padPart (a : Access) (p : Part) (uid o : Nat) (s : State) : Tried :=
  match s.instOf uid with
  | none => .done 0 (.refused 4) s
  | some i =>
    let bad := spadPoisoned i o p.len
    let old := leNat (spadBytesAt i o p.len)
    let put (v : Nat) : State := s.updUid uid (putSpad (cellsOf o p.len v))
    match a.kind with
    | .load | .fetch | .tld | .tail | .engRead _ => .done (if bad then 0 else old) (if bad then .poison else .ok) s
    | .store | .packet _ _ | .fallback _ _ _ => .done 0 .ok (put p.x)
    | .engWrite _ => .done 0 .ok (engPad a uid (cellsOf o p.len p.x) s)
    | .cflush | .hostFence | .commit | .contrib _ | .slot _ => .done 0 .ok s
    | .amo _ | .cas | .red _ | .engAmo _ _ =>
      if lostFor s a (padLine s uid o) true then .done 0 .ok (poisonPad uid o p.len s)
      else if bad then .done 0 .poison s
      else match atomicNew a.kind old p with
        | none => .done old .ok s
        | some v => .done old .ok (put v)

/-- A CFLUSH of a line: the modified copy reaches its vault (R301). -/
def flushLine (x : Nat) (s : State) : State := { s with dirty := Sparse.erase s.dirty (lineOf x) }

/-- A part at a cell of this device. vis: the dies a store becomes visible on beside its home dies (R132). -/
def cellPart (a : Access) (p : Part) (vis : BitVec 8) (x : Nat) (s : State) : Tried :=
  let sp := launchSpec s a.launch
  if launchClaiming s a.launch && a.kind ≠ .commit then .wait
  else match a.kind with
    | .load | .fetch | .tld | .tail | .engRead _ =>
      let (v, st, s) := cellRead a x p.len s
      .done (if st = .poison then 0 else v) st s
    | .store =>
      if sp then .done 0 .ok (cellarWrite a.launch (cellsOf x p.len p.x) s)
      else .done 0 .ok (performHome a.id (some a.launch) (p.storeCode a.isle) vis (cellsOf x p.len p.x) s)
    | .engWrite _ => .done 0 .ok (engCells a (cellsOf x p.len p.x) s)
    | .commit | .slot _ => .done 0 .ok (writeCells (some a.launch) 257 (cellsOf x p.len p.x) s)
    | .packet _ _ | .fallback _ _ _ => .done 0 (.refused 4) s
    | .hostFence | .contrib _ => .done 0 .ok s
    | .cflush => .done 0 .ok (if x < wsBase then flushLine x s else s)
    | .amo _ | .cas | .red _ | .engAmo _ _ => cellAtomic a p x s

/-- The event's answer for part n, where it brings one. -/
def answerFor (answers : List (Nat × Answer)) (n : Nat) : Option Answer := (answers.find? (fun x => x.1 = n)).map (fun x => x.2)

def maskTo (n v : Nat) : Nat := v % 2 ^ (8 * n)

/-- The VF of a launch. -/
def launchVf (s : State) (id : Nat) : Nat :=
  match s.launch id with
  | some l => l.vf
  | none => 0

/-- A value read outside as a speculation sees it: the bytes it wrote itself stand in its cellar (R98). -/
def overCellar (s : State) (a : Access) (p : Part) (v : Nat) : Nat :=
  match p.tgt, s.launch a.launch with
  | .dram x, some l =>
    if l.spec then leNat ((leBytes p.len v).zipIdx.map (fun b => (cellarByte l (x + b.2)).getD b.1)) else v
  | _, _ => v

/-- A read outside joins a speculation's read set where it is of this device's memory (R98). -/
def outsideRead (a : Access) (p : Part) (s : State) : State :=
  match p.tgt with
  | .dram x => if launchSpec s a.launch then addRead a.launch x p.len s else s
  | _ => s

/-- Tries part p of access a; the answer is used where the request has left for an outside home. -/
def tryPart (a : Access) (p : Part) (vis : BitVec 8) (ans : Option Answer) (s : State) : Tried :=
  match placeOf s a p with
  | .cell x => cellPart a p vis x s
  | .pad uid o => padPart a p uid o s
  | .zero => .done 0 .ok s
  | .mmio o =>
    if a.kind.writes then .done 0 (.refused 4) s
    else
      let r := mmioRead (launchVf s a.launch) o p.len s
      .done r.1 r.2.1 r.2.2
  | .refuse st => .done 0 (.refused st) s
  | .gone => .done 0 .ok s
  | .held => .wait
  | .moving g => .moving g
  | .outside =>
    match p.sent, ans with
    | none, _ => .wait
    | _, none => .wait
    | _, some (.ok v) => .done (overCellar s a p (maskTo p.len v)) .ok (outsideRead a p s)
    | _, some (.refused st) => .done 0 (.refused st) s
    | _, some .poison => .done 0 .poison s
    | _, some .nack => .nacked

/-! ## Failures of performed accesses (R143, R374) -/

/-- Low nibble of a REFUSED detail (R374); a commit line is a store of its launch (R100). -/
def AccKind.refusedKind : AccKind → Nat
  | .load | .fetch | .tld | .hostFence => 1
  | .store | .cflush | .tail | .slot _ | .commit | .contrib _ => 2
  | .amo _ | .cas => 3
  | .red _ => 4
  | .engRead _ => 5
  | .engWrite _ | .engAmo _ _ => 6
  | .packet _ _ => 7
  | .fallback _ _ _ => 8

/-- The entry of a failed access (R143, R378); accesses of no context, and packets closed at retire or resent, carry none (R411). -/
def accEntry (a : Access) (cause detail : Nat) (addr : Word) : FaultEntry :=
  ⟨cause, detail, if a.pc = 0 || !a.kind.ofCtx then 0 else ctxCode a.ctx, a.rank, a.isle, a.pc, addr, false⟩

def recordAcc (a : Access) (cause detail : Nat) (addr : Word) (s : State) : State :=
  instFault a.uid a.launch (accEntry a cause detail addr) s

def refusedDetail (kind : AccKind) (step : BitVec 4) : Nat := kind.refusedKind + 16 * step.toNat

end Sys2Proof.Machine
end

