-- ==== Sys2Proof/Machine/Perform.lean ====
section
/-!
DEFINITION. Performing accesses: loads and atomics whose data returns (R54, R59, R290 to R299), stores and their acknowledgement
(R78, R132, R293), refusals and poison (R143, R386), requests to moving granules (R145, R146), instruction fetch from outside
(R206), LAUNCH and QTAIL (R313, R314).
-/
namespace Sys2Proof.Machine

def State.access (s : State) (id : Nat) : Option Access := s.acc.find? (fun a => a.id = id)
def State.updAccess (s : State) (id : Nat) (f : Access → Access) : State :=
  { s with acc := s.acc.map (fun a => if a.id = id then f a else a) }
def State.dropAccess (s : State) (id : Nat) : State := { s with acc := s.acc.filter (fun a => a.id ≠ id) }

/-! ## Moving granules (R145) -/

/-- The first request of a flow that was turned away is retried: the granule takes the flow again. -/
def Granule.accept (x : Granule) (r : Nat ⊕ IngressReq) : Granule := { x with nacked := x.nacked.filter (fun n => n.2 ≠ r) }

/-- A request of a flow is turned away. -/
def Granule.refuse (x : Granule) (key : Nat × Nat) (r : Nat ⊕ IngressReq) : Granule :=
  if x.nacked.any (fun n => n.1 = key) then x else { x with nacked := x.nacked ++ [(key, r)] }

/-- The access is turned away: it is tried again 1 µs later, first attempted now. -/
def nackAccess (id : Nat) (first : Nat) (s : State) : State :=
  s.updAccess id (fun a => match a.nack with
    | none => { a with nack := some ⟨first, s.time + usec, usec⟩ }
    | some _ => a)

/-- An access of this device meets a moving granule, or one that has turned its flow away: held, up to 64, or negatively
acknowledged. -/
def holdAccess (g : Nat) (a : Access) (s : State) : State :=
  let x := granuleOf s g
  let key := localFlow a.isle
  if x.held.contains (.inl a.id) then s
  else if !x.turnsAway key (.inl a.id) && x.held.length < 64 then
    (s.setGranule g { x.accept (.inl a.id) with held := x.held ++ [.inl a.id] }).updAccess a.id (fun a => { a with nack := none })
  else nackAccess a.id s.time (s.setGranule g (x.refuse key (.inl a.id)))

/-- A request that a home outside negatively acknowledged waits for its retry; its first attempt was when it left. -/
def startRetry (id : Nat) (p : Part) (s : State) : State :=
  s.updAccess id (fun a => match a.nack with
    | none => { a with nack := some ⟨p.sent.getD s.time, s.time + usec, usec⟩ }
    | some n => { a with nack := some { n with next := s.time + Nat.min (2 * n.backoff) (64 * usec),
                                               backoff := Nat.min (2 * n.backoff) (64 * usec) } })

/-! ## Requests to the outside (R110, R111, R139, R144, R177) -/

/-- What a request asks for. -/
def outKind (kind : AccKind) (p : Part) : ReqKind :=
  match kind with
  | .load | .fetch | .tld | .tail | .hostFence | .engRead _ => .load p.len
  | .store | .packet _ _ | .fallback _ _ _ | .slot _ | .engWrite _ | .commit | .contrib _ => .store (leBytes p.len p.x)
  | .amo fn => .amo fn p.x p.len true
  | .red fn => .amo fn p.x p.len false
  | .engAmo _ fn => .amo fn p.x p.len false
  | .cas => .cas p.x p.y p.len
  | .cflush => .flush

/-- The request of part n leaves: to a peer with the launch's tenant and the current generation (R111), on the host link (R139),
or from this home to the holder of a granule (R144). -/
def sendPart (l : Launch) (a : Access) (n : Nat) (p : Part) (s : State) : State :=
  match p.tgt with
  | .peer q pa => s.send (.request a.id n q l.part.tenant (genOf s l.part q) pa 0 (outKind a.kind p))
  | .host h =>
    if a.kind = .hostFence then s.send (.hostFence a.isle) else s.send (.hostRequest a.id n h (p.ord ≠ .so) (outKind a.kind p))
  | .dram x =>
    let me := (selfOf l.part).getD 0
    match (granuleOf s (x / 2 ^ 21)).holder with
    | some h => s.send (.forward h ⟨some me, me, l.part.tenant, 0, x, 0, outKind a.kind p⟩)
    | none => s
  | _ => s

/-- An engine's request goes only within the limit of a foreign peer (R177); that of a context was counted at issue. -/
def withinLimit (s : State) (l : Launch) (a : Access) (p : Part) : Bool :=
  a.kind.ofCtx || (match p.tgt with
    | .peer q _ => !bitAt l.part.foreign q || decide (outstanding s l.part.pa q < (foreignOf s l.part.pa q).limit)
    | _ => true)

/-- The request of part p can leave now, the parts before it standing as given; packets leave when they close. -/
def maySend (s : State) (l : Launch) (a : Access) (before : List Part) (p : Part) : Bool :=
  !p.done && p.sent.isNone && !a.isPacket && (match placeOf s a p with
    | .outside => true
    | _ => false) && partFree s a p && !before.any (waitsSibling p) && withinLimit s l a p

/-- Sends what can leave of the parts of access a from number n on; the parts before stand in order. -/
def sendFrom (l : Launch) (a : Access) : Nat → List Part → List Part → State → State
  | _, _, [], s => s
  | n, before, p :: ps, s =>
    if maySend s l a before p then
      let q := { p with sent := some s.time }
      sendFrom l a (n + 1) (before ++ [q]) ps
        ((sendPart l a n p s).updAccess a.id (fun a => { a with parts := before ++ q :: ps }))
    else sendFrom l a (n + 1) (before ++ [p]) ps s

/-- Sends what can leave of access id. -/
def sendAccess (id : Nat) (s : State) : State :=
  match s.access id with
  | none => s
  | some a => match s.launch a.launch with
    | none => s
    | some l => sendFrom l a 0 [] a.parts s

/-- Every request leaves that the order of its instance allows; one that waits for its retry does not (R145). -/
def sendReady (s : State) : State := s.acc.foldl (fun s a => if a.nack.isSome then s else sendAccess a.id s) s

/-! ## Over the parts of an access -/

/-- Progress over the parts: state, parts so far, cells to write at home, scratchpad bytes by instance. -/
structure Prog where
  s : State
  parts : List Part
  cells : List (Nat × Byte)
  pads : List (Nat × Nat × Byte)

/-- A store part goes to memory or to a scratchpad of this device together with the other parts of its instruction. -/
def gathers (s : State) (a : Access) (p : Part) : Option (Sum (List (Nat × Byte)) (Nat × List (Nat × Byte))) :=
  match a.kind with
  | .store | .packet _ _ | .fallback _ _ _ =>
    (match placeOf s a p with
      | .cell x =>
        if launchSpec s a.launch || launchClaiming s a.launch || p.storeCode a.isle = 257 then none else some (.inl (cellsOf x p.len p.x))
      | .pad uid o => some (.inr (uid, cellsOf o p.len p.x))
      | _ => none)
  | _ => none

/-- Part number n of an access is tried: no part of it has to come first, here or in another access (R129, R283). -/
def tries (a : Access) (only : Option Nat) (s : State) (n : Nat) (p : Part) : Bool :=
  !p.done && (only.isNone || only = some n) && partFree s a p

/-- One part of an access; `go` says which parts are tried. -/
def partStep (a : Access) (vis : BitVec 8) (go : Nat → Part → Bool) (answers : List (Nat × Answer)) (n : Nat) (p : Part) (g : Prog) :
    Prog :=
  let keep (s : State) (p : Part) : Prog := { g with s := s, parts := g.parts ++ [p] }
  if !go n p || g.parts.any (waitsSibling p) then keep g.s p
  else match gathers g.s a p with
    | some (.inl cs) => { keep g.s { p with done := true } with cells := g.cells ++ cs }
    | some (.inr (uid, cs)) =>
      { keep g.s { p with done := true } with pads := g.pads ++ cs.map (fun c => (uid, c.1, c.2)) }
    | none =>
      match tryPart a p vis (answerFor answers n) g.s with
      | .wait => keep g.s p
      | .moving gr => keep (holdAccess gr a g.s) p
      | .nacked => keep (startRetry a.id p g.s) { p with sent := none }
      | .done v st s => keep s { p with done := true, res := v, st := st }

def partsFrom (a : Access) (vis : BitVec 8) (go : Nat → Part → Bool) (answers : List (Nat × Answer)) :
    Nat → List Part → Prog → Prog
  | _, [], g => g
  | n, p :: ps, g => partsFrom a vis go answers (n + 1) ps (partStep a vis go answers n p g)

/-- Writes the gathered scratchpad bytes, one write for each instance. -/
def writePads (pads : List (Nat × Nat × Byte)) (s : State) : State :=
  (pads.map (fun p => p.1)).eraseDups.foldl (fun s uid =>
    s.updUid uid (putSpad ((pads.filter (fun p => p.1 = uid)).map (fun p => p.2)))) s

/-- Cells with the later value for each address, rising. -/
def mergeCells (cells : List (Nat × Byte)) : List (Nat × Byte) := cells.foldl (fun m c => Assoc.put m c.1 c.2) []

/-- The part has written its bytes: a CAS writes where its comparison held (R296). -/
def Part.wrote (kind : AccKind) (p : Part) : Bool :=
  p.done && p.st = .ok && (kind ≠ .cas || p.res = p.x % 2 ^ (8 * p.len))

/-- A context's write to its own scratchpad or its isle's weight-store slice clears the latch it meets (R336). -/
def unlatchPart (a : Access) (p : Part) (i : Inst) : Inst :=
  match p.tgt with
  | .own o => i.unlatch 0 o (o + p.len - 1)
  | .ws x => if wsIsle x = a.isle then i.unlatch 2 ((x - wsBase) % 2 ^ 25) ((x - wsBase) % 2 ^ 25 + p.len - 1) else i
  | _ => i

/-- `unlatchPart` for the parts that a write has just performed; packets arrive through windows and clear nothing. -/
def unlatchParts (a : Access) (new : List Part) (s : State) : State :=
  match a.kind with
  | .store | .amo _ | .cas | .red _ =>
    s.updUid a.uid (fun i => (a.parts.zip new).foldl (fun i p =>
      if !p.1.done && p.2.wrote a.kind then unlatchPart a p.2 i else i) i)
  | _ => s

/-- Tries the parts of access a; a store's bytes land together. -/
def runParts (a : Access) (vis : BitVec 8) (only : Option Nat) (answers : List (Nat × Answer)) (s : State) : State :=
  let g := partsFrom a vis (tries a only s) answers 0 a.parts ⟨s, [], [], []⟩
  let s := unlatchParts a g.parts (g.s.updAccess a.id (fun a => { a with parts := g.parts }))
  writePads g.pads (performHome a.id (some a.launch) (1 + a.isle) vis (mergeCells g.cells) s)

def Access.allDone (a : Access) : Bool := a.parts.all (fun p => p.done)

/-- The first refused part, in part order (R280). -/
def Access.refusedPart (a : Access) : Option (Part × BitVec 4) :=
  a.parts.findSome? (fun p => match p.st with
    | .refused st => some (p, st)
    | _ => none)

/-- The first poisoned part. -/
def Access.poisonedPart (a : Access) : Option Part := a.parts.find? (fun p => p.st = .poison)

/-! ## Data returns (R54, R290 to R292) -/

/-- A value with its low n bits sign-extended; n = 0: zero-extended (R290). -/
def extend (n v : Nat) : Word := if n = 0 then BitVec.ofNat 64 v else sext64 n v

/-- The mask flags and MFLAGS bits of a delivered load, the MFLAGS sets after any SWR of the same boundary (R120, R269). -/
def raiseFlags (r : Req) (i : Inst) : Inst :=
  if r.mask = 0 then i
  else
    let mf := mflagBits r.fails
    let i := { i with
      m := Sparse.set 0 i.m r.mask (Sparse.get 0 i.m r.mask ||| flagBits r.fails)
      mflags := i.mflags ||| mf }
    { i with wb := i.wb.map (fun w => if w.dst = .sys .mflagsClear then { w with val := w.val &&& ~~~(mf.setWidth 256) } else w) }

/-- Writes the data of a request to its destination (R49, R51, R251). -/
def writeDst (r : Req) (i : Inst) : Inst :=
  match r.dst with
  | .discard => i
  | .g c n sx => if (i.ctx c).live then i.gSet c n (extend sx ((r.data.map (fun p => p.2)).headD 0)) else i
  | .v n => r.data.foldl (fun i p => i.vSet n p.1 (BitVec.ofNat 32 p.2)) i
  | .q n sx => fillQ r.id n (extend sx ((r.data.map (fun p => p.2)).headD 0)) i
  | .t n => i.tSet n (BitVec.ofNat 256 ((r.data.map (fun p => p.2)).headD 0))

/-- Poisoned data that no mask takes (R291). -/
def Req.poisoned (r : Req) : Bool := r.mask = 0 && r.fails.any (fun f => f.2 = .poison)

def Inst.dropReq (i : Inst) (id : Nat) : Inst := { i with reqs := i.reqs.filter (fun r => r.id ≠ id) }

/-- The data of request id has come and waits in its entry: a timed request for its landing vc, an interlocked one for the start of
the next vc, at which writes to one register take effect in issue order (R52 to R54, R60). -/
def reqArrived (id : Nat) (data : List (Nat × Nat)) (fails : List (Nat × Status)) (va : Word) (i : Inst) : Inst :=
  match i.reqs.find? (fun r => r.id = id) with
  | none => i
  | some r =>
    let r := { r with arrived := true, data := data, fails := fails, va := va }
    if !(i.life = .running || i.life = .saving) then i.dropReq id
    else { i with reqs := i.reqs.map (fun x => if x.id = id then r else x) }

/-- A fetched word reaches its context (R206); poison is taken when the word is reached. -/
def fetchArrived (a : Access) (s : State) : State :=
  s.updUid a.uid (fun i => i.updCtx a.ctx (fun x => { x with fetched := some (a.pc, a.parts.map (fun p => (p.res, p.st))) }))

/-- The destination register of request id carries a mask. -/
def maskedReq (s : State) (uid id : Nat) : Bool :=
  match s.instOf uid with
  | none => false
  | some i => i.reqs.any (fun r => r.id = id && r.mask ≠ 0)

/-- Bytes that an engine command has read outside (R323). -/
def engArrived (n : Nat) (a : Access) (s : State) : State :=
  s.updUid a.uid (fun i => i.updCmd n (fun c => { c with got := c.got ++ a.parts }))

/-- A refused read is entered when it ends: one of an engine with the row it belongs to (R343), a FENCE's read never. -/
def AccKind.entersRead : AccKind → Bool
  | .engRead _ => false
  | .hostFence => false
  | _ => true

/-- Every part of a load or returning atomic has its outcome: the access is performed (R143, R282, R292). -/
def finishLoad (id : Nat) (s : State) : State :=
  match s.access id with
  | none => s
  | some a =>
    if !a.allDone then s
    else
      let s := s.dropAccess id
      let s := match a.refusedPart with
        | some (p, st) =>
          if maskedReq s a.uid id || !a.kind.entersRead then s else recordAcc a cREFUSED (refusedDetail a.kind st) p.va s
        | none => s
      let s := match a.kind with
        | .fetch => fetchArrived a s
        | .hostFence => s
        | .engRead n => engArrived n a s
        | _ =>
          let data := a.parts.map (fun p => (p.lane, p.res))
          let fails := (a.parts.filter (fun p => p.st ≠ .ok)).map (fun p => (p.lane, p.st))
          let va := match a.poisonedPart with
            | some p => p.va
            | none => 0
          s.updUid a.uid (reqArrived id data fails va)
      sweep s

/-- Performs what can be performed of load or returning atomic id. -/
def performLoad (id : Nat) (only : Option Nat) (answers : List (Nat × Answer)) (s : State) : State :=
  match s.access id with
  | none => s
  | some a => finishLoad id (runParts a 0 only answers s)

/-! ## ECC_LOG (R343, R381) -/

/-- ENGINE codes of ECC_LOG. -/
def ecMX : Nat := 0
def ecCP : Nat := 1
def ecAT : Nat := 2
def ecCL : Nat := 3
def ecCI : Nat := 4

/-- KIND of ECC_LOG where it lies: a scratchpad or weight-store word of this device holds an uncorrectable error, a DRAM line or
outside data is poisoned (R381, R385). -/
def Tgt.eccKind : Tgt → Nat
  | .spad .. => 1
  | .own _ => 1
  | .ws _ => 1
  | _ => 2

/-- Which operand an event of ECC_LOG names. -/
structure EccName where
  engine : Nat
  acc : Bool
  reg : Nat
  opnd : Nat

/-- An event of ECC_LOG: the first since VALID was 0 is described, further ones set OVF. -/
def eccEvent (e : EccName) (kind row col : Nat) (i : Inst) : Inst :=
  if bitAt i.eccLog.toNat 63 then { i with eccLog := i.eccLog ||| BitVec.ofNat 64 (2 ^ 62) }
  else
    let ovf := if bitAt i.eccLog.toNat 62 then 2 ^ 62 else 0
    { i with eccLog := BitVec.ofNat 64 (2 ^ 63 + ovf + e.engine * 2 ^ 59 + b2n e.acc * 2 ^ 58 + (e.reg % 64) * 2 ^ 52 +
        kind * 2 ^ 48 + e.opnd * 2 ^ 45 + (row % 2 ^ 16) * 2 ^ 16 + col % 2 ^ 16) }

/-- The destination register of a SCADD. -/
def scaddReg : Instr → Nat
  | .scadd o => o.td.toNat
  | _ => 0

/-- An element update of SCADD command n met a poisoned old value (R340). -/
def noWriteElem (a : Access) (n : Nat) (p : Part) (s : State) : State :=
  let s := s.updUid a.uid (fun i => match i.cmds.find? (fun c => c.id = n) with
    | none => i
    | some c => eccEvent ⟨ecCP, false, scaddReg c.word, 0⟩ p.tgt.eccKind p.y p.lane i)
  recordAcc a cNOWRITE 1 p.va s

/-! ## Stores and their acknowledgement (R78, R132) -/

/-- Folds every version of store id into the memory all dies see. -/
def foldVersions (id : Nat) (s : State) : State :=
  (s.versions.filter (fun v => v.acc = id)).foldl (fun s _ => foldVersion id s) s

/-- A refused packet of collective command n fails it here, where it has not written its destination (R361). -/
def refuseContrib (a : Access) (n : Nat) (s : State) : State :=
  match s.inst a.isle with
  | none => s
  | some i => if i.cmds.any (fun c => c.id = n && c.phase = .gathering) then failColl a.isle n 4 s else s

/-- The failures of a completed store are recorded (R143, R298); of the updates of a SCADD every element that wrote nothing (R340). -/
def recordStore (a : Access) (s : State) : State :=
  let s := match a.refusedPart, a.kind with
    | some _, .contrib n => refuseContrib a n s
    | some (p, st), _ => recordAcc a cREFUSED (refusedDetail a.kind st) p.va s
    | none, _ => s
  match a.kind, a.poisonedPart with
  | .red _, some p => recordAcc a cNOWRITE 0 p.va s
  | .engAmo n _, _ => (a.parts.filter (fun p => p.st = .poison)).foldl (fun s p => noWriteElem a n p s) s
  | _, _ => s

/-- Store id is performed with respect to every agent: it is acknowledged (R78). -/
def finishStore (id : Nat) (s : State) : State :=
  match s.access id with
  | none => s
  | some a => if a.allDone then sweep (recordStore a ((foldVersions id s).dropAccess id)) else s

/-- The dies an acknowledgement of die shows a store to: all of them for none. -/
def visOf : Option Nat → BitVec 8
  | none => BitVec.allOnes 8
  | some d => BitVec.ofNat 8 (2 ^ d)

/-- A packet to an isle of this device is held behind the open circuit of its flow (R163). -/
def heldBehind (s : State) (a : Access) : Bool :=
  a.parts.any (fun p => match p.tgt with
    | .spad .. => true
    | _ => false) && s.receivers.any (fun r => r.mark.isSome && a.kind.flow = some r.flow)

/-- A packet on a circuit, or held at its port or behind a circuit, is not delivered by the packet plane (R162, R163). -/
def onPacketPlane (s : State) (a : Access) : Bool := !s.meters.any (fun m => heldBack m a.id) && !heldBehind s a

/-- Performs what can be performed of store id and shows it to a die, or to all. -/
def performStore (id : Nat) (die : Option Nat) (answers : List (Nat × Answer)) (s : State) : State :=
  match s.access id with
  | none => s
  | some a =>
    let vis := visOf die
    let s :=
      if a.atHome then
        match die with
        | some d => showVersion id d s
        | none => (upto 8).foldl (fun s d => showVersion id d s) s
      else if onPacketPlane s a then
        let s := runParts a vis none answers s
        s.updAccess id (fun a => if a.allDone then { a with atHome := true } else a)
      else s
    match s.access id with
    | none => s
    | some a =>
      if !a.atHome then s
      else
        let seen := (s.versions.filter (fun v => v.acc = id)).all (fun v => v.vis = BitVec.allOnes 8)
        let s := s.updAccess id (fun a => { a with
          vis := (s.versions.filter (fun v => v.acc = id)).foldl (fun m v => m &&& v.vis) (BitVec.allOnes 8) })
        if seen then finishStore id s else s

/-! ## Queue appends (R69, R313, R314) -/

/-- Stops a queue with an error; MSI-X vector 1 (R67, R396). -/
def stopQueue (v q : Nat) (e : QErr) (s : State) : State :=
  (s.setQueue v q { s.queue v q with stopped := true, err := e }).send (.msix v 1)

/-- What a TAIL write is judged to be (R69). -/
inductive TailJudged
  | off | overflow | ignored | taken
  deriving DecidableEq, Repr

def judgeTail (q : HwQueue) (new : BitVec 32) : TailJudged :=
  if !q.en || q.stopped then .off
  else if 2 ^ q.logsz < (new - q.head).toNat then .overflow
  else if (new - q.head).toNat < (q.tail - q.head).toNat then .ignored
  else .taken

/-- The segment table and chain of a queue's region, as they stand (R68). -/
def queueSegs (s : State) (v q : Nat) : Option (List Seg × Partition × List Nat × Eff) :=
  match chainOf s v (s.queue v q).rcb with
  | none => none
  | some (c, e) => some (segsAt s e.segtab, partAt s e.part, c, e)

/-- Targets that R409 allows for slots, headers, blocks, masks, FENCE counters and SIGNAL counters. -/
def structTgt : Tgt → Bool
  | .dram _ => true
  | .host _ => true
  | .peer _ pa => (match localTgt pa with
    | .dram _ => true
    | _ => false)
  | _ => false

/-- Translation of n bytes of a structure of a queue or launch, with permission and an allowed target (R409). -/
def structAt (s : State) (segs : List Seg) (part : Partition) (perm : Seg → Bool) (va n : Nat) : Option Tgt :=
  match findSeg segs va, findSeg segs (va + n - 1) with
  | .ok e, .ok e' =>
    if perm e && perm e' then
      let t := segTgt (selfOf part) e va
      let t' := segTgt (selfOf part) e' (va + n - 1)
      let ok := match t with
        | .peer p _ => peerOk s part p
        | _ => true
      if structTgt t && structTgt t' && ok then some t else none
    else none
  | _, _ => none

/-- Virtual address of the slot of index n (R67). -/
def slotVa (q : HwQueue) (n : BitVec 32) : Nat := q.base.toNat + 64 * (n.toNat % 2 ^ q.logsz)

/-- A QUEUE entry of LAUNCH or QTAIL (R313, R374); its PC is KADDR of the executing launch (R378). -/
def queueFault (a : Access) (q what : Nat) (s : State) : State :=
  let kaddr := match s.launch a.launch with
    | some l => packetField l.packet 8 8
    | none => 0
  instFault a.uid a.launch { accEntry a cQUEUE (what * 16 + q) 0 with pc := BitVec.ofNat 64 kaddr } s

/-- A LAUNCH has begun to write the slot of queue q of vf: no other write of its TAIL takes effect (R313). -/
def appending (s : State) (v q : Nat) : Bool := s.acc.any (fun a => a.kind = .slot q && launchVf s a.launch = v)

/-- The append of LAUNCH, indivisible towards other TAIL writes (R313): the checks, and the slot write that comes first. A region
whose chain fails at this moment gives no slot (log 56). -/
def appendPacket (a : Access) (q : Nat) (st : Status) (pkt : Nat) (s : State) : State :=
  let v := launchVf s a.launch
  let qu := s.queue v q
  let gone := s.dropAccess a.id
  match st with
  | .refused _ => queueFault a q 4 gone
  | .nonres => queueFault a q 4 gone
  | .poison => queueFault a q 5 gone
  | .ok =>
    if !qu.en || qu.stopped then queueFault a q 1 gone
    else if 2 ^ qu.logsz < (qu.tail + 1 - qu.head).toNat then queueFault a q 2 (stopQueue v q .overflow gone)
    else
      let slot := match queueSegs s v q with
        | none => none
        | some (segs, part, _, _) => structAt s segs part (fun e => e.w) (slotVa qu qu.tail) 64
      match slot with
      | none => queueFault a q 3 (stopQueue v q .badaddr gone)
      | some t => s.updAccess a.id (fun a => { a with
          kind := .slot q
          parts := [⟨0, BitVec.ofNat 64 (slotVa qu qu.tail), t, 64, .rc, .mem, none, pkt, 0, false, 0, .ok⟩] })

/-- A write of TAIL takes effect (R69). -/
def putTail (v q : Nat) (new : BitVec 32) (s : State) : State :=
  match judgeTail (s.queue v q) new with
  | .off => s
  | .overflow => stopQueue v q .overflow s
  | .ignored => s
  | .taken => s.setQueue v q { s.queue v q with tail := new }

/-- The slot of LAUNCH a is written: TAIL moves, and host writes of TAIL that waited take effect (R313). -/
def publish (a : Access) (q : Nat) (s : State) : State :=
  let v := launchVf s a.launch
  let s := (recordStore a s).dropAccess a.id
  let s := match a.refusedPart with
    | some _ => s
    | none => s.setQueue v q { s.queue v q with tail := (s.queue v q).tail + 1 }
  let held := (s.queue v q).tails
  held.foldl (fun s t => putTail v q t s) (s.setQueue v q { s.queue v q with tails := [] })

/-- Goes on with the slot write of LAUNCH id. -/
def performSlot (id q : Nat) (answers : List (Nat × Answer)) (s : State) : State :=
  match s.access id with
  | none => s
  | some a =>
    let s := runParts a 0 none answers s
    match s.access id with
    | none => s
    | some a => if a.allDone then sweep (publish a q s) else s

/-- The TAIL write of QTAIL (R314). -/
def appendTail (a : Access) (q new : Nat) (s : State) : State :=
  let v := launchVf s a.launch
  let s' := putTail v q (BitVec.ofNat 32 new) s
  match judgeTail (s.queue v q) (BitVec.ofNat 32 new) with
  | .off => queueFault a q 1 s'
  | .overflow => queueFault a q 2 s'
  | .ignored => s'
  | .taken => s'

/-- Performs LAUNCH or QTAIL id: part 0 is the packet read of LAUNCH; a part of length 0 is QTAIL with its new TAIL. -/
def performTail (id : Nat) (answers : List (Nat × Answer)) (s : State) : State :=
  match s.access id with
  | none => s
  | some a => match a.kind, a.parts with
    | .slot q, _ => performSlot id q answers s
    | _, [] => s.dropAccess id
    | _, p :: _ =>
      if p.len = 0 then
        if appending s (launchVf s a.launch) p.x then s else sweep (appendTail a p.x p.y (s.dropAccess id))
      else
        let s := if p.done then s else runParts a 0 none answers s
        match s.access id with
        | none => s
        | some a => match a.parts with
          | [] => s
          | p :: _ =>
            if !p.done || appending s (launchVf s a.launch) p.x then s
            else
              let s := appendPacket a p.x p.st p.res s
              sweep (performSlot id p.x [] s)

/-! ## The oldest access that the machine can perform by itself -/

/-- An access waits for an answer from outside, a held granule or a retry. -/
def needsOutside (s : State) (a : Access) : Bool :=
  a.nack.isSome || a.parts.any (fun p => !p.done && (match placeOf s a p with
    | .outside => true
    | .held => true
    | .moving _ => true
    | _ => false))

/-- A load, or an atomic that returns: its data comes by LANDING_DATA_ARRIVAL. -/
def AccKind.returns : AccKind → Bool
  | .load | .fetch | .tld | .amo _ | .cas | .hostFence | .engRead _ => true
  | _ => false

/-- A LAUNCH or QTAIL under way. -/
def isTail : AccKind → Bool
  | .tail => true
  | .slot _ => true
  | _ => false

end Sys2Proof.Machine
end

