-- ==== Sys2Proof/Machine/MemOps.lean ====
section
/-!
DEFINITION. The scalar memory words: loads, stores, atomics, reductions, PREF, CFLUSH and PGREQ (R286 to R302): majors 0x20 to 0x2B.
-/
namespace Sys2Proof.Machine

/-- Bytes of an access size (R207). -/
def Sz.bytes : Sz → Nat
  | .b => 1
  | .h => 2
  | .w => 4
  | .d => 8

/-- The address offset of an F-M word (R207). -/
def offOf : Option (BitVec 32) → Word
  | none => 0
  | some l => l.signExtend 64

/-- The landing destination of a G field: a queue, nothing for G0, or a register of the context (R48, R49). -/
def landDst (c : Ctx) (d : BitVec 5) (sx : Nat) : LandDst :=
  if 24 ≤ d.toNat then .q (d.toNat - 24) sx else if d = 0 then .discard else .g c d.toNat sx

/-- The landing buffer has no entry left for this destination (R54). -/
def landingFull (i : Inst) : LandDst → Bool
  | .discard => false
  | .t _ => false
  | _ => decide (48 ≤ i.landingUsed)

/-- The last waits of a word that returns data, then its issue (R48, R54, R289). -/
def issueLanding (e : Env) (l : Launch) (kind : AccKind) (acq rel : Bool) (d : BitVec 5) (parts : List Part) (ld : Landing)
    (i : Inst) : Verdict :=
  orHeld e l (parts.map (fun p => p.tgt)) <|
  if rel && !releaseReady e.s e.i.uid e.c e.x then .block .order
  else if !pushRoom e.i i d then .block (.queue (d.toNat - 24))
  else if landingFull i ld.dst then .block .landingBuffer
  else .go (issueAccess e kind acq parts (some ld) i e.s)

/-- LD, LDS, LD.AQ (R290 to R292): sx is 1 for sign extension. -/
def loadOp (signed acq : Bool) (o : LoadOp) (e : Env) : Verdict :=
  withVec e [o.a] [o.d] [] [o.m] (fun v i =>
    e.withLaunch (.block .order) (fun l =>
      let n := Sz.bytes o.sz
      let ea := src v 0 + offOf o.off
      let w : Want := .load (decide (o.m ≠ 0))
      match checkElem e.s e.k e.i l w n 0 ea with
      | .error t => .trap t.cause t.detail ea
      | .ok el =>
        if l.spec && stopsAt w el then .block .specStop
        else
          let dst := landDst e.c o.d (if signed then 8 * n else 0)
          issueLanding e l .load acq false o.d [el.part n 0 0] ⟨dst, o.m.toNat, o.land.toNat, 1⟩ i))

/-- LD (R290). -/
def execLd (o : LoadOp) (s : State) : Host.Outcome State Fault Refusal := runWord (.ld o) s (loadOp false false o)
/-- LDS (R290). -/
def execLds (o : LoadOp) (s : State) : Host.Outcome State Fault Refusal := runWord (.lds o) s (loadOp true false o)
/-- LD.AQ (R292). -/
def execLdAq (o : LoadOp) (s : State) : Host.Outcome State Fault Refusal := runWord (.ldAq o) s (loadOp false true o)

/-! ## Stores (R293) -/

/-- An own-scratchpad element lies in a page in refill (R59). -/
def padRefilling (i : Inst) (el : Elem) (n : Nat) : Bool :=
  match el.tgt with
  | .own o => refilling i o n
  | _ => false

/-- A store to a message window of this isle places its bytes and may close the packet (R157). -/
def windowStore (e : Env) (w off n x : Nat) (va : Word) (i : Inst) : State :=
  let s := e.s.setInst e.k (placeBytes w (off % 2048) (leBytes n x) i)
  if bitAt off 11 then closePacket e.k w e.pc va s else s

/-- The trap of an access of n bytes at base + offset whose base is the first source, where that stands ready (R64, R287). -/
def addrTrap (e : Env) (w : Want) (n : Nat) (off : Word) (vs : List (Option Word)) : Option TrapOf :=
  if e.spec && w.isAtomic then none
  else match vs.headD none, e.launch with
    | some base, some l => match checkElem e.s e.k e.i l w n 0 (base + off) with
      | .error t => some (t.cause, t.detail, base + off)
      | .ok _ => none
    | _, _ => none

/-- ST, ST.RL (R293). -/
def storeOp (rel : Bool) (o : StoreOp) (e : Env) : Verdict :=
  withChecked e [o.a, o.s] [] [] (addrTrap e .store (Sz.bytes o.sz) (offOf o.off)) (fun v i =>
    e.withLaunch (.block .order) (fun l =>
      let n := Sz.bytes o.sz
      let ea := src v 0 + offOf o.off
      let x := maskTo n (src v 1).toNat
      match checkElem e.s e.k e.i l .store n 0 ea with
      | .error t => .trap t.cause t.detail ea
      | .ok el =>
        if l.spec && stopsAt .store el then .block .specStop
        else if padRefilling e.i el n then .block .refill
        else orHeld e l [el.tgt] (
          if rel && !releaseReady e.s e.i.uid e.c e.x then .block .order
          else match el.tgt with
            | .msgwin _ w off => .go (windowStore e w off n x ea i)
            | _ => .go (issueAccess e .store false [el.part n x 0] none i e.s))))

/-- ST (R293). -/
def execSt (o : StoreOp) (s : State) : Host.Outcome State Fault Refusal := runWord (.st o) s (storeOp false o)
/-- ST.RL (R293). -/
def execStRl (o : StoreOp) (s : State) : Host.Outcome State Fault Refusal := runWord (.stRl o) s (storeOp true o)

/-! ## Atomics (R294 to R299) -/

/-- A returning atomic of n bytes at ea. -/
def atomicOp (kind : AccKind) (w : Want) (acq rel : Bool) (d : BitVec 5) (land n x y : Nat) (ea : Word) (e : Env) (i : Inst) :
    Verdict :=
  if e.spec then .block .specStop
  else e.withLaunch (.block .order) (fun l =>
    match checkElem e.s e.k e.i l w n 0 ea with
    | .error t => .trap t.cause t.detail ea
    | .ok el =>
      if padRefilling e.i el n then .block .refill
      else issueLanding e l kind acq rel d [el.part n x y] ⟨landDst e.c d 0, 0, land, 3⟩ i)

/-- AMO and its qualified forms (R294, R295, R299). -/
def amoOpWord (acq rel : Bool) (o : AmoOp) (e : Env) : Verdict :=
  withChecked e [o.a, o.d] [o.d] [] (addrTrap e (.amo o.fn) (Sz.bytes o.sz) (offOf o.off)) (fun v i =>
    let n := Sz.bytes o.sz
    atomicOp (.amo o.fn) (.amo o.fn) acq rel o.d o.land.toNat n (maskTo n (src v 1).toNat) 0 (src v 0 + offOf o.off) e i)

/-- AMO, AMO.AQ (R294, R299). -/
def execAmo (o : AmoOp) (s : State) : Host.Outcome State Fault Refusal := runWord (.amo o) s (amoOpWord o.q false o)
/-- AMO.RL, AMO.AR (R294, R299). -/
def execAmoRl (o : AmoOp) (s : State) : Host.Outcome State Fault Refusal := runWord (.amoRl o) s (amoOpWord o.q true o)

/-- CAS (R296): D holds the compare value, D + 1 the new one. -/
def execCas (o : CasOp) (s : State) : Host.Outcome State Fault Refusal :=
  runWord (.cas o) s (fun e =>
    withChecked e [o.a, o.d, o.d + 1] [o.d] [] (addrTrap e .cas (Sz.bytes o.sz) (offOf o.off)) (fun v i =>
      let n := Sz.bytes o.sz
      atomicOp .cas .cas o.aq o.rl o.d o.land.toNat n (maskTo n (src v 1).toNat) (maskTo n (src v 2).toNat)
        (src v 0 + offOf o.off) e i))

/-- RED (R297): posted, no landing. -/
def execRed (o : RedOp) (s : State) : Host.Outcome State Fault Refusal :=
  runWord (.red o) s (fun e =>
    withChecked e [o.a, o.s] [] [] (addrTrap e (.red o.fn) (Sz.bytes o.sz) (offOf o.off)) (fun v i =>
      if e.spec then .block .specStop
      else e.withLaunch (.block .order) (fun l =>
        let n := Sz.bytes o.sz
        let ea := src v 0 + offOf o.off
        match checkElem e.s e.k e.i l (.red o.fn) n 0 ea with
        | .error t => .trap t.cause t.detail ea
        | .ok el =>
          if padRefilling e.i el n then .block .refill
          else orHeld e l [el.tgt] (
            if o.rl && !releaseReady e.s e.i.uid e.c e.x then .block .order
            else .go (issueAccess e (.red o.fn) false [el.part n (maskTo n (src v 1).toNat) 0] none i e.s)))))

/-! ## Prefetch, flush and residency request (R300 to R302) -/

/-- PREF (R300): it changes no program-visible value. -/
def execPref (o : AddrOp) (s : State) : Host.Outcome State Fault Refusal :=
  runWord (.pref o) s (fun e =>
    withSources e [o.a] [] [] (fun _ i =>
      if acquirePending e.s e.i.uid e.c then .block .order else .go (e.s.setInst e.k i)))

/-- The target of a CFLUSH with its line, where the flush has an effect (R301). -/
def flushTgt : Tgt → Option Tgt
  | .dram a => some (.dram (a / 64 * 64))
  | .peer p a => (match localTgt a with
    | .dram b => some (.peer p (b / 64 * 64))
    | _ => none)
  | _ => none

/-- CFLUSH (R301). -/
def execCflush (o : AddrOp) (s : State) : Host.Outcome State Fault Refusal :=
  runWord (.cflush o) s (fun e =>
    withSources e [o.a] [] [] (fun v i =>
      if e.spec then .block .specStop
      else e.withLaunch (.block .order) (fun l =>
        let ea := src v 0 + offOf o.off
        match checkElem e.s e.k e.i l .cflush 1 0 ea with
        | .error t => .trap t.cause t.detail ea
        | .ok el =>
          orHeld e l [el.tgt] (
            match (if el.st = .ok then flushTgt el.tgt else none) with
            | none => .go (e.s.setInst e.k i)
            | some t => .go (issueAccess e .cflush false [{ el.part 64 0 0 with tgt := t }] none i e.s)))))

/-- Posts a residency request to the ring of the virtual function, or drops it (R400). -/
def residencyRequest (vf rcb g va isle rank : Nat) (s : State) : State :=
  let v := s.vf vf
  let used := (v.rrqTail + 2 ^ 16 - v.rrqHead) % 2 ^ 16
  if v.rrqLogsz = 0 ∨ used = 2 ^ v.rrqLogsz then s.setVf vf { v with rrqDrops := Nat.min (v.rrqDrops + 1) 0xFFFF }
  else
    let a := v.rrqbase + 32 * (v.rrqTail % 2 ^ v.rrqLogsz)
    let cells := cellsOf a 8 rcb ++ cellsOf (a + 8) 4 g ++ cellsOf (a + 12) 4 0 ++ cellsOf (a + 16) 8 va ++
      cellsOf (a + 24) 1 isle ++ cellsOf (a + 25) 1 rank ++ cellsOf (a + 26) 6 0
    let s := ownWrite (cells.map (fun c => (normPa c.1, c.2))) s
    let s := s.setVf vf { s.vf vf with rrqTail := (v.rrqTail + 1) % 2 ^ 16 }
    if used = 0 then s.send (.msix vf 0) else s

/-- PGREQ (R302). -/
def execPgreq (o : AddrOp) (s : State) : Host.Outcome State Fault Refusal :=
  runWord (.pgreq o) s (fun e =>
    withSources e [o.a] [] [] (fun v i =>
      if e.spec then .block .specStop
      else e.withLaunch (.block .order) (fun l =>
        let ea := src v 0 + offOf o.off
        match findSeg l.segs ea.toNat with
        | .error d => .trap cSEGV d ea
        | .ok sg =>
          if !sg.r then .trap cSEGV dPERM ea
          else if acquirePending e.s e.i.uid e.c then .block .order
          else
            let s := e.s.setInst e.k i
            if sg.resid && !resident s l.eff sg ea.toNat then
              .go (residencyRequest l.vf (l.chain.headD 0) (granuleBit sg ea.toNat) (granuleVa sg ea.toNat) e.k e.i.rank s)
            else .go s)))

end Sys2Proof.Machine
end

