-- ==== Sys2Proof/Machine/Tensor.lean ====
section
/-!
DEFINITION. Tensor descriptors (R320 to R323): fields, spans, the checks made when a command issues and their order (R64), and
the words that move and edit descriptors (R325, R326): major 0x60.
-/
namespace Sys2Proof.Machine

/-! ## Fields and spans (R320, R321) -/

/-- A descriptor as its 32 bytes hold it. -/
structure Desc where
  fmt : Nat
  space : Nat
  ndim : Nat
  csl : Bool
  gsp : Bool
  sb : Int
  base : Nat
  size : List Nat
  stride : List Nat
  gsoff : Int
  deriving DecidableEq, Repr

/-- The fields of R320. -/
def descOf (b : BitVec 256) : Desc :=
  let x := b.toNat
  { fmt := field x 60 4, space := field x 58 2, ndim := field x 56 2, csl := bitAt x 55, gsp := bitAt x 54,
    sb := sextInt 6 (field x 48 6), base := field x 0 48,
    size := [field x 64 16, field x 80 16, field x 96 16, field x 112 16],
    stride := [field x 128 32, field x 160 32, field x 192 32], gsoff := sextInt 32 (field x 224 32) }

/-- Formats of R320. -/
def fmtL6 : Nat := 1
def fmtINT8 : Nat := 2
def fmtINT32 : Nat := 3
def fmtBF16 : Nat := 4
def fmtFP16 : Nat := 5
def fmtFP32 : Nat := 6

/-- Spaces of R320. -/
def spSPAD : Nat := 0
def spDRAM : Nat := 1
def spWSTORE : Nat := 2

/-- Effective size of dimension k (R320). -/
def Desc.dim (d : Desc) (k : Nat) : Nat := if k ≤ d.ndim then d.size.getD k 0 else 1
/-- STRIDEk, k = 1 to 3. -/
def Desc.str (d : Desc) (k : Nat) : Nat := d.stride.getD (k - 1) 0

/-- Bytes of an element; 1 for the byte-packed formats (R321). -/
def eszOf (fmt : Nat) : Nat :=
  match fmt with
  | 3 => 4
  | 4 => 2
  | 5 => 2
  | 6 => 4
  | _ => 1

/-- First byte of element k within its row, and one past its last (R321). -/
def Desc.eoff (d : Desc) (k : Nat) : Nat := if d.fmt = fmtL6 then 3 * (k / 4) else k * eszOf d.fmt
def Desc.eend (d : Desc) (k : Nat) : Nat := if d.fmt = fmtL6 then 3 * (k / 4) + 3 else (k + 1) * eszOf d.fmt

/-- Bytes that carry element k: a 3-byte group for L6 (R179). -/
def Desc.unit (d : Desc) : Nat := if d.fmt = fmtL6 then 3 else eszOf d.fmt

/-- Element k of a unit's value (R179). -/
def Desc.pick (d : Desc) (k v : Nat) : Nat := if d.fmt = fmtL6 then field v (6 * (k % 4)) 6 else v % 2 ^ (8 * eszOf d.fmt)

/-- rowoff (R321). -/
def Desc.rowoff (d : Desc) (i1 i2 i3 : Nat) : Nat := i1 * d.str 1 + i2 * d.str 2 + i3 * d.str 3

/-- Number of rows, and the byte offset of row r in row order: i1 fastest, i3 slowest (R321). -/
def Desc.rows (d : Desc) : Nat := d.dim 1 * d.dim 2 * d.dim 3
def Desc.i1 (d : Desc) (r : Nat) : Nat := r % d.dim 1
def Desc.i2 (d : Desc) (r : Nat) : Nat := r / d.dim 1 % d.dim 2
def Desc.i3 (d : Desc) (r : Nat) : Nat := r / (d.dim 1 * d.dim 2)
def Desc.rowAt (d : Desc) (r : Nat) : Nat := d.base + d.rowoff (d.i1 r) (d.i2 r) (d.i3 r)

/-- Bytes of the elements of a row. -/
def Desc.rowLen (d : Desc) : Nat := d.eend (d.dim 0 - 1)

/-- G: group scales of a row (R321). -/
def Desc.groups (d : Desc) : Nat := ceilDiv (d.dim 0) 64

/-- Address of scale byte g of row r (R321). -/
def Desc.gsAt (d : Desc) (r g : Nat) : Int := (d.rowAt r : Int) + d.gsoff + g

/-- span(T, scales): first and last byte (R321). -/
def Desc.span (d : Desc) (scales : Bool) : Int × Int :=
  let far : Nat := d.rowoff (d.dim 1 - 1) (d.dim 2 - 1) (d.dim 3 - 1)
  let lo : Int := d.base
  let hi : Int := (d.base : Int) + far + d.eend (d.dim 0 - 1) - 1
  if scales then (min lo (d.base + d.gsoff), max hi ((d.base : Int) + far + d.gsoff + d.groups - 1)) else (lo, hi)

/-! ## Checks of R322 -/

/-- Used sizes are not zero; unused sizes and strides are; GSOFF is zero without GSP. -/
def Desc.shapeOk (d : Desc) : Bool :=
  (upto 4).all (fun k => if k ≤ d.ndim then d.size.getD k 0 != 0 else d.size.getD k 0 == 0) &&
  [1, 2, 3].all (fun k => k ≤ d.ndim || d.str k == 0) && (d.gsp || d.gsoff == 0)

/-- A column's element or scale bytes stay in its 256 KiB part (R322). -/
def Desc.columnOk (d : Desc) (scales : Bool) : Bool :=
  let lo : Int := if scales then min (d.base : Int) (d.base + d.gsoff) else d.base
  let hi : Int := if scales then max ((d.base : Int) + d.rowLen - 1) (d.base + d.gsoff + d.groups - 1) else d.base + d.rowLen - 1
  decide (0 ≤ lo) && decide (hi < 2 ^ 18)

/-- The rules for CSL = 1 (R322). -/
def Desc.cslOk (d : Desc) (scales : Bool) : Bool :=
  !d.csl || (d.space = spWSTORE && decide (d.ndim ≤ 1) && decide (d.dim 1 ≤ 128) && d.str 1 = 0x40000 && decide (d.base < 0x40000) &&
    d.columnOk scales)

/-- SPAD and WSTORE extents (R322). -/
def Desc.extentOk (d : Desc) (scales : Bool) : Bool :=
  let (lo, hi) := d.span scales
  match d.space with
  | 0 => decide (d.base < 2 ^ 22) && decide (0 ≤ lo) && decide (hi < 2 ^ 22)
  | 2 => decide (0 ≤ lo) && decide (hi < 2 ^ 25)
  | _ => true

/-- The descriptor is valid by itself (R322). -/
def Desc.legal (d : Desc) (scales : Bool) : Bool :=
  decide (1 ≤ d.fmt) && decide (d.fmt ≤ 6) && decide (d.space ≤ 2) && d.shapeOk && d.cslOk scales && d.extentOk scales

/-- BASE and used strides are multiples of the element size (R322). -/
def Desc.aligned (d : Desc) : Bool :=
  let z := eszOf d.fmt
  d.base % z == 0 && [1, 2, 3].all (fun k => decide (d.ndim < k) || d.str k % z == 0)

/-! ## Operands of a command -/

/-- A tensor operand as a command uses it. -/
structure Opnd where
  reg : BitVec 6
  d : Desc
  scales : Bool
  rd : Bool
  wr : Bool
  /-- Its elements are updated by atomic additions (SCADD, R340). -/
  atom : Bool
  deriving DecidableEq, Repr

/-- An operand that is only read, or only written. -/
def Opnd.read (reg : BitVec 6) (d : Desc) (scales : Bool) : Opnd := ⟨reg, d, scales, true, false, false⟩
def Opnd.write (reg : BitVec 6) (d : Desc) (scales : Bool) : Opnd := ⟨reg, d, scales, false, true, false⟩

/-- A scratchpad span as a footprint of the range checker (R333). -/
def Opnd.foot (o : Opnd) : List (Nat × Nat) :=
  if o.d.space = spSPAD then [((o.d.span o.scales).1.toNat, (o.d.span o.scales).2.toNat)] else []

/-- Addresses a to b cut at every multiple of 2^16: the first byte of each part (R118). Segments, targets and granules change
at such multiples only. -/
def cuts : Nat → Nat → Nat → List Nat
  | 0, _, _ => []
  | n + 1, a, b => if b < a then [] else a :: cuts n ((a / 2 ^ 16 + 1) * 2 ^ 16) b

/-- The first bytes of the parts that an operand's rows and scales lie in, none for a negative address. -/
def Opnd.parts (o : Opnd) : List (Option Nat) :=
  (upto o.d.rows).flatMap (fun r =>
    let a := o.d.rowAt r
    let b := a + o.d.rowLen - 1
    let es := (cuts (o.d.rowLen / 2 ^ 16 + 2) a b).map some
    if !o.scales then es
    else
      let g := o.d.gsAt r 0
      if g < 0 then es ++ [none]
      else es ++ (cuts (o.d.groups / 2 ^ 16 + 2) g.toNat (g.toNat + o.d.groups - 1)).map some)

/-- The target of a DRAM-space part, or what stands against it at issue: a peer that fails R112, or SEGV (R323, R340). -/
def engSegv (s : State) (k : Nat) (l : Launch) (o : Opnd) (va : Nat) : Except (Sum Nat Nat) (Seg × Tgt) :=
  match findSeg l.segs va with
  | .error d => .error (.inr d)
  | .ok e =>
    let t := ownName k (segTgt (selfOf l.part) e va)
    let badPeer := match t with
      | .peer p _ => if peerOk s l.part p then none else some p
      | _ => none
    let taken := match t with
      | .dram _ => true
      | .spad _ _ => true
      | .host _ => true
      | .peer p pa => bitAt l.part.foreign p || (match localTgt pa with
        | .ws _ => false
        | .msgwin .. => false
        | .mmio _ => false
        | .unmapped _ => false
        | _ => true)
      | _ => false
    let noAtom := o.atom && (match t with
      | .host _ => true
      | .peer p _ => bitAt l.part.foreign p
      | _ => false)
    match badPeer with
    | some p => .error (.inl p)
    | none =>
      if !taken then .error (.inr dBADPA)
      else if (o.rd && !e.r) || (o.wr && !e.w) then .error (.inr dPERM)
      else if !resident s l.eff e va then .error (.inr dNONRES)
      else if noAtom then .error (.inr dNOATOM)
      else .ok (e, t)

/-- Every DRAM-space part of an operand, as `engSegv` gives it. -/
def opndParts (s : State) (k : Nat) (l : Launch) (o : Opnd) : List (Word × Except (Sum Nat Nat) (Seg × Tgt)) :=
  if o.d.space ≠ spDRAM then []
  else o.parts.map (fun p => match p with
    | none => (0, .error (.inr dNOSEG))
    | some va => (BitVec.ofNat 64 va, engSegv s k l o va))

/-- The first trap of the operands after ILLEGAL: OVERREACH of the scratchpad, PEERBAD, SEGV, ALIGN (R64, R322, R323). -/
def opndTrap (s : State) (k : Nat) (i : Inst) (l : Launch) (ops : List Opnd) : Option (Nat × Nat × Word) :=
  let beyondPad := ops.any (fun o => o.d.space = spSPAD && decide ((i.spadBytes : Int) ≤ (o.d.span o.scales).2))
  let ps := ops.flatMap (opndParts s k l)
  let peer := ps.findSome? (fun p => match p.2 with
    | .error (.inl n) => some (cPEERBAD, n, p.1)
    | _ => none)
  let segv := ps.findSome? (fun p => match p.2 with
    | .error (.inr d) => some (cSEGV, d, p.1)
    | _ => none)
  let out := ops.any (fun o => o.d.space = spWSTORE && wsOut s (wsBase + k * 2 ^ 25))
  if beyondPad then some (cOVERREACH, ovSPAD, 0)
  else match peer with
    | some t => some t
    | none => match segv with
      | some t => some t
      | none =>
        if out then some (cSEGV, dOUTSVC, 0)
        else if ops.any (fun o => !o.d.aligned) then some (cALIGN, 0, 0) else none

/-- A speculative instance stops before a command that reaches outside its device's memories, or writes an SO page (R98). -/
def opndStops (s : State) (k : Nat) (l : Launch) (ops : List Opnd) : Bool :=
  ops.any (fun o => (opndParts s k l o).any (fun p => match p.2 with
    | .ok (e, .dram _) => o.wr && e.ord = .so
    | .ok _ => true
    | .error _ => false))

/-! ## TLD and TST (R325) -/

/-- The address of a descriptor in memory. -/
def tmemAddr (o : TmemOp) (g : Word) : Word := g + o.off.signExtend 64

/-- TST's and TLD's checks on 32 bytes; the scratchpad bound, then the order of R64. -/
def tmemCheck (e : Env) (l : Launch) (w : Want) (ea : Word) : Except ElemTrap Elem :=
  checkElem e.s e.k e.i l w 32 0 ea

/-- TLD (R325): interlocked, without a landing-buffer entry. -/
def execTld (o : TmemOp) (s : State) : Host.Outcome State Fault Refusal :=
  runWord (.tld o) s (fun e =>
    if tOver e.i o.t then .trap cOVERREACH (if gOver e.i o.gx then ovGREGS else ovTENSORS) 0
    else if e.i.tBusy o.t.toNat then .block .interlock
    else withSources e [o.gx] [] [] (fun v i =>
      e.withLaunch (.block .order) (fun l =>
        let ea := tmemAddr o (src v 0)
        match tmemCheck e l (.load false) ea with
        | .error t => .trap t.cause t.detail ea
        | .ok el =>
          if l.spec && stopsAt (.load false) el then .block .specStop
          else orHeld e l [el.tgt] (.go (issueAccess e .tld false [el.part 32 0 0] (some ⟨.t o.t.toNat, 0, 0, 4⟩) i e.s)))))

/-- TST (R325): T n is read at issue. -/
def execTst (o : TmemOp) (s : State) : Host.Outcome State Fault Refusal :=
  runWord (.tst o) s (fun e =>
    if tOver e.i o.t then .trap cOVERREACH (if gOver e.i o.gx then ovGREGS else ovTENSORS) 0
    else if e.i.tBusy o.t.toNat then .block .interlock
    else withSources e [o.gx] [] [] (fun v i =>
      e.withLaunch (.block .order) (fun l =>
        let ea := tmemAddr o (src v 0)
        match tmemCheck e l .store ea with
        | .error t => .trap t.cause t.detail ea
        | .ok el =>
          let x := (e.i.tGet o.t.toNat).toNat
          if l.spec && stopsAt .store el then .block .specStop
          else if padRefilling e.i el 32 then .block .refill
          else orHeld e l [el.tgt] (
            match el.tgt with
            | .msgwin _ w off => .go (windowStore e w off 32 x ea i)
            | _ => .go (issueAccess e .store false [el.part 32 x 0] none i e.s)))))

/-! ## TMOD (R326) -/

/-- Lowest bit and width of a field that TMOD edits; FLAGS is CSL and GSP (R320, R326). -/
def tmodSlot : TmodField → Nat × Nat
  | .base => (0, 48)
  | .size0 => (64, 16)
  | .size1 => (80, 16)
  | .size2 => (96, 16)
  | .size3 => (112, 16)
  | .stride1 => (128, 32)
  | .stride2 => (160, 32)
  | .stride3 => (192, 32)
  | .sb => (48, 6)
  | .gsoff => (224, 32)
  | .fmt => (60, 4)
  | .space => (58, 2)
  | .ndim => (56, 2)
  | .flags => (54, 2)

/-- The descriptor after TMOD (R326). -/
def tmodVal (f : TmodField) (add : Bool) (t : BitVec 256) (v : Word) : BitVec 256 :=
  let (lo, w) := tmodSlot f
  let old := field t.toNat lo w
  BitVec.ofNat 256 (putField t.toNat lo w ((if add then old else 0) + v.toNat))

/-- TMOD (R326): visible from the next vc, nothing checked. -/
def execTmod (o : TmodOp) (s : State) : Host.Outcome State Fault Refusal :=
  runWord (.tmod o) s (fun e =>
    if tOver e.i o.t then .trap cOVERREACH (if gOver e.i o.gx then ovGREGS else ovTENSORS) 0
    else if e.i.tBusy o.t.toNat then .block .interlock
    else withSources e [o.gx] [] [] (fun v i =>
      .go (e.s.setInst e.k (i.later e.c (.t o.t.toNat) (tmodVal o.f o.add (e.i.tGet o.t.toNat) (src v 0))))))

end Sys2Proof.Machine
end

