-- ==== Sys2Proof/Machine/EngineWords.lean ====
section
/-!
DEFINITION. The words that queue commands of the MX, CP and AT engines: their checks at issue, snapshots and footprints
(R24, R322 to R327, R333, R335 to R344): majors 0x61 to 0x63.
-/
namespace Sys2Proof.Machine

/-! ## Issuing a command (R327) -/

/-- An engine queue holds 16 commands not yet started (R327). -/
def engineFull (i : Inst) (en : Engine) : Bool :=
  decide (16 ≤ (i.cmds.filter (fun c => c.isOf en && c.phase = .queued)).length)

/-- A fresh command: nothing done. -/
def mkCmd (e : Env) (word : Instr) (ds : List (BitVec 256)) (gx gy : Word) (block : List Byte) (reads writes : List (Nat × Nat)) :
    Cmd :=
  { id := e.s.nextId, pc := e.pc, word := word, ds := ds, gx := gx, gy := gy, block := block, reads := reads, writes := writes,
    phase := .queued, rows := 0, idx := [], ring := .start, contribs := [], lost := [], res := 0, after := e.x.after,
    got := [], obs := [], latched := none }

/-- WLOAD and CPY clear the latch at issue where their destination span meets it (R336). -/
def issueUnlatch (word : Instr) (ops : List Opnd) (i : Inst) : Inst :=
  match word with
  | .cpy _ | .cpyT8 _ | .cpyT16 _ | .wload _ =>
    (ops.filter (fun o => o.wr)).foldl (fun i o => i.unlatch o.d.space (o.d.span o.scales).1.toNat (o.d.span o.scales).2.toNat) i
  | _ => i

/-- Queues a command whose checks have passed; i is the instance after the pops. An earlier acquire does not hold it (R289). -/
def queueCmd (e : Env) (word : Instr) (ds : List (BitVec 256)) (gx gy : Word) (block : List Byte) (ops : List Opnd)
    (reads writes : List (Nat × Nat)) (i : Inst) : Verdict :=
  match engineOf word with
  | none => .block .engineQueue
  | some en =>
    if engineFull e.i en then .block .engineQueue
    else
      let c := mkCmd e word ds gx gy block reads writes
      let i := issueUnlatch word ops { i with cmds := i.cmds ++ [c] }
      .go { e.s.setInst e.k i with nextId := e.s.nextId + 1 }

/-- A condition of a command's rule, with the places of the tensor fields it rests on. -/
abbrev Clause := List Nat × Bool

/-- The first T field of a word stands for descriptor 0, and so on: the field's descriptor can be judged, since it is declared and no
TLD of it is under way. -/
def tReady (i : Inst) (t : BitVec 6) : Bool := !tOver i t && !i.tBusy t.toNat

/-- ILLEGAL is shown by the descriptors that can be judged, whatever the others hold (R64, R322). -/
def shownIllegal (i : Inst) (ts : List (BitVec 6)) (rule : List Clause) (ops : List Opnd) : Bool :=
  rule.any (fun c => c.1.all (fun n => match ts[n]? with
    | some t => tReady i t
    | none => true) && !c.2) ||
  ops.any (fun o => tReady i o.reg && !o.d.legal o.scales)

/-- A command over descriptors: needMx, the T fields named in order, G fields, and from the descriptors the command's own rule
and its operands. Words that a speculation stops before are marked `stops` (R98). The traps stand in the order of R64. -/
def engineOp (word : Instr) (needMx stops : Bool) (ts : List (BitVec 6)) (gs : List (BitVec 5))
    (mk : List Desc → List Clause × List Opnd) (e : Env) : Verdict :=
  let ds := ts.map (fun t => e.i.tGet t.toNat)
  let (rule, ops) := mk (ds.map descOf)
  if needMx && !hasMx e.s e.k then .trap cILLEGAL 3 0
  else if e.spec && stops then .block .specStop
  else if shownIllegal e.i ts rule ops then .trap cILLEGAL 1 0
  else if ts.any (tOver e.i) then .trap cOVERREACH (if gs.any (gOver e.i) then ovGREGS else ovTENSORS) 0
  else if ts.any (fun t => e.i.tBusy t.toNat) then .block .interlock
  else e.withLaunch (.block .order) (fun l =>
    match overreach e.i gs [] with
    | some d => .trap cOVERREACH d 0
    | none =>
      match opndTrap e.s e.k e.i l ops with
      | some (c, d, a) => .trap c d a
      | none =>
        withSources e gs [] [] (fun v i =>
          if l.spec && opndStops e.s e.k l ops then .block .specStop
          else
            queueCmd e word ds (src v 0) 0 [] ops ((ops.filter (fun o => o.rd)).flatMap Opnd.foot)
              ((ops.filter (fun o => o.wr)).flatMap Opnd.foot) i))

/-- Descriptor n of those a word names. -/
def dAt (ds : List Desc) (n : Nat) : Desc := ds.getD n (descOf 0)

/-! ## Matrix commands (R183, R335 to R338) -/

/-- Product paths of R183. -/
inductive MxPath
  | l6 | bf16L6 | bf16 | int8
  deriving DecidableEq, Repr

def mxPath (a b : Nat) : Option MxPath :=
  if a = fmtL6 ∧ b = fmtL6 then some .l6
  else if a = fmtBF16 ∧ b = fmtL6 then some .bf16L6
  else if a = fmtBF16 ∧ b = fmtBF16 then some .bf16
  else if a = fmtINT8 ∧ b = fmtINT8 then some .int8
  else none

/-- The rule of MXM on its descriptors (R335). -/
def mxmRule (a b : Desc) : List Clause :=
  [([0], a.space = spSPAD && decide (a.ndim ≤ 1) && decide (a.dim 1 ≤ 128)),
   ([1], ((b.space = spSPAD && !b.csl) || (b.space = spWSTORE && b.csl)) && decide (b.ndim ≤ 1) && decide (b.dim 1 ≤ 128)),
   ([0, 1], a.dim 0 = b.dim 0 && (mxPath a.fmt b.fmt).isSome)]

/-- Group scales take part for an operand: L6 with GSP (R183, R335). -/
def usesScales (d : Desc) : Bool := d.fmt = fmtL6 && d.gsp

def mxmOps (o : MxmOp) (ds : List Desc) : List Clause × List Opnd :=
  let a := dAt ds 0
  let b := dAt ds 1
  (mxmRule a b, [.read o.ta a (usesScales a), .read o.tb b (usesScales b)])

/-- MXM (R335). -/
def execMxm (o : MxmOp) (s : State) : Host.Outcome State Fault Refusal :=
  runWord (.mxm o) s (engineOp (.mxm o) true false [o.ta, o.tb] [] (mxmOps o))
/-- MXM.RB (R336). -/
def execMxmRb (o : MxmOp) (s : State) : Host.Outcome State Fault Refusal :=
  runWord (.mxmRb o) s (engineOp (.mxmRb o) true false [o.ta, o.tb] [] (mxmOps o))
/-- MXZ (R337). -/
def execMxz (o : MxzOp) (s : State) : Host.Outcome State Fault Refusal :=
  runWord (.mxz o) s (engineOp (.mxz o) true false [] [] (fun _ => ([], [])))

/-- MXD (R338). -/
def execMxd (o : MxdOp) (s : State) : Host.Outcome State Fault Refusal :=
  runWord (.mxd o) s (engineOp (.mxd o) true false [o.ta] [] (fun ds =>
    let d := dAt ds 0
    ([([0], (d.space = spSPAD || d.space = spDRAM) && decide (d.ndim ≤ 1) && decide (d.dim 0 ≤ 128) && decide (d.dim 1 ≤ 128))],
      [.write o.ta d false])))

/-! ## Copy commands (R339 to R341) -/

def sameDims (a b : Desc) : Bool := (upto 4).all (fun k => a.dim k = b.dim k)

/-- Spaces of a copy: the source any, the destination SPAD or DRAM (R339). -/
def copySpaces (d : Desc) : Bool := d.space = spSPAD || d.space = spDRAM

/-- CPY (R339). -/
def execCpy (o : CpyOp) (s : State) : Host.Outcome State Fault Refusal :=
  runWord (.cpy o) s (engineOp (.cpy o) false false [o.td, o.ts] [] (fun ds =>
    let d := dAt ds 0
    let t := dAt ds 1
    ([([0, 1], d.fmt = t.fmt && sameDims d t), ([0], copySpaces d)], [.read o.ts t false, .write o.td d false])))

/-- The rule of a transposing copy for the formats in fs (R339). -/
def transRule (fs : List Nat) (d t : Desc) : List Clause :=
  [([0], fs.contains d.fmt && decide (1 ≤ d.ndim) && d.space = spSPAD),
   ([1], fs.contains t.fmt && decide (1 ≤ t.ndim) && (t.space = spSPAD || t.space = spDRAM)),
   ([0, 1], d.fmt = t.fmt && d.dim 0 = t.dim 1 && d.dim 1 = t.dim 0 && d.dim 2 = t.dim 2 && d.dim 3 = t.dim 3)]

def transOps (o : CpyOp) (fs : List Nat) (ds : List Desc) : List Clause × List Opnd :=
  (transRule fs (dAt ds 0) (dAt ds 1), [.read o.ts (dAt ds 1) false, .write o.td (dAt ds 0) false])

/-- CPY.T8 (R339). -/
def execCpyT8 (o : CpyOp) (s : State) : Host.Outcome State Fault Refusal :=
  runWord (.cpyT8 o) s (engineOp (.cpyT8 o) false false [o.td, o.ts] [] (transOps o [fmtINT8]))
/-- CPY.T16 (R339). -/
def execCpyT16 (o : CpyOp) (s : State) : Host.Outcome State Fault Refusal :=
  runWord (.cpyT16 o) s (engineOp (.cpyT16 o) false false [o.td, o.ts] [] (transOps o [fmtBF16, fmtFP16]))

/-- What GATHER, SCATTER and SCADD ask of their descriptors; side `listed`, 0 or 1, has one row for each index (R340). -/
def indexRule (d t x : Desc) (listed : Nat) : List Clause :=
  [([2], x.fmt = fmtINT32 && x.ndim = 0 && (x.space = spSPAD || x.space = spDRAM)), ([0], decide (d.ndim ≤ 1) && copySpaces d),
   ([1], decide (t.ndim ≤ 1)), ([0, 1], d.fmt = t.fmt && d.dim 0 = t.dim 0),
   ([listed, 2], (if listed = 0 then d else t).dim 1 = x.dim 0)]

/-- GATHER (R340). -/
def execGather (o : IdxOp) (s : State) : Host.Outcome State Fault Refusal :=
  runWord (.gather o) s (engineOp (.gather o) false false [o.td, o.ts, o.ti] [] (fun ds =>
    let d := dAt ds 0
    let t := dAt ds 1
    let x := dAt ds 2
    (indexRule d t x 0, [.read o.ts t false, .read o.ti x false, .write o.td d false])))

/-- SCATTER (R340). -/
def execScatter (o : IdxOp) (s : State) : Host.Outcome State Fault Refusal :=
  runWord (.scatter o) s (engineOp (.scatter o) false false [o.td, o.ts, o.ti] [] (fun ds =>
    let d := dAt ds 0
    let t := dAt ds 1
    let x := dAt ds 2
    (indexRule d t x 1, [.read o.ts t false, .read o.ti x false, .write o.td d false])))

/-- SCADD (R340): the destination is read and written. -/
def execScadd (o : IdxOp) (s : State) : Host.Outcome State Fault Refusal :=
  runWord (.scadd o) s (engineOp (.scadd o) false true [o.td, o.ts, o.ti] [] (fun ds =>
    let d := dAt ds 0
    let t := dAt ds 1
    let x := dAt ds 2
    (([0], d.fmt = fmtINT32 || d.fmt = fmtFP32 || d.fmt = fmtBF16 || d.fmt = fmtFP16) :: indexRule d t x 1,
      [.read o.ts t false, .read o.ti x false, ⟨o.td, d, false, true, true, true⟩])))

/-- WLOAD (R341). -/
def execWload (o : CpyOp) (s : State) : Host.Outcome State Fault Refusal :=
  runWord (.wload o) s (engineOp (.wload o) true true [o.td, o.ts] [] (fun ds =>
    let d := dAt ds 0
    let t := dAt ds 1
    ([([0], d.space = spWSTORE && d.csl), ([1], (t.space = spSPAD || t.space = spDRAM) && decide (t.ndim ≤ 1)),
      ([0, 1], d.fmt = t.fmt && sameDims d t && d.gsp = t.gsp)], [.read o.ts t t.gsp, .write o.td d d.gsp])))

/-! ## The attention step (R342) -/

/-- The rule of R342 on Q, K and V. -/
def attRule (q k v : Desc) : List Clause :=
  let one (d : Desc) : Bool := d.fmt = fmtBF16 && d.space = spSPAD && decide (d.ndim ≤ 1)
  [([0], one q && decide (q.dim 0 ≤ 128) && decide (q.dim 1 ≤ 128)), ([1], one k && decide (k.dim 0 ≤ 128) && decide (k.dim 1 ≤ 128)),
   ([2], one v && decide (v.dim 1 ≤ 128) && decide (v.dim 0 ≤ 128)), ([0, 1], q.dim 0 = k.dim 0), ([1, 2], k.dim 1 = v.dim 1)]

/-- ATT (R342). -/
def execAtt (o : AttOp) (s : State) : Host.Outcome State Fault Refusal :=
  runWord (.att o) s (engineOp (.att o) true false [o.tq, o.tk, o.tv] [o.gx] (fun ds =>
    let q := dAt ds 0
    let k := dAt ds 1
    let v := dAt ds 2
    (([], o.acco ≠ o.accs) :: attRule q k v, [.read o.tq q false, .read o.tk k false, .read o.tv v false])))

end Sys2Proof.Machine
end

