-- ==== Sys2Proof/Machine/EngineData.lean ====
section
/-!
DEFINITION. How engines reach bytes (R323), what they do with uncorrectable, poisoned and refused elements (R343, R381), rows and
tiles (R178, R179, R183), and the values they compute (R183 to R190, R204, R335 to R342).
-/
namespace Sys2Proof.Machine

/-! ## Where engines reach (R323) -/

/-- The command being executed, and where it runs. -/
structure Eng where
  k : Nat
  i : Inst
  c : Cmd

/-- The target of a DRAM-space address, with the order and the placement of its segment; an address that leads nowhere an engine
reaches is unmapped. -/
def engTgt (s : State) (v : Eng) (va : Nat) : Tgt × Ord × Apl :=
  match s.launch v.i.launch with
  | none => (.unmapped va, .rc, .mem)
  | some l => match findSeg l.segs va with
    | .error _ => (.unmapped va, .rc, .mem)
    | .ok e =>
      let t := ownName v.k (segTgt (selfOf l.part) e va)
      let reach : Bool := match t with
        | .dram _ => true
        | .spad _ _ => true
        | .host _ => true
        | .peer .. => true
        | _ => false
      (if reach then t else .unmapped va, ordAt l.part e t, if e.rem then .mem else e.apl)

/-- A part of n DRAM-space bytes at va. -/
def engPart (s : State) (v : Eng) (lane va n x y : Nat) : Part :=
  let t := engTgt s v va
  ⟨lane, BitVec.ofNat 64 va, t.1, n, t.2.1, t.2.2, none, x, y, false, 0, .ok⟩

/-- An access of a command, with the next number. -/
def engAccess (s : State) (v : Eng) (kind : AccKind) (parts : List Part) : Access :=
  { id := s.nextId, isle := v.k, uid := v.i.uid, launch := v.i.launch, ctx := .C, rank := v.i.rank, pc := v.c.pc, kind := kind,
    parts := parts, acq := false, atHome := false, vis := 0, nack := none, after := (0, 0, 0) }

/-- DRAM-space bytes as the device asks for them: a packet carries 2,048 bytes (R152), a request to a foreign peer 256 (R175), and none
crosses a segment or a granule (R118, R141). The pieces are cut at multiples of these (log 58). -/
def engPieces (s : State) (v : Eng) (va n : Nat) : List (Nat × Nat) :=
  (piecesOf 2048 (n / 2048 + 2) va n).flatMap (fun p =>
    let foreign := match (engTgt s v p.1).1, s.launch v.i.launch with
      | .peer q _, some l => bitAt l.part.foreign q
      | _, _ => false
    if foreign then piecesOf 256 (p.2 / 256 + 2) p.1 p.2 else [p])

/-- Place of n bytes of an operand: DRAM-space bytes through the launch's segments, the others directly. -/
def engPlace (s : State) (v : Eng) (space : Nat) (a : Int) (n : Nat) (kind : AccKind) : Place :=
  if a < 0 then .refuse 4
  else match space with
    | 0 => if refilling v.i a.toNat n then .held else .pad v.i.uid a.toNat
    | 2 =>
      let pa := wsBase + v.k * 2 ^ 25 + a.toNat
      if dieIsDown s (homeDie pa) then .held else .cell pa
    | _ => tgtPlace s (engAccess s v kind []) (engPart s v 0 a.toNat n 0 0)

/-- A range of bytes of a space: first byte and length. -/
abbrev Span := Nat × Int × Nat

/-- The parts of DRAM-space bytes that a read needs. -/
def readParts (s : State) (v : Eng) (r : Span) : List Part :=
  if r.1 ≠ spDRAM || decide (r.2.1 < 0) then [] else (engPieces s v r.2.1.toNat r.2.2).map (fun p => engPart s v 0 p.1 p.2 0 0)

/-- The part has been read outside for the row under way. -/
def Cmd.hasGot (c : Cmd) (p : Part) : Bool := c.got.any (fun q => q.va = p.va && q.len = p.len)

/-- Where a part that a read needs stands. -/
inductive Reach1
  | here
  | ask
  | wait

def partReach (s : State) (v : Eng) (p : Part) : Reach1 :=
  let a := engAccess s v (.engRead v.c.id) []
  if v.c.hasGot p then .here
  else match tgtPlace s a p with
    | .outside => .ask
    | .held => .wait
    | .moving _ => .wait
    | _ => if partFree s a p then .here else .wait

/-- Every byte of the ranges can be read now. -/
def readable (s : State) (v : Eng) (rs : List Span) : Bool :=
  rs.all (fun r => (readParts s v r).all (fun p => match partReach s v p with
    | .here => true
    | _ => false) && (r.1 = spDRAM || (match engPlace s v r.1 r.2.1 r.2.2 (.engRead v.c.id) with
    | .held => false
    | _ => true)))

/-- Adds an access of the command; its requests leave as its order allows. -/
def addEngAccess (v : Eng) (kind : AccKind) (parts : List Part) (s : State) : State :=
  sendAccess s.nextId { s with nextId := s.nextId + 1, acc := s.acc ++ [engAccess s v kind parts] }

/-- Asks for the bytes of the ranges that lie outside, unless they have been asked for (R110, R323). -/
def askFor (v : Eng) (rs : List Span) (s : State) : State :=
  let ps := (rs.flatMap (readParts s v)).filter (fun p => match partReach s v p with
    | .ask => true
    | _ => false)
  if ps = [] || s.acc.any (fun a => a.uid = v.i.uid && a.kind = .engRead v.c.id) then s else addEngAccess v (.engRead v.c.id) ps s

/-! ## Bytes (R323, R343) -/

/-- The bytes of a unit: where it starts, how many. -/
structure EUnit where
  space : Nat
  a : Int
  n : Nat
  /-- Row index i1 and column index i0 of the element (R381). -/
  row : Nat
  col : Nat
  deriving DecidableEq, Repr

/-- Byte va as it was read outside for the row under way. -/
def Cmd.gotAt (c : Cmd) (va : Nat) : Option (Nat × Status) :=
  (c.got.find? (fun p => decide (p.va.toNat ≤ va) && decide (va < p.va.toNat + p.len))).map
    (fun p => (p.res / 2 ^ (8 * (va - p.va.toNat)) % 256, p.st))

/-- One byte at its place as an engine reads it: none while it cannot be read. -/
def placeByte (s : State) (v : Eng) : Place → Option (Nat × Status)
  | .cell x =>
    some (leNat (launchBytes s v.i.launch (dieOfIsle v.k) x 1),
      if memPoison s x 1 || v.c.lost.contains (lineOf x, false) then .poison else .ok)
  | .pad uid o => match s.instOf uid with
    | none => some (0, .ok)
    | some i => some ((spadByte i o).toNat,
        if spadPoisoned i o 1 || (uid ≠ v.i.uid && v.c.lost.contains (padLine s uid o, false)) then .poison else .ok)
  | .refuse st => some (0, .refused st)
  | .zero => some (0, .ok)
  | .gone => some (0, .ok)
  | .mmio _ => some (0, .refused 4)
  | .outside => none
  | .held => none
  | .moving _ => none

/-- Byte n of a unit. -/
def engByte (s : State) (v : Eng) (u : EUnit) (n : Nat) : Option (Nat × Status) :=
  match (if u.space = spDRAM then v.c.gotAt (u.a + n).toNat else none) with
  | some x => some x
  | none => placeByte s v (engPlace s v u.space (u.a + n) 1 (.engRead v.c.id))

/-- The worse of two outcomes of a unit's bytes. -/
def worse (a b : Status) : Status := if a = .ok then b else a

/-- Bytes n onward of a unit, m of them. -/
def engBytes (s : State) (v : Eng) (u : EUnit) : Nat → Nat → Option (Nat × Status)
  | 0, _ => some (0, .ok)
  | m + 1, n =>
    match engByte s v u n, engBytes s v u m (n + 1) with
    | some (x, st), some (y, st') => some (x + 256 * y, worse st st')
    | _, _ => none

/-- A unit read: a failed one is replaced by zero (R343). -/
def engUnit (s : State) (v : Eng) (u : EUnit) : Option (Nat × Status) :=
  match engBytes s v u u.n 0 with
  | none => none
  | some (x, st) => some (if st = .ok then x else 0, st)

/-- Units read in this device's memories: their stores that are not performed everywhere are observed (R133), and their bytes join a
speculation's read set (R98). -/
def engTouch (v : Eng) (us : List EUnit) (s : State) : State :=
  let a := engAccess s v (.engRead v.c.id) []
  us.foldl (fun s u => match engPlace s v u.space u.a 1 (.engRead v.c.id) with
    | .cell x =>
      let s := observe a (seenVersions s (dieOfIsle v.k) x u.n) s
      if launchSpec s v.i.launch then addRead v.i.launch x u.n s else s
    | _ => s) s

/-! ## ECC_LOG and refused elements (R343, R381) -/

/-- KIND of an event about an element: of its target in DRAM space, else an uncorrectable word of this device (R381, R385). -/
def engKind (s : State) (v : Eng) (space : Nat) (a : Int) : Nat := if space = spDRAM then (engTgt s v a.toNat).1.eccKind else 1

/-- An entry of an engine command: no context (R378). -/
def engFault (v : Eng) (cause detail : Nat) (addr : Word) (s : State) : State :=
  instFault v.i.uid v.i.launch ⟨cause, detail, 0, v.i.rank, v.k, v.c.pc, addr, false⟩ s

/-- ADDR of an entry about a byte: its virtual address, zero in the other spaces (R378). -/
def engAddr (space : Nat) (a : Int) : Word := if space = spDRAM then BitVec.ofNat 64 a.toNat else 0

/-- The failed elements of one row, in order: each poisoned one in ECC_LOG, the first refused one in an entry. -/
def logRow (v : Eng) (e : EccName) (us : List (EUnit × Status)) (s : State) : State :=
  let s := us.foldl (fun t u => match u.2 with
    | .poison => t.updUid v.i.uid (eccEvent e (engKind s v u.1.space u.1.a) u.1.row u.1.col)
    | _ => t) s
  match us.find? (fun u => match u.2 with
    | .refused _ => true
    | _ => false) with
  | some (u, .refused st) => engFault v cREFUSED (5 + 16 * st.toNat) (engAddr u.space u.a) s
  | _ => s

/-! ## Rows of a tensor -/

/-- The units of the elements of row r, one for each element. -/
def Desc.units (d : Desc) (r : Nat) : List EUnit :=
  (upto (d.dim 0)).map (fun k => ⟨d.space, (d.rowAt r + d.eoff k : Nat), d.unit, d.i1 r, k⟩)

/-- The units of the scale bytes of row r; a scale is named by the first element of its group. -/
def Desc.gsUnits (d : Desc) (r : Nat) : List EUnit :=
  (upto d.groups).map (fun g => ⟨d.space, d.gsAt r g, 1, d.i1 r, 64 * g⟩)

/-- The bytes of row r, and of its scales. -/
def Desc.rowSpan (d : Desc) (r : Nat) : Span := (d.space, (d.rowAt r : Nat), d.rowLen)
def Desc.gsSpan (d : Desc) (r : Nat) : Span := (d.space, d.gsAt r 0, d.groups)

/-- Units read one by one: none while one of them cannot be read. -/
def readAll (s : State) (v : Eng) : List EUnit → Option (List (Nat × Status))
  | [] => some []
  | u :: us => match engUnit s v u, readAll s v us with
    | some x, some xs => some (x :: xs)
    | _, _ => none

/-- What a read of units gives: their values and the state after ECC_LOG, entries and read set. -/
def readUnits (v : Eng) (e : EccName) (us : List EUnit) (s : State) : Option (List Nat × State) :=
  match readAll s v us with
  | none => none
  | some xs => some (xs.map (fun x => x.1), logRow v e (us.zip (xs.map (fun x => x.2))) (engTouch v us s))

/-- Element patterns of row r of operand d. -/
def readRow (v : Eng) (e : EccName) (d : Desc) (r : Nat) (s : State) : Option (List Nat × State) :=
  (readUnits v e (d.units r) s).map (fun x => (((upto (d.dim 0)).zip x.1).map (fun p => d.pick p.1 p.2), x.2))

/-- Rows r to r + n - 1. -/
def readRows (v : Eng) (e : EccName) (d : Desc) : Nat → Nat → State → Option (List (List Nat) × State)
  | 0, _, s => some ([], s)
  | n + 1, r, s => match readRow v e d r s with
    | none => none
    | some (x, s) => (readRows v e d n (r + 1) s).map (fun y => (x :: y.1, y.2))

/-- Group scales of rows r to r + n - 1, as signed quarter octaves; without scales every one is 0 (R183). -/
def readScales (v : Eng) (e : EccName) (d : Desc) (use : Bool) : Nat → Nat → State → Option (List (List Nat) × State)
  | 0, _, s => some ([], s)
  | n + 1, r, s =>
    if !use then (readScales v e d use n (r + 1) s).map (fun y => ([] :: y.1, y.2))
    else match readUnits v e (d.gsUnits r) s with
      | none => none
      | some (x, s) => (readScales v e d use n (r + 1) s).map (fun y => (x :: y.1, y.2))

/-- A row of element patterns as bytes; the last group of an L6 row is whole, unused codes zero (R179). -/
def packRow (fmt : Nat) (xs : List Nat) : List Byte :=
  if fmt = fmtL6 then packL6 xs.length xs else xs.flatMap (fun x => leBytes (eszOf fmt) x)

/-! ## Writing rows (R143, R327, R328) -/

/-- Own cells of the slice with the lines a lost transfer leaves poisoned (R390). -/
def engSlice (v : Eng) (cells : List (Nat × Byte)) (s : State) : State :=
  if (s.launch v.i.launch).isSome then engCells (engAccess s v (.engWrite v.c.id) []) cells s else s

/-- Adds a write of the command and performs what can be performed of it; the rest is acknowledged later (R328). A write to the host
link is remembered for a FENCE (R139). -/
def engStore (v : Eng) (kind : AccKind) (parts : List Part) (s : State) : State :=
  if parts = [] || (s.launch v.i.launch).isNone then s
  else
    let id := s.nextId
    let s := if writesHost kind parts then s.updUid v.i.uid (fun i => { i with engHost := true }) else s
    performStore id none [] (addEngAccess v kind parts s)

/-- The n bytes from offset o of a list. -/
def bytesAt (bs : List Byte) (o n : Nat) : Nat := leNat ((bs.drop o).take n)

/-- Writes bytes of a row: in the own scratchpad and weight-store slice at once, through DRAM space as a write of the command. None
while the own scratchpad or slice cannot be written. -/
def writeBytes (v : Eng) (space : Nat) (a : Int) (bs : List Byte) (s : State) : Option State :=
  if bs = [] then some s
  else if space = spDRAM then
    let va := a.toNat
    some (engStore v (.engWrite v.c.id) ((engPieces s v va bs.length).map (fun p =>
      engPart s v 0 p.1 p.2 (bytesAt bs (p.1 - va) p.2) 0)) s)
  else
    let done (s : State) : Option State := some (s.updUid v.i.uid (fun i => i.unlatch space a.toNat (a.toNat + bs.length - 1)))
    match engPlace s v space a bs.length (.engWrite v.c.id) with
    | .cell x => done (engSlice v (cellsAt x bs) s)
    | .pad uid o => done (s.updUid uid (putSpad (cellsAt o bs)))
    | .held => none
    | _ => some s

def writeRow (v : Eng) (d : Desc) (r : Nat) (xs : List Nat) (s : State) : Option State :=
  writeBytes v d.space (d.rowAt r) (packRow d.fmt xs) s

/-- Poison marks of lines and words that the whole of a command's writes covers go (R387). -/
def clearCovered (v : Eng) (space : Nat) (ranges : List (Nat × Nat)) (s : State) : State :=
  let a := engAccess s v (.engWrite v.c.id) []
  let bytes := ranges.flatMap (fun r => (upto r.2).map (fun n => engPlace s v space ((r.1 + n : Nat) : Int) 1 (.engWrite v.c.id)))
  let cells := bytes.filterMap (fun p => match p with
    | .cell x => if lostFor s a (lineOf x) true then none else some (x, (0 : Byte))
    | _ => none)
  let own := bytes.filterMap (fun p => match p with
    | .pad uid o => if uid = v.i.uid then some (o, (0 : Byte)) else none
    | _ => none)
  let s := if launchSpec s v.i.launch then s else clearPoison cells s
  s.updUid v.i.uid (fun i => { i with spadPoison := i.spadPoison.filter (fun p => !covers own 8 p.1) })

/-! ## Accumulator tiles (R18, R183) -/

def accGet (acc : List (Nat × BitVec 32)) (c i j : Nat) : Nat := (Sparse.get 0 acc (16384 * c + 128 * i + j)).toNat
def accSet (c i j x : Nat) (acc : List (Nat × BitVec 32)) : List (Nat × BitVec 32) :=
  Sparse.set 0 acc (16384 * c + 128 * i + j) (BitVec.ofNat 32 x)

/-- Elements (i, j, value) of tile c. -/
def accPut (c : Nat) (xs : List (Nat × Nat × Nat)) (acc : List (Nat × BitVec 32)) : List (Nat × BitVec 32) :=
  xs.foldl (fun acc x => accSet c x.1 x.2.1 x.2.2 acc) acc

/-- Element (i, j) of tile c holds an uncorrectable error: it reads as zero (R343). -/
def accBad (x : Inst) (c i j : Nat) : Bool := Sparse.get false x.accPoison (16384 * c + 128 * i + j)

/-- Elements of tile c are read by engine e: the uncorrectable ones are logged (R343, R381). -/
def logAcc (v : Eng) (e c : Nat) (xs : List (Nat × Nat)) (s : State) : State :=
  s.updUid v.i.uid (fun x => (xs.filter (fun p => accBad x c p.1 p.2)).foldl (fun y p => eccEvent ⟨e, true, c, 0⟩ 1 p.1 p.2 y) x)

/-- Elements of tile c have been written: they hold no error any more. -/
def accGood (c : Nat) (xs : List (Nat × Nat)) (x : Inst) : Inst :=
  { x with accPoison := x.accPoison.filter (fun p => !xs.any (fun q => 16384 * c + 128 * q.1 + q.2 = p.1)) }

/-- All pairs (i, j) with i below m and j below n, rows ascending. -/
def pairs (m n : Nat) : List (Nat × Nat) := (upto m).flatMap (fun i => (upto n).map (fun j => (i, j)))

/-! ## Dot products (R183 to R188) -/

def f32 (w : Nat) : FVal := decodeF fF32 w

/-- The value of an element of a floating format. -/
def elemVal (fmt w : Nat) : FVal :=
  match fmt with
  | 4 => decodeF fBF16 w
  | 5 => decodeF fF16 w
  | _ => decodeF fF32 w

/-- ftz on a BF16 pattern (R187). -/
def ftz16 (w : Nat) : Nat := if field w 7 8 = 0 then b2n (bitAt w 15) * 2 ^ 15 else w

/-- The L6 replacement of a BF16 element of A (R183). -/
def toL6 (sba : Int) (w : Nat) : Nat := l6Encode ((decodeF fBF16 (ftz16 w)).scale (-sba))

/-- One product of the L6 path in LSBs of 2^-22, none for NaR (R185). -/
def l6Prod (a b : Nat) : Option Int :=
  if a = 0b100000 ∨ b = 0b100000 then none
  else if field a 0 5 = 0 ∨ field b 0 5 = 0 then some 0
  else
    let p : Int := (field a 0 5 : Int) - 16 + ((field b 0 5 : Int) - 16)
    let m : Int := (tInt (p % 4).toNat * 2 ^ (p / 4 + 8).toNat : Nat)
    some (if bitAt a 5 = bitAt b 5 then m else -m)

def l6Sum : List (Nat × Nat) → Option Int
  | [] => some 0
  | p :: ps => match l6Prod p.1 p.2, l6Sum ps with
    | some x, some y => some (x + y)
    | _, _ => none

/-- The group value gv, rounded once (R185). -/
def l6Group (q sc : Int) (ps : List (Nat × Nat)) : FVal :=
  match l6Sum ps with
  | none => .nan false
  | some z =>
    mxVal (.fin (decide (z < 0)) (z.natAbs * tInt (q % 4).toNat) (-22 - 14 + q / 4 + sc))

/-- A list cut in runs of n. -/
def chunks (n : Nat) : Nat → List α → List (List α)
  | 0, _ => []
  | m + 1, xs => if xs.isEmpty then [] else xs.take n :: chunks n m (xs.drop n)

/-- The L6 dot product over the groups in ascending order (R185). -/
def l6Dot (acc : Nat) (sc : Int) (ga gb : List Nat) (ps : List (Nat × Nat)) : Nat :=
  ((upto (ceilDiv ps.length 64)).zip (chunks 64 ps.length ps)).foldl (fun acc g =>
    let q : Int := sextInt 8 (ga.getD g.1 0) + sextInt 8 (gb.getD g.1 0)
    mxRound (mxAdd (f32 acc) (l6Group q sc g.2))) acc

/-- An exact quad sum: products added in order, the first as it stands (R187). -/
def quadSum : List (Nat × Nat) → FVal
  | [] => .fin false 0 0
  | p :: ps =>
    let prod (x : Nat × Nat) : FVal := mulExact (decodeF fBF16 (ftz16 x.1)) (decodeF fBF16 (ftz16 x.2))
    ps.foldl (fun q x => mxAdd q (prod x)) (prod p)

/-- The BF16 dot product (R187). -/
def bf16Dot (acc : Nat) (sc : Int) (ps : List (Nat × Nat)) : Nat :=
  (chunks 4 ps.length ps).foldl (fun acc q => mxRound (mxAdd (f32 acc) ((quadSum q).scale sc))) acc

/-- The INT8 dot product (R188). -/
def int8Dot (acc : Nat) (ps : List (Nat × Nat)) : Nat :=
  let z : Int := ps.foldl (fun z p => z + sextInt 8 p.1 * sextInt 8 p.2) (sextInt 32 acc)
  (z % (2 ^ 32 : Nat)).toNat

/-- One output element of MXM (R335). -/
def mxDot (path : MxPath) (acc : Nat) (a b : Desc) (ga gb xs ys : List Nat) : Nat :=
  match path with
  | .l6 => l6Dot acc (a.sb + b.sb) ga gb (xs.zip ys)
  | .bf16L6 => l6Dot acc (a.sb + b.sb) [] gb ((xs.map (toL6 a.sb)).zip ys)
  | .bf16 => bf16Dot acc (a.sb + b.sb) (xs.zip ys)
  | .int8 => int8Dot acc (xs.zip ys)

/-! ## Drains (R190) -/

/-- conv of an accumulator element to a format (R190). -/
def drainVal (fmt : Nat) (i32 : Bool) (sb : Int) (w : Nat) : Nat :=
  let x : FVal := (if i32 then ofInt (sextInt 32 w) else f32 w).scale (-sb)
  match fmt with
  | 1 => l6Encode x
  | 2 => drainInt 8 x
  | 3 => drainInt 32 x
  | 4 => roundFlush fBF16 8 128 (-126) x
  | 5 => roundFlush fF16 11 16 (-14) x
  | _ => roundFlush fF32 24 128 (-126) x

/-! ## Elementwise addition (R204, R340) -/

/-- A sum, or the maximum or minimum, of two elements of a format (R204); SCADD adds in the same way (R340). -/
def combine (op : CollFn) (fmt a b : Nat) : Nat :=
  match fmt with
  | 3 => (match op with
    | .sum => (a + b) % 2 ^ 32
    | .max => if sextInt 32 a < sextInt 32 b then b else a
    | .min => if sextInt 32 b < sextInt 32 a then b else a)
  | _ =>
    let f : Fmt := if fmt = fmtBF16 then fBF16 else if fmt = fmtFP16 then fF16 else fF32
    match op with
    | .sum => (addF f .rne (decodeF f a) (decodeF f b)).1
    | .max => (minMaxF f true a b).1
    | .min => (minMaxF f false a b).1

/-! ## The attention step (R342) -/

/-- bf16(p): rounded to BF16, a subnormal result flushed to +0. -/
def attBf16 (p : Nat) : Nat :=
  let w := (roundVal fBF16 .rne (f32 p)).1
  if field w 7 8 = 0 then 0 else w

/-- maximumNumber on FP32 patterns. -/
def max32 (a b : Nat) : Nat := (minMaxF fF32 true a b).1

def f32NegInf : Nat := 0xFF800000
def f32One : Nat := 0x3F800000

/-- mx_round of an exact product, difference or quotient of FP32 patterns. -/
def mxMul (a b : Nat) : Nat := mxRound (mulExact (f32 a) (f32 b))
def mxSub (a b : Nat) : Nat := mxRound (mxAdd (f32 a) (f32 b).neg)
def mxDiv (a b : Nat) : Nat := mxRound (divExact (f32 a) (f32 b))

/-- Parameters of a step: descriptors, element rows, scale and place in the sequence. -/
structure AttIn where
  q : Desc
  k : Desc
  v : Desc
  qs : List (List Nat)
  ks : List (List Nat)
  vs : List (List Nat)
  c : Nat
  first : Bool
  last : Bool

/-- One query row: from mo, lo and the old output row, the new maximum, sum and output row. -/
def attRow (x : AttIn) (i mo lo : Nat) (old : List Nat) : Nat × Nat × List Nat :=
  let t := x.ks.map (fun kr => mxMul (bf16Dot 0 (x.q.sb + x.k.sb) ((x.qs.getD i []).zip kr)) x.c)
  let mn := t.foldl max32 mo
  let none_ := mn = f32NegInf
  let alpha := if none_ then f32One else if mo = f32NegInf then 0 else attExp2 (mxSub mo mn)
  let p := t.map (fun tj => if none_ then 0 else attExp2 (mxSub tj mn))
  let ln := p.foldl (fun l pj => mxRound (mxAdd (f32 l) (f32 pj))) (mxMul alpha lo)
  let row := (upto (x.v.dim 0)).map (fun col =>
    let acc := mxMul alpha (old.getD col 0)
    let y := bf16Dot acc x.v.sb ((p.map attBf16).zip (x.vs.map (fun vr => vr.getD col 0)))
    if x.last then mxDiv y ln else y)
  (mn, ln, row)

/-- The accumulators after a step: tile o the output, tile t the maximum and sum (R342). -/
def attStep (x : AttIn) (o t : Nat) (acc : List (Nat × BitVec 32)) : List (Nat × BitVec 32) :=
  (upto (x.q.dim 1)).foldl (fun new i =>
    let mo := if x.first then f32NegInf else accGet acc t i 0
    let lo := if x.first then 0 else accGet acc t i 1
    let old := (upto (x.v.dim 0)).map (fun col => if x.first then 0 else accGet acc o i col)
    let (mn, ln, row) := attRow x i mo lo old
    let new := accPut o (((upto row.length).zip row).map (fun p => (i, p.1, p.2))) new
    accPut t [(i, 0, mn), (i, 1, ln)] new) acc

end Sys2Proof.Machine
end

