-- ==== Sys2Proof/Machine/FabricWords.lean ====
section
/-!
DEFINITION. The words that queue circuit, tide and collective commands: their operands, their checks at issue and their footprints
(R348 to R350, R352, R355, R357 to R360, R363, R364, R367, R369): majors 0x70 to 0x73.
-/
namespace Sys2Proof.Machine

/-! ## The frame of a fabric word (R349) -/

/-- What a word's operand values give: the checks of R64 in their order, then the command. -/
structure Judged where
  illegal : Bool := false
  beyondPad : Option Nat := none
  peer : Option Nat := none
  unaligned : Bool := false
  poison : Bool := false
  block : List Byte := []
  reads : List (Nat × Nat) := []
  writes : List (Nat × Nat) := []

/-- The first trap in the order of R64. -/
def Judged.trap (j : Judged) : Option TrapOf :=
  if j.illegal then some (cILLEGAL, 1, 0)
  else match j.beyondPad with
    | some d => some (cOVERREACH, d, 0)
    | none => match j.peer with
      | some p => some (cPEERBAD, p, 0)
      | none => if j.unaligned then some (cALIGN, 0, 0) else if j.poison then some (cPOISON, 1, 0) else none

/-- PEERBAD for a peer that a command names (R112, R176, R349). -/
def peerBad (s : State) (l : Launch) (p : Nat) : Option Nat :=
  if selfOf l.part = some p then none
  else if !peerOk s l.part p || bitAt l.part.foreign p then some p else none

/-- Bytes lo to hi reach beyond the instance's scratchpad. -/
def padOver (i : Inst) (hi : Nat) : Option Nat := if i.spadBytes ≤ hi then some ovSPAD else none

/-- A value that stands ready has the property. -/
def shows {α : Type} (x : Option α) (f : α → Bool) : Bool :=
  match x with
  | some v => f v
  | none => false

/-- What the operands of a fabric word hold where they can be judged: a tensor field that is declared and not being loaded, a G field that
is declared, not scoreboarded, and no empty queue. -/
structure Shown where
  ds : List (Option Desc)
  gs : List (Option Word)

/-- Descriptor n and value n of those a word names. -/
def Shown.d (x : Shown) (n : Nat) : Option Desc := x.ds.getD n none
def Shown.g (x : Shown) (n : Nat) : Option Word := x.gs.getD n none

def shownOf (e : Env) (ts : List (BitVec 6)) (gs : List (BitVec 5)) : Shown :=
  { ds := ts.map (fun t => if tReady e.i t then some (descOf (e.i.tGet t.toNat)) else none)
    gs := (gs.zip (peekG e.c e.i gs)).map (fun p => if gOver e.i p.1 || gFieldBusy e.i e.c p.1 then none else p.2) }

/-- A fabric word over tensor fields ts, G fields gs and handle fields hs. A speculation stops before it (R98, R349). The traps stand in
the order of R64, each judged from the operands that stand ready, and come before every queue block. -/
def fabricOp (word : Instr) (needMx : Bool) (ts : List (BitVec 6)) (gs : List (BitVec 5)) (hs : List (BitVec 3))
    (judge : Env → Launch → Shown → Judged) (e : Env) : Verdict :=
  let declared := if gs.any (gOver e.i) then some ovGREGS else if ts.any (tOver e.i) then some ovTENSORS
    else if hs.any (hOver e.i) then some ovCIRCUITS else none
  let ds := ts.map (fun t => e.i.tGet t.toNat)
  if needMx && !hasMx e.s e.k then .trap cILLEGAL 3 0
  else if e.spec then .block .specStop
  else e.withLaunch (.block .order) (fun l =>
    let j := judge e l (shownOf e ts gs)
    if j.illegal then .trap cILLEGAL 1 0
    else match declared with
    | some d => .trap cOVERREACH d 0
    | none =>
      if ts.any (fun t => e.i.tBusy t.toNat) then .block .interlock
      else withChecked e gs [] [] (fun _ => j.trap) (fun v i =>
        match j.trap with
        | some (c, d, a) => .trap c d a
        | none => queueCmd e word ds (src v 0) (src v 1) j.block [] j.reads j.writes i))

/-! ## Straits (R350 to R355) -/

/-- GX of COPEN (R350). -/
def coPeer (gx : Word) : Nat := field gx.toNat 52 12
def coIsle (gx : Word) : Nat := field gx.toNat 44 8
def coLabel (gx : Word) : Nat := field gx.toNat 36 8
def coRbase (gx : Word) : Nat := field gx.toNat 0 22
/-- GY of COPEN (R350). -/
def coAutofb (gy : Word) : Bool := bitAt gy.toNat 63
def coLease (gy : Word) : Nat := field gy.toNat 46 14
def coLen (gy : Word) : Nat := field gy.toNat 23 23
def coLbase (gy : Word) : Nat := field gy.toNat 0 22

/-- A lease in µs, clamped to 1 to 10,000 (R350). -/
def clampLease (n : Nat) : Nat := if n = 0 then 1 else if 10000 < n then 10000 else n

/-- COPEN (R350, R351). -/
def execCopen (o : CopenOp) (s : State) : Host.Outcome State Fault Refusal :=
  runWord (.copen o) s (fabricOp (.copen o) false [] [o.gx, o.gy] [o.h] (fun e l v =>
    { illegal := shows (v.g 1) (fun gy => coLen gy = 0 || decide (2 ^ 22 < coLen gy) ||
        shows (v.g 0) (fun gx => decide (2 ^ 22 < coRbase gx + coLen gy)))
      beyondPad := (v.g 1).bind (fun gy => padOver e.i (coLbase gy + coLen gy - 1))
      peer := (v.g 0).bind (fun gx => peerBad e.s l (coPeer gx)) }))

/-- CHOLD (R352). -/
def execChold (o : HgOp) (s : State) : Host.Outcome State Fault Refusal :=
  runWord (.chold o) s (fabricOp (.chold o) false [] [o.gx] [o.h] (fun _ _ _ => {}))

/-- The local range of a handle as the last COPEN before the command sets it, or as it stands (R367). -/
def handleRange (i : Inst) (h : BitVec 3) : List (Nat × Nat) :=
  let last := (i.cmds.filter (fun c => match c.word with
    | .copen o => o.h = h
    | _ => false)).getLast?
  let (lo, n) := match last with
    | some c => (coLbase c.gy, coLen c.gy)
    | none => ((i.handle h.toNat).lbase.toNat, (i.handle h.toNat).len.toNat)
  if n = 0 then [] else [(lo, lo + n - 1)]

/-- CSEND (R353). -/
def execCsend (o : HgOp) (s : State) : Host.Outcome State Fault Refusal :=
  runWord (.csend o) s (fabricOp (.csend o) false [] [o.gx] [o.h] (fun e _ _ => { reads := handleRange e.i o.h }))
/-- CSEND.RESUME (R353). -/
def execCsendResume (o : HgOp) (s : State) : Host.Outcome State Fault Refusal :=
  runWord (.csendResume o) s (fabricOp (.csendResume o) false [] [o.gx] [o.h] (fun e _ _ => { reads := handleRange e.i o.h }))
/-- CSHUT (R354). -/
def execCshut (o : HOp) (s : State) : Host.Outcome State Fault Refusal :=
  runWord (.cshut o) s (fabricOp (.cshut o) false [] [] [o.h] (fun _ _ _ => {}))

/-- CSTAT (R355). -/
def execCstat (o : HgOp) (s : State) : Host.Outcome State Fault Refusal :=
  runWord (.cstat o) s (fabricOp (.cstat o) false [] [o.gx] [o.h] (fun e _ v =>
    match v.g 0 with
    | none => {}
    | some gx =>
      let a := field gx.toNat 0 22
      { beyondPad := padOver e.i (a + 31), unaligned := a % 32 != 0, writes := [(a, a + 31)] }))

/-! ## Tide requests (R150, R357) -/

/-- TIDE (R357): PRIV without TIDERIGHT. -/
def execTide (o : TideOp) (s : State) : Host.Outcome State Fault Refusal :=
  runWord (.tide o) s (fun e =>
    if e.spec then .block .specStop
    else e.withLaunch (.block .order) (fun l =>
      if !l.eff.tideright then .trap cPRIV 2 0
      else withSources e [o.gx] [] [] (fun v i => queueCmd e (.tide o) [] (src v 0) 0 [] [] [] [] i)))

/-! ## Trees and collectives (R358 to R360) -/

/-- TREE (R358). -/
def execTree (o : TreeOp) (s : State) : Host.Outcome State Fault Refusal :=
  runWord (.tree o) s (fabricOp (.tree o) false [] [o.gx, o.gy] [] (fun e _ v =>
    match v.g 1 with
    | none => {}
    | some gy =>
      let a := field gy.toNat 0 22
      { beyondPad := padOver e.i (a + 31), unaligned := a % 32 != 0, reads := [(a, a + 31)] }))

/-- GX and GY of a collective (R359). -/
def clRank (gx : Word) : Nat := field gx.toNat 0 12
def clN (gx : Word) : Nat := field gx.toNat 12 13
def clTree (gx : Word) : Nat := field gx.toNat 32 8
def clTag (gy : Word) : Nat := field gy.toNat 0 16
def clRoot (gy : Word) : Nat := field gy.toNat 16 12

/-- Element count: the product of the effective sizes (R359). -/
def Desc.count (d : Desc) : Nat := d.dim 0 * d.dim 1 * d.dim 2 * d.dim 3

/-- A format that the collective unit reduces (R204, R359). -/
def collFormat (fmt : Nat) : Bool := fmt = fmtFP32 || fmt = fmtBF16 || fmt = fmtFP16 || fmt = fmtINT32

/-- The checks shared by the collectives; counts: the rule of R360 on N, destination and source elements. -/
def judgeColl (reduces root : Bool) (counts : Nat → Nat → Nat → Bool) (e : Env) (v : Shown) : Judged :=
  let one (x : Desc) : Bool := !x.legal false || x.space ≠ spSPAD || (reduces && !collFormat x.fmt)
  let far (x : Option Desc) : Option Nat := x.bind (fun x => padOver e.i (x.span false).2.toNat)
  let range (x : Option Desc) : List (Nat × Nat) := match x with
    | some x => [((x.span false).1.toNat, (x.span false).2.toNat)]
    | none => []
  { illegal :=
      shows (v.g 0) (fun gx => clN gx = 0 || decide (4096 < clN gx) || decide (clN gx ≤ clRank gx) ||
        (root && shows (v.g 1) (fun gy => decide (clN gx ≤ clRoot gy))) ||
        shows (v.d 0) (fun d => shows (v.d 1) (fun t => !counts (clN gx) d.count t.count))) ||
      shows (v.d 0) one || shows (v.d 1) one || shows (v.d 0) (fun d => shows (v.d 1) (fun t => d.fmt ≠ t.fmt))
    beyondPad := if (far (v.d 0)).isSome then far (v.d 0) else far (v.d 1)
    unaligned := shows (v.d 0) (fun d => !d.aligned) || shows (v.d 1) (fun t => !t.aligned)
    reads := range (v.d 1)
    writes := range (v.d 0) }

/-- ARD (R360). -/
def execArd (o : RedCollOp) (s : State) : Host.Outcome State Fault Refusal :=
  runWord (.ard o) s (fabricOp (.ard o) false [o.td, o.ts] [o.gx, o.gy] [] (fun e _ v =>
    judgeColl true false (fun _ d t => d = t) e v))
/-- AGT (R360). -/
def execAgt (o : CollOp) (s : State) : Host.Outcome State Fault Refusal :=
  runWord (.agt o) s (fabricOp (.agt o) false [o.td, o.ts] [o.gx, o.gy] [] (fun e _ v =>
    judgeColl false false (fun n d t => d = n * t) e v))
/-- RSC (R360). -/
def execRsc (o : RedCollOp) (s : State) : Host.Outcome State Fault Refusal :=
  runWord (.rsc o) s (fabricOp (.rsc o) false [o.td, o.ts] [o.gx, o.gy] [] (fun e _ v =>
    judgeColl true false (fun n d t => t = n * d) e v))
/-- BCT (R360). -/
def execBct (o : CollOp) (s : State) : Host.Outcome State Fault Refusal :=
  runWord (.bct o) s (fabricOp (.bct o) false [o.td, o.ts] [o.gx, o.gy] [] (fun e _ v =>
    judgeColl false true (fun _ d t => d = t) e v))

/-! ## Rotation (R363, R364) -/

def blockNat (b : List Byte) (off n : Nat) : Nat := leNat ((b.drop off).take n)

/-- N, RANK, RACKS, SCALE, RBASE, GBASE and the descriptors of a parameter block (R363). -/
def rotaN (b : List Byte) : Nat := blockNat b 0 2 + 1
def rotaRank (b : List Byte) : Nat := blockNat b 2 2
def rotaRacks (b : List Byte) : Nat := blockNat b 8 1
def rotaScale (b : List Byte) : Nat := blockNat b 12 4
def rotaRbase (b : List Byte) : Nat := blockNat b 16 4
def rotaGbase (b : List Byte) : Nat := blockNat b 20 4
def rotaQ (b : List Byte) : Desc := descOf (BitVec.ofNat 256 (blockNat b 32 32))
def rotaK (b : List Byte) : Desc := descOf (BitVec.ofNat 256 (blockNat b 64 32))
def rotaV (b : List Byte) : Desc := descOf (BitVec.ofNat 256 (blockNat b 96 32))

/-- A non-empty range of n bytes at a. -/
def rangeAt (a n : Nat) : List (Nat × Nat) := if n = 0 then [] else [(a, a + n - 1)]
def meetAny (xs ys : List (Nat × Nat)) : Bool := xs.any (fun x => ys.any (rangesMeet x))
def spanNat (d : Desc) : Nat × Nat := ((d.span false).1.toNat, (d.span false).2.toNat)

/-- A write of an earlier access or command to bytes lo to hi is still to come, or their page is in refill (R59, R137). -/
def padWritesPending (s : State) (i : Inst) (lo hi : Nat) : Bool :=
  s.acc.any (fun a => a.uid = i.uid && a.kind.writes && a.parts.any (fun p => !p.done && (match p.ownRange with
    | some r => rangesMeet r (lo, hi)
    | none => false))) ||
  i.cmds.any (fun c => !c.isDone && c.writes.any (rangesMeet (lo, hi))) || refilling i lo (hi - lo + 1)

/-- The 8-byte words of a block at b that are poisoned. -/
def poisonedWords (i : Inst) (b : Nat) : List Nat := (upto 16).filter (fun n => spadPoisoned i (b + 8 * n) 8)

/-- Block fields in their valid values, by the word of the block they stand in (R363). -/
def rotaFields (b : List Byte) : List Clause :=
  [([0], decide (rotaN b ≤ 4096) && decide (rotaRank b < rotaN b) && decide (blockNat b 4 2 < 4096) && decide (blockNat b 6 2 < 4096)),
   ([1], decide (2 ≤ rotaRacks b) && decide (rotaRacks b ≤ 8) && blockNat b 10 2 == 0), ([3], blockNat b 24 8 == 0)]

/-- The words that the fields N, RACKS, the bases, Q, K and V stand in. -/
def wordsN : List Nat := [0]
def wordsRack : List Nat := [1, 2]
def wordsBase : List Nat := [2]
def wordsQ : List Nat := [4, 5, 6, 7]
def wordsK : List Nat := [8, 9, 10, 11]
def wordsV : List Nat := [12, 13, 14, 15]

/-- ROTA's checks on its block (R364), as far as the operands and the words of the block can be judged; a poisoned word takes POISON
last, as an unmasked load does. -/
def judgeRota (o : RotaOp) (e : Env) (l : Launch) (v : Shown) : Judged :=
  let tBad (t : Desc) : Bool := !t.legal false || t.space ≠ spSPAD
  let own : Bool := shows (v.d 0) tBad || (o.att && o.acco = o.accs)
  match v.g 0 with
  | none => { illegal := own, unaligned := shows (v.d 0) (fun t => !t.aligned) }
  | some gx =>
    let b := field gx.toNat 0 22
    if e.i.spadBytes < b + 128 then { illegal := own, beyondPad := some ovSPAD }
    else
      let bl := spadBytesAt e.i b 128
      let bad := poisonedWords e.i b
      let clean (ws : List Nat) : Bool := !ws.any bad.contains
      let q := rotaQ bl
      let kt := rotaK bl
      let vt := rotaV bl
      let blockBad : Bool := (rotaFields bl).any (fun c => clean c.1 && !c.2) ||
        (o.att && ((clean wordsQ && !q.legal false) || (clean wordsK && !kt.legal false) || (clean wordsV && !vt.legal false) ||
          (attRule q kt vt).any (fun c => clean (c.1.flatMap (fun n => [wordsQ, wordsK, wordsV].getD n [])) && !c.2)))
      let qs := if o.att && clean wordsQ then [spanNat q] else []
      match v.d 0 with
      | none => { illegal := own || blockBad, unaligned := b % 32 != 0, poison := !bad.isEmpty }
      | some t =>
        let (lo, hi) := spanNat t
        let z := hi - lo + 1
        let racks := if clean wordsRack then rangeAt (rotaRbase bl) (rotaRacks bl * z) else []
        let gather := if o.att || !clean (wordsN ++ wordsBase) then [] else rangeAt (rotaGbase bl) (rotaN bl * z)
        let inCask (d : Desc) : Bool := decide (0 ≤ (d.span false).1) && decide ((d.span false).2 < z)
        let far := (racks ++ gather ++ qs ++ [(lo, hi)]).any (fun r => decide (e.i.spadBytes ≤ r.2))
        { illegal := own || blockBad || meetAny racks [(lo, hi), (b, b + 127)] || meetAny racks qs || meetAny racks gather ||
            (o.att && ((clean wordsK && !inCask kt) || (clean wordsV && !inCask vt)))
          beyondPad := if far then some ovSPAD else none
          peer := if !clean wordsN || rotaN bl ≤ 1 then none
            else if (peerBad e.s l (rotaDown bl)).isSome then peerBad e.s l (rotaDown bl) else peerBad e.s l (rotaUp bl)
          unaligned := b % 32 != 0 || !t.aligned ||
            (o.att && ((clean wordsQ && !q.aligned) || (clean wordsK && !kt.aligned) || (clean wordsV && !vt.aligned)))
          poison := !bad.isEmpty
          block := bl
          reads := (lo, hi) :: qs
          writes := racks ++ gather }

/-- The block of a ROTA can be looked at: what stands against the word before it does not depend on the block. -/
def blockReached (o : RotaOp) (b : Nat) (e : Env) : Bool :=
  !e.spec && !gOver e.i o.gx && !gFieldBusy e.i e.c o.gx && !tOver e.i o.ts && decide (b + 128 ≤ e.i.spadBytes) && (hasMx e.s e.k || !o.att)

/-- ROTA (R363 to R365): the block is read at issue as a scratchpad read of the C context, and waits for earlier writes of it. -/
def execRota (o : RotaOp) (s : State) : Host.Outcome State Fault Refusal :=
  runWord (.rota o) s (fun e =>
    match (peekG e.c e.i [o.gx]).headD none with
    | some gx =>
      let b := field gx.toNat 0 22
      if blockReached o b e && padWritesPending e.s e.i b (b + 127) then .block .interlock
      else fabricOp (.rota o) o.att [o.ts] [o.gx] [] (judgeRota o) e
    | none => fabricOp (.rota o) o.att [o.ts] [o.gx] [] (judgeRota o) e)

end Sys2Proof.Machine
end

