-- ==== Sys2Proof/Machine/Engines.lean ====
section
/-!
DEFINITION. Execution of the commands of the MX, CP and AT engines (R327 to R343): order, start, progress row by row, completion.
-/
namespace Sys2Proof.Machine

/-! ## Order (R331, R334) -/

/-- Accumulators a command reads or writes (R331, R365). -/
def accsOf : Instr → List Nat
  | .mxm o | .mxmRb o => [o.acc.toNat]
  | .mxz o => [o.acc.toNat]
  | .mxd o => [o.acc.toNat]
  | .att o => [o.acco.toNat, o.accs.toNat]
  | .rota o => if o.att then [o.acco.toNat, o.accs.toNat] else []
  | _ => []

def isMxm : Instr → Bool
  | .mxm _ => true
  | .mxmRb _ => true
  | _ => false

/-- Bytes of a range outside another. -/
def minusOne (x y : Nat × Nat) : List (Nat × Nat) :=
  if x.2 < y.1 ∨ y.2 < x.1 then [x]
  else (if x.1 < y.1 then [(x.1, y.1 - 1)] else []) ++ (if y.2 < x.2 then [(y.2 + 1, x.2)] else [])

/-- Bytes of ranges outside others. -/
def minus (xs ys : List (Nat × Nat)) : List (Nat × Nat) := ys.foldl (fun xs y => xs.flatMap (fun x => minusOne x y)) xs

/-- Scratchpad bytes that a command, or a step of it, reads and writes. -/
structure Foot where
  reads : List (Nat × Nat)
  writes : List (Nat × Nat)

/-- What is left of a command's footprint (R334). -/
def Cmd.foot (c : Cmd) : Foot := ⟨c.reads, c.writes⟩

/-- Footprints meet, one of them writing (R334). -/
def footClash (a b : Foot) : Bool := meetAny a.writes (b.reads ++ b.writes) || meetAny a.reads b.writes

/-- An earlier command b holds back a step of command c with footprint f: overlapping scratchpad bytes that b has not performed, a common
accumulator, or the latch (R331, R334, R336). -/
def cmdHolds (f : Foot) (b c : Cmd) : Bool :=
  decide (b.id < c.id) && !b.isDone &&
    (footClash b.foot f || (b.phase ≠ .writing && ((accsOf b.word).any (fun n => (accsOf c.word).contains n) ||
      (isMxm b.word && isMxm c.word))))

/-- An earlier access of the instance holds a step with footprint f of command c back (R137, R334). -/
def accHolds (uid : Nat) (f : Foot) (c : Cmd) (a : Access) : Bool :=
  a.uid = uid && decide (a.id < c.id) && a.parts.any (fun p => !p.done && (match p.ownRange with
    | none => false
    | some r => f.writes.any (rangesMeet r) || (a.kind.writes && f.reads.any (rangesMeet r))))

/-- A step of command c may be performed now, as far as the instance's own order goes. -/
def mayStep (s : State) (i : Inst) (c : Cmd) (f : Foot) : Bool := !i.cmds.any (fun b => cmdHolds f b c) && !s.acc.any (accHolds i.uid f c)

/-- All that is left of command c may be performed now. -/
def mayRun (s : State) (i : Inst) (c : Cmd) : Bool := mayStep s i c c.foot

/-! ## Rows of the copy engine (R339 to R341) -/

def Cmd.desc (c : Cmd) (n : Nat) : Desc := dAt (c.ds.map descOf) n

/-- ECC_LOG name of tensor field t read by engine e. -/
def eccT (e : Nat) (t : BitVec 6) : EccName := ⟨e, false, t.toNat, 0⟩

/-- Row r of CPY. -/
def cpyRow (v : Eng) (o : CpyOp) (r : Nat) (s : State) : Option State :=
  match readRow v (eccT ecCP o.ts) (v.c.desc 1) r s with
  | none => none
  | some (xs, s) => writeRow v (v.c.desc 0) r xs s

/-- Row r of WLOAD: elements, then the row's scale bytes at each descriptor's own place (R341). -/
def wloadRow (v : Eng) (o : CpyOp) (r : Nat) (s : State) : Option State :=
  let d := v.c.desc 0
  let t := v.c.desc 1
  let e := eccT ecCP o.ts
  match readRow v e t r s with
  | none => none
  | some (xs, s) =>
    if !t.gsp then writeRow v d r xs s
    else match readUnits v e (t.gsUnits r) s with
      | none => none
      | some (gs, s) => match writeRow v d r xs s with
        | none => none
        | some s => writeBytes v d.space (d.gsAt r 0) (gs.map (fun g => BitVec.ofNat 8 g)) s

/-- The whole of a transposing copy: every source element is read before any destination element is written (R339). -/
def transAll (v : Eng) (o : CpyOp) (s : State) : Option State :=
  let d := v.c.desc 0
  let t := v.c.desc 1
  match readRows v (eccT ecCP o.ts) t t.rows 0 s with
  | none => none
  | some (xs, s) =>
    (upto d.rows).foldl (fun s r => match s with
      | none => none
      | some s =>
        let base := t.dim 1 * (d.i2 r + t.dim 2 * d.i3 r)
        writeRow v d r ((upto (d.dim 0)).map (fun k => (xs.getD (base + k) []).getD (d.i1 r) 0)) s) (some s)

/-- The indices of a command are read before any row: none where the element was replaced (R340, R343). -/
def readIdx (v : Eng) (t : BitVec 6) (s : State) : Option State :=
  let us := (v.c.desc 2).units 0
  match readAll s v us with
  | none => none
  | some xs =>
    let idx := xs.map (fun x => if x.2 = .ok then some (sextInt 32 (x.1 % 2 ^ 32)) else none)
    some ((logRow v (eccT ecCP t) (us.zip (xs.map (fun x => x.2))) (engTouch v us s)).updUid v.i.uid (fun i =>
      i.updCmd v.c.id (fun c => { c with idx := idx })))

/-- A valid index among p rows (R340). -/
def validIdx (p : Nat) (x : Option (Option Int)) : Option Nat :=
  match x with
  | some (some z) => if 0 ≤ z ∧ z < p then some z.toNat else none
  | _ => none

/-- Row r of GATHER (R340). -/
def gatherRow (v : Eng) (o : IdxOp) (r : Nat) (s : State) : Option State :=
  let d := v.c.desc 0
  let t := v.c.desc 1
  match validIdx (t.dim 1) (v.c.idx[r]?) with
  | none => writeRow v d r (List.replicate (d.dim 0) 0) s
  | some z => match readRow v (eccT ecCP o.ts) t z s with
    | none => none
    | some (xs, s) => writeRow v d r xs s

/-- Row r of SCATTER (R340). -/
def scatterRow (v : Eng) (o : IdxOp) (r : Nat) (s : State) : Option State :=
  let d := v.c.desc 0
  match readRow v (eccT ecCP o.ts) (v.c.desc 1) r s with
  | none => none
  | some (xs, s) => match validIdx (d.dim 1) (v.c.idx[r]?) with
    | none => some s
    | some z => writeRow v d z xs s

/-- The atomic that carries an element update of SCADD: INT32 as ADD and FP32 as ADDF of 4 bytes; in 2 bytes ADDF stands for BF16 and
ADD for FP16. -/
def scaddFn (fmt : Nat) : AmoFn :=
  match fmt with
  | 3 => .add
  | 4 => .addf
  | 5 => .add
  | _ => .addf

/-- One element update of SCADD in the own scratchpad: an indivisible read and write; a poisoned old value is left (R340). -/
def scaddPad (v : Eng) (o : IdxOp) (d : Desc) (row col x : Nat) (s : State) : Option State :=
  let a := d.rowAt row + d.eoff col
  let n := eszOf d.fmt
  match engPlace s v d.space a n (.engAmo v.c.id (scaddFn d.fmt)), s.instOf v.i.uid with
  | .pad _ q, some i =>
    if spadPoisoned i q n then
      some (engFault v cNOWRITE 1 (engAddr d.space a) (s.updUid v.i.uid (eccEvent (eccT ecCP o.td) 1 row col)))
    else
      let new := amoOp (scaddFn d.fmt) (leNat (spadBytesAt i q n)) x n
      some (s.updUid v.i.uid (fun i => (putSpad (cellsOf q n new) i).unlatch d.space a (a + n - 1)))
  | .held, _ => none
  | _, _ => some s

/-- The updates of one row in the own scratchpad, element by element. -/
def scaddPads (v : Eng) (o : IdxOp) (d : Desc) (row : Nat) : Nat → List Nat → State → Option State
  | _, [], s => some s
  | k, x :: xs, s => match scaddPad v o d row k x s with
    | none => none
    | some s => scaddPads v o d row (k + 1) xs s

/-- The updates of row z of a SCADD: through DRAM space each element is a part of one access (R340). -/
def scaddElems (v : Eng) (o : IdxOp) (d : Desc) (z : Nat) (xs : List Nat) (s : State) : Option State :=
  if d.space ≠ spDRAM then scaddPads v o d z 0 xs s
  else some (engStore v (.engAmo v.c.id (scaddFn d.fmt)) (xs.zipIdx.map (fun x =>
    engPart s v x.2 (d.rowAt z + d.eoff x.2) (eszOf d.fmt) x.1 z)) s)

/-- Row r of SCADD (R340). -/
def scaddRow (v : Eng) (o : IdxOp) (r : Nat) (s : State) : Option State :=
  let d := v.c.desc 0
  match readRow v (eccT ecCP o.ts) (v.c.desc 1) r s with
  | none => none
  | some (xs, s) => match validIdx (d.dim 1) (v.c.idx[r]?) with
    | none => some s
    | some z => scaddElems v o d z xs s

/-- Rows a copy-engine command takes; a transposing copy is one. -/
def Cmd.total (c : Cmd) : Nat :=
  match c.word with
  | .cpy _ | .wload _ | .gather _ => (c.desc 0).rows
  | .scatter _ | .scadd _ => (c.desc 1).rows
  | _ => 1

/-- The index field of a command that has not read its indices yet. -/
def Cmd.wantsIdx (c : Cmd) : Option (BitVec 6) :=
  match c.word with
  | .gather o | .scatter o | .scadd o => if c.idx.isEmpty then some o.ti else none
  | _ => none

/-- Row r of a copy-engine command. -/
def copyRow (v : Eng) (r : Nat) (s : State) : Option State :=
  match v.c.word with
  | .cpy o => cpyRow v o r s
  | .wload o => wloadRow v o r s
  | .cpyT8 o | .cpyT16 o => transAll v o s
  | .gather o => gatherRow v o r s
  | .scatter o => scatterRow v o r s
  | .scadd o => scaddRow v o r s
  | _ => some s

/-! ### Steps of a copy command: its indices, then its rows (R332, R334) -/

/-- Scratchpad bytes of a range, and of a descriptor's span. -/
def Span.foot (r : Span) : List (Nat × Nat) := if r.1 = spSPAD && r.2.2 ≠ 0 then [(r.2.1.toNat, r.2.1.toNat + r.2.2 - 1)] else []
def Desc.foot (d : Desc) : List (Nat × Nat) := if d.space = spSPAD then [((d.span false).1.toNat, (d.span false).2.toNat)] else []

/-- Source row r with its scales where the command copies them. -/
def Cmd.srcSpans (c : Cmd) (r : Nat) : List Span :=
  let t := c.desc 1
  match c.word with
  | .wload _ => if t.gsp then [t.rowSpan r, t.gsSpan r] else [t.rowSpan r]
  | .cpyT8 _ | .cpyT16 _ => (upto t.rows).map t.rowSpan
  | .gather _ => (match validIdx (t.dim 1) (c.idx[r]?) with
    | some z => [t.rowSpan z]
    | none => [])
  | _ => [t.rowSpan r]

/-- The ranges that the next step reads. -/
def Cmd.stepReads (c : Cmd) : List Span :=
  match c.wantsIdx with
  | some _ => [(c.desc 2).rowSpan 0]
  | none => c.srcSpans c.rows

/-- The footprint of the next step; an indexed side counts its whole span (R333). -/
def Cmd.stepFoot (c : Cmd) : Foot :=
  let d := c.desc 0
  let t := c.desc 1
  match c.wantsIdx with
  | some _ => ⟨((c.desc 2).rowSpan 0).foot, []⟩
  | none =>
    let row := (c.srcSpans c.rows).flatMap Span.foot
    match c.word with
    | .gather _ => ⟨t.foot, (d.rowSpan c.rows).foot⟩
    | .scatter _ => ⟨row, d.foot⟩
    | .scadd _ => ⟨row ++ d.foot, d.foot⟩
    | .cpyT8 _ | .cpyT16 _ => ⟨t.foot, d.foot⟩
    | .wload _ => ⟨row, []⟩
    | _ => ⟨row, (d.rowSpan c.rows).foot⟩

/-- The ranges of the rows after row r. -/
def Cmd.later (c : Cmd) (f : Nat → List Span) (r : Nat) : List (Nat × Nat) := ((upto c.total).drop (r + 1)).flatMap (fun n => (f n).flatMap Span.foot)

/-- The command after its indices were read: their bytes are performed, but for what it still reads as a source. -/
def Cmd.pastIdx (c : Cmd) : Cmd := { c with reads := minus c.reads (minus ((c.desc 2).rowSpan 0).foot (c.desc 1).foot), got := [] }

/-- The command after its next row: the row's bytes are performed, but for what later rows use; an indexed side stays. -/
def Cmd.pastRow (c : Cmd) : Cmd :=
  let r := c.rows
  let src (n : Nat) : List Span := match c.word with
    | .gather _ => []
    | _ => c.srcSpans n
  let dst (n : Nat) : List Span := match c.word with
    | .cpy _ | .gather _ => [(c.desc 0).rowSpan n]
    | _ => []
  { c with
    rows := r + 1, got := []
    reads := minus c.reads (minus ((src r).flatMap Span.foot) (c.later src r))
    writes := minus c.writes (minus ((dst r).flatMap Span.foot) (c.later dst r)) }

/-- The next step of copy command id: the state after it and whether it was done; what it lacks from outside is asked for. -/
def copyStep (k id : Nat) (s : State) : State × Bool :=
  match s.inst k with
  | none => (s, false)
  | some i => match i.cmds.find? (fun c => c.id = id) with
    | none => (s, false)
    | some c =>
      let v : Eng := ⟨k, i, c⟩
      if (c.wantsIdx.isNone && decide (c.total ≤ c.rows)) || !mayStep s i c c.stepFoot then (s, false)
      else if !readable s v c.stepReads then (askFor v c.stepReads s, false)
      else
        let (t, past) : Option State × (Cmd → Cmd) := match c.wantsIdx with
          | some x => (readIdx v x s, Cmd.pastIdx)
          | none => (copyRow v c.rows s, Cmd.pastRow)
        match t with
        | none => (s, false)
        | some t => (t.updInst k (fun i => i.updCmd id past), true)

/-! ## MX and AT (R335 to R338, R342) -/

/-- B's element rows and scales from the latch; the uncorrectable values are logged, and VALID clears where there is one (R336, R343). -/
def latchedB (v : Eng) (o : MxmOp) (b : Desc) (l : Latch) (s : State) : List (List Nat) × List (List Nat) × State :=
  let g := b.groups
  let at_ (n : Nat) : Nat × Nat :=
    if n < l.elems.length then (n / b.dim 0, n % b.dim 0) else ((n - l.elems.length) / g, 64 * ((n - l.elems.length) % g))
  let s := s.updUid v.i.uid (fun i => l.bad.foldl (fun i n => eccEvent (eccT ecMX o.tb) 1 (at_ n).1 (at_ n).2 i) i)
  let s := if l.bad = [] then s else s.updUid v.i.uid (fun i => { i with latch := none })
  (chunks (b.dim 0) (b.dim 1) l.elems, if usesScales b then chunks g (b.dim 1) l.scales else [], s)

/-- B's element rows and scales for MXM and MXM.RB: the latched operand that the command found at its start, or B itself, which sets the
latch (R336). -/
def readB (v : Eng) (o : MxmOp) (b : Desc) (s : State) : Option (List (List Nat) × List (List Nat) × State) :=
  let e := eccT ecMX o.tb
  let n := b.dim 1
  match v.c.latched with
  | some l => some (latchedB v o b l s)
  | none =>
    let reads := readAll s v ((upto n).flatMap (fun r => b.units r ++ (if usesScales b then b.gsUnits r else [])))
    let bad : Bool := match reads with
      | none => false
      | some xs => xs.any (fun x => x.2 = .poison)
    match readRows v e b n 0 s with
    | none => none
    | some (ys, s) => match readScales v e b (usesScales b) n 0 s with
      | none => none
      | some (gs, s) =>
        let sp := b.span (usesScales b)
        let l : Latch := ⟨v.c.ds.getD 1 0, ys.flatten, gs.flatten, b.space, sp.1.toNat, sp.2.toNat, []⟩
        some (ys, gs, s.updUid v.i.uid (fun i => { i with latch := if bad then none else some l }))

/-- MXM and MXM.RB (R335, R336). -/
def mxmAll (v : Eng) (o : MxmOp) (s : State) : Option State :=
  let a := v.c.desc 0
  let b := v.c.desc 1
  match mxPath a.fmt b.fmt with
  | none => some s
  | some path =>
    let e := eccT ecMX o.ta
    match readRows v e a (a.dim 1) 0 s with
    | none => none
    | some (xs, s) => match readScales v e a (usesScales a) (a.dim 1) 0 s with
      | none => none
      | some (ga, s) => match readB v o b s with
        | none => none
        | some (ys, gb, s) =>
          let c := o.acc.toNat
          let tile := pairs (a.dim 1) (b.dim 1)
          some ((logAcc v ecMX c tile s).updUid v.i.uid (fun i => accGood c tile
            { i with acc := accPut c (tile.map (fun p =>
                (p.1, p.2, mxDot path (accGet i.acc c p.1 p.2) a b (ga.getD p.1 []) (gb.getD p.2 []) (xs.getD p.1 [])
                  (ys.getD p.2 [])))) i.acc }))

/-- MXZ (R337). -/
def mxzAll (v : Eng) (o : MxzOp) (s : State) : State :=
  let keep {α : Type} (p : Nat × α) : Bool := p.1 / 16384 ≠ o.acc.toNat
  s.updUid v.i.uid (fun i => { i with acc := i.acc.filter keep, accPoison := i.accPoison.filter keep })

/-- Rows r to r + n - 1 of MXD. -/
def mxdRows (v : Eng) (o : MxdOp) : Nat → Nat → State → Option State
  | 0, _, s => some s
  | n + 1, r, s =>
    let d := v.c.desc 0
    let xs := (upto (d.dim 0)).map (fun j => drainVal d.fmt o.i32 d.sb (accGet v.i.acc o.acc.toNat r j))
    match writeRow v d r xs s with
    | none => none
    | some s => mxdRows v o n (r + 1) s

/-- MXD (R338): with Z every drained element becomes zero. -/
def mxdAll (v : Eng) (o : MxdOp) (s : State) : Option State :=
  let d := v.c.desc 0
  let c := o.acc.toNat
  let tile := pairs (d.dim 1) (d.dim 0)
  (mxdRows v o (d.dim 1) 0 (logAcc v ecMX c tile s)).map (fun s =>
    if !o.z then s
    else s.updUid v.i.uid (fun i => accGood c tile { i with acc := accPut c (tile.map (fun p => (p.1, p.2, 0))) i.acc }))

/-- Reads Q, K and V whole: none while one of them cannot be read. -/
def attRead (v : Eng) (eq ek ev : EccName) (q k t : Desc) (s : State) :
    Option (List (List Nat) × List (List Nat) × List (List Nat) × State) :=
  match readRows v eq q (q.dim 1) 0 s with
  | none => none
  | some (qs, s) => match readRows v ek k (k.dim 1) 0 s with
    | none => none
    | some (ks, s) => (readRows v ev t (t.dim 1) 0 s).map (fun x => (qs, ks, x.1, x.2))

/-- A step of attention on the accumulators of the instance: tile o the output, tile t the maximum and sum (R342). -/
def attApply (v : Eng) (x : AttIn) (o t : Nat) (s : State) : State :=
  let out := pairs (x.q.dim 1) (x.v.dim 0)
  let sums := pairs (x.q.dim 1) 2
  let s := if x.first then s else logAcc v ecAT o out (logAcc v ecAT t sums s)
  s.updUid v.i.uid (fun i => accGood o out (accGood t sums { i with acc := attStep x o t i.acc }))

/-- ATT (R342). -/
def attAll (v : Eng) (o : AttOp) (s : State) : Option State :=
  let q := v.c.desc 0
  let k := v.c.desc 1
  let t := v.c.desc 2
  match attRead v (eccT ecAT o.tq) (eccT ecAT o.tk) (eccT ecAT o.tv) q k t s with
  | none => none
  | some (qs, ks, vs, s) =>
    some (attApply v ⟨q, k, t, qs, ks, vs, v.c.gx.toNat % 2 ^ 32, o.first, o.last⟩ o.acco.toNat o.accs.toNat s)

/-! ## Start and completion (R327, R328) -/

/-- Every earlier command of the queue has been started (R327). -/
def nextOf (i : Inst) (en : Engine) (c : Cmd) : Bool :=
  c.isOf en && c.phase = .queued && !i.cmds.any (fun b => decide (b.id < c.id) && b.isOf en && b.phase = .queued)

/-- Engine front ends take a command: not while the isle is frozen or being saved (R55, R92). -/
def frontEnd (i : Inst) : Bool := i.frozen.isNone && (i.life = .running || i.life = .retired)

/-- The command finishes and is counted in queue order; the isle may drain (R328, R78). -/
def finishCmd (k id : Nat) (s : State) : State := sweep (s.updInst k (fun i => i.finish id))

def runPhase (k id : Nat) (p : Phase) (s : State) : State := s.updInst k (fun i => i.updCmd id (fun c => { c with phase := p }))

/-- Byte ranges that a command whose work is done has written, for R387. -/
def writtenRanges (c : Cmd) : Nat × List (Nat × Nat) :=
  let d := c.desc 0
  let rows := match c.word with
    | .scatter _ => (upto (c.desc 1).rows).filterMap (fun r => validIdx (d.dim 1) (c.idx[r]?))
    | .cpy _ | .cpyT8 _ | .cpyT16 _ | .wload _ | .gather _ | .mxd _ | .ard _ | .agt _ | .rsc _ | .bct _ => upto d.rows
    | _ => []
  (d.space, rows.map (fun r => (d.rowAt r, d.rowLen)))

/-- An access of command id is not answered yet. -/
def cmdBusy (s : State) (uid id : Nat) : Bool := s.acc.any (fun a => a.uid = uid && a.kind.cmd = some id)

/-- The work of command id is done: it finishes once its writes are acknowledged (R328), and poison of what it covered goes (R387). -/
def endCmd (k id : Nat) (s : State) : State :=
  match s.inst k with
  | none => s
  | some i => match i.cmds.find? (fun c => c.id = id) with
    | none => s
    | some c =>
      if cmdBusy s i.uid id then runPhase k id .writing s
      else
        let w := writtenRanges c
        finishCmd k id (clearCovered ⟨k, i, c⟩ w.1 w.2 s)

/-- Takes up to n steps of a copy-engine command. -/
def copySteps : Nat → Nat → Nat → State → State
  | 0, _, _, s => s
  | n + 1, k, id, s => match copyStep k id s with
    | (s, true) => copySteps n k id s
    | (s, false) => s

/-- Rows that a copy command has left. -/
def rowsLeft (s : State) (k id : Nat) : Nat :=
  match s.inst k with
  | none => 0
  | some i => match i.cmds.find? (fun c => c.id = id) with
    | none => 0
    | some c => c.total - c.rows

/-- A running MX, CP or AT command makes its accesses, a copy command those of one row or of all that are left; a copy of an instance that
is being saved has stopped at its row boundary (R92). A discarded speculation's commands end without effect (R101). -/
def runCmd (k : Nat) (i : Inst) (c : Cmd) (row : Option Nat) (s : State) : State :=
  let v : Eng := ⟨k, i, c⟩
  let fin (r : Option State) : State := match r with
    | none => s
    | some t => endCmd k c.id t
  if i.life = .discarded then finishCmd k c.id s
  else if launchClaiming s i.launch then s
  else if c.isCopy then
    if i.life = .saving then s
    else match row with
      | some r => if r = c.rows && decide (r + 1 < c.total) then copySteps (if c.wantsIdx.isSome then 2 else 1) k c.id s else s
      | none =>
        let s := copySteps (c.total - c.rows + 1) k c.id s
        if rowsLeft s k c.id = 0 then endCmd k c.id s else s
  else if row.isSome || !mayRun s i c then s
  else match c.word with
    | .mxm o => fin (mxmAll v o s)
    | .mxmRb o => fin (mxmAll v o s)
    | .mxz o => finishCmd k c.id (mxzAll v o s)
    | .mxd o => fin (mxdAll v o s)
    | .att o => fin (attAll v o s)
    | _ => s

end Sys2Proof.Machine
end

