-- ==== Sys2Proof/Machine/Circuits.lean ====
section
/-!
DEFINITION. Straits: handles, opening, streaming, breaks and fallback (R164 to R168, R351 to R356, R368), and the events that
act on them. Which crosspoints a probe meets on other devices (R161, R169) comes with the events.
-/
namespace Sys2Proof.Machine

/-! ## Handles (R166) -/

/-- CAUSE codes of R166. -/
def caSHUT : BitVec 4 := 1
def caLEASE : BitVec 4 := 2

def caLINK : BitVec 4 := 4
def caSAVED : BitVec 4 := 5
def caPROBE : BitVec 4 := 6
def caTARGET : BitVec 4 := 7

def HStateKind.code : HStateKind → Nat
  | .closed => 0
  | .opening => 1
  | .opened => 2
  | .broken => 3
  | .fallback => 4
  | .failed => 5

/-- µs of lease remaining, whole ones. -/
def Handle.left (h : Handle) (now : Nat) : Nat := (h.leaseEnd - now) / usec

/-- The 32 bytes of a handle's state (R166). -/
def Handle.bytes (h : Handle) (now : Nat) : List Byte :=
  leBytes 8 (h.st.code * 2 ^ 60 + h.cause.toNat * 2 ^ 56 + b2n h.autofb * 2 ^ 55 + h.prio.toNat * 2 ^ 52 + b2n h.pre * 2 ^ 51 +
    h.peer.toNat * 2 ^ 39 + h.isle.toNat * 2 ^ 31 + h.label.toNat * 2 ^ 23) ++
  leBytes 8 (h.lbase.toNat * 2 ^ 42 + h.rbase.toNat * 2 ^ 20) ++
  leBytes 8 (h.len.toNat * 2 ^ 41 + h.ackoff.toNat * 2 ^ 18) ++
  leBytes 8 (h.sentoff.toNat * 2 ^ 41 + h.left now % 2 ^ 24 * 2 ^ 17)


/-- The handle a CI command names. -/
def handleOf : Instr → Option (BitVec 3)
  | .copen o => some o.h
  | .chold o | .csend o | .csendResume o | .cstat o => some o.h
  | .cshut o => some o.h
  | _ => none

def isCsend : Instr → Bool
  | .csend _ => true
  | .csendResume _ => true
  | _ => false

/-- Updates handle h of the instance on isle k. -/
def updHandle (k h : Nat) (f : Handle → Handle) (s : State) : State := s.updInst k (fun i => i.setHandle h (f (i.handle h)))

/-- Self number of the launch of instance i. -/
def selfPeer (s : State) (i : Inst) : Option Nat :=
  match s.launch i.launch with
  | some l => selfOf l.part
  | none => none

/-! ## COPEN and CHOLD (R351, R352) -/

/-- The operands of a COPEN taken into a handle (R351). -/
def copenTake (c : Cmd) (eff : Option Eff) (h : Handle) : Handle :=
  let keep := h.st = .broken && h.peer.toNat = coPeer c.gx && h.isle.toNat = coIsle c.gx && h.lbase.toNat = coLbase c.gy &&
    h.rbase.toNat = coRbase c.gx && h.len.toNat = coLen c.gy
  { st := .opening, cause := 0, autofb := coAutofb c.gy
    prio := match eff with
      | some e => BitVec.ofNat 3 e.prio
      | none => h.prio
    pre := match eff with
      | some e => e.preemptible
      | none => h.pre
    peer := BitVec.ofNat 12 (coPeer c.gx), isle := BitVec.ofNat 8 (coIsle c.gx), label := BitVec.ofNat 8 (coLabel c.gx)
    lbase := BitVec.ofNat 22 (coLbase c.gy), rbase := BitVec.ofNat 22 (coRbase c.gx), len := BitVec.ofNat 23 (coLen c.gy)
    ackoff := if keep then h.ackoff else 0, sentoff := if keep then h.sentoff else 0, leaseEnd := h.leaseEnd }

/-- A COPEN ends without a circuit: FAILED, CAUSE PROBE (R351, R368). -/
def copenFails (k h id : Nat) (s : State) : State :=
  finishCmd k id (updHandle k h (fun x => { x with st := .failed, cause := caPROBE }) (dropXpts (.strait k h) s))

/-- The probe of a COPEN leaves: none to the issuing isle itself, none where it finds no way on this device (R161, R351). -/
def straitProbe (k h : Nat) (x : Handle) (part : Partition) (s : State) : Option State :=
  let self := selfOf part
  let f := x.flow k
  let p : Prober := ⟨.strait k h, x.prio.toNat, x.pre⟩
  if self = some f.peer && f.isle = k then none
  else match probeWay s self p f with
    | none => none
    | some (w, q) =>
      let s := takeWay p w s
      match q with
      | none => some s
      | some q => some (s.send (.probe ⟨self.getD 0, part.tenant, genOf s part f.peer, f, .strait h, x.prio.toNat, x.pre,
          some (x.rbase.toNat, x.len.toNat), w.backs, q⟩))

/-- A COPEN acts on its handle, which is not in FALLBACK: an OPEN one is left alone, another one opens with a probe that takes no promotion
buffer (R351). A save abandons it (R368). -/
def copenAct (k : Nat) (c : Cmd) (o : CopenOp) (s : State) : State :=
  match s.inst k with
  | none => s
  | some i =>
    let n := o.h.toNat
    let h := i.handle n
    if i.life = .saving then copenFails k n c.id s
    else if h.st = .opened then finishCmd k c.id s
    else match s.launch i.launch with
      | none => finishCmd k c.id s
      | some l =>
        let x := copenTake c (some l.eff) h
        let s := updHandle k n (fun _ => x) (runPhase k c.id .probing s)
        (straitProbe k n x l.part s).getD (copenFails k n c.id s)

/-- A COPEN starts: it waits while its handle is in FALLBACK (R351). -/
def copenStart (k : Nat) (c : Cmd) (o : CopenOp) (s : State) : State :=
  match s.inst k with
  | none => s
  | some i => if (i.handle o.h.toNat).st = .fallback then runPhase k c.id .running s else copenAct k c o s

/-- The target on this device accepts: R107 over the remote range (R351). -/
def localAccepts (s : State) (h : Handle) : Bool :=
  match runningOn s h.isle.toNat with
  | some j => decide (h.rbase.toNat + h.len.toNat ≤ j.spadBytes)
  | none => false

/-- A strait's circuit stands: its lease begins (R351). -/
def copenOpens (k : Nat) (c : Cmd) (h : Nat) (s : State) : State :=
  finishCmd k c.id (updHandle k h (fun x => { x with st := .opened, leaseEnd := s.time + clampLease (coLease c.gy) * usec }) s)

/-- The receiving side of a strait whose probe was accepted: no token was returned yet (R165). -/
def addStrait (f : Flow) (h : Nat) (s : State) : State :=
  { s with straits := s.straits.filter (fun y => !(y.flow = f && y.h = h)) ++ [⟨f, h, none⟩] }

/-- The outcome of a COPEN's probe: of one to a peer an answer under key 0, `ok` where it succeeds and the target accepts; a target on this
device is judged here. -/
def copenDone (k : Nat) (c : Cmd) (o : CopenOp) (ext : List (Nat × Answer)) (s : State) : State :=
  match s.inst k with
  | none => s
  | some i =>
    let n := o.h.toNat
    let h := i.handle n
    if h.st ≠ .opening then finishCmd k c.id s
    else if selfPeer s i = some h.peer.toNat then
      if localAccepts s h then copenOpens k c n (addStrait (h.flow k) n s) else copenFails k n c.id s
    else match answerFor ext 0 with
      | none => s
      | some (.ok _) => copenOpens k c n s
      | some _ => copenFails k n c.id s

/-- CHOLD acts when it starts (R352). -/
def choldStart (k : Nat) (c : Cmd) (o : HgOp) (s : State) : State :=
  finishCmd k c.id (updHandle k o.h.toNat (fun h =>
    if h.st = .opened then { h with leaseEnd := s.time + clampLease (field c.gx.toNat 0 14) * usec } else h) s)

/-! ## CSEND (R353) -/

/-- Own-scratchpad bytes as an engine streams them: poisoned ones as zero. -/
def streamBytes (i : Inst) (a n : Nat) : List Byte :=
  (upto n).map (fun j => if spadPoisoned i (a + j) 1 then 0 else spadByte i (a + j))

/-- A poisoned stream is logged with ENGINE CI; the register number, row and column are free, for no descriptor names them. -/
def logStream (k a n : Nat) (s : State) : State :=
  match s.inst k with
  | none => s
  | some i =>
    if n = 0 || !spadPoisoned i a n then s
    else
      let r := (Config.freeWord s.fresh).toNat
      { s.updInst k (eccEvent ⟨ecCI, false, field r 0 6, 0⟩ 1 (field r 16 16) (field r 32 16)) with fresh := s.fresh + 1 }

/-- The bytes of a CSEND go on the circuit of a handle, from offset frm of its range. -/
def sendStrait (k h : Nat) (x : Handle) (part : Partition) (frm : Nat) (bs : List Byte) (s : State) : State :=
  let f := x.flow k
  let d : CircuitData := ⟨(selfOf part).getD 0, part.tenant, genOf s part f.peer, f, .strait h, x.rbase.toNat + frm, bs, true⟩
  sendFlow (selfOf part = some f.peer) (.data d) (.circuitData d) s

/-- A CSEND starts (R353). -/
def csendStart (k : Nat) (c : Cmd) (o : HgOp) (resume : Bool) (s : State) : State :=
  match s.inst k with
  | none => s
  | some i =>
    let h := i.handle o.h.toNat
    let n := field c.gx.toNat 0 23
    let frm := if resume then h.ackoff.toNat else h.sentoff.toNat
    let upTo := Nat.min h.len.toNat (h.sentoff.toNat + n)
    if h.st ≠ .opened ∨ upTo ≤ frm then finishCmd k c.id s
    else if !mayRun s i c then s
    else
      let a := h.lbase.toNat + frm
      let s := updHandle k o.h.toNat (fun h => { h with sentoff := BitVec.ofNat 23 upTo }) (runPhase k c.id (.streaming frm upTo) s)
      match s.launch i.launch with
      | none => s
      | some l => sendStrait k o.h.toNat h l.part frm (streamBytes i a (upTo - frm)) (logStream k a (upTo - frm) s)

/-- A started CSEND on handle h. -/
def Cmd.streamsOn (h : Nat) (c : Cmd) : Bool :=
  isCsend c.word && (handleOf c.word).map (fun x => x.toNat) = some h && (match c.phase with
    | .streaming _ _ => true
    | _ => false)

/-- Finishes the commands that p selects on isle k. -/
def finishAll (k : Nat) (p : Cmd → Bool) (s : State) : State :=
  match s.inst k with
  | none => s
  | some i => sweep ((i.cmds.filter p).foldl (fun s c => s.updInst k (fun i => i.finish c.id)) s)

/-- A token of a strait, with the scratchpad offset reached: ACKOFF advances, and the CSENDs up to it complete (R165, R353). -/
def straitToken (k h at_ : Nat) (s : State) : State :=
  match s.inst k with
  | none => s
  | some i =>
    let off := at_ - (i.handle h).rbase.toNat
    if (i.handle h).st ≠ .opened ∨ off ≤ (i.handle h).ackoff.toNat ∨ (i.handle h).sentoff.toNat < off then s
    else
      let s := updHandle k h (fun x => { x with ackoff := BitVec.ofNat 23 off }) s
      finishAll k (fun c => c.streamsOn h && (match c.phase with
        | .streaming _ e => decide (e ≤ off)
        | _ => false)) s

/-! ## Breaks and fallback (R167, R168, R372) -/

/-- A CSHUT that has started on handle h waits for CLOSED and sets CAUSE SHUT then (R354); rows says so. -/
def shutsLater (h : Nat) (c : Cmd) : Cmd :=
  match c.word with
  | .cshut o => if o.h.toNat = h && c.phase ≠ .queued && !c.isDone then { c with rows := 1 } else c
  | _ => c

/-- An OPEN handle breaks: its circuit is torn down, FALLBACK with AUTOFB unless the target is gone, else BROKEN, which completes its
CSENDs (R167, R168). -/
def breakStrait (k h : Nat) (cause : BitVec 4) (s : State) : State :=
  match s.inst k with
  | none => s
  | some i =>
    let x := i.handle h
    let s := if x.st = .opened then tearStrait k h x s else s
    if x.st ≠ .opened then s
    else if x.autofb && cause ≠ caTARGET && (s.launch i.launch).isSome then
      let s := updHandle k h (fun y => { y with st := .fallback, cause := cause }) s
      let s := s.updInst k (fun i => { i with cmds := i.cmds.map (shutsLater h) })
      let a := x.ackoff.toNat
      let bs := streamBytes i (x.lbase.toNat + a) (x.sentoff.toNat - a)
      let s := logStream k (x.lbase.toNat + a) (x.sentoff.toNat - a) s
      match s.launch i.launch with
      | none => s
      | some l =>
        resend ⟨k, i.uid, i.launch, i.rank⟩ l.part (fun off => .fallback (x.flow k) off h) (x.flow k) (x.rbase.toNat + a)
          (cut2048 (bs.length / 2048 + 1) bs) s
    else
      finishAll k (fun c => c.streamsOn h) (updHandle k h (fun y => { y with st := .broken, cause := cause }) s)

/-- Every fallback packet of handle h has been acknowledged or refused. -/
def fallbackSent (s : State) (k h : Nat) : Bool :=
  !s.acc.any (fun a => a.isle = k && (match a.kind with
    | .fallback _ _ h' => h' = h
    | _ => false))

/-- FALLBACK_DONE (R167). -/
def execFallbackDone (isle h : Nat) (s : State) : Host.Outcome State Fault Refusal :=
  match s.inst isle with
  | none => .next s
  | some i =>
    if (i.handle h).st = .fallback && fallbackSent s isle h then
      .next (finishAll isle (fun c => c.streamsOn h) (updHandle isle h (fun x => { x with st := .closed }) s))
    else .next s

/-- LEASE_EXPIRY (R167): the lease end is reached. -/
def execLeaseExpiry (isle h : Nat) (s : State) : Host.Outcome State Fault Refusal :=
  match s.inst isle with
  | none => .next s
  | some i => if (i.handle h).st = .opened && decide ((i.handle h).leaseEnd ≤ s.time) then .next (breakStrait isle h caLEASE s) else .next s

/-! ## CSHUT and CSTAT (R354, R355) -/

/-- An earlier CSEND on the handle has not completed. -/
def sendsBefore (i : Inst) (c : Cmd) (h : BitVec 3) : Bool :=
  i.cmds.any (fun b => decide (b.id < c.id) && !b.isDone && isCsend b.word && handleOf b.word = some h)

/-- CSHUT acts when it can (R354). -/
def cshutDone (k : Nat) (c : Cmd) (o : HOp) (s : State) : State :=
  match s.inst k with
  | none => s
  | some i =>
    let n := o.h.toNat
    let shut := updHandle k n (fun x => { x with st := .closed, cause := caSHUT })
    match (i.handle n).st with
    | .opened => if sendsBefore i c o.h then s else finishCmd k c.id (shut (tearStrait k n (i.handle n) s))
    | .fallback => s
    | .broken => finishCmd k c.id (shut s)
    | .failed => finishCmd k c.id (shut s)
    | .opening => s
    | .closed => finishCmd k c.id (if c.rows = 1 then shut s else s)

/-- A CSHUT that starts in FALLBACK sets CAUSE once the state is CLOSED (R354); rows marks that it waits for that. -/
def cshutStart (k : Nat) (c : Cmd) (o : HOp) (s : State) : State :=
  match s.inst k with
  | none => s
  | some i =>
    let fb := (i.handle o.h.toNat).st = .fallback
    s.updInst k (fun i => i.updCmd c.id (fun c => { c with phase := .running, rows := if fb then 1 else 0 }))

/-- CSTAT takes the state at its start (R355). -/
def cstatStart (k : Nat) (c : Cmd) (o : HgOp) (s : State) : State :=
  s.updInst k (fun i => i.updCmd c.id (fun c => { c with phase := .running, block := (i.handle o.h.toNat).bytes s.time }))

/-- CSTAT's write (R355). -/
def cstatDone (k : Nat) (i : Inst) (c : Cmd) (s : State) : State :=
  if !mayRun s i c then s
  else match writeBytes ⟨k, i, c⟩ spSPAD (field c.gx.toNat 0 22 : Nat) c.block s with
    | none => s
    | some s => finishCmd k c.id s

/-! ## Start and completion of CI commands (R356) -/

/-- A CI command waits while an earlier COPEN on its handle has not completed (R356). -/
def ciReady (i : Inst) (c : Cmd) : Bool :=
  !i.cmds.any (fun b => decide (b.id < c.id) && !b.isDone && b.isCopen && handleOf b.word = handleOf c.word)

/-- Starts a CI command. -/
def ciStart (k : Nat) (i : Inst) (c : Cmd) (s : State) : State :=
  if !ciReady i c then s
  else match c.word with
    | .copen o => copenStart k c o s
    | .chold o => choldStart k c o s
    | .csend o => csendStart k c o false s
    | .csendResume o => csendStart k c o true s
    | .cshut o => cshutStart k c o s
    | .cstat o => cstatStart k c o s
    | _ => s

/-- Completes a CI command that ENGINE_COMMAND_COMPLETE can complete. -/
def ciDone (k : Nat) (i : Inst) (c : Cmd) (ext : List (Nat × Answer)) (s : State) : State :=
  match c.word with
  | .copen o =>
    if c.phase = .probing then copenDone k c o ext s else if (i.handle o.h.toNat).st = .fallback then s else copenAct k c o s
  | .cshut o => cshutDone k c o s
  | .cstat _ => cstatDone k i c s
  | _ => s

end Sys2Proof.Machine
end

