-- ==== Sys2Proof/Machine/Collect.lean ====
section
/-!
DEFINITION. Multicast trees (R171, R358), collectives (R172, R359 to R362) and rotations (R173, R174, R363 to R366, R370).
-/
namespace Sys2Proof.Machine

/-! ## Tree entries (R171) -/

def treeChild (t : TreeEntry) (p : Nat) : Bool := t.getLsbD p
def treeValid (t : TreeEntry) : Bool := t.getLsbD 128
def treeLocal (t : TreeEntry) : Bool := t.getLsbD 129
def treeRoot (t : TreeEntry) : Bool := t.getLsbD 130
def treeIsle (t : TreeEntry) : Nat := field t.toNat 136 8
def treeUp (t : TreeEntry) : Nat := field t.toNat 144 7
def treeTenant (t : TreeEntry) : Nat := field t.toNat 160 16

/-- Reserved bits of an image: FLAGS [7:3], UPPORT bit 7, bytes 19 and 22 to 31 (R171). -/
def treeReserved (t : TreeEntry) : Bool :=
  field t.toNat 131 5 != 0 || t.getLsbD 151 || field t.toNat 152 8 != 0 || field t.toNat 176 80 != 0

def State.tree (s : State) (n : Nat) : TreeEntry := Sparse.get 0 s.trees n

def isGridPort (s : State) (p : Nat) : Bool :=
  match (s.port p).role with
  | .row _ => true
  | .col _ => true
  | _ => false

/-- A CHILD bit or the UPPORT names a port that is no row or column link (R358). -/
def treeBadPort (s : State) (t : TreeEntry) : Bool :=
  (upto 128).any (fun p => treeChild t p && !isGridPort s p) || !isGridPort s (treeUp t)

/-- The image with its TENANT replaced (R358). -/
def withTenant (t : TreeEntry) (n : Nat) : TreeEntry := BitVec.ofNat 256 (putField t.toNat 160 16 n)

/-- DETAIL of a TREE entry that is not written; none where it is (R358, R374). -/
def treeFault (s : State) (k : Nat) (image : TreeEntry) (tenant : Nat) : Option Nat :=
  let old := s.tree k
  if treeValid old && treeTenant old ≠ tenant then some 1
  else if treeReserved image then some 2
  else if treeBadPort s image then some 3
  else none

/-- A started collective of this device uses tree entry n. -/
def treeInUse (s : State) (n : Nat) : Bool :=
  s.slots.any (fun p => p.2.cmds.any (fun c => c.isColl && c.phase = .gathering && clTree c.gx = n))

/-- Writes the image, or records why not (R358). -/
def treeWrite (k n : Nat) (i : Inst) (c : Cmd) (image : TreeEntry) (tenant : Nat) (s : State) : State :=
  match treeFault s n image tenant with
  | some d => instFault i.uid i.launch (cmdEntry k i c cTREE (n + d * 256)) s
  | none => { s with trees := Sparse.set 0 s.trees n (withTenant image tenant) }

/-- A TREE starts: it waits for scratchpad order and for collectives that use an entry it would change (R358). -/
def treeStart (k : Nat) (i : Inst) (c : Cmd) (s : State) : State :=
  match s.launch i.launch with
  | none => finishCmd k c.id s
  | some l =>
    let n := field c.gx.toNat 0 8
    let a := field c.gy.toNat 0 22
    let image : TreeEntry := BitVec.ofNat 256 (leNat (streamBytes i a 32))
    let tenant := l.part.tenant
    if !mayRun s i c then s
    else if treeInUse s n && s.tree n ≠ withTenant image tenant then s
    else
      let bad := spadPoisoned i a 32
      let r := (Config.freeWord s.fresh).toNat
      let s := treeWrite k n i c image tenant s
      let s := if bad then
          { s.updInst k (eccEvent ⟨ecCL, false, field r 0 6, 0⟩ 1 (field r 16 16) (field r 32 16)) with fresh := s.fresh + 1 }
        else s
      finishCmd k c.id s

/-! ## Collectives -/

/-- Command, operation and format numbers that a contribution carries (R361). -/
def collCmd : Instr → Nat
  | .ard _ => 0
  | .agt _ => 1
  | .rsc _ => 2
  | _ => 3
def collFn : Instr → CollFn
  | .ard o => o.op
  | .rsc o => o.op
  | _ => .sum
def collCode : CollFn → Nat
  | .sum => 0
  | .max => 1
  | .min => 2

/-- Destination and source descriptors of a collective. -/
def Cmd.dst (c : Cmd) : Desc := c.desc 0
def Cmd.srcD (c : Cmd) : Desc := c.desc 1

/-- The source tensor field of a collective. -/
def collSrc : Instr → BitVec 6
  | .ard o => o.ts
  | .rsc o => o.ts
  | .agt o => o.ts
  | .bct o => o.ts
  | _ => 0

/-- The contribution of this participant over its source elements (R361). -/
def ownContribution (c : Cmd) (data : List Nat) : Contribution :=
  { tree := clTree c.gx, tag := clTag c.gy, command := collCmd c.word, op := collCode (collFn c.word), format := c.dst.fmt,
    count := c.dst.count, n := clN c.gx, crank := clRank c.gx, root := clRoot c.gy, first := 0, data := data, refused := false }

/-- A contribution as packets carry it: 2,048 bytes of elements each (R152). -/
def piecesFrom (c : Contribution) (z : Nat) : Nat → Nat → List Nat → List Contribution
  | 0, _, _ => []
  | f + 1, n, xs => if xs = [] then [] else { c with first := n, data := xs.take z } :: piecesFrom c z f (n + z) (xs.drop z)

def contribPieces (c : Contribution) : List Contribution :=
  if c.data = [] then [c]
  else
    let z := if c.format = fmtL6 then 2048 else 2048 / eszOf c.format
    piecesFrom c z (c.data.length / z + 1) 0 c.data

/-- The number that stands for a tree in the target of a contribution, whose address is the port it leaves by; peers have numbers below
4,096 (R110). -/
def treePeer : Nat := 4096

/-- The port towards the parent of a tree entry, 128 at the root, which has none. -/
def treePort (t : TreeEntry) : Nat := if treeRoot t then 128 else treeUp t

/-- The access that carries a contribution until it is acknowledged (R362). -/
def contribAccess (s : State) (v : Eng) (pieces : List Contribution) : Access :=
  engAccess s v (.contrib v.c.id) (pieces.zipIdx.map (fun p =>
    ⟨p.2, 0, .peer treePeer (treePort (s.tree p.1.tree)), p.1.data.length * eszOf p.1.format, .rc, .mem, some s.time, 0, 0, false, 0, .ok⟩))

/-- A contribution leaves in packets, to be acknowledged (R361, R362). -/
def sendContrib (v : Eng) (own : Contribution) (s : State) : State :=
  let ps := contribPieces own
  ps.foldl (fun s p => s.send (.contribution v.k p)) { s with nextId := s.nextId + 1, acc := s.acc ++ [contribAccess s v ps] }

/-- Two contributions agree in what R361 lists, their ranks apart. -/
def agrees (a b : Contribution) : Bool :=
  a.tag = b.tag && a.command = b.command && a.op = b.op && a.format = b.format && a.count = b.count && a.n = b.n

/-- The local tree entry serves isle k of a launch of this tenant (R361). -/
def treeServes (s : State) (k tree tenant : Nat) : Bool :=
  let t := s.tree tree
  treeValid t && treeLocal t && treeIsle t = k && treeTenant t = tenant

/-- What is wrong with a set of contributions; none where nothing is (R361). -/
def collFault (own : Contribution) : List Contribution → Option Nat
  | [] => none
  | c :: cs =>
    if c.refused then some (if 1 ≤ c.op ∧ c.op ≤ 5 then c.op else 4)
    else if !agrees own c || own.n ≤ c.crank then some 1
    else if cs.any (fun d => d.crank = c.crank && d.first = c.first) then some 2
    else collFault own cs

/-- Source elements of rank r, its pieces in order. -/
def ofRank (cs : List Contribution) (r : Nat) : List Nat :=
  ((cs.filter (fun c => c.crank = r)).foldl (fun m c => Assoc.put m c.first c.data) []).flatMap (fun p => p.2)

/-- Source elements that rank r contributes to a command (R360). -/
def wantOf (c : Cmd) (r : Nat) : Nat :=
  let n := clN c.gx
  match c.word with
  | .ard _ => c.dst.count
  | .rsc _ => n * c.dst.count
  | .agt _ => c.dst.count / n
  | _ => if clRoot c.gy = r then c.dst.count else 0

/-- Every rank's contribution is wholly there. -/
def allThere (c : Cmd) : Bool :=
  (upto (clN c.gx)).all (fun r => c.contribs.any (fun x => x.crank = r) && decide (wantOf c r ≤ (ofRank c.contribs r).length))

/-- Elementwise combination of two rows of values. -/
def zipCombine (op : CollFn) (fmt : Nat) (a b : List Nat) : List Nat := (a.zip b).map (fun p => combine op fmt p.1 p.2)

/-- tree_value of R172 over own values: fuel bounds the depth. -/
def treeValue (op : CollFn) (fmt n : Nat) (own : Nat → List Nat) : Nat → Nat → List Nat
  | 0, r => own r
  | fuel + 1, r =>
    let kids := (upto 16).filterMap (fun j => if 16 * r + 1 + j < n then some (treeValue op fmt n own fuel (16 * r + 1 + j)) else none)
    match kids with
    | [] => own r
    | v :: vs => zipCombine op fmt (vs.foldl (fun a b => zipCombine op fmt a b) v) (own r)

/-- The destination elements of a collective whose contributions are all there (R360). -/
def collResult (c : Cmd) (cs : List Contribution) : List Nat :=
  let n := clN c.gx
  let e := c.dst.count
  let red := treeValue (collFn c.word) c.dst.fmt n (ofRank cs) 4 0
  match c.word with
  | .ard _ => red
  | .rsc _ => (red.drop (clRank c.gx * e)).take e
  | .agt _ => (upto n).flatMap (ofRank cs)
  | _ => ofRank cs (clRoot c.gy)

/-- A command with the same key on the isle has not completed (R361). -/
def sameKeyBefore (i : Inst) (c : Cmd) : Bool :=
  i.cmds.any (fun b => decide (b.id < c.id) && !b.isDone && b.isColl && clTree b.gx = clTree c.gx && clTag b.gy = clTag c.gy)

/-- Judges the contributions of a started collective: it fails, or waits for the rest. -/
def collJudge (k id : Nat) (s : State) : State :=
  match s.inst k with
  | none => s
  | some i => match i.cmds.find? (fun c => c.id = id), s.launch i.launch with
    | some c, some l =>
      let own := ownContribution c []
      if !treeServes s k own.tree l.part.tenant then sweep (failColl k id 3 s)
      else match collFault own c.contribs with
        | some d => sweep (failColl k id d s)
        | none =>
          let root := match c.word with
            | .bct _ => true
            | _ => false
          if root && c.contribs.any (fun x => x.crank = clRoot c.gy && x.data.isEmpty) then sweep (failColl k id 1 s) else s
    | _, _ => s

/-- A collective starts: its source is read, its contribution sent, held ones are taken (R361, R362). -/
def collStart (k : Nat) (i : Inst) (c : Cmd) (s : State) : State :=
  if sameKeyBefore i c || !mayRun s i c then s
  else
    let reads : Bool := match c.word with
      | .bct _ => clRoot c.gy = clRank c.gx
      | _ => true
    let t := c.srcD
    let v : Eng := ⟨k, i, c⟩
    match (if reads then readRows v ⟨ecCL, false, (collSrc c.word).toNat, 0⟩ t t.rows 0 s else some ([], s)) with
    | none => s
    | some (rows, s) =>
      let own := ownContribution c rows.flatten
      let mine (h : Nat × Contribution) : Bool := h.1 = k && h.2.tree = own.tree && h.2.tag = own.tag
      let held := (s.heldColl.filter mine).map (fun h => h.2)
      let s := { s with heldColl := s.heldColl.filter (fun h => !mine h) }
      let s := s.updInst k (fun i => i.updCmd c.id (fun c => { c with phase := .gathering, contribs := own :: held }))
      collJudge k c.id (sendContrib v own s)

/-- A contribution that reaches isle k is combined with a started command of its key, else held (R361, R362). -/
def contribute (k : Nat) (c : Contribution) (s : State) : State :=
  let mine (b : Cmd) : Bool := b.isColl && b.phase = .gathering && clTree b.gx = c.tree && clTag b.gy = c.tag
  match s.inst k with
  | none => { s with heldColl := s.heldColl ++ [(k, c)] }
  | some i => match i.cmds.find? mine with
    | none => { s with heldColl := s.heldColl ++ [(k, c)] }
    | some b => collJudge k b.id (s.updInst k (fun i => i.updCmd b.id (fun b => { b with contribs := b.contribs ++ [c] })))

/-- COLLECTIVE_CONTRIBUTION (R361, R362). -/
def execCollectiveContribution (isle : Nat) (c : Contribution) (s : State) : Host.Outcome State Fault Refusal := .next (contribute isle c s)

/-- Rows r to r + n - 1 of a collective's destination. -/
def collRows (v : Eng) (xs : List Nat) : Nat → Nat → State → Option State
  | 0, _, s => some s
  | n + 1, r, s =>
    let d := v.c.dst
    match writeRow v d r ((xs.drop (r * d.dim 0)).take (d.dim 0)) s with
    | none => none
    | some s => collRows v xs n (r + 1) s

/-- A collective with every contribution writes its destination; it completes once its own contribution is acknowledged (R360, R362). -/
def collDone (k : Nat) (i : Inst) (c : Cmd) (s : State) : State :=
  if c.phase ≠ .gathering ∨ !allThere c ∨ !mayRun s i c then s
  else match collRows ⟨k, i, c⟩ (collResult c c.contribs) c.dst.rows 0 s with
    | none => s
    | some s => endCmd k c.id s

/-! ## Multicast (R171) -/

/-- MULTICAST_FORWARD (R171): refused without a valid entry of its tenant; else forwarded to every CHILD, and delivered to ISLE where
LOCAL is set. -/
def execMulticastForward (tree tenant : Nat) (c : Contribution) (s : State) : Host.Outcome State Fault Refusal :=
  let t := s.tree tree
  if !treeValid t || treeTenant t ≠ tenant then .next (s.send (.response 0 (.refused 4) 0))
  else
    let s := (upto 128).foldl (fun s p => if treeChild t p then s.send (.multicast p tree tenant c) else s) s
    .next (if treeLocal t then contribute (treeIsle t) c s else s)

/-! ## Rotation (R173, R365) -/

/-- Size of a cask and its first byte (R364). -/
def Cmd.cask (c : Cmd) : Nat × Nat :=
  let (lo, hi) := spanNat (c.desc 0)
  (lo, hi - lo + 1)

def updRing (k id : Nat) (f : Ring → Ring) (s : State) : State :=
  s.updInst k (fun i => i.updCmd id (fun c => { c with ring := f c.ring }))

/-- Where the cask of step j stands (R365). -/
def Cmd.caskBase (c : Cmd) (j : Nat) : Nat :=
  let (lo, z) := c.cask
  if j = 0 then lo else rotaRbase c.block + (j - 1) % rotaRacks c.block * z

/-- The tensor field of a ROTA. -/
def rotaTs : Instr → BitVec 6
  | .rota o => o.ts
  | _ => 0

/-- Poisoned elements of a cask that is sent or copied, in ECC_LOG as elements of TA (R381). -/
def logCask (k : Nat) (i : Inst) (c : Cmd) (base : Nat) (s : State) : State :=
  let t := c.desc 0
  let moved : Desc := { t with base := base }
  (upto t.rows).foldl (fun s r => (moved.units r).foldl (fun s u =>
    if spadPoisoned i u.a.toNat u.n then s.updInst k (eccEvent ⟨ecCL, false, (rotaTs c.word).toNat, 0⟩ 1 u.row u.col) else s) s) s

/-- Racks whose token can be returned: consumed, and sent on where step 5 of R173 applies. A send counts once it is acknowledged, for
until then it may be resumed from its rack (R366; log 62). -/
def releasable (n : Nat) (r : Ring) : Nat := Nat.min (r.consumed - 1) (if n - 1 ≤ r.acked then n - 1 else r.acked - 1)

/-- The flow of a ring circuit (R365). -/
def Cmd.ringFlow (k : Nat) (c : Cmd) : Flow := ⟨k, rotaDown c.block, k, rotaLabel c.block⟩

/-- The probe of a ring circuit leaves: none where it finds no way on this device, and none to the isle itself (R161, R351, R365). It
asks for a first byte of the downstream's scratchpad, whose racks are not known here. -/
def ringProbe (k : Nat) (c : Cmd) (l : Launch) (pre : Bool) (s : State) : Option State :=
  let self := selfOf l.part
  let f := c.ringFlow k
  let p : Prober := ⟨.ring k, l.eff.prio, pre⟩
  if self = some f.peer then none
  else match probeWay s self p f with
    | none => none
    | some (w, q) =>
      some ((takeWay p w s).send (.probe ⟨self.getD 0, l.part.tenant, genOf s l.part f.peer, f, .ring, l.eff.prio, pre, some (0, 1), w.backs,
        q.getD 0⟩))

/-- The first probe of a ring circuit leaves with the first send: the downstream's token shows that its rotation has begun (R370, R371;
log 22). -/
def askRing (k : Nat) (c : Cmd) (i : Inst) (s : State) : State :=
  let s := updRing k c.id (fun r => { r with asked := true, tried := s.time }) s
  ((s.launch i.launch).bind (fun l => ringProbe k c l c.ring.pre s)).getD s

/-- The next send of a rotation, once its circuit stands and it holds the rack's token (R365). -/
def rotaSend (k : Nat) (c : Cmd) (i : Inst) (s : State) : State :=
  let n := rotaN c.block
  let r := c.ring
  let j := r.sent
  let (_, z) := c.cask
  if decide (j + 1 < n) && decide (0 < r.tokens) && decide (j ≤ r.received) then
    if r.up then
      let base := c.caskBase j
      let s := logCask k i c base s
      let s := s.send (.cask k (rotaDown c.block) (rotaLabel c.block) z n 0 (streamBytes i base z))
      updRing k c.id (fun r => { r with sent := r.sent + 1, tokens := r.tokens - 1 }) s
    else if r.asked then s
    else askRing k c i s
  else s

/-- The self number of the instance on isle k. -/
def selfOn (s : State) (k : Nat) : Option Nat :=
  match s.inst k with
  | some i => selfPeer s i
  | none => none

/-- Returns m rack tokens upstream, with this device's number (R370). -/
def returnTokens (k : Nat) (c : Cmd) (m : Nat) (s : State) : State :=
  (upto m).foldl (fun s _ => s.send (.rackToken k ((selfOn s k).getD 0) (rotaUp c.block) (rotaLabel c.block))) s

def rotaReturn (k : Nat) (c : Cmd) (s : State) : State :=
  let n := rotaN c.block
  let m := releasable n c.ring
  updRing k c.id (fun r => { r with returned := Nat.max r.returned m }) (returnTokens k c (m - c.ring.returned) s)

/-- The circuit of a rotation that completes is torn down (R161, R365). -/
def endRing (k : Nat) (c : Cmd) (s : State) : State := dropXpts (.ring k) (if c.ring.up then s.send (.teardown (.ring k)) else s)

/-- Sends and returns what a rotation can, and completes it when every step is consumed and every send acknowledged. -/
def rotaPump : Nat → Nat → Nat → State → State
  | 0, _, _, s => s
  | fuel + 1, k, id, s =>
    match s.inst k with
    | none => s
    | some i => match i.cmds.find? (fun c => c.id = id && c.phase = .rotating) with
      | none => s
      | some c =>
        let n := rotaN c.block
        if c.ring.consumed = n ∧ n ≤ c.ring.acked + 1 then
          sweep (endRing k c ((rotaReturn k c s).updInst k (fun i => (i.endRota c).finish id)))
        else
          let s' := rotaReturn k c (rotaSend k c i s)
          if s'.out.length = s.out.length then s' else rotaPump fuel k id s'

/-- Enough for every send and return of one event. -/
def pumpFuel : Nat := 32

/-- Tokens held for the rotation that starts (R370). -/
def heldTokens (s : State) (k : Nat) (c : Cmd) : Nat :=
  (s.heldTok.filter (fun t => t = (k, rotaDown c.block, rotaLabel c.block))).length

/-- A ROTA starts (R365, R370): R free tokens go upstream, and held tokens count. -/
def rotaStart (k : Nat) (i : Inst) (c : Cmd) (s : State) : State :=
  if !mayRun s i c then s
  else
    let b := c.block
    let n := rotaN b
    let held := heldTokens s k c
    let s := { s with heldTok := s.heldTok.filter (fun t => t ≠ (k, rotaDown b, rotaLabel b)) }
    match s.launch i.launch with
    | none => s
    | some l =>
      let s := s.updInst k (fun i => i.updCmd c.id (fun c => { c with
        phase := .rotating, ring := { Ring.start with tokens := held, pre := l.eff.preemptible, tried := s.time } }))
      rotaPump pumpFuel k c.id (if n ≤ 1 then s else returnTokens k c (rotaRacks b) s)

/-- The started rotation of isle k that p selects. -/
def rotating (s : State) (k : Nat) (p : Cmd → Bool) : Option (Inst × Cmd) :=
  match s.inst k with
  | none => none
  | some i => (i.cmds.find? (fun c => c.isRota && c.phase = .rotating && p c)).map (fun c => (i, c))

/-- The copy step of a plain ROTA (R365). -/
def rotaCopy (v : Eng) (j : Nat) (s : State) : Option State :=
  let b := v.c.block
  let n := rotaN b
  let (_, z) := v.c.cask
  let base := v.c.caskBase j
  let from_ := (rotaRank b + n - j) % n
  writeBytes v spSPAD (rotaGbase b + from_ * z : Nat) (streamBytes v.i base z) (logCask v.k v.i v.c base s)

/-- The attention step of a ROTA.ATT (R342, R365). -/
def rotaAtt (v : Eng) (o : RotaOp) (j : Nat) (s : State) : Option State :=
  let b := v.c.block
  let base := v.c.caskBase j
  let q := rotaQ b
  let kt : Desc := { rotaK b with base := (rotaK b).base + base }
  let vt : Desc := { rotaV b with base := (rotaV b).base + base }
  let nm (n : Nat) : EccName := ⟨ecAT, false, o.ts.toNat, n⟩
  match attRead v (nm 1) (nm 2) (nm 3) q kt vt s with
  | none => none
  | some (qs, ks, vs, s) =>
    let x : AttIn := ⟨q, kt, vt, qs, ks, vs, rotaScale b, j = 0, j + 1 = rotaN b⟩
    some (attApply v x o.acco.toNat o.accs.toNat s)

/-- CASK_CONSUMED (R173, R365): the next step's cask is consumed by the sequencer or the copy. -/
def execCaskConsumed (isle : Nat) (s : State) : Host.Outcome State Fault Refusal :=
  match rotating s isle (fun _ => true) with
  | none => .next s
  | some (i, c) =>
    let j := c.ring.consumed
    if rotaN c.block ≤ j ∨ c.ring.received < j then .next s
    else
      let v : Eng := ⟨isle, i, c⟩
      let t := match c.word with
        | .rota o => if o.att then rotaAtt v o j s else rotaCopy v j s
        | _ => none
      match t with
      | none => .next s
      | some t => .next (rotaPump pumpFuel isle c.id (updRing isle c.id (fun r => { r with consumed := r.consumed + 1 }) t))

/-- CASK_ARRIVAL (R365, R366): a cask is wholly written into its rack, and its upstream's send is acknowledged; a size or N that differs
fails the rotation. -/
def execCaskArrival (isle size n : Nat) (data : List Byte) (s : State) : Host.Outcome State Fault Refusal :=
  match rotating s isle (fun _ => true) with
  | none => .next s
  | some (i, c) =>
    let (_, z) := c.cask
    if size ≠ z ∨ n ≠ rotaN c.block ∨ data.length ≠ z ∨ rotaN c.block ≤ c.ring.received + 1 then .next (sweep (failRota isle c.id 3 s))
    else
      let m := c.ring.received + 1
      match writeBytes ⟨isle, i, c⟩ spSPAD (c.caskBase m : Nat) data s with
      | none => .next s
      | some s =>
        let s := s.send (.token (rotaUp c.block) ⟨isle, rotaUp c.block, isle, rotaLabel c.block⟩ .ring (m * z))
        .next (rotaPump pumpFuel isle c.id (updRing isle c.id (fun r => { r with received := m }) s))

/-- A rotation with this DOWN and LABEL has ended on isle k, for the instance there or the last one (R370). -/
def endedHere (s : State) (k down label : Nat) : Bool :=
  s.rotaEnded.any (fun r => r.1 = k && r.2.1 = down && r.2.2.2 = label) ||
    (match s.inst k with
      | some i => i.rotaDone.any (fun r => r.1 = down && r.2.2 = label)
      | none => false)

/-- RACK_TOKEN_ARRIVAL (R370): counted for a started rotation of that DOWN and LABEL, discarded after its end, else held. -/
def execRackTokenArrival (isle fromPeer label : Nat) (s : State) : Host.Outcome State Fault Refusal :=
  let mine (c : Cmd) : Bool := c.isRota && rotaDown c.block = fromPeer && rotaLabel c.block = label
  let waits : Bool := match s.inst isle with
    | some i => i.cmds.any (fun c => mine c && !c.isDone)
    | none => false
  match rotating s isle mine with
  | some (_, c) => .next (rotaPump pumpFuel isle c.id (updRing isle c.id (fun r => { r with tokens := r.tokens + 1 }) s))
  | none =>
    if endedHere s isle fromPeer label && !waits then .next s
    else .next { s with heldTok := s.heldTok ++ [(isle, fromPeer, label)] }

/-- A ring circuit breaks: it is reopened by probes, or refused by its target (R366). -/
def breakRing (k : Nat) (cause : BitVec 4) (s : State) : State :=
  match rotating s k (fun c => decide (1 < rotaN c.block)) with
  | none => s
  | some (_, c) =>
    if cause = caTARGET then sweep (failRota k c.id 2 s)
    else dropXpts (.ring k) (updRing k c.id (fun r => { r with up := false, probes := 0, tried := s.time }) s)

/-- The bytes of the casks sent that were not acknowledged, from the acknowledged offset on, each cask from where it stands (R366). -/
def resumeCasks (k : Nat) (i : Inst) (c : Cmd) (s : State) : State :=
  let (_, z) := c.cask
  (upto (c.ring.sent - c.ring.acked)).foldl (fun s n =>
    let j := c.ring.acked + n
    let o := if n = 0 then c.ring.ackOff - j * z else 0
    s.send (.cask k (rotaDown c.block) (rotaLabel c.block) z (rotaN c.block) o (streamBytes i (c.caskBase j + o) (z - o)))) s

/-- The ring circuit of command c stands, at first or again: its casks go on (R365, R366). -/
def ringOpens (k : Nat) (i : Inst) (c : Cmd) (s : State) : State :=
  rotaPump pumpFuel k c.id (updRing k c.id (fun r => { r with up := true, probes := 0 }) (resumeCasks k i c s))

/-- A reopening probe has failed: after the third the rotation fails (R366). -/
def reopenFails (k : Nat) (c : Cmd) (s : State) : State :=
  if 3 ≤ c.ring.probes + 1 then sweep (failRota k c.id 1 s)
  else dropXpts (.ring k) (updRing k c.id (fun r => { r with probes := r.probes + 1, tried := s.time }) s)

/-- ROTA_REOPEN (R366): 20 µs after the break, or after the probe before, a reopening probe leaves; it opens the circuit or fails. -/
def execRotaReopen (isle : Nat) (opened : Bool) (s : State) : Host.Outcome State Fault Refusal :=
  match rotating s isle (fun c => c.ring.asked && !c.ring.up && decide (c.ring.tried + 20 * usec ≤ s.time)) with
  | none => .next s
  | some (i, c) => match (s.launch i.launch).bind (fun l => ringProbe isle c l c.ring.pre s) with
    | none => .next (reopenFails isle c s)
    | some t => if opened then .next (ringOpens isle i c t) else .next (reopenFails isle c t)

/-- The circuit of a ring that a failure mark closes at this end (R366). -/
def closedByMark (k label : Nat) (x : Xhold) : Bool :=
  match x.circ with
  | .arriving f .ring => f.isle = k && f.label = label
  | _ => false

/-- FAILURE_MARK_ARRIVAL (R366): the mark closes the circuit it comes on, and the rotation fails in turn. -/
def execFailureMarkArrival (isle label : Nat) (s : State) : Host.Outcome State Fault Refusal :=
  let s := { s with xpts := s.xpts.filter (fun x => !closedByMark isle label x) }
  match rotating s isle (fun c => rotaLabel c.block = label) with
  | none => .next s
  | some (_, c) => .next (sweep (failRota isle c.id 5 s))

/-- A token of the ring: bytes of the casks acknowledged so far; a send is acknowledged with its last byte (R365). -/
def ringToken (k off : Nat) (s : State) : State :=
  match rotating s k (fun _ => true) with
  | none => s
  | some (_, c) =>
    let (_, z) := c.cask
    let b := Nat.min (c.ring.sent * z) off
    rotaPump pumpFuel k c.id (updRing k c.id (fun r => { r with acked := Nat.max r.acked (b / z), ackOff := Nat.max r.ackOff b }) s)

/-! ## Start and completion of CL commands -/

def clStart (k : Nat) (i : Inst) (c : Cmd) (s : State) : State :=
  match c.word with
  | .tree _ => treeStart k i c s
  | .rota _ => rotaStart k i c s
  | _ => collStart k i c s

end Sys2Proof.Machine
end

