-- ==== Sys2Proof/Machine/Control.lean ====
section
/-!
DEFINITION. Control flow and queue registers: branches, LOOP, calls, returns, QPEEK, QCNT (R240 to R246): majors 0x14 to 0x18.
-/
namespace Sys2Proof.Machine

/-! ## Branches -/

/-- BR (R240). -/
def execBr (o : BrOp) (s : State) : Host.Outcome State Fault Refusal :=
  runWord (.br o) s (fun e => .jump (branchTarget e.pc o.o) e.s)

/-- The tests of BC (R212, R240). -/
def condHolds (k : Cond) (v : Word) : Bool :=
  match k with
  | .eqz => v = 0
  | .nez => v ≠ 0
  | .ltz => decide (v.toInt < 0)
  | .gez => decide (0 ≤ v.toInt)
  | .gtz => decide (0 < v.toInt)
  | .lez => decide (v.toInt ≤ 0)

/-- BC (R240): not taken, it continues at the next sequential PC. -/
def execBc (o : BcOp) (s : State) : Host.Outcome State Fault Refusal :=
  runWord (.bc o) s (fun e =>
    withSources e [o.a] [] [] (fun v i =>
      let s := e.s.setInst e.k i
      if condHolds o.k (src v 0) then .jump (branchTarget e.pc o.o) s else .go s))

/-- LOOP (R241): A is decremented, and the branch is taken while it is not zero. -/
def execLoop (o : LoopOp) (s : State) : Host.Outcome State Fault Refusal :=
  runWord (.loop o) s (fun e =>
    withSources e [o.a] [o.a] [] (fun v i =>
      let n := src v 0 - 1
      let s := e.s.setInst e.k (writeG e.c e.s.nextId o.a n i)
      if n ≠ 0 then .jump (branchTarget e.pc o.o) s else .go s))

/-! ## Calls, jumps, returns (R242, R243) -/

/-- Depth of the return stack (R242). -/
def stackDepth : Nat := 7

/-- The instance with bits [47:0] of r pushed on the context's return stack (R242). -/
def pushReturn (c : Ctx) (r : Word) (i : Inst) : Inst :=
  i.updCtx c (fun x => { x with stack := BitVec.ofNat 64 (r.toNat % 2 ^ 48) :: x.stack })

/-- CALL (R243): at depth 7 it takes ILLEGAL. -/
def execCall (o : BrOp) (s : State) : Host.Outcome State Fault Refusal :=
  runWord (.call o) s (fun e =>
    if stackDepth ≤ e.x.stack.length then .trap cILLEGAL 4 0
    else
      let r := e.pc + BitVec.ofNat 64 (4 * sizeOf (.call o))
      .jump (branchTarget e.pc o.o) (e.s.setInst e.k (pushReturn e.c r e.i)))

/-- JR and CALLR to t: the traps of R243, else the jump. -/
def jumpTo (t : Word) (s : State) : Verdict :=
  if t.toNat / 2 ^ 48 ≠ 0 then .trap cSEGV dNOSEG t
  else if t.toNat % 4 ≠ 0 then .trap cALIGN 0 t
  else .jump t s

/-- JR (R243). -/
def execJr (o : ROp) (s : State) : Host.Outcome State Fault Refusal :=
  runWord (.jr o) s (fun e => withSources e [o.a] [] [] (fun v i => jumpTo (src v 0) (e.s.setInst e.k i)))

/-- CALLR (R243): at depth 7 it takes ILLEGAL. -/
def execCallr (o : ROp) (s : State) : Host.Outcome State Fault Refusal :=
  runWord (.callr o) s (fun e =>
    if stackDepth ≤ e.x.stack.length then .trap cILLEGAL 4 0
    else withSources e [o.a] [] [] (fun v i => jumpTo (src v 0) (e.s.setInst e.k (pushReturn e.c (e.pc + 4) i))))

/-- RET (R243): at depth 0 it takes ILLEGAL. -/
def execRet (o : TagOp) (s : State) : Host.Outcome State Fault Refusal :=
  runWord (.ret o) s (fun e =>
    match e.x.stack with
    | [] => .trap cILLEGAL 4 0
    | t :: rest => .jump t (e.s.setInst e.k (e.i.updCtx e.c (fun x => { x with stack := rest }))))

/-! ## Queue registers (R245, R246) -/

/-- QPEEK (R245): the head entry, not popped. -/
def execQpeek (o : QOp) (s : State) : Host.Outcome State Fault Refusal :=
  runWord (.qpeek o) s (fun e =>
    withSources e [] [o.d] [] (fun _ i =>
      match (i.fifo o.q.toNat).ents with
      | [] => .block (.queue o.q.toNat)
      | h :: _ => match h.data with
        | none => .block .interlock
        | some v => finishG e o.d (.pure v) i))

/-- The word QCNT writes (R246). -/
def queueCount (q : Fifo) : Word :=
  let ready := match q.ents with
    | [] => false
    | h :: _ => h.data.isSome
  BitVec.ofNat 64 (b2n ready * 8 + q.ents.length)

/-- QCNT (R246). -/
def execQcnt (o : QOp) (s : State) : Host.Outcome State Fault Refusal :=
  runWord (.qcnt o) s (fun e => withSources e [] [o.d] [] (fun _ i => finishG e o.d (.pure (queueCount (i.fifo o.q.toNat))) i))

end Sys2Proof.Machine
end

