-- ==== Sys2Proof/Machine/Tide.lean ====
section
/-!
DEFINITION. Turns of the die-to-die links (R148 to R151, R357).
-/
namespace Sys2Proof.Machine

/-- Bundles of a link (R148). -/
def bundles (l : Nat) : Nat := if l < 8 then 24 else 16

/-- A wanted count that leaves at least two bundles each way (R150, R357). -/
def clampSplit (l c : Nat) : Nat := if c < 2 then 2 else if bundles l - 2 < c then bundles l - 2 else c

/-- Spans of time of R149 and R150 in ticks. -/
def holdDown : Nat := 5 * usec
def turnWindow : Nat := 20 * usec
def deadTime : Nat := usec / 25
def tideLife : Nat := 100 * usec

/-- A request of this region pending at the link completes SUPERSEDED (R150). -/
def supersede (l region : Nat) (s : State) : State :=
  let x := s.link l
  let old := x.pending.filter (fun r => r.region = region)
  let s := s.setLink l { x with pending := x.pending.filter (fun r => r.region ≠ region) }
  old.foldl (fun s r => finishTide l tsSUPERSEDED r s) s

/-- Pending requests whose split the link has complete GRANTED (R150). -/
def grantReached (l : Nat) (s : State) : State :=
  let x := s.link l
  let met := x.pending.filter (fun r => r.wanted = x.split)
  let s := s.setLink l { x with pending := x.pending.filter (fun r => r.wanted ≠ x.split) }
  met.foldl (fun s r => finishTide l tsGRANTED r s) s

/-- A TIDE leaves its queue and enters its request at the link (R150). -/
def tideStart (k : Nat) (c : Cmd) (o : TideOp) (s : State) : State :=
  match s.inst k with
  | none => s
  | some i => match s.launch i.launch with
    | none => finishCmd k c.id s
    | some la =>
      let l := linkIndex k o.link.toNat
      let r : TideReq := ⟨k, i.uid, c.id, la.chain.headD 0, clampSplit l (field c.gx.toNat 0 5), la.eff.prio, s.time⟩
      let s := supersede l r.region (runPhase k c.id .pending s)
      let x := s.link l
      sweep (grantReached l (s.setLink l { x with pending := x.pending ++ [r] }))

/-- A turn may start: hold-down, and fewer than four turns in the window (R150). -/
def turnAllowed (x : Link) (now : Nat) : Bool :=
  x.turning.isNone && (match x.lastEnd with
    | none => true
    | some t => decide (t + holdDown ≤ now)) &&
    decide ((x.starts.filter (fun t => decide (now < t + turnWindow))).length < 4)

/-- The request of the highest PRIO, the earliest-entered among equals (R150). -/
def bestTide : List TideReq → Option TideReq
  | [] => none
  | r :: rs => match bestTide rs with
    | none => some r
    | some q => if q.prio ≤ r.prio then some r else some q

/-- TURN_START (R149, R150). -/
def execTurnStart (link : Nat) (s : State) : Host.Outcome State Fault Refusal :=
  let x := s.link link
  match bestTide x.pending with
  | none => .next s
  | some r =>
    if !turnAllowed x s.time then .next s
    else .next ((s.setLink link { x with
      pending := x.pending.filter (fun q => q ≠ r)
      turning := some (r, r.wanted, s.time + deadTime)
      starts := (x.starts.filter (fun t => decide (s.time < t + turnWindow))) ++ [s.time] }).count (blkLink link) (idxTURNS (decide (r.wanted < x.split))))

/-- TURN_END (R149, R150): no earlier than the dead time; the split is set and pending requests are judged again. -/
def execTurnEnd (link : Nat) (s : State) : Host.Outcome State Fault Refusal :=
  let x := s.link link
  match x.turning with
  | none => .next s
  | some (r, split, t) =>
    if s.time < t then .next s
    else
      let s := s.setLink link { x with split := split, turning := none, lastEnd := some s.time }
      .next (sweep (grantReached link (finishTide link tsGRANTED r s)))

/-- TIDE_EXPIRED (R150): a region's request has been pending for 100 µs. -/
def execTideExpired (link region : Nat) (s : State) : Host.Outcome State Fault Refusal :=
  let x := s.link link
  let late (r : TideReq) : Bool := r.region = region && decide (r.entered + tideLife ≤ s.time)
  let old := x.pending.filter late
  let s := s.setLink link { x with pending := x.pending.filter (fun r => !late r) }
  .next (sweep (old.foldl (fun s r => finishTide link tsEXPIRED r s) s))

end Sys2Proof.Machine
end

