-- ==== Sys2Proof/Machine/EngineEvents.lean ====
section
/-!
DEFINITION. Engine commands start and complete (R327, R328, R332, R348): the two events that drive the six engine queues.
-/
namespace Sys2Proof.Machine

/-- An MX, CP or AT command starts (R327); MXM.RB takes the latched operand that is valid for its B now (R336). -/
def startDataCmd (k : Nat) (c : Cmd) (s : State) : State :=
  let latched (i : Inst) : Option Latch := match c.word, i.latch with
    | .mxmRb _, some l => if l.desc = c.ds.getD 1 0 then some l else none
    | _, _ => none
  s.updInst k (fun i => i.updCmd c.id (fun c => { c with phase := .running, latched := latched i }))

/-- A TD command starts: its request enters the link (R150). -/
def startTide (k : Nat) (c : Cmd) (s : State) : State :=
  match c.word with
  | .tide o => tideStart k c o s
  | _ => s

/-- The next command of engine e of the instance on isle k starts. -/
def startCmd (e : Engine) (k : Nat) (i : Inst) (c : Cmd) (s : State) : State :=
  match e with
  | .mx => startDataCmd k c s
  | .cp => startDataCmd k c s
  | .at => startDataCmd k c s
  | .td => startTide k c s
  | .ci => ciStart k i c s
  | .cl => clStart k i c s

/-- ENGINE_COMMAND_START (R327): engines start their commands in queue order, not while the isle is frozen or being saved. -/
def execEngineCommandStart (isle : Nat) (engine : Engine) (cmd : Nat) (s : State) : Host.Outcome State Fault Refusal :=
  match s.inst isle with
  | none => .next s
  | some i => match i.cmds.find? (fun c => c.id = cmd) with
    | none => .next s
    | some c => if frontEnd i && nextOf i engine c then .next (startCmd engine isle i c s) else .next s

/-- A started command of engine e goes on: its accesses, or one row of them; one whose work is done ends once they are answered. -/
def completeCmd (e : Engine) (k : Nat) (i : Inst) (c : Cmd) (row : Option Nat) (ext : List (Nat × Answer)) (s : State) : State :=
  if c.phase = .writing then endCmd k c.id s
  else match e with
  | .mx => if c.phase = .running then runCmd k i c row s else s
  | .cp => if c.phase = .running then runCmd k i c row s else s
  | .at => if c.phase = .running then runCmd k i c row s else s
  | .td => s
  | .ci => ciDone k i c ext s
  | .cl => if c.phase = .gathering then collDone k i c s else s

/-- ENGINE_COMMAND_COMPLETE (R328): the accesses of a started command are performed, and the command is counted in queue order. -/
def execEngineCommandComplete (isle : Nat) (engine : Engine) (cmd : Nat) (row : Option Nat) (ext : List (Nat × Answer))
    (s : State) : Host.Outcome State Fault Refusal :=
  match s.inst isle with
  | none => .next s
  | some i => match i.cmds.find? (fun c => c.id = cmd) with
    | none => .next s
    | some c =>
      if c.isOf engine && c.phase ≠ .queued && !c.isDone then .next (completeCmd engine isle i c row ext s) else .next s

end Sys2Proof.Machine
end

