-- ==== Sys2Proof/Machine/Ingress.lean ====
section
/-!
DEFINITION. The ingress window table and arriving requests (R140, R141), and how a request is performed on this device's memories
(R107, R108, R122, R386, R387). Writes of other agents are performed at the home and are visible to every die at once.
-/
namespace Sys2Proof.Machine

/-! ## The checks of R141 -/

/-- Bytes that a request covers. -/
def reqSize : ReqKind → Nat
  | .load n => n
  | .store d => d.length
  | .amo _ _ n _ => n
  | .cas _ _ n => n
  | .flush => 1

def reqLoads : ReqKind → Bool
  | .load _ => true
  | .flush => true
  | _ => false

/-- The permissions a request needs (R141): R, W, A; a CFLUSH needs R, as a program's does (R301). -/
def reqNeeds : ReqKind → Bool × Bool × Bool
  | .load _ => (true, false, false)
  | .flush => (true, false, false)
  | .store _ => (false, true, false)
  | .amo _ _ _ ret => (ret, true, true)
  | .cas _ _ _ => (true, true, true)

def IngressEntry.grants (e : IngressEntry) (n : Bool × Bool × Bool) : Bool :=
  (!n.1 || e.r) && (!n.2.1 || e.w) && (!n.2.2 || e.a)

/-- Every byte of the request lies in an open window of its source and tenant (step 1). -/
def IngressEntry.matchesReq (e : IngressEntry) (src tenant addr n : Nat) : Bool :=
  e.opened && e.src = src && e.tenant = tenant && decide (e.lbase ≤ addr) && decide (addr + n ≤ e.lbase + 2 ^ e.logsz)

/-- Step 4: every byte is mapped and in service for this kind of request (R25). -/
def inService (s : State) (addr n : Nat) (kind : ReqKind) : Bool :=
  match localTgt addr with
  | .dram _ => decide (addr + n ≤ wsBase)
  | .ws _ => decide (addr + n ≤ spadBase) && !(upto n).any (fun k => wsOut s (addr + k)) && (match kind with
    | .amo .. => false
    | .cas .. => false
    | _ => true)
  | .spad k o => (match runningOn s k with
    | some i => decide (o + n ≤ i.spadBytes)
    | none => false)
  | _ => false

/-- What the ingress decides: the entry's steps 1 to 4, the failing one where a step fails. -/
def ingressStep (s : State) (src tenant gen addr n : Nat) (needs : Bool × Bool × Bool) (service : Bool) : Option (BitVec 4) :=
  match s.ingress.find? (fun p => p.2.matchesReq src tenant addr n) with
  | none => some 1
  | some (_, e) =>
    if e.gen ≠ gen then some 2 else if !e.grants needs then some 3 else if !service then some 4 else none

/-- The failing step of an arriving request (R141). -/
def judgeIngress (s : State) (r : IngressReq) : Option (BitVec 4) :=
  ingressStep s r.src r.tenant r.gen r.addr (reqSize r.kind) (reqNeeds r.kind) (inService s r.addr (reqSize r.kind) r.kind)

/-! ## Performing a request of another agent -/

/-- The DRAM or weight-store bytes that n bytes from a local address on name, each by the map of R105. -/
def reqBytes (addr n : Nat) : List Nat := (upto n).map (fun k => normPa (addr + k))

/-- The answer, its value and the state after a request performed on the DRAM or weight-store bytes as (R386, R387). -/
def cellRequest (as : List Nat) (kind : ReqKind) (s : State) : Answer × Nat × State :=
  let bad := as.any (fun a => memPoison s a 1)
  let old := leNat (as.map (homeByte s))
  let put (v : Nat) : State := writeHome (as.zip (leBytes as.length v)) s
  match kind with
  | .load _ => if bad then (.poison, 0, s) else (.ok old, old, s)
  | .store d => (.ok 0, 0, writeHome (as.zip d) s)
  | .amo fn x n ret =>
    if bad then (.poison, 0, s) else (.ok (if ret then old else 0), if ret then old else 0, put (amoOp fn old x n))
  | .cas cmp new n => if bad then (.poison, 0, s) else (.ok old, old, if old = maskTo n cmp then put new else s)
  | .flush => (.ok 0, 0, as.foldl (fun s a => if a < wsBase then flushLine a s else s) s)

/-- The same on the scratchpad of the instance running on isle k. -/
def padRequest (k o : Nat) (kind : ReqKind) (s : State) : Answer × Nat × State :=
  match runningOn s k with
  | none => (.refused 4, 0, s)
  | some i =>
    if i.spadBytes < o + reqSize kind then (.refused 4, 0, s)
    else
      let n := reqSize kind
      let old := leNat (spadBytesAt i o n)
      let put (v : Nat) : State := s.updInst k (putSpad (cellsOf o n v))
      match kind with
      | .flush => (.ok 0, 0, s)
      | .store d => (.ok 0, 0, s.updInst k (putSpad (cellsAt o d)))
      | .load _ => if spadPoisoned i o n then (.poison, 0, s) else (.ok old, old, s)
      | .amo fn x n ret =>
        if spadPoisoned i o n then (.poison, 0, s) else (.ok (if ret then old else 0), if ret then old else 0, put (amoOp fn old x n))
      | .cas cmp new n =>
        if spadPoisoned i o n then (.poison, 0, s) else (.ok old, old, if old = maskTo n cmp then put new else s)

/-- Performs a request at a local address with no check of the ingress. -/
def performRequest (addr : Nat) (kind : ReqKind) (s : State) : Answer × Nat × State :=
  match localTgt addr with
  | .dram _ => cellRequest (reqBytes addr (reqSize kind)) kind s
  | .ws _ => cellRequest (reqBytes addr (reqSize kind)) kind s
  | .spad k o => padRequest k o kind s
  | _ => (.refused 4, 0, s)

/-- The source number that stands for the host on the host link; peers have numbers below 4,096 (R110). -/
def hostSrc : Nat := 4096

/-- Sends an answer back to the source of a request: a peer, or the host; the device's own writes wait for none. -/
def reply (src : Nat) (a : Answer) (value : Nat) (s : State) : State :=
  if src = ownSrc then s else if src = hostSrc then s.send (.hostResponse a value) else s.send (.response src a value)

/-- Writes of the host are posted: they have no completion. -/
def isPosted : ReqKind → Bool
  | .store _ => true
  | _ => false

/-- Performs a request and answers its source. -/
def answerRequest (r : IngressReq) (s : State) : State :=
  let x := performRequest r.addr r.kind s
  if r.src = hostSrc && isPosted r.kind then x.2.2 else reply r.src x.1 x.2.1 x.2.2

/-! ## Arrival (R141, R144, R145, R388) -/

/-- The granules of this device that a request touches. -/
def reqGranules (r : IngressReq) : List Nat :=
  match localTgt r.addr with
  | .dram _ => ((reqBytes r.addr (reqSize r.kind)).map (fun a => a / 2 ^ 21)).eraseDups
  | _ => []

/-- A V-die that is in reset holds the home of a byte of the request. -/
def reqDown (s : State) (r : IngressReq) : Bool :=
  match localTgt r.addr with
  | .dram _ => (reqBytes r.addr (reqSize r.kind)).any (fun a => dieIsDown s (homeDie a))
  | .ws a => dieIsDown s (homeDie a) || dieIsDown s (homeDie (a + reqSize r.kind - 1))
  | .spad k _ => dieIsDown s (dieOfIsle k)
  | _ => false

/-- The device's own writes and those of the host link are never negatively acknowledged: R145 names no retry for them (log 66). -/
def neverNacked (src : Nat) : Bool := src = ownSrc || src = hostSrc

/-- The flow of a request, as its granule remembers it (R145). -/
def reqKey (r : IngressReq) : Nat × Nat := (r.src, r.label)

/-- A store or atomic meets a moving granule, or one that has turned its flow away: it is held, up to 64, or negatively acknowledged
(R145). -/
def holdRequest (g : Nat) (r : IngressReq) (s : State) : State :=
  let x := granuleOf s g
  if neverNacked r.src || (!x.turnsAway (reqKey r) (.inr r) && decide (x.held.length < 64)) then
    s.setGranule g { x.accept (.inr r) with held := x.held ++ [.inr r] }
  else reply r.src .nack 0 (s.setGranule g (x.refuse (reqKey r) (.inr r)))

/-- A request goes on to the holder of its granule (R144). -/
def forwardRequest (holder : Nat) (r : IngressReq) (s : State) : State :=
  s.send (.forward holder r)

/-- A checked request meets the placement of granule g. -/
def placeAt (g : Nat) (r : IngressReq) (s : State) : State :=
  let x := granuleOf s g
  if reqLoads r.kind then
    match x.readsOut, x.holder with
    | true, some h => forwardRequest h r s
    | _, _ => answerRequest r s
  else if x.place = .moving then holdRequest g r s
  else if x.turnsAway (reqKey r) (.inr r) && !neverNacked r.src then reply r.src .nack 0 s
  else
    let s := s.setGranule g (x.accept (.inr r))
    match x.place, x.holder with
    | .lent, some h => forwardRequest h r s
    | _, _ => answerRequest r s

/-- A request of the spread view cut where a granule may end: at every 4 KiB (R105). -/
def cutReq (r : IngressReq) : List IngressReq :=
  let n := reqSize r.kind
  (piecesOf 4096 (n / 4096 + 2) r.addr n).map (fun p => match r.kind with
    | .load _ => { r with addr := p.1, kind := .load p.2 }
    | .store d => { r with addr := p.1, kind := .store ((d.drop (p.1 - r.addr)).take p.2) }
    | _ => r)

/-- A checked request meets its granules, or is performed. One that touches several granules, one of them not plainly at home, is placed
in pieces (log 65). -/
def placeRequest (r : IngressReq) (s : State) : State :=
  match reqGranules r with
  | [] => answerRequest r s
  | [g] => placeAt g r s
  | gs =>
    if gs.all (fun g => granuleOf s g = .atHome) then answerRequest r s
    else (cutReq r).foldl (fun s q => match reqGranules q with
      | g :: _ => placeAt g q s
      | [] => s) s

/-- A checked request goes on: held while the die of its home is in reset (R388). -/
def arriveRequest (r : IngressReq) (s : State) : State :=
  if reqDown s r then { s with dieHeld := s.dieHeld ++ [r] } else placeRequest r s

/-- A request that a home forwards is performed at the local backing of its granule (R144), or held while that is in reset (R388); it
was checked at the home. -/
def guestRequest (h : Nat) (r : IngressReq) (s : State) : State :=
  match s.guests.find? (fun g => g.home = h && g.granule = normPa r.addr / 2 ^ 21) with
  | none => s
  | some g =>
    let as := (reqBytes r.addr (reqSize r.kind)).map (fun a => g.backing + a % 2 ^ 21)
    if as.any (fun a => dieIsDown s (homeDie a)) then { s with dieHeld := s.dieHeld ++ [r] }
    else
      let x := cellRequest as r.kind s
      sweep (x.2.2.send (.response r.src x.1 x.2.1))

/-- A request that has passed every check, forwarded or not. -/
def arriveAny (r : IngressReq) (s : State) : State :=
  match r.home with
  | some h => guestRequest h r s
  | none => arriveRequest r s

/-- INGRESS_REQUEST (R141). -/
def execIngressRequest (r : IngressReq) (s : State) : Host.Outcome State Fault Refusal :=
  match r.home with
  | some h => .next (guestRequest h r s)
  | none =>
  match judgeIngress s r with
  | some st => .next (s.send (.response r.src (.refused st) 0))
  | none => .next (sweep (arriveRequest r s))

end Sys2Proof.Machine
end

