-- ==== Sys2Proof/Machine/Promotion.lean ====
section
/-!
DEFINITION. Window packets that arrive, probes that arrive, circuits at both ends, messages of the device to itself, and the failure of a
fabric link (R154, R155, R158 to R165, R167, R169, R372). Times are in ticks.
-/
namespace Sys2Proof.Machine

/-! ## Bytes that reach a scratchpad -/

/-- Bytes written to the scratchpad of the instance that runs on isle k; none where R107 or R158 refuses them. -/
def deliver (k off : Nat) (data : List Byte) (s : State) : Option State :=
  match runningOn s k with
  | none => none
  | some i => if i.spadBytes < off + data.length then none else some (s.updInst k (putSpad (cellsAt off data)))

/-- Writes bytes that a circuit brings; bytes refused under R107 are dropped. -/
def deliverCircuit (k off : Nat) (data : List Byte) (s : State) : State := (deliver k off data s).getD s

/-- A packet from a peer that passed the ingress is written, or refused whole; the source is told (R158). -/
def deliverPacket (src k off : Nat) (data : List Byte) (s : State) : State :=
  match deliver k off data s with
  | some t => t.send (.response src (.ok 0) 0)
  | none => s.send (.response src (.refused 4) 0)

def State.receiver (s : State) (f : Flow) : Option Receiver := s.receivers.find? (fun r => r.flow = f)
def State.updReceiver (s : State) (f : Flow) (g : Receiver → Receiver) : State :=
  { s with receivers := s.receivers.map (fun r => if r.flow = f then g r else r) }

/-- The ingress checks of a window packet: it needs W (R141). -/
def judgePacket (s : State) (p : WindowPacket) : Option (BitVec 4) :=
  ingressStep s p.srcPeer p.tenant p.gen (spadBase + p.flow.isle * 2 ^ 22 + p.cursor) p.data.length (false, true, false) true

/-- WINDOW_PACKET_ARRIVAL (R158, R163): a packet behind an open circuit of its flow is held until the circuit ends. -/
def execWindowPacketArrival (p : WindowPacket) (s : State) : Host.Outcome State Fault Refusal :=
  let f : Flow := { p.flow with peer := p.srcPeer }
  match judgePacket s p with
  | some st => .next (s.send (.response p.srcPeer (.refused st) 0))
  | none => match s.receiver f with
    | some r =>
      if r.mark.isSome then .next (s.updReceiver f (fun r => { r with packets := r.packets ++ [(p.cursor, p.data)] }))
      else .next (deliverPacket p.srcPeer p.flow.isle p.cursor p.data s)
    | none => .next (deliverPacket p.srcPeer p.flow.isle p.cursor p.data s)

/-! ## Tokens and probes at the receiver (R161, R163, R165, R351, R366) -/

/-- A circuit as its sender names it. -/
def refOf (f : Flow) : CircKind → CircuitRef
  | .promoted => .promoted f
  | .strait h => .strait f.src h
  | .ring => .ring f.src

/-- A token goes back to the sender of a circuit. -/
def sendToken (f : Flow) (kind : CircKind) (off : Nat) (s : State) : State :=
  sendFlow (s.isSelf f.peer) (.token (refOf f kind) off) (.token f.peer f kind off) s

/-- Tokens for each further 1 KiB (R163, R165): n of them from the last token on. -/
def sendTokens (f : Flow) (kind : CircKind) : Nat → Nat → State → State
  | 0, _, s => s
  | n + 1, off, s => sendTokens f kind n (off + 1024) (sendToken f kind (off + 1024) s)

/-- A circuit stream needs W over the scratchpad bytes it writes (R141); one of this device itself meets R107 alone. -/
def judgeStream (s : State) (src tenant gen isle off n : Nat) : Option (BitVec 4) :=
  if s.isSelf src then none else ingressStep s src tenant gen (spadBase + isle * 2 ^ 22 + off) n (false, true, false) true

/-- A rotation whose upstream is peer up, with this LABEL, has ended on isle k and none is waiting or running (R366). -/
def ringEnded (s : State) (k up label : Nat) : Bool :=
  let waits : Bool := match s.inst k with
    | some i => i.cmds.any (fun c => c.isRota && !c.isDone && rotaUp c.block = up && rotaLabel c.block = label)
    | none => false
  !waits && (s.rotaEnded.any (fun r => r.1 = k && r.2.2.1 = up && r.2.2.2 = label) || (match s.inst k with
    | some i => i.rotaDone.any (fun r => r.2.1 = up && r.2.2 = label)
    | none => false))

/-- The instance on isle k can take a ring circuit: it may have retired while its rotation goes on (R332, R366, R371). -/
def ringHost (s : State) (k : Nat) : Bool :=
  match s.inst k with
  | none => false
  | some i => i.life ≠ .stopped && i.life ≠ .discarded && !launchSpec s i.launch

/-- The destination of a probe takes it: one of four promotion buffers is free, the range of a strait is granted and lies in the
scratchpad of a running instance, or a ring is granted, its instance is there and its rotation has not ended. -/
def takesProbe (s : State) (f : Flow) (p : Probe) : Bool :=
  let range := p.range.getD (0, 0)
  let granted : Bool := (judgeStream s p.srcPeer p.tenant p.gen f.isle range.1 range.2).isNone
  match p.kind with
  | .promoted => (s.receivers.find? (fun r => r.flow = f)).isNone &&
      decide ((s.receivers.filter (fun r => r.flow.isle = f.isle)).length < 4)
  | .strait _ => granted && (match runningOn s f.isle with
    | some j => decide (range.1 + range.2 ≤ j.spadBytes)
    | none => false)
  | .ring => granted && ringHost s f.isle && !ringEnded s f.isle f.peer f.label

/-- What a probe leaves at a destination that has taken it. -/
def addCircuit (f : Flow) (kind : CircKind) (s : State) : State :=
  match kind with
  | .promoted => { s with receivers := s.receivers ++ [⟨f, none, [], [], 0, 0⟩] }
  | .strait h => addStrait f h s
  | .ring => s

/-- The outcome of a probe goes back to its source. -/
def answerProbe (f : Flow) (kind : CircKind) (good : Bool) (backs : Nat) (s : State) : State :=
  sendFlow (s.isSelf f.peer) (if good then .found f backs else .failed f backs) (.probeAnswer f.peer f kind good backs) s

/-- A probe reaches this device, or its own destination here: it takes its way from the port to the isle and is taken or refused there. -/
def probeArrives (p : Probe) (s : State) : State :=
  let f : Flow := { p.flow with peer := p.srcPeer }
  let who : Prober := ⟨.arriving f p.kind, p.prio, p.pre⟩
  let way : Option Walk := if s.isSelf p.srcPeer then some { Walk.start f.isle with backs := p.backtracks }
    else probeIn s who p.port f.isle p.backtracks
  match way with
  | none => answerProbe f p.kind false 3 s
  | some w =>
    if takesProbe s f p then answerProbe f p.kind true w.backs (addCircuit f p.kind (takeWay who w s))
    else answerProbe f p.kind false w.backs s

/-- PROBE_ARRIVAL (R161, R163). -/
def execProbeArrival (p : Probe) (s : State) : Host.Outcome State Fault Refusal := .next (probeArrives p s)

/-! ## The receiver's side of a promoted circuit (R163) -/

/-- Circuit bytes of a receiver in CIRC are written, and tokens returned. -/
def circuitWrite (f : Flow) (off : Nat) (data : List Byte) (s : State) : State :=
  match s.receiver f with
  | none => s
  | some r =>
    let n := (off + data.length - r.token) / 1024
    let s := deliverCircuit f.isle off data s
    let s := s.updReceiver f (fun r => { r with reached := off + data.length, token := r.token + 1024 * n })
    sendTokens f .promoted n r.token s

/-- Bytes held in a promotion buffer. -/
def Receiver.heldBytes (r : Receiver) : Nat := (r.held.map (fun h => h.2.length)).sum

/-- A promotion buffer has room for n bytes more, or needs none since the mark has come (R163). -/
def Receiver.hasRoom (r : Receiver) (n : Nat) : Bool := r.mark.isSome || decide (r.heldBytes + n ≤ 16384)

/-- Bytes of a strait, written as they arrive; a token follows every 1 KiB of the stream and its end (R165). Bytes refused under R107 or
R141 count as well (R353). -/
def straitData (f : Flow) (h : Nat) (d : CircuitData) (s : State) : State :=
  match s.straits.find? (fun y => y.flow = f && y.h = h) with
  | none => s
  | some y =>
    let t := y.token.getD d.off
    let reached := d.off + d.data.length
    let n := (reached - t) / 1024
    let last := t + 1024 * n
    let s := match judgeStream s d.srcPeer d.tenant d.gen f.isle d.off d.data.length with
      | some st => s.send (.response d.srcPeer (.refused st) 0)
      | none => deliverCircuit f.isle d.off d.data s
    let ends := d.ends && last ≠ reached
    let s := { s with straits := s.straits.map (fun z => if z.flow = f && z.h = h then { z with token := some (if ends then reached else last) } else z) }
    let s := sendTokens f (.strait h) n t s
    if ends then sendToken f (.strait h) reached s else s

/-- Bytes of a promoted circuit: held in the promotion buffer before the marked packet, else written; at 16 KiB held they stand on the
stopped circuit (R163). -/
def promotedData (f : Flow) (d : CircuitData) (s : State) : State :=
  match s.receiver f with
  | none => s
  | some r => match judgeStream s d.srcPeer d.tenant d.gen f.isle d.off d.data.length with
    | some st =>
      let s := s.send (.response d.srcPeer (.refused st) 0)
      if r.mark.isSome then s.updReceiver f (fun r => { r with reached := d.off + d.data.length }) else s
    | none =>
      if r.mark.isSome then circuitWrite f d.off d.data s
      else if r.hasRoom d.data.length then s.updReceiver f (fun r => { r with held := r.held ++ [(d.off, d.data)] })
      else { s with loop := s.loop ++ [.data d] }

/-- Bytes of a circuit arrive; those of a ring come as casks. -/
def circuitArrives (d : CircuitData) (s : State) : State :=
  let f : Flow := { d.flow with peer := d.srcPeer }
  match d.kind with
  | .promoted => promotedData f d s
  | .strait h => straitData f h d s
  | .ring => s

/-- Bytes that source c sends for an offset. -/
def circuitBytes (c : CircuitSrc) (off : Nat) (data : List Byte) : CircuitData :=
  ⟨c.srcPeer, c.tenant, c.gen, c.flow, c.kind, off, data, c.ends⟩

/-- CIRCUIT_DATA_ARRIVAL (R163, R165). -/
def execCircuitDataArrival (c : CircuitSrc) (off : Nat) (data : List Byte) (s : State) : Host.Outcome State Fault Refusal :=
  .next (circuitArrives (circuitBytes c off data) s)

/-- The marked packet arrives: the held bytes are written from O onward (R163). -/
def markArrives (f : Flow) (off : Nat) (s : State) : State :=
  match s.receiver f with
  | none => s
  | some r =>
    if r.mark.isSome then s
    else
      let s := s.updReceiver f (fun r => { r with mark := some off, held := [], reached := off, token := off })
      r.held.foldl (fun s h => circuitWrite f h.1 h.2 s) s

/-- MARKED_PACKET_ARRIVAL (R163). -/
def execMarkedPacketArrival (f : Flow) (off : Nat) (s : State) : Host.Outcome State Fault Refusal := .next (markArrives f off s)

/-- The receiver returns to IDLE: its buffer and crosspoints free, bytes not written are gone, and the packets held behind the circuit are
written in flow order (R163). -/
def freeReceiver (f : Flow) (s : State) : State :=
  match s.receiver f with
  | none => s
  | some r =>
    let s := dropXpts (.arriving f .promoted) (dropCircuitData f .promoted { s with receivers := s.receivers.filter (fun x => x.flow ≠ f) })
    r.packets.foldl (fun s p => deliverPacket f.peer f.isle p.1 p.2 s) s

/-- The demotion mark arrives: the final token carries the end offset (R163). -/
def demotionArrives (f : Flow) (s : State) : State :=
  match s.receiver f with
  | none => s
  | some r => if r.mark.isSome then freeReceiver f (sendToken f .promoted r.reached s) else s

/-- DEMOTION_MARK_ARRIVAL (R163). -/
def execDemotionMarkArrival (f : Flow) (s : State) : Host.Outcome State Fault Refusal := .next (demotionArrives f s)

/-! ## The sender's side (R160, R162) -/

/-- The meter of f takes state st now. -/
def meterTo (f : Flow) (st : MeterSt) (s : State) : State := s.updMeter f (fun m => { m with st := st, since := s.time })

/-- METER_IDLE (R160): the count resets when nothing was sent for 2 µs. -/
def execMeterIdle (f : Flow) (s : State) : Host.Outcome State Fault Refusal :=
  .next { s with meters := s.meters.map (fun m => if m.flow = f && decide (m.lastSend + 2 * usec ≤ s.time) then { m with count := 0 } else m) }

/-- The probe of a promotion has succeeded: the marked packet carries the CURSOR after the last packet sent (R162). -/
def promoted (f : Flow) (m : Meter) (backtracks : Nat) (s : State) : State :=
  let s := s.updMeter f (fun m => { m with st := .circ, since := s.time, lastSend := s.time, acked := m.endOff, onCircuit := [] })
  let s := sendFlow (s.isSelf f.peer) (.marked f m.endOff) (.marked f m.endOff) s
  ((s.count (blkPort m.port) idxMARKED).count (blkPort m.port) idxSETUP).countN (blkPort m.port) idxBACKTRACKS backtracks

/-- The rotation of isle f.src whose ring circuit has been asked for and runs to this flow (R365). -/
def ringOf (s : State) (f : Flow) : Option (Inst × Cmd) :=
  if f.isle = f.src then rotating s f.src (fun c => c.ring.asked && rotaDown c.block = f.peer && rotaLabel c.block = f.label) else none

/-- A probe has succeeded: the meter's, or the first one of a ring circuit. -/
def probeFound (f : Flow) (backtracks : Nat) (s : State) : State :=
  let ring : State := match ringOf s f with
    | some (i, c) => if c.ring.up || c.ring.probes ≠ 0 then s else ringOpens f.src i c s
    | none => s
  match s.meter f with
  | none => ring
  | some m => if m.st = .probe then (if 3 < backtracks then s else promoted f m backtracks s) else ring

/-- PROBE_SUCCESS (R162, R365). -/
def execProbeSuccess (f : Flow) (backtracks : Nat) (s : State) : Host.Outcome State Fault Refusal := .next (probeFound f backtracks s)

/-- A probe has failed: its reservations go, the flow goes into HOLD; a ring circuit is left to be reopened (R161, R162, R366). -/
def probeFailed (f : Flow) (backtracks : Nat) (s : State) : State :=
  let ring : State := if (ringOf s f).isSome then breakRing f.src caPROBE s else s
  match s.meter f with
  | none => ring
  | some m =>
    if m.st = .probe then (meterTo f .hold (dropXpts (.promoted f) s)).countN (blkPort m.port) idxBACKTRACKS backtracks else ring

/-- PROBE_FAIL (R161, R162). -/
def execProbeFail (f : Flow) (backtracks : Nat) (s : State) : Host.Outcome State Fault Refusal := .next (probeFailed f backtracks s)

/-- HOLD_EXPIRY (R162): 20 µs in HOLD. -/
def execHoldExpiry (f : Flow) (s : State) : Host.Outcome State Fault Refusal :=
  .next { s with meters := s.meters.map (fun m =>
    if m.flow = f && m.st = .hold && decide (m.since + 20 * usec ≤ s.time) then { m with st := .pkt, count := 0, since := s.time } else m) }

/-- CIRCUIT_IDLE (R162): 2 µs without data. -/
def execCircuitIdle (f : Flow) (s : State) : Host.Outcome State Fault Refusal :=
  match s.meter f with
  | none => .next s
  | some m =>
    if m.st = .circ && decide (m.lastSend + 2 * usec ≤ s.time) then .next (sendDemotion (s.isSelf f.peer) m.port f (meterTo f .demoting s))
    else .next s

/-- Acknowledges access id as a whole (R78, R162). -/
def ackAccess (id : Nat) (s : State) : State :=
  finishStore id (s.updAccess id (fun a => { a with parts := a.parts.map (fun p => { p with done := true }), atHome := true }))

/-- Packets on a circuit whose bytes all lie in the first n bytes, and the rest. -/
def splitAcked : Nat → List SentPacket → List SentPacket × List SentPacket
  | _, [] => ([], [])
  | n, p :: ps =>
    if p.data.length ≤ n then
      let r := splitAcked (n - p.data.length) ps
      (p :: r.1, r.2)
    else ([], p :: ps)

/-- A demoted flow with its final token is torn down; the packets that waited follow (R162). -/
def endDemotion (f : Flow) (s : State) : State :=
  match s.meter f with
  | none => s
  | some m =>
    if m.st = .demoting && m.onCircuit = [] then
      let s := dropXpts (.promoted f) (if s.isSelf f.peer then s else s.send (.teardown (.promoted f)))
      settleMeter m (s.updMeter f (fun m => { m with st := .pkt, count := 0, since := s.time, waiting := [] }))
    else s

/-- A token of a promoted circuit (R162, R163): A advances, and the packets up to it are acknowledged. -/
def promotedToken (f : Flow) (off : Nat) (s : State) : State :=
  match s.meter f with
  | none => s
  | some m =>
    if !(m.st = .circ || m.st = .demoting || m.st = .breaking) then s
    else
      let s := s.count (blkPort m.port) idxTOKENS
      match m.onCircuit with
      | [] => endDemotion f s
      | p :: _ =>
        let n := (off + 2 ^ 22 - p.cursor) % 2 ^ 22
        if (m.onCircuit.map (fun p => p.data.length)).sum < n then s
        else
          let r := splitAcked n m.onCircuit
          let s := s.updMeter f (fun m => { m with acked := off, onCircuit := r.2 })
          endDemotion f (r.1.foldl (fun s p => ackAccess p.acc s) s)

/-- A token reaches the sender of a circuit (R162, R165, R365). -/
def tokenArrives (c : CircuitRef) (off : Nat) (s : State) : State :=
  match c with
  | .promoted f => promotedToken f off s
  | .arriving _ _ => s
  | .strait k h => straitToken k h off s
  | .ring k => ringToken k off s

/-- TOKEN_ARRIVAL (R165, R162, R365): a token carries the scratchpad offset reached, that of a ring the bytes of its casks. -/
def execTokenArrival (c : CircuitRef) (off : Nat) (s : State) : Host.Outcome State Fault Refusal := .next (tokenArrives c off s)

/-! ## Breaks (R162, R163, R167, R169, R366, R372) -/

/-- The sender of a promoted circuit loses it: it waits for the teardown report, which this device gives itself for its own circuits. -/
def breakPromoted (f : Flow) (cause : BitVec 4) (s : State) : State :=
  match s.meter f with
  | none => s
  | some m =>
    if m.st = .circ || m.st = .demoting then
      let s := dropXpts (.promoted f) ((meterTo f .breaking s).count (blkPort m.port) (idxBROKEN cause))
      if s.isSelf f.peer then { dropCircuitData f .promoted s with loop := (dropCircuitData f .promoted s).loop ++ [.broken (.arriving f .promoted) cause, .torn f] }
      else s
    else if m.st = .probe then meterTo f .hold (dropXpts (.promoted f) s)
    else s

/-- A circuit of another device that ends here is gone; its source is told. -/
def breakArriving (f : Flow) (kind : CircKind) (s : State) : State :=
  let s := match kind with
    | .promoted => freeReceiver f s
    | .strait h => { s with straits := s.straits.filter (fun y => !(y.flow = f && y.h = h)) }
    | .ring => s
  let s := dropXpts (.arriving f kind) s
  if s.isSelf f.peer then s else s.send (.teardown (.arriving f kind))

/-- A circuit may be pre-empted: an explicit one only with PRE = 1 (R169, R365). -/
def mayPreempt (s : State) (c : CircuitRef) : Bool :=
  match c with
  | .strait k h => (match s.inst k with
    | some i => (i.handle h).pre
    | none => false)
  | .ring k => (match rotating s k (fun _ => true) with
    | some (_, c) => c.ring.pre
    | none => false)
  | _ => true

/-- A circuit breaks. -/
def breakCircuit (c : CircuitRef) (cause : BitVec 4) (s : State) : State :=
  if cause = caPREEMPT && !mayPreempt s c then s
  else match c with
  | .promoted f => breakPromoted f cause s
  | .arriving f kind => breakArriving f kind s
  | .strait k h => breakStrait k h cause s
  | .ring k => breakRing k cause s

/-- CIRCUIT_BREAK (R162, R163, R167, R366). -/
def execCircuitBreak (c : CircuitRef) (cause : BitVec 4) (s : State) : Host.Outcome State Fault Refusal := .next (breakCircuit c cause s)

/-- The teardown of a broken promoted circuit is reported: the bytes from A to E go as packets of the flow, the held packets after them;
HOLD (R162, R372). -/
def tornDown (f : Flow) (s : State) : State :=
  match s.meter f with
  | none => s
  | some m =>
    if m.st ≠ .breaking then s
    else sweep (settleMeter m (s.updMeter f (fun m => { m with st := .hold, since := s.time, onCircuit := [], waiting := [] })))

/-- TEARDOWN_REPORTED (R162, R372). -/
def execTeardownReported (f : Flow) (s : State) : Host.Outcome State Fault Refusal := .next (tornDown f s)

/-! ## Messages of the device to itself -/

/-- What messages of one kind between the same ends stand in order for. -/
def Loop.key : Loop → Flow × Nat
  | .probe p => (p.flow, 0)
  | .data d => ({ d.flow with peer := d.srcPeer }, 0)
  | .marked f _ => (f, 0)
  | .demotion f => (f, 0)
  | .found f _ => (f, 1)
  | .failed f _ => (f, 1)
  | .torn f => (f, 1)
  | .token (.promoted f) _ => (f, 1)
  | .token (.arriving f _) _ => (f, 1)
  | .token (.strait k h) _ => (⟨k, h, 0, 0⟩, 2)
  | .token (.ring k) _ => (⟨k, 0, 0, 0⟩, 3)
  | .broken _ _ => (⟨0, 0, 0, 0⟩, 4)

/-- A message can arrive: the marked packet only after every earlier packet of its flow (R154), circuit bytes only where the promotion
buffer has room (R163). -/
def Loop.ready (s : State) : Loop → Bool
  | .marked f _ => !s.acc.any (fun a => a.kind.flow = some f && onPacketPlane s a)
  | .data d => (match d.kind, s.receiver { d.flow with peer := d.srcPeer } with
    | .promoted, some r => r.hasRoom d.data.length
    | _, _ => true)
  | _ => true

/-- The first message that can arrive, none of its kind before it, with the others. -/
def nextLoop (s : State) : List Loop → List Loop → Option (Loop × List Loop)
  | _, [] => none
  | before, m :: ms =>
    if m.ready s && !before.any (fun b => b.key = m.key) then some (m, before ++ ms) else nextLoop s (before ++ [m]) ms

/-- A message of the device to itself arrives. -/
def loopArrives (m : Loop) (s : State) : State :=
  match m with
  | .probe p => probeArrives p s
  | .found f n => probeFound f n s
  | .failed f n => probeFailed f n s
  | .data d => circuitArrives d s
  | .marked f o => markArrives f o s
  | .demotion f => demotionArrives f s
  | .token c o => tokenArrives c o s
  | .broken c x => breakCircuit c x s
  | .torn f => tornDown f s

/-- The next message of the device to itself arrives, if one can. -/
def loopStep (s : State) : State :=
  match nextLoop s [] s.loop with
  | none => s
  | some (m, rest) => loopArrives m { s with loop := rest }

/-! ## Fabric links (R155) -/

/-- Refuses, with a step, the parts of access a that p selects, and settles the access (R142, R143). -/
def refuseParts (id : Nat) (step : BitVec 4) (p : Part → Bool) (s : State) : State :=
  let s := s.updAccess id (fun a => { a with
    nack := none, parts := a.parts.map (fun x => if !x.done && p x then { x with done := true, st := .refused step, res := 0 } else x) })
  match s.access id with
  | none => s
  | some a =>
    if !a.allDone then s
    else if isTail a.kind then performTail id [] s
    else if a.kind.returns then finishLoad id s
    else finishStore id (s.updAccess id (fun a => { a with atHome := true }))

/-- The fabric port a part's request leaves by: that of its tree, of a UALink station, or of the route to its peer. -/
def partPort (s : State) (a : Access) (p : Part) : Option Nat :=
  match p.tgt, s.launch a.launch with
  | .peer q pa, some l =>
    if q = treePeer then some pa
    else if bitAt l.part.foreign q then foreignPort s
    else (selfOf l.part).bind (fun me => fabricPort s me q)
  | _, _ => none

/-- A request that has left and stands on no circuit (R142, R155). -/
def inFlight (s : State) (a : Access) (p : Part) : Bool := !p.done && p.sent.isSome && !s.meters.any (fun m => heldBack m a.id)

/-- LINK_FAILURE (R155): requests and packets in flight over the port are refused, circuits over it break. -/
def execLinkFailure (port : Nat) (s : State) : Host.Outcome State Fault Refusal :=
  if (s.port port).failed then .next s
  else
    let hits (a : Access) (p : Part) : Bool := inFlight s a p && partPort s a p = some port
    let hit := s.acc.filter (fun a => a.parts.any (hits a))
    let broken := ((s.xpts.filter (fun x => x.xpt = .port port true || x.xpt = .port port false)).map (fun x => x.circ)).eraseDups
    let t := broken.foldl (fun s c => breakCircuit c caLINK s) { s with ports := Sparse.set .reset s.ports port { s.port port with failed := true } }
    .next (sweep (hit.foldl (fun t a => refuseParts a.id 5 (hits a) t) t))

/-- LINK_RETRAIN (R155). -/
def execLinkRetrain (port : Nat) (s : State) : Host.Outcome State Fault Refusal :=
  .next { s with ports := Sparse.set .reset s.ports port { s.port port with failed := false } }

end Sys2Proof.Machine
end

