-- ==== Sys2Proof/Machine/Moves.lean ====
section
/-!
DEFINITION. Refusals that reach their source (R142, R143), timeouts (R142, R155, R177), and the lending of granules: moves, held and
retried requests, contested granules (R144 to R147).
-/
namespace Sys2Proof.Machine

/-! ## Refusals and timeouts -/

/-- Refuses part n of access id (R143). -/
def refusePart (id n : Nat) (step : BitVec 4) (s : State) : State :=
  match s.access id with
  | none => s
  | some a => match a.parts[n]? with
    | none => s
    | some p => refuseParts id step (fun x => x.lane = p.lane && x.va = p.va) s

/-- The isle, instance and command that have number id. -/
def findCmd (s : State) (id : Nat) : Option (Nat × Inst × Cmd) :=
  s.slots.findSome? (fun p => (p.2.cmds.find? (fun c => c.id = id)).map (fun c => (p.1, p.2, c)))

/-- A refused circuit stream is entered at the source (R143, R374). -/
def refuseStream (id : Nat) (step : BitVec 4) (s : State) : State :=
  match findCmd s id with
  | none => s
  | some (k, i, c) =>
    if isCsend c.word then instFault i.uid i.launch (cmdEntry k i c cREFUSED (8 + 16 * step.toNat)) s else s

/-- REFUSED_ACCESS (R143): id is an access with its part, or a CSEND. -/
def execRefusedAccess (id part : Nat) (step : BitVec 4) (s : State) : Host.Outcome State Fault Refusal :=
  match s.access id with
  | some _ => .next (sweep (refusePart id part step s))
  | none => .next (refuseStream id step s)

/-- A request to a peer other than foreign ones has had no answer for FAB_TIMEOUT (R142, R155). -/
def fabricLate (s : State) (a : Access) (p : Part) : Bool :=
  inFlight s a p && (match p.tgt, p.sent with
    | .peer q _, some t => (match s.launch a.launch with
      | some l => !bitAt l.part.foreign q
      | none => true) && decide (t + s.fabTimeout * usec ≤ s.time)
    | _, _ => false)

/-- FABRIC_TIMEOUT (R142, R155): no ingress reached within FAB_TIMEOUT. -/
def execFabricTimeout (id : Nat) (s : State) : Host.Outcome State Fault Refusal :=
  match s.access id with
  | none => .next s
  | some a => if a.parts.any (fabricLate s a) then .next (sweep (refuseParts id 5 (fabricLate s a) s)) else .next s

/-- The access waits for foreign peer q as seen from the partition at address part. -/
def waitsForeign (s : State) (part peer : Nat) (a : Access) : Bool :=
  (match s.launch a.launch with
    | some l => l.part.pa = part && bitAt l.part.foreign peer
    | none => false) && a.parts.any (fun p => !p.done && p.tgt.atPeer peer)

def putForeign (f : Foreign) (s : State) : State :=
  { s with foreign := s.foreign.filter (fun x => !(x.part = f.part && x.peer = f.peer)) ++ [f] }

/-- FOREIGN_PEER_TIMEOUT (R177): the peer becomes UNREACHABLE for the partition, and every pending access to it is refused. -/
def execForeignPeerTimeout (part peer : Nat) (s : State) : Host.Outcome State Fault Refusal :=
  let f := foreignOf s part peer
  let hit := s.acc.filter (waitsForeign s part peer)
  let late (p : Part) : Bool := !p.done && p.tgt.atPeer peer && (match p.sent with
    | some t => decide (t + f.timeout * usec ≤ s.time)
    | none => false)
  if f.reachable && hit.any (fun a => a.parts.any late) then
    let s := putForeign { f with reachable := false } s
    .next (sweep (hit.foldl (fun s a => refuseParts a.id 6 (fun p => p.tgt.atPeer peer) s) s))
  else .next s

/-! ## Granule moves (R144, R145, R146) -/

def moveWindow : Nat := 1000 * usec
def pinSpan : Nat := 100000 * usec

/-- GRANULE_MOVE_START (R145): home none names a granule of this device; a pinned granule is not lent (R146). -/
def execGranuleMoveStart (home : Option Nat) (granule : Nat) (holder : Option Nat) (s : State) : Host.Outcome State Fault Refusal :=
  match home with
  | some _ => .next s
  | none =>
    let x := granuleOf s granule
    if x.place = .moving || x.holder = holder || (x.pin.isSome && holder.isSome) then .next s
    else .next (s.setGranule granule { x with place := .moving, target := holder })

/-- Performs an access of this device again, as far as it can be. -/
def retryHere (a : Access) (s : State) : State :=
  if isTail a.kind then performTail a.id [] s
  else if a.kind.returns then performLoad a.id none [] s
  else performStore a.id none [] s

/-- One request held at a granule that has stopped moving is performed, or goes on to the holder (R145); it waits for a die in reset
(R388). -/
def performHeld (holder : Option Nat) (h : Nat ⊕ IngressReq) (s : State) : State :=
  match h with
  | .inr r =>
    if reqDown s r then { s with dieHeld := s.dieHeld ++ [r] }
    else match holder with
      | some p => forwardRequest p r s
      | none => answerRequest r s
  | .inl id => match s.access id with
    | none => s
    | some a => retryHere a (sendAccess id s)

/-- Held requests in arrival order. -/
def performAllHeld (holder : Option Nat) : List (Nat ⊕ IngressReq) → State → State
  | [], s => s
  | h :: hs, s => performAllHeld holder hs (performHeld holder h s)

/-- A granule is contested with a move that completes now, the last of moves: the fourth within 1 ms of the first of them (R146). -/
def contested (x : Granule) (moves : List Nat) (now : Nat) : Bool :=
  x.pin.isNone && decide (4 ≤ moves.length) && decide (now ≤ moves.getD (moves.length - 4) 0 + moveWindow)

/-- The bytes of a granule that a move brings to base (R144). -/
def granuleCells (base : Nat) (image : List (Nat × Byte)) : List (Nat × Byte) := image.map (fun c => (base + c.1 % 2 ^ 21, c.2))

/-- A move of a granule of this device ends; a contested one is pinned, and goes home at once where it was lent, which counts as no move
(R145, R146). The bytes that come home wait for a die in reset like other writes. -/
def endMove (g : Nat) (image : List (Nat × Byte)) (s : State) : State :=
  let x := granuleOf s g
  if x.place ≠ .moving then s
  else
    let moves := if x.pin.isSome then x.moves else x.moves ++ [s.time]
    let pinned := contested x moves s.time
    let s := if pinned then { s with migContest := s.migContest + 1 } else s
    let x := { x with moves := if pinned then [] else moves, pin := if pinned then some (s.time + pinSpan) else x.pin }
    match x.target with
    | some h =>
      if pinned then s.setGranule g { x with holder := some h, target := none }
      else performAllHeld (some h) x.held (s.setGranule g { x with place := .lent, holder := some h, target := none, held := [] })
    | none =>
      let s := s.setGranule g { x with place := .home, holder := none, held := [] }
      performAllHeld none x.held (ownWrite (granuleCells (g * 2 ^ 21) image) s)

/-- A granule of another device comes to this holder, or leaves it (R144). -/
def guestMove (h g backing : Nat) (image : List (Nat × Byte)) (s : State) : State :=
  if s.guests.any (fun x => x.home = h && x.granule = g) then
    { s with guests := s.guests.filter (fun x => !(x.home = h && x.granule = g)) }
  else
    let s := ownWrite (granuleCells backing image) s
    { s with guests := s.guests ++ [⟨h, g, backing⟩] }

/-- GRANULE_MOVE_END (R145): home some h names a granule of peer h of which this device is the holder. -/
def execGranuleMoveEnd (home : Option Nat) (granule backing : Nat) (image : List (Nat × Byte)) (s : State) :
    Host.Outcome State Fault Refusal :=
  match home with
  | none => .next (sweep (endMove granule image s))
  | some h => .next (guestMove h granule backing image s)

/-- CONTEST_PIN_END (R146). -/
def execContestPinEnd (granule : Nat) (s : State) : Host.Outcome State Fault Refusal :=
  let x := granuleOf s granule
  match x.pin with
  | none => .next s
  | some t => if t ≤ s.time && x.place ≠ .moving then .next (s.setGranule granule { x with pin := none, moves := [] }) else .next s

/-! ## Retries (R145) -/

/-- The first request of its flow that was turned away is retried, or given up: granules that do not move, or all, take the flow again. -/
def acceptRetry (all : Bool) (id : Nat) (s : State) : State :=
  s.granules.foldl (fun s p =>
    let x := granuleOf s p.1
    if (all || x.place ≠ .moving) && x.nacked.any (fun n => n.2 = .inl id) then s.setGranule p.1 (x.accept (.inl id)) else s) s

/-- The backoff doubles up to 64 µs. -/
def nextBackoff (n : Nack) (now : Nat) : Nack :=
  let b := Nat.min (2 * n.backoff) (64 * usec)
  ⟨n.first, now + b, b⟩

/-- The access waits for a moving granule of this device, or one that has turned its flow away. -/
def waitsHere (s : State) (a : Access) : Bool :=
  a.parts.any (fun p => !p.done && (match placeOf s a p with
    | .moving _ => true
    | _ => false))

/-- MOVE_RETRY (R145): at a granule of this device the access is tried, at a peer's its request leaves again. -/
def execMoveRetry (req : Nat) (s : State) : Host.Outcome State Fault Refusal :=
  match s.access req with
  | none => .next s
  | some a => match a.nack with
    | none => .next s
    | some n =>
      if s.time < n.next then .next s
      else
        let s := acceptRetry false req s
        if waitsHere s a then
          .next ((retryHere a s).updAccess req (fun a => { a with nack := a.nack.map (fun n => nextBackoff n s.time) }))
        else
          let s := s.updAccess req (fun a => { a with nack := some { n with next := n.first + 10000 * usec } })
          .next (retryHere a (sendAccess req s))

/-- MOVE_RETRY_LIMIT (R145): unaccepted 10 ms after its first attempt. -/
def execMoveRetryLimit (req : Nat) (s : State) : Host.Outcome State Fault Refusal :=
  match s.access req with
  | none => .next s
  | some a => match a.nack with
    | none => .next s
    | some n => if s.time < n.first + 10000 * usec then .next s else .next (sweep (refuseParts req 7 (fun _ => true) (acceptRetry true req s)))

end Sys2Proof.Machine
end

