-- ==== Sys2Proof/Machine/Queues.lean ====
section
/-!
DEFINITION. Hardware queues: enable, disable, TAIL, and the parsing of packets (R61, R62, R67 to R73, R77, R409, R410). Bytes of
structures that lie outside this device's memories come with the event, by virtual address.
-/
namespace Sys2Proof.Machine

/-! ## Structures (R409) -/

/-- One byte of a structure: it fails translation, its bytes have not come, or its value. -/
inductive Got (α : Type)
  | bad
  | wait
  | ok (x : α)

/-- The value of a byte whose target is allowed. -/
def tgtByte (s : State) (va : Nat) (ext : List (Nat × Byte)) (t : Tgt) : Got Byte :=
  let outside : Got Byte := match Assoc.find ext va with
    | some b => .ok b
    | none => .wait
  let here (a : Nat) : Got Byte := match dramPlace s false a with
    | .cell x => .ok (homeByte s x)
    | .outside => outside
    | _ => .wait
  match t with
  | .dram a => here a
  | .peer p pa => (match guestOf s p pa with
    | some g => here (g.backing + normPa pa % 2 ^ 21)
    | none => outside)
  | .host _ => outside
  | _ => .bad

/-- One byte of a structure at a virtual address, with its permission (R71, R409). -/
def extByte (s : State) (segs : List Seg) (part : Partition) (perm : Seg → Bool) (ext : List (Nat × Byte)) (va : Nat) : Got Byte :=
  match structAt s segs part perm va 1 with
  | none => .bad
  | some t => tgtByte s va ext t

/-- n bytes of a structure from va on. -/
def extBytes (s : State) (segs : List Seg) (part : Partition) (perm : Seg → Bool) (ext : List (Nat × Byte)) :
    Nat → Nat → Got (List Byte)
  | 0, _ => .ok []
  | n + 1, va =>
    match extByte s segs part perm ext va, extBytes s segs part perm ext n (va + 1) with
    | .bad, _ => .bad
    | _, .bad => .bad
    | .wait, _ => .wait
    | _, .wait => .wait
    | .ok b, .ok bs => .ok (b :: bs)

/-- Every byte of a structure translates to an allowed target. -/
def structOk (s : State) (segs : List Seg) (part : Partition) (perm : Seg → Bool) (va n : Nat) : Bool :=
  (upto n).all (fun k => (structAt s segs part perm (va + k) 1).isSome)

/-! ## Enable, disable, TAIL (R67, R68, R69) -/

/-- The device serves virtual functions: its firmware runs and it has not failed (R403, R408). -/
def inOperation (s : State) : Bool := s.boot = .running && !s.failed

/-- The queue exists, and firmware runs (R67, R396). -/
def servesQueue (s : State) (v q : Nat) : Bool := s.boot = .running && decide (1 ≤ v) && decide (v ≤ 64) && decide (q < 16)

/-- Launches are allowed in this life-cycle state (R405). -/
def launchesAllowed (s : State) : Bool := s.lifeCycle = .provisioned || s.lifeCycle = .deployed

/-- A queue as QCFG fields leave it at enable (R68). -/
def enabledQueue (q : HwQueue) (value : Nat) : HwQueue :=
  { q with rcb := field value 7 38 * 2 ^ 7, logsz := field value 0 5, en := true, head := 0, tail := 0, stopped := false,
           err := .none, last := none, lastKey := none, unsettled := [], held := none, fence := none, signal := none, history := [],
           want := none }

/-- The checks of an enable (R68). -/
def queueGood (s : State) (v q : Nat) : Bool :=
  let qu := s.queue v q
  decide (4 ≤ qu.logsz) && decide (qu.logsz ≤ 16) && (match queueSegs s v q with
    | some (segs, part, _, _) => structOk s segs part (fun e => e.r) qu.base.toNat 64
    | none => false)

/-- QUEUE_ENABLE (R68): a QCFG write that sets EN. -/
def execQueueEnable (vf q : Nat) (value : Word) (s : State) : Host.Outcome State Fault Refusal :=
  if !servesQueue s vf q || (s.queue vf q).en || !bitAt value.toNat 5 then .next s
  else
    let s := s.setQueue vf q (enabledQueue (s.queue vf q) value.toNat)
    if queueGood s vf q then .next s else .next (stopQueue vf q .badqueue s)

/-- QUEUE_DISABLE (R68, R102): a QCFG write that clears EN; LOGSZ and RCB are frozen while EN is 1. -/
def execQueueDisable (vf q : Nat) (value : Word) (s : State) : Host.Outcome State Fault Refusal :=
  let qu := s.queue vf q
  if !qu.en || bitAt value.toNat 5 then .next s
  else
    let s := s.setQueue vf q { qu with en := false, held := none, fence := none, signal := none, want := none }
    match qu.spec with
    | none => .next s
    | some id => match s.launch id with
      | none => .next s
      | some l => if l.spec then .next (sweep (discardSpec .miss id s)) else .next s

/-- TAIL_WRITE (R69): the host's write of QTAIL; it waits while a LAUNCH makes its append (R313). -/
def execTailWrite (vf q : Nat) (value : Word) (s : State) : Host.Outcome State Fault Refusal :=
  let new : BitVec 32 := value.setWidth 32
  if appending s vf q then .next (s.setQueue vf q { s.queue vf q with tails := (s.queue vf q).tails ++ [new] })
  else .next (putTail vf q new s)

/-! ## Opening the packet at HEAD (R68, R70) -/

/-- A queue may begin to parse a packet. -/
def mayParse (s : State) (q : HwQueue) : Bool :=
  inOperation s && q.en && !q.stopped && q.head ≠ q.tail && q.held.isNone && q.fence.isNone && q.signal.isNone

/-- What opening the packet gives. -/
inductive Opened
  /-- Nothing to parse, or its bytes have not come. -/
  | none
  | stop (e : QErr)
  | packet (segs : List Seg) (part : Partition) (chain : List Nat) (bytes : List Byte)

def openPacket (s : State) (v q : Nat) (ext : List (Nat × Byte)) : Opened :=
  let qu := s.queue v q
  if !mayParse s qu then .none
  else match queueSegs s v q with
    | none => .stop .badqueue
    | some (segs, part, chain, _) =>
      match extBytes s segs part (fun e => e.r) ext 64 (slotVa qu qu.head) with
      | .bad => .stop .badaddr
      | .wait => .none
      | .ok bs => .packet segs part chain bs

/-- Number of n bytes at an offset of a packet. -/
def pf (p : List Byte) (off n : Nat) : Nat := packetField p off n

/-- HEAD advances by one (R70). -/
def advanceHead (v q : Nat) (s : State) : State := s.setQueue v q { s.queue v q with head := (s.queue v q).head + 1 }

/-- Opens the packet for the event of a type: an unknown type stops the queue, another type is another event's (R70). -/
def parseAs (type : Nat) (v q : Nat) (ext : List (Nat × Byte)) (s : State)
    (k : List Seg → Partition → List Nat → List Byte → State) : State :=
  match openPacket s v q ext with
  | .none => s
  | .stop e => stopQueue v q e s
  | .packet segs part chain p =>
    if 4 ≤ pf p 0 1 then stopQueue v q .badpkt s
    else if pf p 0 1 = type then k segs part chain p
    else s

/-- PARSE_NOP (R70). -/
def execParseNop (vf q : Nat) (ext : List (Nat × Byte)) (s : State) : Host.Outcome State Fault Refusal :=
  .next (parseAs 0 vf q ext s (fun _ _ _ _ => advanceHead vf q s))

/-! ## LAUNCH: the packet and the header (R61, R62, R71, R410) -/

def pkMasked (p : List Byte) : Bool := bitAt (pf p 1 1) 1
def pkArgptr (p : List Byte) : Bool := bitAt (pf p 1 1) 2
def pkEarlyok (p : List Byte) : Bool := bitAt (pf p 1 1) 0
def pkCount (p : List Byte) : Nat := pf p 2 2
def pkArglen (p : List Byte) : Nat := pf p 4 2
def pkKaddr (p : List Byte) : Nat := pf p 8 8
def pkRcb (p : List Byte) : Nat := pf p 0x10 8
def pkCaddr (p : List Byte) : Nat := pf p 0x18 8
def pkArgaddr (p : List Byte) : Nat := pf p 0x20 8
def pkMaskaddr (p : List Byte) : Nat := pf p 0x28 8

/-- A LAUNCH packet stops its queue with BADPKT (R70, R410). -/
def launchBadpkt (p : List Byte) : Bool :=
  field (pf p 1 1) 3 5 != 0 || pf p 6 2 != 0 || field (pkKaddr p) 48 16 != 0 || field (pkRcb p) 45 19 != 0 ||
  field (pkCaddr p) 48 16 != 0 ||
  (pkArgptr p && (pf p 0x30 8 != 0 || pf p 0x38 8 != 0 || field (pkMaskaddr p) 48 16 != 0 ||
    (pkArglen p != 0 && field (pkArgaddr p) 48 16 != 0) || (!pkMasked p && pkMaskaddr p != 0)))

def hdClasses (h : List Byte) : Nat := pf h 6 1
def hdPred (h : List Byte) : Bool := bitAt (pf h 7 1) 0
def hdEarly (h : List Byte) : Bool := bitAt (pf h 7 1) 1
def hdPreempt (h : List Byte) : Bool := bitAt (pf h 7 1) 2
def hdSpad (h : List Byte) : Nat := pf h 0x0A 2
def hdCircuits (h : List Byte) : Nat := pf h 0x0E 1
def hdWin (h : List Byte) : Nat := pf h 0x10 2
def hdArgbytes (h : List Byte) : Nat := pf h 0x12 2
def hdArgmask (h : List Byte) : Nat := leNat ((h.drop 0x20).take 32)

/-- The header accepts class code c (R26). -/
def hdAccepts (h : List Byte) (c : Nat) : Bool := bitAt (hdClasses h) c

/-- The header is valid (R26, R61, R62). -/
def headerOk (h : List Byte) : Bool :=
  decide (pf h 0 4 = 0x38594C46) && decide (pf h 4 2 = 1) && decide (0 < hdClasses h) && decide (hdClasses h < 16) &&
  decide (pf h 7 1 < 8) && decide (1 ≤ pf h 8 1) && decide (pf h 8 1 ≤ 24) && decide (pf h 9 1 ≤ 32) &&
  decide (hdSpad h ≤ 256) && decide (pf h 0x0C 1 ≤ 32) && decide (pf h 0x0D 1 ≤ 64) && decide (hdCircuits h ≤ 8) &&
  decide (pf h 0x0F 1 < 2) && decide (hdWin h < 4096) && decide (hdArgbytes h ≤ 256) &&
  ((h.drop 0x14).take 12).all (fun b => b = 0) && ((h.drop 0x40).take 64).all (fun b => b = 0) &&
  decide (hdArgmask h / 2 ^ hdArgbytes h = 0) && (decide (hdArgbytes h = 0) || decide (hdSpad h ≠ 0))

/-- The declared counts of a header (R61). -/
def hdCounts (h : List Byte) : Counts :=
  ⟨pf h 8 1, pf h 9 1, hdSpad h, pf h 0x0C 1, pf h 0x0D 1, hdCircuits h⟩

/-! ## Placement over classes and budgets (R75, R77, R88) -/

/-- The isles that a launch may take at all: populated, of an accepted class, and masked where it has a mask. -/
def candidates (s : State) (p h : List Byte) (mask : Nat) : List Nat :=
  (upto 256).filter (fun k => populated s k && hdAccepts h (classOf s k).toNat && (!pkMasked p || bitAt mask k))

/-- Instances that a launch wants. -/
def wanted (p : List Byte) (mask : Nat) : Nat := if pkMasked p then popCount 256 mask else pkCount p

/-- How many of these isles have class c. -/
def ofClass (s : State) (c : Nat) (ks : List Nat) : Nat := (ks.filter (fun k => (classOf s k).toNat = c)).length

/-- Cause 0x03 of R77 with its cases of R410: the launch could not be placed even with its subtree empty. -/
def unplaceable (s : State) (p h : List Byte) (mask : Nat) (budgets : List Budget) : Bool :=
  let ks := candidates s p h mask
  let n := wanted p mask
  let cap (c : Nat) : Nat := budgets.foldl (fun m b => Nat.min m (b.max.getD c 0)) 256
  let room := if pkMasked p
    then (upto 4).all (fun c => decide (ofClass s c ks ≤ cap c)) && decide (ks.length = n) && pkCount p = 0
    else decide (n ≤ ((upto 4).map (fun c => Nat.min (ofClass s c ks) (cap c))).sum) && decide (n ≤ 256)
  n = 0 || !room || budgets.any (fun b => decide (b.spad < n * hdSpad h) || decide (b.circ < n * hdCircuits h))

/-! ## Judging a LAUNCH (R77) -/

/-- A judged launch: it waits for bytes, is rejected with a cause, or is held. -/
inductive Judged77
  | wait
  | reject (cause : Nat)
  | good (l : Launch)

/-- The tables of a launch's region (R86, R111, R113). -/
structure Tables where
  chain : List Nat
  eff : Eff
  segs : List Seg
  part : Partition

def tablesOf (s : State) (vf rcb : Nat) : Option Tables :=
  (chainOf s vf rcb).map (fun x => ⟨x.1, x.2, segsAt s x.2.segtab, partAt s x.2.part⟩)

/-- CADDR names none, or an aligned record in an allowed target (R79, R409). -/
def caddrOk (s : State) (t : Tables) (caddr : Nat) : Bool :=
  caddr = 0 || (caddr % 16 = 0 && completionOk s t.segs t.part caddr)

/-- Cause 0x05 of R77: an address fails. -/
def addressesBad (s : State) (t : Tables) (p : List Byte) : Bool :=
  pkKaddr p % 128 != 0 || !structOk s t.segs t.part (fun e => e.x) (pkKaddr p) 128 ||
  (pkMasked p && !structOk s t.segs t.part (fun e => e.r) (pkMaskaddr p) 32) ||
  (pkArgptr p && !structOk s t.segs t.part (fun e => e.r) (pkArgaddr p) (pkArglen p)) ||
  !caddrOk s t (pkCaddr p)

/-- An empty key, replaced at dispatch (R95). -/
def Key.none : Key := ⟨0, 0, false, 0, 0, 0⟩

/-- A launch at the head of its queue before dispatch. -/
def headLaunch (s : State) (vf q : Nat) (t : Tables) (p h : List Byte) (mask : Nat) : Launch :=
  { id := s.nextLaunch, vf := vf, q := q, packet := p, header := h, mask := mask, args := [], key := .none, chain := t.chain,
    doms := domainsOf s t.chain, eff := t.eff, segs := t.segs, part := t.part, isles := [], done := [], pred := none, spec := false, claiming := false,
    retired := false, trapped := false, status := 0, cellar := [], readset := [], since := s.time }

/-- Judges a LAUNCH in the order 0x06, 0x04, 0x05, 0x01, 0x02, 0x03 (R77). -/
def judgeLaunch (s : State) (vf q : Nat) (ext : List (Nat × Byte)) (p : List Byte) : Judged77 :=
  if pkMasked p && !pkArgptr p then .reject 6
  else match tablesOf s vf (pkRcb p) with
    | none => .reject 4
    | some t =>
      if addressesBad s t p then .reject 5
      else
        let mask := if pkMasked p then extBytes s t.segs t.part (fun e => e.r) ext 32 (pkMaskaddr p) else .ok []
        match extBytes s t.segs t.part (fun e => e.x) ext 128 (pkKaddr p), mask with
        | .ok h, .ok m =>
          if !headerOk h then .reject 1
          else if pkArglen p ≠ hdArgbytes h ∨ (32 < pkArglen p ∧ !pkArgptr p) then .reject 2
          else if unplaceable s p h (leNat m) t.eff.budgets then .reject 3
          else .good (headLaunch s vf q t p h (leNat m))
        | _, _ => .wait

/-- Rejects a LAUNCH of queue (vf, q) (R77, R80): its record, its fault entry, and HEAD; own is the queue's region. -/
def rejectLaunch (vf q cause : Nat) (p : List Byte) (own : Nat) (s : State) : State :=
  let entry : FaultEntry := ⟨cREJECT, q * 256 + cause, 0, 0, 0, BitVec.ofNat 64 (pkKaddr p), 0, false⟩
  match tablesOf s vf (pkRcb p) with
  | none => recordEntry own entry s
  | some t =>
    let s := recordEntry (pkRcb p) entry s
    if completionOk s t.segs t.part (pkCaddr p) then completionAt s t.segs t.part (pkCaddr p) (stINVALID + cause * 256) else s

/-- PARSE_LAUNCH (R70, R71, R77). -/
def execParseLaunch (vf q : Nat) (ext : List (Nat × Byte)) (s : State) : Host.Outcome State Fault Refusal :=
  .next (parseAs 1 vf q ext s (fun _ _ chain p =>
    if launchBadpkt p then stopQueue vf q .badpkt s
    else match judgeLaunch s vf q ext p with
      | .wait => s
      | .reject c =>
        let s := s.setQueue vf q { s.queue vf q with want := none }
        advanceHead vf q (rejectLaunch vf q c p (chain.headD 0) s)
      | .good l =>
        let qu := s.queue vf q
        { s.setQueue vf q { qu with held := some l, want := none, unsettled := qu.unsettled ++ [l.id] } with
            nextLaunch := s.nextLaunch + 1 }))

/-! ## FENCE (R72) -/

/-- A FENCE packet stops its queue with BADPKT. -/
def fenceBadpkt (p : List Byte) : Bool :=
  let n := pf p 2 1
  pf p 1 1 != 0 || n = 0 || decide (12 < n) || pf p 3 5 != 0 || (decide (n ≤ 3) && pf p 8 8 != 0) ||
  (upto 3).any (fun k => decide (n ≤ k) && (pf p (0x10 + 16 * k) 8 != 0 || pf p (0x18 + 16 * k) 8 != 0))

/-- Pairs of 16 bytes: address and value. -/
def fencePairs : Nat → List Byte → List (Nat × Word)
  | 0, _ => []
  | n + 1, bs => (pf bs 0 8, BitVec.ofNat 64 (pf bs 8 8)) :: fencePairs n (bs.drop 16)

/-- Translates the counters of a FENCE; none where one fails (R70, R409). -/
def fenceTargets (s : State) (segs : List Seg) (part : Partition) : List (Nat × Word) → Option (List (Nat × Tgt × Word))
  | [] => some []
  | (a, v) :: rest =>
    if a % 8 ≠ 0 then none
    else match structAt s segs part (fun e => e.r) a 8, fenceTargets s segs part rest with
      | some t, some ts => some ((a, t, v) :: ts)
      | _, _ => none

/-- A counter as it reads now, where its bytes are at hand. -/
def counterValue (s : State) (ext : List (Nat × Byte)) (va : Nat) (t : Tgt) : Option Word :=
  let bs := (upto 8).map (fun k => tgtByte s (va + k) ext (match t with
    | .dram a => .dram (a + k)
    | .peer p a => .peer p (a + k)
    | .host a => .host (a + k)
    | t => t))
  let vals := bs.filterMap (fun b => match b with
    | .ok x => some x
    | _ => none)
  if vals.length = 8 then some (BitVec.ofNat 64 (leNat vals)) else none

/-- A pair is satisfied by the value read (R72). -/
def pairMet (s : State) (ext : List (Nat × Byte)) (p : Nat × Tgt × Word) : Bool :=
  match counterValue s ext p.1 p.2.1 with
  | some c => decide (0 ≤ (c - p.2.2).toInt)
  | none => false

/-- Reads the counters of a FENCE: satisfied pairs go, and with the last of them HEAD advances. -/
def readFence (v q : Nat) (ext : List (Nat × Byte)) (pairs : List (Nat × Tgt × Word)) (s : State) : State :=
  let left := pairs.filter (fun p => !pairMet s ext p)
  if left = [] then advanceHead v q (s.setQueue v q { s.queue v q with fence := none })
  else s.setQueue v q { s.queue v q with fence := some ⟨left, s.time⟩ }

/-- PARSE_FENCE (R72). -/
def execParseFence (vf q : Nat) (ext : List (Nat × Byte)) (s : State) : Host.Outcome State Fault Refusal :=
  .next (parseAs 2 vf q ext s (fun segs part _ p =>
    if fenceBadpkt p then stopQueue vf q .badpkt s
    else
      let n := pf p 2 1
      let list := if n ≤ 3 then .ok []
        else if pf p 8 8 % 16 ≠ 0 then .bad
        else extBytes s segs part (fun e => e.r) ext (16 * (n - 3)) (pf p 8 8)
      match list with
      | .bad => stopQueue vf q .badaddr s
      | .wait => s
      | .ok bs => match fenceTargets s segs part (fencePairs (Nat.min n 3) (p.drop 0x10) ++ fencePairs (n - 3) bs) with
        | none => stopQueue vf q .badaddr s
        | some ps => readFence vf q ext ps s))

/-- FENCE_COUNTER_READ (R72). -/
def execFenceCounterRead (vf q : Nat) (ext : List (Nat × Byte)) (s : State) : Host.Outcome State Fault Refusal :=
  match (s.queue vf q).fence with
  | none => .next s
  | some f => .next (readFence vf q ext f.pairs s)

/-! ## SIGNAL (R73) -/

/-- A SIGNAL packet stops its queue with BADPKT. -/
def signalBadpkt (p : List Byte) : Bool :=
  decide (1 < pf p 1 1) || pf p 2 6 != 0 || (p.drop 0x18).any (fun b => b ≠ 0)

/-- PARSE_SIGNAL (R73). -/
def execParseSignal (vf q : Nat) (ext : List (Nat × Byte)) (s : State) : Host.Outcome State Fault Refusal :=
  .next (parseAs 3 vf q ext s (fun segs part _ p =>
    if signalBadpkt p then stopQueue vf q .badpkt s
    else if pf p 8 8 % 8 ≠ 0 then stopQueue vf q .badaddr s
    else match structAt s segs part (fun e => e.w) (pf p 8 8) 8 with
      | none => stopQueue vf q .badaddr s
      | some t => s.setQueue vf q { s.queue vf q with
          signal := some ⟨t, BitVec.ofNat 64 (pf p 0x10 8), bitAt (pf p 1 1) 0, part, false⟩ }))

/-- What a SIGNAL's addition comes to now. -/
inductive Signalled
  /-- It waits for a moving granule or a die in reset. -/
  | wait
  /-- Performed at the counter's home, or turned away. -/
  | done (s : State)
  /-- The request has left. -/
  | sent (s : State)

/-- The addition of a SIGNAL at its counter's home (R73, R144, R145, R177, R388). -/
def signalAdd (w : SignalWait) (s : State) : Signalled :=
  let add : ReqKind := .amo .add w.value.toNat 8 false
  let me := (selfOf w.part).getD 0
  let here (x : Nat) : State := ownPerform x add s
  let ask (m : Out) : Signalled := .sent { s.send m with nextId := s.nextId + 1 }
  let down (x : Nat) : Bool := dieIsDown s (homeDie x)
  match w.tgt with
  | .dram a => (match dramPlace s true a, (granuleOf s (a / 2 ^ 21)).holder with
    | .cell x, _ => .done (here x)
    | .outside, some h => ask (.forward h ⟨some me, me, w.part.tenant, 0, a, 0, add⟩)
    | _, _ => .wait)
  | .peer p a => (match guestOf s p a with
    | some g =>
      let x := g.backing + normPa a % 2 ^ 21
      if down x then .wait else .done (here x)
    | none =>
      if bitAt w.part.foreign p && !(foreignOf s w.part.pa p).reachable then .done s
      else ask (.request s.nextId 0 p w.part.tenant (genOf s w.part p) a 0 add))
  | .host a => ask (.hostRequest s.nextId 0 a false add)
  | _ => .done s

/-- SIGNAL_ADD (R70, R73): with SETTLED the addition waits for every launch parsed earlier since the enable. A request that has left is
performed or refused with the next such event, and HEAD advances then. -/
def execSignalAdd (vf q : Nat) (s : State) : Host.Outcome State Fault Refusal :=
  let qu := s.queue vf q
  let past (t : State) : State := advanceHead vf q (t.setQueue vf q { t.queue vf q with signal := none })
  match qu.signal with
  | none => .next s
  | some w =>
    if w.sent then .next (past s)
    else if w.settled && qu.unsettled ≠ [] then .next s
    else match signalAdd w s with
      | .wait => .next s
      | .done t => .next (past t)
      | .sent t => .next (t.setQueue vf q { t.queue vf q with signal := some { w with sent := true } })

end Sys2Proof.Machine
end

