-- ==== Sys2Proof/Machine/Placement.lean ====
section
/-!
DEFINITION. Idle isles, budgets, placement, the dispatch order with its deficits, victims (R75, R88 to R91, R401).
-/
namespace Sys2Proof.Machine

/-! ## Idle isles (R75) -/

/-- The launch at the head of a queue that has been given isles, which may drain still (R75). -/
def committed (s : State) (v q : Nat) : Option Launch :=
  let x := s.queue v q
  match x.held with
  | some l => if x.en && !x.stopped && !l.claiming && l.isles ≠ [] then some l else none
  | none => none

/-- Every such launch. -/
def committedAll (s : State) : List Launch := s.queues.filterMap (fun p => committed s p.1 p.2)

/-- Isles that a dispatch or resumption has taken and that drain still. -/
def takenIsles (s : State) : List Nat := s.saved.filterMap (fun i => i.goes) ++ (committedAll s).flatMap (fun l => l.isles)

/-- The isle holds a speculative instance. -/
def heldBySpec (s : State) (k : Nat) : Bool :=
  match s.inst k with
  | none => false
  | some i => match s.launch i.launch with
    | some l => l.spec
    | none => false

/-- The isle is populated, of a die in service, and taken by nothing. -/
def isOpen (s : State) (k : Nat) : Bool := populated s k && !dieIsDown s (dieOfIsle k) && !(takenIsles s).contains k

/-- The isle holds nothing at all. -/
def isFree (s : State) (k : Nat) : Bool := (s.inst k).isNone && isOpen s k

/-- The isle is idle: an isle with a speculative instance counts as idle. -/
def isIdle (s : State) (k : Nat) : Bool := isOpen s k && ((s.inst k).isNone || heldBySpec s k)

/-- Dooms the speculations that hold any of these isles (R99). -/
def doomOn (ks : List Nat) (s : State) : State :=
  ks.foldl (fun s k => if heldBySpec s k then (match s.inst k with
    | some i => discardSpec .doom i.launch s
    | none => s) else s) s

/-! ## Budgets (R88) -/

/-- Launches of the subtree of block b: live ones, speculative ones among them (R84). -/
def subtree (s : State) (b : Nat) : List Nat := (s.launches.filter (fun p => p.2.chain.contains b)).map (fun p => p.1)

/-- Launches of the subtree that have been given isles. -/
def subtreeTaken (s : State) (b : Nat) : List Launch := (committedAll s).filter (fun l => l.chain.contains b)

/-- Live isles of class c in the subtree of block b, those already taken for it among them; a saved instance occupies none. -/
def liveIsles (s : State) (b c : Nat) : Nat :=
  let ids := subtree s b
  (s.slots.filter (fun p => ids.contains p.2.launch && (p.2.life = .running || p.2.life = .saving) && p.2.cls.toNat = c)).length +
    (s.saved.filter (fun i => ids.contains i.launch && i.goes.isSome && i.cls.toNat = c)).length +
    ((subtreeTaken s b).map (fun l => ofClass s c l.isles)).sum

/-- Sum over the instances of the subtree, saved ones among them, of what each declares. -/
def declared (s : State) (f : Counts → Nat) (b : Nat) : Nat :=
  ((subtree s b).map (fun id => ((unretired s id).map (fun i => f i.counts)).sum)).sum +
    ((subtreeTaken s b).map (fun l => l.isles.length * f (hdCounts l.header))).sum

/-- Room for more isles of class c under every block of a chain. -/
def classRoom (s : State) (chain : List Nat) (budgets : List Budget) (c : Nat) : Nat :=
  (chain.zip budgets).foldl (fun m p => Nat.min m (p.2.max.getD c 0 - liveIsles s p.1 c)) 256

/-- Pages and handles of n more instances fit under every block of a chain. -/
def sharesFit (s : State) (chain : List Nat) (budgets : List Budget) (n spad circ : Nat) : Bool :=
  (chain.zip budgets).all (fun p =>
    decide (declared s (fun c => c.spad) p.1 + n * spad ≤ p.2.spad) &&
    decide (declared s (fun c => c.circuits) p.1 + n * circ ≤ p.2.circ))

/-- What stands under a chain keeps its budgets. -/
def withinBudgets (s : State) (chain : List Nat) (budgets : List Budget) : Bool :=
  sharesFit s chain budgets 0 0 0 &&
  (chain.zip budgets).all (fun p => (upto 4).all (fun c => decide (liveIsles s p.1 c ≤ p.2.max.getD c 0)))

/-! ## Placement (R75) -/

/-- Takes n isles from a list in order, passing over one where its class would break a budget; a speculation whose isle is taken is gone,
with all that it counts. The isles, and the state in which they are counted. -/
def takeIsles (chain : List Nat) (budgets : List Budget) : Nat → State → List Nat → List Nat → Option (List Nat × State)
  | 0, s, taken, _ => some (taken, s)
  | _ + 1, _, _, [] => none
  | n + 1, s, taken, k :: ks =>
    let t := doomOn [k] s
    let c := (classOf s k).toNat
    if ofClass s c taken < classRoom t chain budgets c then takeIsles chain budgets n t (taken ++ [k]) ks
    else takeIsles chain budgets (n + 1) s taken ks

/-- The isles a launch takes of those that ok admits, in classes that are not blocked; none where it cannot place all (R75, R88). -/
def place (s : State) (ok : Nat → Bool) (blocked : List Nat) (p h : List Byte) (mask : Nat) (chain : List Nat)
    (budgets : List Budget) : Option (List Nat) :=
  let open_ := (candidates s p h mask).filter (fun k => ok k && !blocked.contains (classOf s k).toNat)
  let n := wanted p mask
  if pkMasked p && open_.length ≠ n then none
  else match takeIsles chain budgets n s [] open_ with
    | none => none
    | some (ks, t) => if sharesFit t chain budgets n (hdSpad h) (hdCircuits h) then some ks else none

/-! ## Launches ready for dispatch (R74, R90) -/

/-- R74 does not hold the launch back any more. -/
def holdEnds (s : State) (q : HwQueue) (l : Launch) : Bool :=
  match q.last with
  | none => true
  | some p => match s.launch p with
    | none => true
    | some lp => lp.retired || (pkEarlyok l.packet && hdEarly l.header && (unretired s p).all (fun i => i.succ))

/-- A dispatchable launch with the effective values that its chain gives now (R86). -/
structure Ready where
  vf : Nat
  q : Nat
  l : Launch
  eff : Eff
  chain : List Nat

/-- The argument block of a packet: inline, or read from ARGADDR (R76). -/
def argsOf (s : State) (l : Launch) (segs : List Seg) (part : Partition) (ext : List (Nat × Byte)) : Got (List Byte) :=
  let p := l.packet
  if pkArgptr p then (if pkArglen p = 0 then .ok [] else extBytes s segs part (fun e => e.r) ext (pkArglen p) (pkArgaddr p))
  else .ok ((p.drop 0x20).take (pkArglen p))

/-- ARGADDR leads nowhere under the tables of this moment: the launch stays held (log 69). -/
def argsLost (s : State) (l : Launch) (e : Eff) : Bool :=
  pkArgptr l.packet && (match argsOf s l (segsAt s e.segtab) (partAt s e.part) [] with
    | .bad => true
    | _ => false)

/-- The dispatchable launch of a queue: not one that has been given isles or is being claimed. -/
def readyOf (s : State) (v q : Nat) : Option Ready :=
  let qu := s.queue v q
  if !qu.en || qu.stopped || !inOperation s || !launchesAllowed s then none
  else match qu.held with
    | none => none
    | some l =>
      if l.claiming || l.isles ≠ [] || !holdEnds s qu l then none
      else match chainOf s v (pkRcb l.packet) with
        | some (c, e) => if argsLost s l e then none else some ⟨v, q, l, e, c⟩
        | none => some ⟨v, q, l, l.eff, l.chain⟩

/-- The launch has still to meet the speculation of its queue. -/
def meetsSpec (s : State) (r : Ready) : Bool :=
  match (s.queue r.vf r.q).spec.bind s.launch with
  | some sp => sp.spec
  | none => false

/-- Every dispatchable launch that has no speculation of its queue to meet first (R100), by ascending (VF, queue). -/
def readyList (s : State) : List Ready := (s.queues.filterMap (fun p => readyOf s p.1 p.2)).filter (fun r => !meetsSpec s r)

/-- Where a dispatchable launch can be placed. -/
def Ready.place (s : State) (blocked : List Nat) (r : Ready) : Option (List Nat) :=
  Machine.place s (isIdle s) blocked r.l.packet r.l.header r.l.mask r.chain r.eff.budgets

/-! ## Victims (R91, R401) -/

/-- Slots of a save pool in use. -/
def slotsUsed (s : State) (base : Nat) : List Nat :=
  (s.saved.filter (fun i => i.slotBase = base)).map (fun i => i.slotNo) ++
    (s.slots.filter (fun p => p.2.life = .saving && p.2.slotBase = base)).map (fun p => p.2.slotNo)

/-- The save slot that the device allocates: the lowest free one, where R85 leaves the choice to it (log 70). -/
def freeSlot (s : State) (e : Eff) : Option Nat := (upto e.saveN).find? (fun n => !(slotsUsed s e.saveBase).contains n)

/-- Backing-pool pages in use by instances of a virtual function (R401). -/
def poolUsed (s : State) (v : Nat) : Nat :=
  let of (i : Inst) : Nat := match s.launch i.launch with
    | some l => if l.vf = v then i.pool else 0
    | none => 0
  ((s.slots.map (fun p => if p.2.life = .running || p.2.life = .saving then of p.2 else 0)).sum) + (s.saved.map of).sum

/-- Pages that a save of this instance takes. -/
def poolNeed (i : Inst) : Nat := if i.pool = 0 then i.counts.spad else 0

/-- The instance on isle k is a victim candidate for a launch of effective PRIO p. -/
def isVictim (s : State) (p k : Nat) (i : Inst) : Bool :=
  match s.launch i.launch with
  | none => false
  | some l =>
    !l.spec && !l.claiming && i.life = .running && decide (l.eff.prio + 2 ≤ p) && l.eff.preemptible && hdPreempt l.header &&
    decide (i.since + 100 * usec ≤ s.time) && (freeSlot s l.eff).isSome &&
    (poolNeed i = 0 || decide (poolUsed s l.vf + poolNeed i ≤ (s.vf l.vf).poolsize)) && !dieIsDown s (dieOfIsle k)

/-- Candidate a goes before candidate b: lower PRIO, then later dispatch or resumption, then higher isle (R91). -/
def victimBefore (a b : Nat × Nat × Nat) : Bool :=
  decide (a.1 < b.1) || (a.1 = b.1 && (decide (b.2.1 < a.2.1) || (a.2.1 = b.2.1 && decide (b.2.2 < a.2.2))))

/-- The key of a candidate: PRIO, time, isle. -/
def victimKey (s : State) (k : Nat) (i : Inst) : Nat × Nat × Nat :=
  ((match s.launch i.launch with
    | some l => l.eff.prio
    | none => 0), i.since, k)

/-- The next victim for a launch of PRIO p. -/
def nextVictim (s : State) (p : Nat) : Option Nat :=
  (s.slots.foldl (fun (b : Option (Nat × Nat × Nat)) x =>
    if !isVictim s p x.1 x.2 then b
    else
      let key := victimKey s x.1 x.2
      match b with
      | none => some key
      | some y => if victimBefore key y then some key else b) none).map (fun x => x.2.2)

/-- The state as it will stand when the instances being saved, and isle k, are off their isles. -/
def asSaved (s : State) (k : Option Nat) : State :=
  let gone (p : Nat × Inst) : Bool := p.2.life = .saving || some p.1 = k
  { s with slots := s.slots.filter (fun p => !gone p), saved := s.saved ++ (s.slots.filter gone).map (fun p => p.2) }

/-- Takes save slot and pool pages for the instance on isle k (R91, R401). -/
def takeSlot (k : Nat) (s : State) : State :=
  match s.inst k with
  | none => s
  | some i => match s.launch i.launch with
    | none => s
    | some l => match freeSlot s l.eff with
      | none => s
      | some n => s.setInst k { i with life := .saving, slotBase := l.eff.saveBase, slotNo := n, pool := i.pool + poolNeed i }

/-- Victims chosen one at a time until the launch is placeable; s holds those chosen as being saved (R91). -/
def chooseVictims (r : Ready) (blocked : List Nat) : Nat → State → List Nat → Option (List Nat)
  | 0, _, _ => none
  | n + 1, s, chosen =>
    match nextVictim s r.eff.prio with
    | none => none
    | some k =>
      let s := takeSlot k s
      if (r.place (asSaved s none) blocked).isSome then some (chosen ++ [k]) else chooseVictims r blocked n s (chosen ++ [k])

/-! ## The order (R89, R90) -/

def quantum : Int := 2 ^ 24
def deficitOf (d : List (Nat × Int)) (g : Nat) : Int := Sparse.get 0 d g
def clampDeficit (x : Int) : Int := if x < -(2 ^ 40) then -(2 ^ 40) else if quantum < x then quantum else x

/-- The region of a dispatchable launch. -/
def Ready.region (r : Ready) : Nat := pkRcb r.l.packet

/-- Regions without a dispatchable launch keep no positive deficit (R89). -/
def capIdle (rs : List Ready) (d : List (Nat × Int)) : List (Nat × Int) :=
  d.filter (fun p => decide (p.2 < 0) || rs.any (fun r => r.region = p.1))

/-- The while loop of R90: the quantum is added to every region of the level until one of them is positive. -/
def topUp (regions : List Nat) (d : List (Nat × Int)) : List (Nat × Int) :=
  match regions.map (deficitOf d) with
  | [] => d
  | x :: xs =>
    let m := xs.foldl max x
    if 0 < m then d
    else
      let k : Int := (-m) / quantum + 1
      regions.foldl (fun d g => Sparse.set 0 d g (clampDeficit (deficitOf d g + k * quantum))) d

/-- Puts a launch after those that go before it: descending deficit, then ascending (VF, queue). -/
def insertReady (d : List (Nat × Int)) (r : Ready) : List Ready → List Ready
  | [] => [r]
  | x :: xs => if deficitOf d x.region < deficitOf d r.region then r :: x :: xs else x :: insertReady d r xs

/-- What the order decides to do next. -/
inductive Action
  | resume (uid : Nat) (isle : Nat)
  | dispatch (vf : Nat) (q : Nat) (isles : List Nat)
  | preempt (vf : Nat) (q : Nat) (victims : List Nat)
  deriving DecidableEq, Repr

/-- The order under way: deficits, levels topped up, blocked class codes, the first action. -/
structure Order where
  deficit : List (Nat × Int)
  topped : List Nat
  blocked : List Nat
  act : Option Action

/-- The lowest idle isle of a saved instance's class on which its budgets hold. -/
def resumeIsle (s : State) (l : Launch) (c : Nat) : Option Nat :=
  (upto 256).find? (fun k => isIdle s k && (classOf s k).toNat = c && decide (0 < classRoom (doomOn [k] s) l.chain l.eff.budgets c))

/-- One saved instance at its level (R27, R88, R90). -/
def orderSaved (s : State) (p : Nat) (o : Order) (i : Inst) : Order :=
  if o.act.isSome || i.goes.isSome then o
  else match s.launch i.launch with
    | none => o
    | some l =>
      if l.eff.prio ≠ p then o
      else
        let c := i.cls.toNat
        match (if o.blocked.contains c then none else resumeIsle s l c) with
        | some k => { o with act := some (.resume i.uid k) }
        | none => { o with blocked := c :: o.blocked }

/-- The classes a launch accepts. -/
def accepted (r : Ready) : List Nat := (upto 4).filter (fun c => hdAccepts r.l.header c)

/-- One launch at its level: dispatched, given victims, or its classes blocked; for one that the saves under way will place, pre-emption
has started. -/
def orderLaunch (s : State) (o : Order) (r : Ready) : Order :=
  if o.act.isSome then o
  else match r.place s o.blocked with
    | some ks => { o with act := some (.dispatch r.vf r.q ks) }
    | none =>
      if (r.place (asSaved s none) o.blocked).isSome then o
      else match chooseVictims r o.blocked 256 s [] with
        | some ks => { o with act := some (.preempt r.vf r.q ks) }
        | none => { o with blocked := accepted r ++ o.blocked }

/-- One level of the order. -/
def orderLevel (s : State) (rs : List Ready) (o : Order) (p : Nat) : Order :=
  if o.act.isSome then o
  else
    let o := s.saved.foldl (orderSaved s p) o
    let here := rs.filter (fun r => r.eff.prio = p)
    if o.act.isSome || here.isEmpty then o
    else
      let o := if o.topped.contains p then o
        else { o with deficit := topUp ((here.map (fun r => r.region)).eraseDups) o.deficit, topped := p :: o.topped }
      (here.foldl (fun xs r => insertReady o.deficit r xs) []).foldl (orderLaunch s) o

/-- The order of R90 up to its first action. -/
def evaluate (s : State) : Order :=
  let rs := readyList s
  [7, 6, 5, 4, 3, 2, 1, 0].foldl (orderLevel s rs) ⟨capIdle rs s.deficit, s.topped, [], none⟩

/-- What calls for an evaluation: an isle has freed, a save or resumption has ended, or a launch has become dispatchable (R90). -/
def orderDue (s : State) : Bool := s.freed || (readyList s).any (fun r => !s.offered.contains r.l.id)

/-- An evaluation begins where one is due. -/
def beginOrder (s : State) : State :=
  if orderDue s then { s with freed := false, offered := (readyList s).map (fun r => r.l.id), ordering := true, topped := [] } else s

/-- The evaluation under way goes on: its deficits stand, and its next action is carried out; with none left it ends. -/
def orderStep (act : Action → State → State) (s : State) : State :=
  let s := beginOrder s
  if !s.ordering then s
  else
    let o := evaluate s
    let s := { s with deficit := o.deficit, topped := o.topped }
    match o.act with
    | none => { s with ordering := false }
    | some a => act a s

end Sys2Proof.Machine
end

