-- ==== Sys2Proof/Machine/Schedule.lean ====
section
/-!
DEFINITION. Starting instances (R33, R34, R76), the predictor and its speculations (R95 to R102), dispatch, pre-emption, save and
resumption (R76, R90 to R94, R368, R401).
-/
namespace Sys2Proof.Machine

/-! ## Starting instances (R33, R34, R76) -/

/-- A context in the state of R34. -/
def CtxState.start (pc : Word) : CtxState :=
  { g := [], pc := pc, walk := 0, stack := [], live := true, block := .none, blockVc := 0, waitCount := none, stepped := false,
    fenced := false, hostWr := false, lag := [], observed := [], after := (0, 0, 0), fetched := none }

/-- PC of the first word after the header (R34). -/
def entryPc (p : List Byte) : Word := BitVec.ofNat 64 (pkKaddr p + 128)

/-- An instance of launch l, of rank r on isle k, in the state of R34. -/
def Inst.start (s : State) (l : Launch) (uid r k : Nat) : Inst :=
  let x := CtxState.start (entryPc l.packet)
  { uid := uid, launch := l.id, rank := r, cls := classOf s k, counts := hdCounts l.header, ctxL := x, ctxC := x, ctxS := x,
    qs := List.replicate 8 Fifo.empty, v := [], m := [], t := [], h := [], acc := [], accPoison := [],
    spad := Sparse.setAll 0 [] (cellsAt 0 l.args), spadPoison := [], vcyc := 0, win := BitVec.ofNat 12 (hdWin l.header),
    tmode := bitAt (pf l.header 0x0F 1) 0, fex := 0, mflags := 0, fltCause := 0, fltPc := 0, fltAddr := 0, eccLog := 0,
    cntMx := 0, cntCp := 0, cntAt := 0, cntCl := 0, cntCi := 0, cntTd := 0, tideSt := 0, mwsel := 0, wins := [], arr := [],
    succ := false, wb := [], reqs := [], cmds := [], latch := none, engObs := [], engHost := false, rotaDone := [], frozen := none,
    refill := [], life := .running, since := s.time, pool := 0, slotBase := 0, slotNo := 0, goes := none }

/-- Rotations that ended on an isle are forgotten as an instance comes to it (R366). -/
def forgetRota (k : Nat) (s : State) : State := { s with rotaEnded := s.rotaEnded.filter (fun r => r.1 ≠ k) }

/-- Places the instances of launch l on isles, ranks ascending. -/
def startInsts (l : Launch) : Nat → List Nat → State → State
  | _, [], s => s
  | r, k :: ks, s =>
    startInsts l (r + 1) ks { (forgetRota k s).setInst k (Inst.start s l s.nextUid r k) with nextUid := s.nextUid + 1 }

/-- A launch with its instances is live (R76, R84). -/
def startLaunch (l : Launch) (s : State) : State := startInsts l 0 l.isles { s with launches := Assoc.put s.launches l.id l }

/-! ## Keys (R95) -/

/-- The argument block under ARGMASK, zero-extended to 256 bytes. -/
def maskedArgs (h args : List Byte) : List Byte :=
  (upto 256).map (fun k => if bitAt (hdArgmask h) k then args.getD k 0 else 0)

/-- Rotates a 64-bit number left. -/
def rol64 (x n : Nat) : Nat := (x * 2 ^ n + x / 2 ^ (64 - n)) % 2 ^ 64

/-- h of R95. -/
def argHash (bytes : List Byte) : Nat :=
  (upto 32).foldl (fun h k => Nat.xor (rol64 h 7) (leNat ((bytes.drop (8 * k)).take 8))) 0

/-- The key of a launch (R95). -/
def keyOf (p h args : List Byte) (mask : Nat) : Key :=
  ⟨pkKaddr p, pkRcb p, pkMasked p, if pkMasked p then mask else pkCount p, pkArglen p, argHash (maskedArgs h args)⟩

/-! ## History (R96) -/

/-- The history after launch l with key k follows a launch with key prev. -/
def learn (prev k : Key) (l : Launch) (hs : List Hist) : List Hist :=
  match hs.find? (fun e => e.prev = prev && e.next = k) with
  | some e =>
    { e with count := Nat.min 3 (e.count + 1), packet := l.packet, args := l.args, header := l.header, mask := l.mask } ::
      hs.filter (fun e => !(e.prev = prev && e.next = k))
  | none => ⟨prev, k, l.packet, l.args, l.header, l.mask, 1⟩ :: hs.take 15

/-- A queue after launch l of it was dispatched, or its claim committed (R70, R74, R96, R97, R100). -/
def HwQueue.dispatched (q : HwQueue) (l : Launch) : HwQueue :=
  { q with
    held := none, head := q.head + 1, last := some l.id, lastKey := some l.key, want := some l.key
    history := match q.lastKey with
      | some p => learn p l.key l q.history
      | none => q.history }

/-! ## Speculative start (R97) -/

/-- The entry to speculate on: the highest count of at least 2, the most recent among equals. -/
def bestHist (k : Key) (hs : List Hist) : Option Hist :=
  hs.foldl (fun b e =>
    if e.prev = k && decide (2 ≤ e.count) then
      (match b with
        | none => some e
        | some x => if x.count < e.count then some e else b)
    else b) none

/-- The launch that an entry stands for, on these isles. -/
def specLaunch (s : State) (v q : Nat) (e : Hist) (t : Tables) (isles : List Nat) : Launch :=
  { headLaunch s v q t e.packet e.header e.mask with args := e.args, key := e.next, isles := isles, spec := true }

/-- Starts a speculation for queue (v, q) where R97 lets it. -/
def trySpec (v q : Nat) (s : State) : State :=
  let qu := s.queue v q
  if !qu.en || qu.stopped || !inOperation s || !launchesAllowed s || qu.spec.isSome then s
  else match qu.want.bind (fun k => bestHist k qu.history) with
    | none => s
    | some e =>
      if !headerOk e.header || !hdPred e.header then s
      else match tablesOf s v (pkRcb e.packet) with
        | none => s
        | some t =>
          if t.eff.cellarq = 0 then s
          else match place s (isFree s) [] e.packet e.header e.mask t.chain t.eff.budgets with
            | none => s
            | some ks =>
              let l := specLaunch s v q e t ks
              let s := s.setQueue v q { qu with spec := some l.id, want := none }
              startLaunch l { s with nextLaunch := s.nextLaunch + 1 }

/-- Every queue that still looks for a prediction is tried again (R97). -/
def trySpecs (s : State) : State := s.queues.foldl (fun s p => if (s.queue p.1 p.2).want.isSome then trySpec p.1 p.2 s else s) s

/-! ## Claim (R100, R102) -/

/-- L′ matches the speculation (R100). -/
def claims (sp l : Launch) (args : List Byte) : Bool :=
  sp.key = keyOf l.packet l.header args l.mask && maskedArgs sp.header sp.args = maskedArgs l.header args && sp.header = l.header

/-- The launch that a claim makes of speculation sp: L′ with the values of its chain at the claim (R86). -/
def claimed (s : State) (sp l : Launch) (args : List Byte) (t : Tables) (pred : Option Nat) : Launch :=
  { sp with
    packet := l.packet, args := args, header := l.header, chain := t.chain, doms := domainsOf s t.chain, eff := t.eff, segs := t.segs
    part := t.part, pred := pred, spec := false, claiming := true }

/-- Cells of one line of a cellar. -/
def cellarLine (l : Launch) (n : Nat) : List (Nat × Byte) :=
  l.cellar.filterMap (fun c => if c.1 / 64 = n then c.2.map (fun b => (c.1, b)) else none)

/-- Lines of a cellar, ascending. -/
def linesOf (l : Launch) : List Nat := (l.cellar.map (fun c => c.1 / 64)).eraseDups

/-- A run of enabled bytes of a line, in its place in the order of the commit. -/
def commitPart (r : Nat × List Byte) : Part :=
  ⟨0, 0, localTgt r.1, r.2.length, .so, .mem, none, leNat r.2, 0, false, 0, .ok⟩

/-- The commit writes of launch l, the lines ascending (R100). -/
def commitParts (l : Launch) : List Part := (linesOf l).flatMap (fun n => (runsOf (cellarLine l n)).map commitPart)

/-- The commit of launch l begins: its writes are stores of l, one after the other (R100). -/
def beginCommit (l : Launch) (s : State) : State :=
  let k := l.isles.headD 0
  let uid := match s.inst k with
    | some i => i.uid
    | none => s.nextUid
  if commitParts l = [] then s
  else
    { s with
      nextId := s.nextId + 1
      acc := s.acc ++ [{ id := s.nextId, isle := k, uid := uid, launch := l.id, ctx := .S, rank := 0, pc := 0, kind := .commit
                         parts := commitParts l, acq := false, atHome := false, vis := 0, nack := none, after := (0, 0, 0) }] }

/-- The instances of launch id that have exited in every context. -/
def exitedOf (s : State) (id : Nat) : List Nat :=
  (s.slots.filter (fun p => p.2.launch = id && p.2.life = .running && p.2.liveCtxs.isEmpty)).map (fun p => p.1)

/-- L′ claims the speculation that new comes from: its arguments are rewritten, the commit begins, and instances that have exited retire.
It stays at the head of its queue until the commit is complete (R100, R102). -/
def claim (v q : Nat) (l new : Launch) (s : State) : State :=
  let s := beginCommit new (s.updLaunch new.id (fun _ => new))
  let s : State := { s with slots := s.slots.map (fun (p : Nat × Inst) =>
    if p.2.launch = new.id then (p.1, putSpad (cellsAt 0 new.args) p.2) else p) }
  let x := s.vf v
  let s := s.setVf v { x with predHit := x.predHit + 1 }
  let qu := s.queue v q
  let s := s.setQueue v q { qu with
    held := some new, unsettled := qu.unsettled.map (fun id => if id = l.id then new.id else id) }
  sweep ((exitedOf s new.id).foldl (fun s k => retireInst k s) s)

/-- The speculation of a queue meets the next dispatchable launch: a claim, or a miss (R100, R102). A chain that has failed since, or
budgets that the values of this moment break, allow no claim (R86, R88, log 71). -/
def meetSpec (v q : Nat) (l : Launch) (args : List Byte) (s : State) : State :=
  match (s.queue v q).spec.bind s.launch with
  | none => s
  | some sp =>
    if !sp.spec then s
    else
      let miss := sweep (discardSpec .miss sp.id s)
      match tablesOf s v (pkRcb l.packet) with
      | none => miss
      | some t =>
        let new := claimed s sp l args t (s.queue v q).last
        if claims sp l args && withinBudgets (s.updLaunch sp.id (fun _ => new)) t.chain t.eff.budgets then claim v q l new s else miss

/-- A commit write of launch id is not performed yet. -/
def committing (s : State) (id : Nat) : Bool := s.acc.any (fun a => a.launch = id && a.kind = .commit)

/-- The commit is complete: L′ counts as dispatched, HEAD advances where it still stands there, and the instances go on (R91, R100). -/
def endCommit (v q id : Nat) (s : State) : State :=
  let s := s.updLaunch id (fun l => { l with claiming := false, cellar := [], readset := [], since := s.time })
  let s : State := { s with slots := s.slots.map (fun (p : Nat × Inst) =>
    if p.2.launch = id then (p.1, { p.2 with since := s.time }) else p) }
  let qu := s.queue v q
  let qu := match qu.held, s.launch id with
    | some h, some l => if h.id = id then qu.dispatched l else qu
    | _, _ => qu
  trySpec v q (sweep (s.setQueue v q { qu with spec := none }))

/-- COMMIT_COMPLETE (R100, R102): the last commit write has been performed at its home. -/
def execCommitComplete (vf q : Nat) (s : State) : Host.Outcome State Fault Refusal :=
  match (s.queue vf q).spec.bind s.launch with
  | none => .next s
  | some l => if l.claiming && !committing s l.id then .next (endCommit vf q l.id s) else .next s

/-- SPECULATION_TIMEOUT (R99): 1 ms without a claim. -/
def execSpeculationTimeout (vf q : Nat) (s : State) : Host.Outcome State Fault Refusal :=
  match (s.queue vf q).spec with
  | none => .next s
  | some id => match s.launch id with
    | none => .next s
    | some l => if l.spec && decide (l.since + 1000 * usec ≤ s.time) then .next (sweep (discardSpec .doom id s)) else .next s

/-! ## Pre-emption (R91, R92, R368) -/

/-- A COPEN in progress is abandoned: its probe is torn down, the handle FAILED, CAUSE PROBE (R368). -/
def abandonProbes (k : Nat) (s : State) : State :=
  match s.inst k with
  | none => s
  | some i =>
    (i.cmds.filter (fun c => c.isCopen && c.phase = .probing)).foldl (fun s c =>
      match handleOf c.word with
      | some h => copenFails k h.toNat c.id (tearStrait k h.toNat (i.handle h.toNat) s)
      | none => s) s

/-- Copies stop at their row boundary: what they have read outside for a row under way is read again (R92). -/
def stopRows (i : Inst) : Inst := { i with cmds := i.cmds.map (fun c => if c.isCopy then { c with got := [] } else c) }

/-- The save of the instance on isle k begins: nothing more issues, tide requests are withdrawn, circuits are torn down, started
collectives and rotations fail, copies stop (R92, R150, R162, R167, R368). -/
def beginSave (k : Nat) (s : State) : State :=
  match s.inst k with
  | none => s
  | some i =>
    let s := withdrawTide i.uid (takeSlot k s)
    let s := failStarted k 4 5 (abandonProbes k s)
    let s := (upto 8).foldl (fun s h => breakStrait k h caSAVED s) s
    let s := (s.meters.filter (fun m => m.uid = i.uid)).foldl (fun s m => breakPromoted m.flow caSAVED s) s
    (dropReads i.uid s).updInst k stopRows

/-! ## Dispatch (R75, R76, R86, R90) -/

/-- Isles are taken: speculations on them are doomed, and what waits for them goes on once they have drained (R75, R99). -/
def takeOver (ks : List Nat) (s : State) : State := sweep (doomOn ks s)

/-- The isles hold nothing any more, on dies in service. -/
def allFree (s : State) (ks : List Nat) : Bool := ks.all (fun k => (s.inst k).isNone && !dieIsDown s (dieOfIsle k))

/-- The launch at the head of (v, q) is given its isles. -/
def giveIsles (v q : Nat) (ks : List Nat) (s : State) : State :=
  match readyOf s v q with
  | none => s
  | some r => takeOver ks (s.setQueue v q { s.queue v q with held := some { r.l with isles := ks, chain := r.chain, eff := r.eff } })

/-- Carries out an action of the order (R90). -/
def carryOut (a : Action) (s : State) : State :=
  match a with
  | .resume uid k =>
    takeOver [k] { s with saved := s.saved.map (fun i => if i.uid = uid then { i with goes := some k } else i) }
  | .dispatch v q ks => giveIsles v q ks s
  | .preempt _ _ ks => sweep (ks.foldl (fun s k => beginSave k s) s)

/-- Dispatches the launch at the head of (v, q) to its isles; a chain that has failed since rejects it (R77, R86). -/
def dispatchTo (v q : Nat) (l : Launch) (ext : List (Nat × Byte)) (s : State) : State :=
  let qu := s.queue v q
  match tablesOf s v (pkRcb l.packet) with
  | none =>
    let s := s.setQueue v q { qu with held := none, unsettled := qu.unsettled.filter (fun id => id ≠ l.id) }
    advanceHead v q (rejectLaunch v q 4 l.packet qu.rcb s)
  | some t => match argsOf s l t.segs t.part ext with
    | .ok args =>
      let new : Launch := { l with
        args := args, key := keyOf l.packet l.header args l.mask, chain := t.chain, doms := domainsOf s t.chain, eff := t.eff
        segs := t.segs, part := t.part, pred := qu.last, since := s.time }
      trySpec v q (startLaunch new (s.setQueue v q (qu.dispatched new)))
    | _ => s

/-- The next dispatchable launch of (v, q) meets the speculation of its queue, as soon as its arguments have been read. -/
def meetNext (v q : Nat) (ext : List (Nat × Byte)) (s : State) : State :=
  match readyOf s v q with
  | none => s
  | some r => if !meetsSpec s r then s
    else match argsOf s r.l r.l.segs r.l.part ext with
      | .ok args => meetSpec v q r.l args s
      | _ => s

/-- LAUNCH_DISPATCH (R74 to R77, R90, R96, R97, R100): the launch meets its queue's speculation, the order goes on, and a launch whose
isles have drained is dispatched. -/
def execLaunchDispatch (vf q : Nat) (ext : List (Nat × Byte)) (s : State) : Host.Outcome State Fault Refusal :=
  let s := orderStep carryOut (meetNext vf q ext s)
  match committed s vf q with
  | some l => if allFree s l.isles then .next (dispatchTo vf q l ext s) else .next s
  | none => .next s

/-! ## The save area (R85, R93) -/

/-- Cells of a list of words from address a on. -/
def wordCells : Nat → List Nat → List (Nat × Byte)
  | _, [] => []
  | a, w :: ws => cellsOf a 8 w ++ wordCells (a + 8) ws

/-- n words at address a whose contents the spec does not lay out: free values. -/
def freeCells (fresh a n : Nat) : List (Nat × Byte) := wordCells a ((upto n).map (fun k => (Config.freeWord (fresh + k)).toNat))

/-- Return-stack entry k with the oldest first, 0 above the depth (R242). -/
def oldestEntry (stack : List Word) (k : Nat) : Nat := (stack.reverse.getD k 0).toNat

/-- A context's area of 512 bytes: G, PC, walk position, a block cause the spec does not lay out, and the return state of R242 (R93). -/
def ctxCells (fresh a : Nat) (x : CtxState) : List (Nat × Byte) :=
  wordCells a ((upto 24).map (fun n => (x.gGet n).toNat)) ++ wordCells (a + 192) [x.pc.toNat, x.walk.toNat] ++
  freeCells fresh (a + 208) 1 ++ wordCells (a + 216) ((upto 7).map (oldestEntry x.stack) ++ [x.stack.length])

/-- The message windows: MWCFG, MWCUR, open-packet state, and the payloads of open packets (R93). -/
def winCells (a : Nat) (i : Inst) : List (Nat × Byte) :=
  (upto 16).flatMap (fun w =>
    let x := i.msgWin w
    wordCells (a + 0x8A000 + 32 * w)
      [x.cfg.toNat, x.cursor.toNat, if x.len = 0 then 0 else 2 ^ 63 + (x.len - 1), 0] ++
    (if x.len = 0 then [] else (upto 2048).map (fun n => (a + 0x8A200 + 2048 * w + n, Sparse.get 0 x.payload n))))

/-- Barrier state: ARR, LAGL, LAGC and LAGS of each id (R305). -/
def barWord (i : Inst) (b : Nat) : Nat :=
  (i.arrOf b).toNat * 2 ^ 48 + (i.ctxL.lagOf b).toNat * 2 ^ 32 + (i.ctxC.lagOf b).toNat * 2 ^ 16 + (i.ctxS.lagOf b).toNat

/-- The data of a landing entry: lanes of 4 bytes for a V register, the value for another destination (R93). -/
def Req.bytes (r : Req) : List Byte :=
  let lane (n : Nat) : Nat := match r.data.find? (fun d => d.1 = n) with
    | some d => d.2
    | none => 0
  match r.dst with
  | .v _ => (upto 64).flatMap (fun n => leBytes 4 (lane n))
  | _ => leBytes 256 (lane 0)

/-- The request has an entry of the landing buffer (R54). -/
def Req.buffered (r : Req) : Bool :=
  match r.dst with
  | .discard => false
  | .t _ => false
  | _ => true

/-- The landing entries in issue order, their data after 16 bytes whose layout is open (R60, R93). -/
def landCells (fresh a : Nat) (rs : List Req) : List (Nat × Byte) :=
  ((rs.filter Req.buffered).take 48).zipIdx.flatMap (fun r =>
    freeCells (fresh + 2 * r.2) (a + 272 * r.2) 2 ++ cellsAt (a + 272 * r.2 + 16) r.1.bytes)

/-- The extension of a CL snapshot: the parameter block of a ROTA, zero for another command (R93, R363). -/
def extCells (a : Nat) (cs : List Cmd) : List (Nat × Byte) :=
  ((cs.filter (fun c => c.isOf .cl)).take 16).zipIdx.flatMap (fun c =>
    cellsAt (a + 256 * c.2) (if c.1.isRota then c.1.block else List.replicate 256 0))

/-- The areas whose inner layout the spec leaves open: offset and 8-byte words. -/
def openAreas : List (Nat × Nat) := [(0x0, 32), (0x700, 64), (0x6700, 1536), (0x9700, 256)]

/-- Bytes of the save slot at address a (R93). -/
def saveCells (s : State) (i : Inst) (a : Nat) : List (Nat × Byte) :=
  ctxCells s.fresh (a + 0x100) i.ctxL ++ ctxCells (s.fresh + 1) (a + 0x300) i.ctxC ++ ctxCells (s.fresh + 2) (a + 0x500) i.ctxS ++
  wordCells (a + 0x900) ((upto 8).map (fun n => (i.mGet 64 n).toNat)) ++
  wordCells (a + 0xA00) ((upto 32).map (barWord i)) ++
  (upto 8).flatMap (fun h => cellsAt (a + 0xB00 + 32 * h) ((i.handle h).bytes s.time)) ++
  (upto 64).flatMap (fun n => cellsOf (a + 0xC00 + 32 * n) 32 (i.tGet n).toNat) ++
  (upto 32).flatMap (fun n => (upto 64).flatMap (fun l => cellsOf (a + 0x1400 + 256 * n + 4 * l) 4 (i.vGet n l).toNat)) ++
  landCells (s.fresh + 3) (a + 0x3400) i.reqs ++
  wordCells (a + 0x9F00) [i.fltCause.toNat, i.fltPc.toNat, i.fltAddr.toNat, i.eccLog.toNat, i.mflags.toNat, i.tideSt.toNat,
    i.mwsel.toNat] ++
  (if i.cls.toNat < 2 then
    (upto 131072).flatMap (fun n => cellsOf (a + 0xA000 + 4 * n) 4 (Sparse.get (0 : BitVec 32) i.acc n).toNat) else []) ++
  winCells a i ++ extCells (a + 0x93000) i.cmds ++
  (openAreas.foldl (fun (r : List (Nat × Byte) × Nat) x => (r.1 ++ freeCells r.2 (a + x.1) x.2, r.2 + x.2)) ([], s.fresh + 99)).1

/-- Free words that a save uses. -/
def saveFree : Nat := 99 + (openAreas.map (fun x => x.2)).sum

/-! ## Save and resumption (R59, R60, R92 to R94) -/

/-- A command lets its instance be saved: it has not started, has ended, or is a copy at its row boundary with its writes answered (R92). -/
def savable (s : State) (i : Inst) (c : Cmd) : Bool :=
  c.phase = .queued || c.isDone || (c.isCopy && c.phase = .running && !cmdBusy s i.uid c.id)

/-- The instance has come to its boundary: landings are in, commands at theirs, fallbacks done (R60, R92, R368). -/
def atBoundary (s : State) (i : Inst) : Bool :=
  i.reqs.all (fun r => r.arrived) && i.cmds.all (savable s i) && (upto 8).all (fun h => (i.handle h).st ≠ .fallback)

/-- The instance as it is kept while saved: copies go back to their queue with the rows done, the latch is gone (R92, R332). -/
def Inst.parked (i : Inst) : Inst :=
  { i with
    life := .saving, latch := none, frozen := none, refill := [], goes := none
    cmds := i.cmds.map (fun c => if c.isCopy && c.phase = .running then { c with phase := .queued } else c) }

/-- SAVE_COMPLETE (R92, R93): the isle is free, and the order is evaluated again (R90). -/
def execSaveComplete (isle : Nat) (s : State) : Host.Outcome State Fault Refusal :=
  match s.inst isle with
  | none => .next s
  | some i =>
    if i.life ≠ .saving ∨ !atBoundary s i then .next s
    else
      let a := i.slotBase + 0xA0000 * i.slotNo
      let s := { ownWrite (saveCells s i a) s with fresh := s.fresh + saveFree, freed := true, respec := true }
      .next (sweep { s with slots := Assoc.del s.slots isle, saved := s.saved ++ [i.parked] })

/-- Stores whose values the instance has observed, or made itself (R128, R130, R133). -/
def seenStores (s : State) (i : Inst) : List Nat :=
  i.ctxL.observed ++ i.ctxC.observed ++ i.ctxS.observed ++ i.engObs.map (fun p => p.2) ++ i.cmds.flatMap (fun c => c.obs) ++
    (s.acc.filter (fun a => a.uid = i.uid)).map (fun a => a.id)

/-- A saved instance restored to an isle: its segment table is read again, its pages refill, and what it has observed is visible on the
die it comes to (R59, R94, R113, R128). -/
def restore (isle : Nat) (i : Inst) (s : State) : State :=
  let s := (seenStores s i).foldl (fun s a => showVersion a (dieOfIsle isle) s) s
  let s := s.updLaunch i.launch (fun l => { l with segs := segsAt s l.eff.segtab })
  let s := forgetRota isle { s with saved := s.saved.filter (fun x => x.uid ≠ i.uid), freed := true }
  s.setInst isle { i with life := .running, since := s.time, refill := upto i.counts.spad, goes := none }

/-- INSTANCE_RESUME (R90, R94): the order goes on, and an instance whose isle has drained is restored. -/
def execInstanceResume (inst isle : Nat) (s : State) : Host.Outcome State Fault Refusal :=
  let s := orderStep carryOut s
  match s.saved.find? (fun i => i.uid = inst && i.goes = some isle) with
  | none => .next s
  | some i => if allFree s [isle] then .next (restore isle i s) else .next s

end Sys2Proof.Machine
end

