-- ==== Sys2Proof/Machine/Links.lean ====
section
/-!
DEFINITION. Die reset and return to service (R388, R389), device failure (R408), uncorrectable flits on the links of the dies and
of the fabric (R390, R391, R395).
-/
namespace Sys2Proof.Machine

/-! ## Device failure (R408) -/

/-- Every fault domain the device knows: of live launches, and of the regions of enabled queues. -/
def allDomains (s : State) : List Nat :=
  (s.launches.flatMap (fun p => p.2.doms) ++ s.queues.flatMap (fun p =>
    if (s.queue p.1 p.2).en then (match chainOf s p.1 (s.queue p.1 p.2).rcb with
      | some c => domainsOf s c.1
      | none => [])
    else [])).eraseDups

/-- Sets VFSTAT.FAIL of every function, the physical one as function 0. -/
def failVfs (s : State) : State := (upto 65).foldl (fun s v => s.setVf v { s.vf v with fail := true }) s

/-- MSI-X vector 3 of every function. -/
def signalFailure (s : State) : State := (upto 65).foldl (fun s v => s.send (.msix v 3)) s

/-- A device failure (R408): FAIL in every function, vector 3, every fault domain aborts; queues stop parsing while it lasts. The
DETAIL of these ABORT entries is a free value. -/
def deviceFailure (s : State) : State :=
  if s.failed then s
  else
    let detail := (Config.freeWord s.fresh).toNat % 4096
    let s := signalFailure (failVfs { s with failed := true, fresh := s.fresh + 1 })
    (allDomains s).foldl (fun s d => abortDomain d detail [] s) s

/-! ## Die reset (R388, R389) -/

/-- Isles of stack group d with an instance that is not ended. -/
def isleOn (s : State) (d : Nat) : List Nat :=
  (s.slots.filter (fun p => dieOfIsle p.1 = d && (p.2.life = .running || p.2.life = .saving))).map (fun p => p.1)

/-- Launches with such an instance. -/
def launchesOn (s : State) (d : Nat) : List Launch :=
  ((isleOn s d).filterMap (fun k => (s.inst k).map (fun i => i.launch))).eraseDups.filterMap s.launch

/-- Step 1: the instances stop, each affected region receives an entry DIERESET, each fault domain aborts with detail 2. -/
def abortDie (d : Nat) (s : State) : State :=
  let ls := launchesOn s d
  let regions := (ls.map (fun l => l.chain.headD 0)).eraseDups
  let domains := (ls.map Launch.dom).eraseDups
  let kaddr (r : Nat) : Word := match ls.find? (fun l => l.chain.headD 0 = r) with
    | some l => BitVec.ofNat 64 (pkKaddr l.packet)
    | none => 0
  let s := (isleOn s d).foldl (fun s k => stopInst k s) s
  let s := regions.foldl (fun s r => recordEntry r ⟨cDIERESET, d, 0, 0, 0, kaddr r, 0, false⟩ s) s
  domains.foldl (fun s r => abortDomain r 2 [] s) s

/-- Step 2: speculations whose cellar lines lie in the die's L2 are doomed. -/
def doomCellars (d : Nat) (s : State) : State :=
  sweep (((s.launches.filter (fun p => p.2.spec && (linesOf p.2).any (fun n => homeDie (64 * n) = d))).map (fun p => p.1)).foldl
    (fun s id => discardSpec .doom id s) s)

/-- The modified copy of a line was in a cache of stack group d (R124): in an L1 of it, or in the L2 of a home on it. -/
def copyOn (d : Nat) (p : Nat × Nat) : Bool :=
  if p.2 = 257 then homeDie (64 * p.1) = d else dieOfIsle (p.2 - 1) = d

/-- Steps 3 and 4 for one line: a lost copy poisons the line at its home; whether it had been written back before is open, and
decided by a free value. Copies in L1s of other dies are written back. -/
def resetLine (d : Nat) (p : Nat × Nat) (s : State) : State :=
  let clean : State := { s with dirty := Sparse.erase s.dirty p.1 }
  if copyOn d p then
    let t : State := { clean with fresh := s.fresh + 1 }
    if Config.lineLost s.fresh p.1 then { t with poison := Sparse.set false t.poison p.1 true } else t
  else if homeDie (64 * p.1) = d then clean else s

/-- Step 5: scratchpads and accumulators cleared, the slices of the W-die written with zeros. -/
def clearDie (d : Nat) (s : State) : State :=
  let onDie (a : Nat) : Bool := decide (wsBase ≤ a) && wsIsle a / 32 = d
  { s with
    slots := s.slots.map (fun p => if dieOfIsle p.1 = d then
      (p.1, { p.2 with spad := [], spadPoison := [], acc := [], accPoison := [], latch := none }) else p)
    mem := s.mem.filter (fun c => !onDie c.1)
    poisonWs := s.poisonWs.filter (fun p => !onDie (8 * p.1))
    versions := s.versions.map (fun v => { v with cells := v.cells.filter (fun c => !onDie c.1) }) }

/-- DIE_RESET (R388, R389): steps 1 to 5; the die is out of service until it returns. -/
def execDieReset (die : Nat) (s : State) : Host.Outcome State Fault Refusal :=
  if 8 ≤ die ∨ dieIsDown s die ∨ s.boot ≠ .running then .next s
  else
    let s := doomCellars die (abortDie die s)
    let s := clearDie die (s.dirty.foldl (fun s p => resetLine die p s) s)
    .next (sweep { s with dieDown := s.dieDown ++ [(die, s.time)] })

/-- Requests held go on in arrival order (R389); one whose home is on another die in reset is held again. -/
def releaseHeld (s : State) : State := s.dieHeld.foldl (fun s r => arriveAny r s) { s with dieHeld := [] }

/-- DIE_RETURNS_TO_SERVICE (R389, step 6): its isles are free; a failed device is returned by a reset alone (R408). -/
def execDieReturnsToService (die : Nat) (s : State) : Host.Outcome State Fault Refusal :=
  if !dieIsDown s die || s.failed then .next s
  else .next (sweep (releaseHeld { s with dieDown := Assoc.del s.dieDown die, freed := true, respec := true }))

/-- DIE_RESET_TIMEOUT (R389): 10 ms after the reset began. -/
def execDieResetTimeout (die : Nat) (s : State) : Host.Outcome State Fault Refusal :=
  match Assoc.find s.dieDown die with
  | none => .next s
  | some t => if t + 10000 * usec ≤ s.time then .next (deviceFailure s) else .next s

/-! ## Uncorrectable flits between dies (R390, R395) -/

/-- DETAIL of LINKERR (R374): link by TIDE's number, stack group, data flit. -/
def linkDetail (link group : Nat) (data : Bool) : Nat := linkNumber link % 16 + 16 * (group % 8) + 128 * b2n data

/-- The stack group of an entry: of a V-M link, or the home die of the transaction's line (R395). -/
def groupOf (link home : Nat) : Nat := if link < 8 then link else home

/-- The V-V links on the way from die a to die b (R153). -/
def linksBetween : Nat → Nat → Nat → List Nat
  | 0, _, _ => []
  | n + 1, a, b =>
    if a = b then []
    else (match vvLink a (nextDie a b) with
      | some l => [l.1]
      | none => []) ++ linksBetween n (nextDie a b) b

/-- The home die of a part of this device's memories, and whether it is DRAM. -/
def partHome (s : State) (a : Access) (p : Part) : Option (Nat × Bool) :=
  match placeOf s a p with
  | .cell x => some (homeDie x, decide (x < wsBase))
  | .pad uid _ => (s.isleOf uid).map (fun k => (dieOfIsle k, false))
  | _ => none

/-- Messages of part p of access a are on a link: between the isle and the home, from the home to its vault, or, for a store performed
at its home, from there to a die that does not see it yet (R395). -/
def partOn (s : State) (link : Nat) (a : Access) (p : Part) : Bool :=
  match partHome s a p with
  | none => false
  | some (h, dram) =>
    if link < 8 then h = link && dram && !p.done
    else (!p.done && (linksBetween 4 (dieOfIsle a.isle) h).contains link) ||
      (p.done && a.kind.writes && p.st = .ok &&
        (upto 8).any (fun d => !a.vis.getLsbD d && (linksBetween 4 h d).contains link))

/-- The home die and the virtual address of the part of an access on a link. -/
def onLink (s : State) (link : Nat) (a : Access) : Option (Nat × Word) :=
  (a.parts.find? (partOn s link a)).map (fun p => (match partHome s a p with
    | some x => x.1
    | none => 0, p.va))

/-- Poison where the bytes of a part would have gone. -/
def poisonPart (a : Access) (p : Part) (s : State) : State :=
  match placeOf s a p with
  | .cell x => (upto ((x + p.len - 1) / 8 - x / 8 + 1)).foldl (fun s k => setPoison (8 * (x / 8 + k)) s) s
  | .pad uid o => poisonPad uid o p.len s
  | _ => s

/-- The parts of access id that p selects and that are not done end with this outcome. -/
def endParts (id : Nat) (st : Status) (p : Part → Bool) (s : State) : State :=
  s.updAccess id (fun a => { a with parts := a.parts.map (fun x => if !x.done && p x then { x with done := true, st := st } else x) })

/-- Data is read back: of a load or returning atomic, or the packet that a LAUNCH reads. -/
def AccKind.reads (k : AccKind) : Bool := k.returns || k = .tail

/-- Data of a load, returning atomic or LAUNCH arrives poisoned (R390). -/
def poisonLoad (id : Nat) (p : Part → Bool) (s : State) : State :=
  let s := endParts id .poison p s
  match s.access id with
  | none => s
  | some a => if isTail a.kind then performTail id [] s else finishLoad id s

/-- Write access id goes on after parts of it have ended without being performed. -/
def settleWrite (id : Nat) (s : State) : State :=
  match s.access id with
  | none => s
  | some a =>
    if !a.allDone then s
    else if isTail a.kind then performTail id [] s
    else
      let s := s.updAccess id (fun a => { a with atHome := true })
      if (s.versions.filter (fun v => v.acc = id)).all (fun v => v.vis = BitVec.allOnes 8) then finishStore id s else s

/-- LINKERR about access a and the virtual address of what was lost (R374, R378, R390). -/
def linkError (link home : Nat) (data : Bool) (a : Access) (va : Word) (s : State) : State :=
  recordAcc a cLINKERR (linkDetail link (groupOf link home) data) va s

/-- Write data of access id is lost on a link: the target lines become poisoned, its bytes are not performed, and LINKERR is entered; a
returning atomic completes as a poisoned read. -/
def loseWrite (link id : Nat) (s : State) : State :=
  match s.access id with
  | none => s
  | some a =>
    let hit (p : Part) : Bool := !p.done && partOn s link a p
    match a.parts.find? hit with
    | none => s
    | some p =>
      let home := match partHome s a p with
        | some x => x.1
        | none => 0
      let t := linkError link home true a p.va ((a.parts.filter hit).foldl (fun t p => poisonPart a p t) s)
      if a.kind.reads then poisonLoad id hit t else settleWrite id (endParts id .ok hit t)

/-- The first byte that command c writes in a line, by the virtual address of its entry (R378): none where it writes nothing there. -/
def writesLine (s : State) (v : Eng) (line : Nat) : Option Word :=
  let w := writtenRanges v.c
  let inLine (n : Nat) : Bool := match engPlace s v w.1 (n : Nat) 1 (.engWrite v.c.id) with
    | .cell x => lineOf x = line
    | .pad uid o => uid ≠ v.i.uid && padLine s uid o = line
    | _ => false
  ((w.2.flatMap (fun r => (upto r.2).map (fun n => r.1 + n))).find? inLine).map (fun n => engAddr w.1 (n : Nat))

/-- The home V-die of a line, by its number (R395). -/
def lineHome (line : Nat) : Nat :=
  match localTgt (64 * line) with
  | .spad k _ => dieOfIsle k
  | _ => homeDie (64 * line)

/-- Command id has lost the transfer of a line. -/
def loseLine (id line : Nat) (write : Bool) (s : State) : State :=
  match findCmd s id with
  | none => s
  | some (k, _, _) => s.updInst k (fun i => i.updCmd id (fun c => { c with lost := c.lost ++ [(line, write)] }))

/-- Command id has lost a write to a line: LINKERR, with its virtual address, or the FPA where that alone is known (R378). -/
def loseEngWrite (link id line : Nat) (data : Bool) (s : State) : State :=
  match findCmd s id with
  | none => s
  | some (k, i, c) =>
    let fpa : Word := BitVec.ofNat 64 (2 ^ 63 + (selfPeer s i).getD 0 * 2 ^ 45 + 64 * line)
    let va := (writesLine s ⟨k, i, c⟩ line).getD fpa
    let e := { cmdEntry k i c cLINKERR (linkDetail link (groupOf link (lineHome line)) data) with addr := va }
    instFault i.uid i.launch e (loseLine id line true s)

/-- Poison where arriving bytes were to go: a line of DRAM, of the weight store, or of a scratchpad, by its number (R390, R391). -/
def poisonArriving (line : Nat) (s : State) : State :=
  match localTgt (64 * line) with
  | .spad k o => (match s.inst k with
    | some i => poisonPad i.uid o 64 s
    | none => s)
  | .dram a => poisonLine (lineOf a) s
  | .ws _ => poisonLine line s
  | _ => s

/-- An access in flight on a link completes with error: what it reads as a poisoned read, a write discarded with LINKERR, what other
dies have not seen of it too (R390, R395). -/
def failAccess (link : Nat) (a : Access) (s : State) : State :=
  let hit := partOn s link a
  match onLink s link a with
  | none => s
  | some (home, va) =>
    if a.kind.reads then poisonLoad a.id hit s
    else
      let unseen (c : Nat × Byte) : Bool := a.parts.any (fun p => hit p && (match placeOf s a p with
        | .cell x => decide (x ≤ c.1) && decide (c.1 < x + p.len)
        | _ => false))
      let t := linkError link home false a va s
      let t := { t with versions := t.versions.map (fun v =>
        if v.acc = a.id then { v with cells := v.cells.filter (fun c => !unseen c), vis := BitVec.allOnes 8 } else v) }
      settleWrite a.id (endParts a.id .ok hit t)

/-- An engine command with a transaction in flight on a link for these lines: its reads of them are poisoned, its writes discarded with
LINKERR. -/
def failCommand (link id : Nat) (lines : List Nat) (s : State) : State :=
  match findCmd s id with
  | none => s
  | some (k, i, c) => lines.foldl (fun t n =>
      if (writesLine s ⟨k, i, c⟩ n).isSome then loseEngWrite link id n false t else loseLine id n false t) s

/-- One transaction in flight completes with error. -/
def failTransaction (link : Nat) (lines : List Nat) (id : Nat) (s : State) : State :=
  match s.access id with
  | some a => failAccess link a s
  | none => failCommand link id lines s

/-- LINK_FLIT_ERROR (R390, R395); the link is numbered as in State.links. -/
def execLinkFlitError (link : Nat) (hit : FlitHit) (s : State) : Host.Outcome State Fault Refusal :=
  match hit with
  | .loadData id => .next (sweep (match s.access id with
    | some a => if a.kind.reads then poisonLoad id (partOn s link a) s else s
    | none => s))
  | .storeData id => .next (sweep (loseWrite link id s))
  | .engineRead id line => .next (loseLine id line false s)
  | .engineWrite id line => .next (loseEngWrite link id line true s)
  | .arriving line => .next (poisonArriving line s)
  | .control ids lines =>
    let s := ids.foldl (fun s id => failTransaction link lines id s) s
    let s := lines.foldl (fun s n => poisonArriving n s) s
    .next (sweep (s.count (blkLink link) idxRETRAINS))

/-! ## Uncorrectable flits on the fabric (R391) -/

/-- The data that access id reads over a fabric port arrives poisoned. -/
def poisonOver (port id : Nat) (s : State) : State :=
  match s.access id with
  | some a => if a.kind.reads then poisonLoad id (fun p => inFlight s a p && partPort s a p = some port) s else s
  | none => s

/-- FABRIC_FLIT_ERROR (R391): data arrives as poisoned, here for a read of a context or an engine and for an arriving write, at the peer
for a store; a control flit is a failure of the link. -/
def execFabricFlitError (port : Nat) (hit : FlitHit) (s : State) : Host.Outcome State Fault Refusal :=
  match hit with
  | .loadData id => .next (sweep (poisonOver port id s))
  | .storeData _ => .next s
  | .engineRead id _ => .next (sweep ((s.acc.filter (fun a => a.kind = .engRead id)).foldl (fun s a => poisonOver port a.id s) s))
  | .engineWrite _ _ => .next s
  | .arriving line => .next (poisonArriving line s)
  | .control _ _ => execLinkFailure port s

end Sys2Proof.Machine
end

