-- ==== Sys2Proof/Machine/HostEvents.lean ====
section
/-!
DEFINITION. The host, the firmware and the module: resets and the life cycle (R402 to R406), clock and power (R407, R408), register
writes (R12, R67, R397 to R399), abort requests, and requests of the host at device memory (R386, R396).
-/
namespace Sys2Proof.Machine

/-! ## Resets, firmware and life cycle (R402 to R406) -/

/-- A reset: every memory wiped, every register at its reset value; fuses and life-cycle state stay (R29, R405, R406). What is the
model's own goes on: time, turn, numbering, the agenda, and what was already sent. -/
def resetDevice (s : State) : State :=
  { State.reset with
    time := s.time, turn := s.turn, agenda := s.agenda, fresh := s.fresh, nextId := s.nextId, nextUid := s.nextUid
    nextLaunch := s.nextLaunch, out := s.out, lifeCycle := s.lifeCycle, popmap := s.popmap, mxmap := s.mxmap, vwmap := s.vwmap }

/-- DEVICE_RESET (R406). -/
def execDeviceReset (s : State) : Host.Outcome State Fault Refusal := .next (resetDevice s)

/-- SIDEBAND_RESET_REQUEST (R402). -/
def execSidebandResetRequest (s : State) : Host.Outcome State Fault Refusal := .next (resetDevice s)

/-- FIRMWARE_LOAD (R403): the boot ROM takes an image after a reset or in BOOTFAIL. -/
def execFirmwareLoad (image signature : List Byte) (s : State) : Host.Outcome State Fault Refusal :=
  if s.boot = .running then .next s
  else if Config.falconVerifies (Config.shake256 image) signature then .next { s with boot := .running, image := image }
  else .next ({ s with boot := .bootfail }.send .bootFailed)

/-- The row of a life-cycle state in the table of R405. -/
def lifeRow : LifeCycle → Nat
  | .blank => 0
  | .provisioned => 1
  | .deployed => 2
  | .rma => 3

/-- The 288 bytes of a report (R404). -/
def reportBytes (nonce : List Byte) (s : State) : List Byte :=
  leBytes 2 1 ++ leBytes 2 (Config.lifeCycleCode (lifeRow s.lifeCycle)).toNat ++ nonce ++ Config.shake256 s.image ++
  Config.identityDigest ++ leBytes 32 s.popmap.toNat ++ leBytes 32 s.mxmap.toNat ++ leBytes 32 s.vwmap.toNat ++
  List.replicate 28 0

/-- ATTESTATION (R404): the firmware answers; without an identity key the request fails. -/
def execAttestation (nonce : List Byte) (s : State) : Host.Outcome State Fault Refusal :=
  if s.boot ≠ .running ∨ nonce.length ≠ 32 then .next s
  else if s.lifeCycle = .blank ∨ s.lifeCycle = .rma then .next (s.send .attestationFailed)
  else
    let r := reportBytes nonce s
    .next (s.send (.attestation r (Config.falconSign (Config.shake256 r))))

/-- A step of the life cycle that R405 allows. -/
def mayAdvance (frm tgt : LifeCycle) (actor : LifeCycleActor) : Bool :=
  match frm, tgt, actor with
  | .blank, .provisioned, .vendor => true
  | .provisioned, .deployed, .owner => true
  | .provisioned, .rma, _ => true
  | .deployed, .rma, .owner => true
  | _, _, _ => false

/-- LIFE_CYCLE_CHANGE (R405, R406): a life-cycle change is a reset. -/
def execLifeCycleChange (tgt : LifeCycle) (actor : LifeCycleActor) (s : State) : Host.Outcome State Fault Refusal :=
  if mayAdvance s.lifeCycle tgt actor then .next { resetDevice s with lifeCycle := tgt } else .next s

/-! ## Clock and power (R407, R408) -/

/-- CLOCK_THROTTLE (R407): a step of 50 MHz at 100 °C, down to 400 MHz. -/
def execClockThrottle (junction : Nat) (s : State) : Host.Outcome State Fault Refusal :=
  if 100 ≤ junction ∧ 450 ≤ s.mhz then .next { s with mhz := s.mhz - 50 } else .next s

/-- SHUTDOWN (R407, R408). -/
def execShutdown (s : State) : Host.Outcome State Fault Refusal := .next (deviceFailure s)

/-! ## Registers of the function pages (R67, R399) -/

/-- The function exists, the physical one as function 0, and firmware runs (R396, R397). -/
def servesVf (s : State) (v : Nat) : Bool := s.boot = .running && decide (v ≤ 64)

/-- A queue of the VF has EN = 1. -/
def anyEnabled (s : State) (v : Nat) : Bool := (s.vf v).queues.any (fun q => q.2.en)

/-- The abort that a write to ABORTREQ raises (R383, R384, R399); it completes at once, and vector 2 says so (R396). -/
def abortRequest (vf : Nat) (value : Word) (s : State) : State :=
  if !servesVf s vf then s
  else match chainOf s vf (field value.toNat 7 38 * 128) with
    | none => s
    | some (chain, _) => abortDomain (domainOf s chain) 3 [vf] s

/-- ABORTREQ (R399). -/
def execAbortreq (vf : Nat) (value : Word) (s : State) : Host.Outcome State Fault Refusal := .next (abortRequest vf value s)

/-- A write of RRQCTL: HEAD always, LOGSZ while every queue is disabled (R399). -/
def putRrqctl (vf : Nat) (value : Word) (s : State) : State :=
  if !servesVf s vf then s
  else
    let v := s.vf vf
    s.setVf vf { v with
      rrqHead := field value.toNat 16 16, rrqLogsz := if anyEnabled s vf then v.rrqLogsz else field value.toNat 0 5 }

/-- RRQCTL_WRITE (R399). -/
def execRrqctlWrite (vf : Nat) (value : Word) (s : State) : Host.Outcome State Fault Refusal := .next (putRrqctl vf value s)

/-- RRQCTL_READ (R399): the value goes to the host, and DROPS is cleared. -/
def execRrqctlRead (vf : Nat) (s : State) : Host.Outcome State Fault Refusal :=
  if servesVf s vf then .next ((clearDrops vf s).send (.hostResponse (.ok (rrqctlWord (s.vf vf))) (rrqctlWord (s.vf vf))))
  else .next s

/-- A write to QBASE, ignored while EN is 1 (R67, R68). -/
def putQbase (vf q : Nat) (value : Word) (s : State) : State :=
  let x := s.queue vf q
  if !servesQueue s vf q || x.en then s
  else s.setQueue vf q { x with base := BitVec.ofNat 64 (field value.toNat 6 42 * 64) }

/-- A write to QCFG that leaves EN at 0 (R67). -/
def putQcfg (vf q : Nat) (value : Word) (s : State) : State :=
  let x := s.queue vf q
  if !servesQueue s vf q || x.en then s
  else s.setQueue vf q { x with rcb := field value.toNat 7 38 * 128, logsz := field value.toNat 0 5 }

/-- A write to a register of a VF that is ignored while a queue of the VF has EN = 1 (R399). -/
def putVf (vf : Nat) (f : Vf → Vf) (s : State) : State :=
  if !servesVf s vf || anyEnabled s vf then s else s.setVf vf (f (s.vf vf))

def putRoot (value : Word) (v : Vf) : Vf := { v with rootrcb := field value.toNat 7 38 * 128 }
def putPoolBase (value : Word) (v : Vf) : Vf := { v with poolbase := field value.toNat 21 24 * 2 ^ 21 }
def putPoolSize (value : Word) (v : Vf) : Vf := { v with poolsize := field value.toNat 0 20 }
def putRrqBase (value : Word) (v : Vf) : Vf := { v with rrqbase := field value.toNat 12 33 * 2 ^ 12 }

/-! ## Firmware registers (R112, R140, R155, R160, R170, R171, R177) -/

/-- The role of a port by its code: unused, row link, column link, UALink station group. -/
def roleOf (role : BitVec 2) (target : Nat) : PortRole :=
  match role.toNat with
  | 1 => .row (target % 64)
  | 2 => .col (target % 64)
  | 3 => .ualink
  | _ => .unused

/-- The members of the port group of port p (R175). -/
def groupPorts (p : Nat) : List Nat := (upto 4).map (fun n => 4 * (p / 4) + n)

def putPort (p : Nat) (f : Port → Port) (s : State) : State :=
  { s with ports := Sparse.set .reset s.ports p (f (s.port p)) }

/-- A write of the port map (R170, R175): a station takes the four ports of its group; a member that gets another role ends the station. -/
def putRole (port : Nat) (role : PortRole) (s : State) : State :=
  let all (r : PortRole) (s : State) : State := (groupPorts port).foldl (fun s p => putPort p (fun x => { x with role := r }) s) s
  if role = .ualink then all .ualink s
  else putPort port (fun x => { x with role := role }) (if (s.port port).role = .ualink then all .unused s else s)

/-- An ingress entry as its fields hold it: LBASE in 24 bits at 2 MiB, and closed where R140 gives its size or base no meaning (log 63). -/
def ingressEntry (src tenant lbase logsz : Nat) (r w a : Bool) (gen : Nat) (isOpen : Bool) : IngressEntry :=
  let base := field lbase 21 24 * 2 ^ 21
  let good := decide (21 ≤ logsz) && decide (logsz ≤ 39) && base % 2 ^ logsz = 0
  ⟨src % 4096, tenant % 65536, base, logsz, r, w, a, gen % 65536, isOpen && good⟩

/-- Everything of isle k that runs to peer q breaks, CAUSE TARGET (R167, R366). -/
def targetIsle (q k : Nat) (s : State) : State :=
  let s := (upto 8).foldl (fun s h => match s.inst k with
    | some i => if (i.handle h).peer.toNat = q then breakStrait k h caTARGET s else s
    | none => s) s
  match rotating s k (fun _ => true) with
  | some (_, c) => if rotaDown c.block = q then breakRing k caTARGET s else s
  | none => s

/-- The ingress generation of peer q has changed: circuits to it break (R141, R167, R392). -/
def targetChange (q : Nat) (s : State) : State :=
  let s := (s.meters.filter (fun m => m.flow.peer = q)).foldl (fun s m => breakPromoted m.flow caTARGET s) s
  sweep (s.slots.foldl (fun s p => targetIsle q p.1 s) s)

/-- A write of firmware or the host to a firmware register. -/
def putFirmware (w : RegWrite) (s : State) : State :=
  match w with
  | .ingress index src tenant lbase logsz r w a gen isOpen =>
    if index < 4096 then
      { s with ingress := Sparse.set .unused s.ingress index (ingressEntry src tenant lbase logsz r w a gen isOpen) }
    else s
  | .portRole port role target =>
    if port < 128 ∧ s.launches = [] then putRole port (roleOf role target) s else s
  | .promoThr port units => if units ≤ 16384 then putPort port (fun p => { p with promoThr := 64 * units }) s else s
  | .fabTimeout us => if 10 ≤ us ∧ us ≤ 10000 then { s with fabTimeout := us } else s
  | .foreignLimit part peer limit timeoutUs =>
    if 1 ≤ limit ∧ limit ≤ 1024 ∧ 1 ≤ timeoutUs ∧ timeoutUs ≤ 10000 then
      putForeign { foreignOf s part peer with limit := limit, timeout := timeoutUs } s
    else s
  | .foreignReachable part peer => putForeign { foreignOf s part peer with reachable := true } s
  | .presence peer on =>
    if peer < 4096 then
      { s with presence := if on then s.presence ||| 2 ^ peer else s.presence - (if bitAt s.presence peer then 2 ^ peer else 0) }
    else s
  | .treeEntry index image =>
    if index < 256 ∧ image.length = 32 then { s with trees := Sparse.set 0 s.trees index (BitVec.ofNat 256 (leNat image)) } else s
  | .targetChanged peer => targetChange peer s
  | _ => s

/-- REGISTER_WRITE (R12): by access code; read-only registers ignore it. A QCFG write that moves EN enables or disables (R68). -/
def execRegisterWrite (w : RegWrite) (s : State) : Host.Outcome State Fault Refusal :=
  match w with
  | .qbase vf q value => .next (putQbase vf q value s)
  | .qcfg vf q value =>
    if bitAt value.toNat 5 then execQueueEnable vf q value s
    else if (s.queue vf q).en then execQueueDisable vf q value s
    else .next (putQcfg vf q value s)
  | .qhead _ _ _ => .next s
  | .rootrcb vf value => .next (putVf vf (putRoot value) s)
  | .poolbase vf value => .next (putVf vf (putPoolBase value) s)
  | .poolsize vf value => .next (putVf vf (putPoolSize value) s)
  | .rrqbase vf value => .next (putVf vf (putRrqBase value) s)
  | .vfstat _ _ => .next s
  | w => if s.boot = .running then .next (putFirmware w s) else .next s

/-! ## Requests of the host (R386, R387, R396, R397) -/

/-- A write of a whole register of function page v at offset r (R67, R399); the physical function has no queues (R396). -/
def pageWrite (v r : Nat) (value : Word) (s : State) : Host.Outcome State Fault Refusal :=
  if r < 0x400 then
    match r % 0x40 with
    | 0x00 => execRegisterWrite (.qbase v (r / 0x40) value) s
    | 0x08 => execRegisterWrite (.qcfg v (r / 0x40) value) s
    | 0x18 => execTailWrite v (r / 0x40) value s
    | _ => .next s
  else match r with
    | 0x800 => .next (putVf v (putRoot value) s)
    | 0x808 => .next (putVf v (putPoolBase value) s)
    | 0x810 => .next (putVf v (putPoolSize value) s)
    | 0x818 => .next (putVf v (putRrqBase value) s)
    | 0x820 => .next (putRrqctl v value s)
    | 0x828 => .next (abortRequest v value s)
    | _ => .next s

/-- An MMIO access of the host has a width and alignment that R397 allows. -/
def mmioShape (o n : Nat) : Bool := (n = 4 || n = 8) && o % n = 0

/-- The 8-byte register with n bytes at offset o of it replaced by x. -/
def mergeReg (old o n x : Nat) : Word :=
  BitVec.ofNat 64 (old - old / 2 ^ (8 * o) % 2 ^ (8 * n) * 2 ^ (8 * o) + x % 2 ^ (8 * n) * 2 ^ (8 * o))

/-- The host writes at MMIO offset o; registers of firmware have rows of their own, and everything else ignores writes. A write of 4 bytes
to one half of a register stands for a write of the whole with the other half as it reads, zero in ABORTREQ (log 67). -/
def hostMmioWrite (o : Nat) (data : List Byte) (s : State) : Host.Outcome State Fault Refusal :=
  if mmioShape o data.length && decide (o < 0x410000) then
    let r := o % 0x10000
    pageWrite (o / 0x10000) (r / 8 * 8) (mergeReg (pageWord (s.vf (o / 0x10000)) (r / 8 * 8)) (r % 8) data.length (leNat data)) s
  else .next s

/-- The host reads n bytes at MMIO offset o: a function page, a counter block, a firmware register whose layout is open, or zero. -/
def hostMmioRead (o n : Nat) (s : State) : State :=
  if !mmioShape o n then s.send (.hostResponse (.refused 4) 0)
  else if o < 0x410000 ∨ inCounters o then
    let r := mmioRead (o / 0x10000) o n s
    r.2.2.send (.hostResponse (.ok r.1) r.1)
  else if 0x8000000 ≤ o then
    let v := (Config.freeWord s.fresh).toNat % 2 ^ (8 * n)
    { s with fresh := s.fresh + 1 }.send (.hostResponse (.ok v) v)
  else s.send (.hostResponse (.ok 0) 0)

/-- An offset of BAR0 of a virtual function: the function page alone (R397). -/
def barOk (vf off n : Nat) : Bool := decide (1 ≤ vf) && decide (vf ≤ 64) && decide (off + n ≤ 0x10000)

/-- A host request by the kind of an arriving request. -/
def hostKind : HostReq → Option (Nat × ReqKind)
  | .read pa n => some (pa, .load n)
  | .write pa data => some (pa, .store data)
  | .fetchAdd pa n x => some (pa, .amo .add x n true)
  | .swap pa n x => some (pa, .amo .swap x n true)
  | .cas pa n cmp new => some (pa, .cas cmp new n)
  | .pageRead vf off n => if barOk vf off n then some (mmioBase + 0x10000 * vf + off, .load n) else none
  | .pageWrite vf off data => if barOk vf off data.length then some (mmioBase + 0x10000 * vf + off, .store data) else none
  | _ => none

/-- The device completes the host's atomics of 4 and 8 bytes, naturally aligned, on DRAM and scratchpads (R122, R396). -/
def hostAtomicOk (pa : Nat) : ReqKind → Bool
  | .amo _ _ n _ => (n = 4 || n = 8) && pa % n = 0 && decide (rangeOf pa ≠ 2)
  | .cas _ _ n => (n = 4 || n = 8) && pa % n = 0 && decide (rangeOf pa ≠ 2)
  | _ => true

/-- A request of the host at a device memory location. -/
def hostRequest (pa : Nat) (kind : ReqKind) (s : State) : Host.Outcome State Fault Refusal :=
  match localTgt pa with
  | .mmio o => (match kind with
    | .load n => .next (hostMmioRead o n s)
    | .store data => hostMmioWrite o data s
    | _ => .next (s.send (.hostResponse (.refused 4) 0)))
  | _ =>
    if inService s pa (reqSize kind) kind && hostAtomicOk pa kind then
      .next (sweep (arriveRequest ⟨none, hostSrc, 0, 0, pa, 0, kind⟩ s))
    else if isPosted kind then .next s
    else .next (s.send (.hostResponse (.refused 4) 0))

/-- Counters of errors on a die (R407). -/
def idxCORRECTED : Nat := 6
def idxUNCORRECTABLE : Nat := 7

/-- A bit error that cannot be corrected is detected at a local address: its line or word becomes poisoned (R385). -/
def bitError (pa : Nat) (s : State) : State :=
  match localTgt pa with
  | .dram a => (setPoison a s).count (blkDie (homeDie a)) idxUNCORRECTABLE
  | .ws a => (setPoison a s).count (blkDie (homeDie a)) idxUNCORRECTABLE
  | .spad k o => (s.updInst k (setSpadPoison o)).count (blkDie (dieOfIsle k)) idxUNCORRECTABLE
  | _ => s

/-- The same in an element of an accumulator tile, or of the operand that MXM.RB has latched (R343). -/
def badElement (isle tile row col : Nat) (s : State) : State :=
  (s.updInst isle (fun i => { i with
    accPoison := Sparse.set false i.accPoison (16384 * (tile % 8) + 128 * (row % 128) + col % 128) true })).count
      (blkDie (dieOfIsle isle)) idxUNCORRECTABLE

def badLatched (isle index : Nat) (s : State) : State :=
  (s.updInst isle (fun i => { i with latch := i.latch.map (fun l =>
    if index < l.elems.length + l.scales.length then { l with bad := (l.bad ++ [index]).eraseDups } else l) })).count
      (blkDie (dieOfIsle isle)) idxUNCORRECTABLE

/-- HOST_LINK_REQUEST (R386, R387, R396): a request of the host; also what befalls memory by itself: a modified line is written back
from an L1 to its home L2, or from there to its vault (R124, R389), an error is corrected (R394) or detected (R343, R385). -/
def execHostLinkRequest (r : HostReq) (s : State) : Host.Outcome State Fault Refusal :=
  match r with
  | .evict line => .next { s with dirty := Sparse.erase s.dirty line }
  | .writeBack line => .next (if (Assoc.find s.dirty line).isSome then { s with dirty := Sparse.set 0 s.dirty line 257 } else s)
  | .poison pa => .next (bitError pa s)
  | .badAcc isle tile row col => .next (badElement isle tile row col s)
  | .badLatch isle index => .next (badLatched isle index s)
  | .correctable die => .next (if die < 8 then s.count (blkDie die) idxCORRECTED else s)
  | r => match hostKind r with
    | some (pa, kind) => if s.boot = .running then hostRequest pa kind s else .next s
    | none => .next (match r with
      | .pageRead _ _ _ => s.send (.hostResponse (.refused 4) 0)
      | _ => s)

end Sys2Proof.Machine
end

