-- ==== Sys2Proof/Machine/Landing.lean ====
section
/-!
DEFINITION. The virtual cycle of an isle: landings at its start, freezes, SCHEDMISS, POISON and WATCHDOG (R51 to R57, R291), its
end with VCYC and QDEAD (R50, R58), and the arrival of data and acknowledgements (R54, R59, R78).
-/
namespace Sys2Proof.Machine

/-! ## TIMED_LANDING (R51, R52, R55, R269, R291) -/

/-- A timed request falls due at the vc u. -/
def Req.isDue (r : Req) (u : Word) : Bool := r.timed && decide (r.due.toNat ≤ u.toNat)

/-- The request concerns nothing any more: G0, or a register of an exited context (R49, R251). -/
def Req.idle (i : Inst) (r : Req) : Bool :=
  match r.dst with
  | .discard => true
  | .g c _ _ => !(i.ctx c).live
  | _ => false

/-- The request takes POISON at this boundary: due or interlocked, arrived, unmasked, and not into a G register of an exited
context (R251). -/
def Req.poisonsAt (i : Inst) (u : Word) (r : Req) : Bool :=
  r.arrived && r.poisoned && (r.isDue u || !r.timed) && (match r.dst with
    | .g _ _ _ => (i.ctx r.ctx).live
    | .discard => (i.ctx r.ctx).live
    | _ => true)

/-- Writes the landings of rs that p selects, in issue order. -/
def landAll (rs : List Req) (p : Req → Bool) (i : Inst) : Inst := (rs.filter p).foldl (fun i r => writeDst r i) i

/-- Landings and results of one context issued in the vc before u (R52). -/
def landCtx (u : Word) (rs : List Req) (wb : List Wb) (c : Ctx) (i : Inst) : Inst :=
  let i := landAll rs (fun r => r.ctx = c && decide (u.toNat ≤ r.issued.toNat + 1)) i
  (wb.filter (fun w => w.ctx = c)).foldl (fun i w => i.applyWb w) i

/-- The data of a request is written at the start of vc u: a timed one falls due, an interlocked one has come (R51, R53). -/
def Req.lands (u : Word) (r : Req) : Bool := r.arrived && (r.isDue u || !r.timed) && (r.isDue u || !r.poisoned)

/-- Everything that becomes visible at the start of vc u, in issue order, the mask flags last (R52, R269). -/
def landInst (u : Word) (i : Inst) : Inst :=
  let rs := i.reqs.filter (fun r => r.lands u)
  let wb := i.wb
  let keep := (i.reqs.filter (fun r => !r.lands u)).map (fun r => if r.isDue u then { r with timed := false } else r)
  let i := { i with reqs := keep.filter (fun r => r.timed || !(r.arrived && r.poisoned)), wb := [] }
  let i := landAll rs (fun r => decide (r.issued.toNat + 1 < u.toNat)) i
  let i := landCtx u rs wb .L i
  let i := landCtx u rs wb .C i
  let i := landCtx u rs wb .S i
  rs.foldl (fun i r => raiseFlags r i) i

/-- The start of the vc of isle k: landings, or a freeze, SCHEDMISS or POISON. -/
def landIsle (k : Nat) (s : State) : State :=
  match s.inst k with
  | none => s
  | some i =>
    if !i.runs || i.frozen.isSome then s
    else
      let u := i.vcyc
      match i.reqs.find? (fun r => r.isDue u && !r.arrived && !r.idle i) with
      | some r =>
        if i.tmode then takeTrap k (ctxCode r.ctx) cSCHEDMISS 0 r.pc 0 s
        else s.setInst k { i with frozen := some s.time }
      | none =>
        match i.reqs.find? (fun r => r.poisonsAt i u) with
        | some r => takeTrap k (ctxCode r.ctx) cPOISON r.poisonDetail r.pc r.va s
        | none => s.setInst k (landInst u i)

/-- TIMED_LANDING (R52). -/
def execTimedLanding (isle : Nat) (s : State) : Host.Outcome State Fault Refusal := .next (landIsle isle s)

/-! ## VC_ADVANCE (R50, R58) -/

/-- The block of context c counts for QDEAD as the vc ends: a queue block, or a slip block that the window still makes (R44, R50). -/
def stillCounts (i : Inst) (c : Ctx) : Bool :=
  match (i.ctx c).block with
  | .queue _ => true
  | .slip n => !slipOk i c n
  | _ => false

/-- The context entered a block that counts in an earlier vc, and is in it still. -/
def stuck (i : Inst) (c : Ctx) : Bool := stillCounts i c && decide ((i.ctx c).blockVc.toNat < i.vcyc.toNat)

/-- QDEAD holds: every live context is queue- or slip-blocked, at least one queue-blocked (R50). -/
def qdead (i : Inst) : Bool :=
  !i.liveCtxs.isEmpty && i.liveCtxs.all (stuck i) && i.liveCtxs.any (fun c => (i.ctx c).block.isQueue)

/-- The context that entered its block last; ties go to the later in L, C, S (R50). -/
def lastBlocked (i : Inst) : Ctx :=
  i.liveCtxs.foldl (fun b c => if (i.ctx b).blockVc.toNat ≤ (i.ctx c).blockVc.toNat || !(i.ctx b).live then c else b) .L

/-- DETAIL of QDEAD (R374). -/
def qdeadDetail : Block → Nat
  | .queue q => q
  | _ => 8

def idxBUSY : Nat := 0
def idxFROZEN : Nat := 1

/-- From the next vc on SRD reads the cursors that the packets of this vc have left (R247). -/
def Inst.showCursors (i : Inst) : Inst :=
  { i with wins := (i.wins.map (fun w => (w.1, { w.2 with shown := w.2.cursor }))).filter (fun w => w.2 ≠ .start) }

/-- The vc of isle k ends: QDEAD, or VCYC advances and pushes and pops of the vc become seen (R58, R227). -/
def endVc (k : Nat) (s : State) : State :=
  match s.inst k with
  | none => s
  | some i =>
    if !i.runs || i.frozen.isSome then s
    else if qdead i then
      let c := lastBlocked i
      takeTrap k (ctxCode c) cQDEAD (qdeadDetail (i.ctx c).block) (i.ctx c).pc 0 s
    else (s.setInst k { i.showCursors with vcyc := i.vcyc + 1, qs := i.qs.map Fifo.turn }).count (blkDie (dieOfIsle k)) idxBUSY

/-- VC_ADVANCE (R58). -/
def execVcAdvance (isle : Nat) (s : State) : Host.Outcome State Fault Refusal := .next (endVc isle s)

/-! ## Arrivals (R54, R59, R78) -/

/-- LANDING_DATA_ARRIVAL (R54): the data of access id, or of one part of it. -/
def execLandingDataArrival (isle id : Nat) (only : Option Nat) (answers : List (Nat × Answer)) (s : State) :
    Host.Outcome State Fault Refusal :=
  match s.access id with
  | some a => if a.isle = isle && a.kind.returns then .next (performLoad id only answers s) else .next s
  | none => .next s

/-- WRITE_ACKNOWLEDGE (R78): store id is performed for the agents of a die, or for all. -/
def execWriteAcknowledge (id : Nat) (die : Option Nat) (answers : List (Nat × Answer)) (s : State) :
    Host.Outcome State Fault Refusal :=
  match s.access id with
  | none => .next s
  | some a =>
    if isTail a.kind then .next (performTail id answers s)
    else if a.kind.returns then .next (performLoad id none answers s)
    else .next (performStore id die answers s)

/-! ## Freezes (R55, R57) -/

/-- The landing that freezes the instance is still missing. -/
def stillLate (i : Inst) : Bool := i.reqs.any (fun r => r.isDue i.vcyc && !r.arrived && !r.idle i)

/-- FREEZE_END (R55): every late landing has arrived. -/
def execFreezeEnd (isle : Nat) (s : State) : Host.Outcome State Fault Refusal :=
  match s.inst isle with
  | none => .next s
  | some i => if i.frozen.isSome && !stillLate i then .next (s.setInst isle { i with frozen := none }) else .next s

/-- PC of the earliest-issued late request (R375). -/
def latePc (i : Inst) : Word :=
  match i.reqs.find? (fun r => r.isDue i.vcyc && !r.arrived && !r.idle i) with
  | some r => r.pc
  | none => 0

/-- The freeze of isle k has lasted longer than FRZ_LIMIT (R57). -/
def frozenTooLong (s : State) (i : Inst) : Bool :=
  match i.frozen, s.launch i.launch with
  | some t, some l => decide (t + l.eff.frzlim * usec < s.time)
  | _, _ => false

/-- WATCHDOG (R57): entered in the instance's region, the instance stops, its fault domain aborts. -/
def execWatchdog (isle : Nat) (s : State) : Host.Outcome State Fault Refusal :=
  match s.inst isle with
  | none => .next s
  | some i =>
    if !frozenTooLong s i then .next s
    else match s.launch i.launch with
      | none => .next s
      | some l =>
        if l.spec then .next (sweep (discardSpec .doom i.launch s))
        else
          let s := launchFault i.launch ⟨cWATCHDOG, 0, 0, i.rank, isle, latePc i, 0, false⟩ s
          let s := stopInst isle (addStatus i.launch stWATCHDOG s)
          .next (abortDomain l.dom 1 [] s)

/-- PAGE_REFILL_DONE (R59). -/
def execPageRefillDone (isle page : Nat) (s : State) : Host.Outcome State Fault Refusal :=
  .next (s.updInst isle (fun i => { i with refill := i.refill.filter (fun p => p ≠ page) }))

end Sys2Proof.Machine
end

