-- ==== Sys2Proof/Machine/Message.lean ====
section
/-!
DEFINITION. Appending to queues: LAUNCH and QTAIL (R312 to R314): major 0x31.
-/
namespace Sys2Proof.Machine

/-- LAUNCH (R313): its packet is read and appended when the access is performed. -/
def execLaunch (o : AbOp) (s : State) : Host.Outcome State Fault Refusal :=
  runWord (.launch o) s (fun e =>
    withChecked e [o.a, o.b] [] [] (fun vs => if e.spec then none else addrTrap e .launch 64 0 vs) (fun v i =>
      if e.spec then .block .specStop
      else e.withLaunch (.block .order) (fun l =>
        let src0 := src v 0
        let q := (src v 1).toNat % 16
        match checkElem e.s e.k e.i l .launch 64 0 src0 with
        | .error t => .trap t.cause t.detail src0
        | .ok el =>
          orHeld e l [el.tgt] (
            if !releaseReady e.s e.i.uid e.c e.x then .block .order
            else .go (issueAccess e .tail false [el.part 64 q 0] none i e.s)))))

/-- QTAIL (R314). -/
def execQtail (o : AbOp) (s : State) : Host.Outcome State Fault Refusal :=
  runWord (.qtail o) s (fun e =>
    withSources e [o.a, o.b] [] [] (fun v i =>
      if e.spec then .block .specStop
      else e.withLaunch (.block .order) (fun _ =>
        let q := (src v 0).toNat % 16
        if acquirePending e.s e.i.uid e.c || !releaseReady e.s e.i.uid e.c e.x then .block .order
        else .go (issueAccess e .tail false [⟨0, 0, .mmio 0, 0, .rc, .mem, none, q, (src v 1).toNat % 2 ^ 32, false, 0, .ok⟩] none i e.s))))

end Sys2Proof.Machine
end

