-- ==== Sys2Proof/Machine/Scalar.lean ====
section
/-!
DEFINITION. The integer and address instructions, and LOC (R229 to R235, R254, R255): majors 0x00 to 0x11.
-/
namespace Sys2Proof.Machine

/-- Signed value of a word. -/
def sgn (a : Word) : Int := a.toInt

/-- 1 when the test holds, else 0. -/
def bit1 (b : Bool) : Word := BitVec.ofNat 64 (b2n b)

/-- Bits [127:64] of a product taken as an integer (R229). -/
def highWord (z : Int) : Word := wordOfInt (z / (2 ^ 64 : Nat))

/-- DIV (R230). -/
def divS (a b : Word) : Word :=
  if b = 0 then BitVec.allOnes 64
  else if a = BitVec.intMin 64 ∧ b = BitVec.allOnes 64 then BitVec.intMin 64
  else wordOfInt (Int.tdiv (sgn a) (sgn b))

/-- REM (R230). -/
def remS (a b : Word) : Word :=
  if b = 0 then a
  else if a = BitVec.intMin 64 ∧ b = BitVec.allOnes 64 then 0
  else wordOfInt (sgn a - sgn b * Int.tdiv (sgn a) (sgn b))

/-- DIVU and REMU (R230). -/
def divU (a b : Word) : Word := if b = 0 then BitVec.allOnes 64 else BitVec.ofNat 64 (a.toNat / b.toNat)
def remU (a b : Word) : Word := if b = 0 then a else BitVec.ofNat 64 (a.toNat % b.toNat)

/-- The shift count (R231). -/
def shiftCount (b : Word) : Nat := b.toNat % 64
def shlW (a b : Word) : Word := a <<< shiftCount b
def shrW (a b : Word) : Word := a >>> shiftCount b
def sarW (a b : Word) : Word := a.sshiftRight (shiftCount b)
def rolW (a b : Word) : Word := a.rotateLeft (shiftCount b)

/-- Byte k of the result is byte 7 - k of a (R229). -/
def bswapW (a : Word) : Word := BitVec.ofNat 64 (leNat (leBytes 8 a.toNat).reverse)

/-- LEA (R232). -/
def leaW (a b : Word) (s : Nat) : Word := a + (b <<< s)

/-- LUI (R234): i[31:0] over a[31:0]. -/
def luiW (a i : Word) : Word := i.setWidth 32 ++ a.setWidth 32

/-- BFX and BFI (R235). -/
def bfxW (a : Word) (pos w : Nat) : Word := BitVec.ofNat 64 (field a.toNat pos w)
def bfiW (d a : Word) (pos w : Nat) : Word := BitVec.ofNat 64 (putField d.toNat pos w a.toNat)

/-- ADD (R229). -/
def execAdd (o : RRR) (s : State) : Host.Outcome State Fault Refusal :=
  runWord (.add o) s (binOp (fun a b => .pure (a + b)) o)

/-- SUB (R229). -/
def execSub (o : RRR) (s : State) : Host.Outcome State Fault Refusal :=
  runWord (.sub o) s (binOp (fun a b => .pure (a - b)) o)

/-- MUL (R229). -/
def execMul (o : RRR) (s : State) : Host.Outcome State Fault Refusal :=
  runWord (.mul o) s (binOp (fun a b => .pure (a * b)) o)

/-- MULH (R229). -/
def execMulh (o : RRR) (s : State) : Host.Outcome State Fault Refusal :=
  runWord (.mulh o) s (binOp (fun a b => .pure (highWord (sgn a * sgn b))) o)

/-- MULHU (R229). -/
def execMulhu (o : RRR) (s : State) : Host.Outcome State Fault Refusal :=
  runWord (.mulhu o) s (binOp (fun a b => .pure (highWord (a.toNat * b.toNat : Nat))) o)

/-- DIV (R230). -/
def execDiv (o : RRR) (s : State) : Host.Outcome State Fault Refusal :=
  runWord (.div o) s (binOp (fun a b => .pure (divS a b)) o)

/-- DIVU (R230). -/
def execDivu (o : RRR) (s : State) : Host.Outcome State Fault Refusal :=
  runWord (.divu o) s (binOp (fun a b => .pure (divU a b)) o)

/-- REM (R230). -/
def execRem (o : RRR) (s : State) : Host.Outcome State Fault Refusal :=
  runWord (.rem o) s (binOp (fun a b => .pure (remS a b)) o)

/-- REMU (R230). -/
def execRemu (o : RRR) (s : State) : Host.Outcome State Fault Refusal :=
  runWord (.remu o) s (binOp (fun a b => .pure (remU a b)) o)

/-- AND (R229). -/
def execAnd (o : RRR) (s : State) : Host.Outcome State Fault Refusal :=
  runWord (.and o) s (binOp (fun a b => .pure (a &&& b)) o)

/-- OR (R229). -/
def execOr (o : RRR) (s : State) : Host.Outcome State Fault Refusal :=
  runWord (.or o) s (binOp (fun a b => .pure (a ||| b)) o)

/-- XOR (R229). -/
def execXor (o : RRR) (s : State) : Host.Outcome State Fault Refusal :=
  runWord (.xor o) s (binOp (fun a b => .pure (a ^^^ b)) o)

/-- ANDN (R229). -/
def execAndn (o : RRR) (s : State) : Host.Outcome State Fault Refusal :=
  runWord (.andn o) s (binOp (fun a b => .pure (a &&& ~~~b)) o)

/-- SHL (R231). -/
def execShl (o : RRR) (s : State) : Host.Outcome State Fault Refusal :=
  runWord (.shl o) s (binOp (fun a b => .pure (shlW a b)) o)

/-- SHR (R231). -/
def execShr (o : RRR) (s : State) : Host.Outcome State Fault Refusal :=
  runWord (.shr o) s (binOp (fun a b => .pure (shrW a b)) o)

/-- SAR (R231). -/
def execSar (o : RRR) (s : State) : Host.Outcome State Fault Refusal :=
  runWord (.sar o) s (binOp (fun a b => .pure (sarW a b)) o)

/-- ROL (R231). -/
def execRol (o : RRR) (s : State) : Host.Outcome State Fault Refusal :=
  runWord (.rol o) s (binOp (fun a b => .pure (rolW a b)) o)

/-- MIN (R229). -/
def execMin (o : RRR) (s : State) : Host.Outcome State Fault Refusal :=
  runWord (.min o) s (binOp (fun a b => .pure (if sgn b < sgn a then b else a)) o)

/-- MAX (R229). -/
def execMax (o : RRR) (s : State) : Host.Outcome State Fault Refusal :=
  runWord (.max o) s (binOp (fun a b => .pure (if sgn a < sgn b then b else a)) o)

/-- MINU (R229). -/
def execMinu (o : RRR) (s : State) : Host.Outcome State Fault Refusal :=
  runWord (.minu o) s (binOp (fun a b => .pure (if b.toNat < a.toNat then b else a)) o)

/-- MAXU (R229). -/
def execMaxu (o : RRR) (s : State) : Host.Outcome State Fault Refusal :=
  runWord (.maxu o) s (binOp (fun a b => .pure (if a.toNat < b.toNat then b else a)) o)

/-- SLT (R229). -/
def execSlt (o : RRR) (s : State) : Host.Outcome State Fault Refusal :=
  runWord (.slt o) s (binOp (fun a b => .pure (bit1 (decide (sgn a < sgn b)))) o)

/-- SLTU (R229). -/
def execSltu (o : RRR) (s : State) : Host.Outcome State Fault Refusal :=
  runWord (.sltu o) s (binOp (fun a b => .pure (bit1 (decide (a.toNat < b.toNat)))) o)

/-- SEQ (R229). -/
def execSeq (o : RRR) (s : State) : Host.Outcome State Fault Refusal :=
  runWord (.seq o) s (binOp (fun a b => .pure (bit1 (decide (a = b)))) o)

/-- CLZ (R229). -/
def execClz (o : RR) (s : State) : Host.Outcome State Fault Refusal :=
  runWord (.clz o) s (unOp (fun a => .pure (BitVec.ofNat 64 (leadingZeros 64 a.toNat))) o)

/-- CTZ (R229). -/
def execCtz (o : RR) (s : State) : Host.Outcome State Fault Refusal :=
  runWord (.ctz o) s (unOp (fun a => .pure (BitVec.ofNat 64 (trailingZeros 64 a.toNat))) o)

/-- POPC (R229). -/
def execPopc (o : RR) (s : State) : Host.Outcome State Fault Refusal :=
  runWord (.popc o) s (unOp (fun a => .pure (BitVec.ofNat 64 (popCount 64 a.toNat))) o)

/-- BSWAP (R229). -/
def execBswap (o : RR) (s : State) : Host.Outcome State Fault Refusal :=
  runWord (.bswap o) s (unOp (fun a => .pure (bswapW a)) o)

/-- SEL (R232): A, B and the condition register are all read. -/
def execSel (o : SelOp) (s : State) : Host.Outcome State Fault Refusal :=
  runWord (.sel o) s (scalarOp [o.a, o.b, o.e] o.d (fun v => .pure (if src v 2 ≠ 0 then src v 0 else src v 1)))

/-- LEA (R232). -/
def execLea (o : LeaOp) (s : State) : Host.Outcome State Fault Refusal :=
  runWord (.lea o) s (scalarOp [o.a, o.b] o.d (fun v => .pure (leaW (src v 0) (src v 1) o.s.toNat)))

/-- BFX (R235). -/
def execBfx (o : BfOp) (s : State) : Host.Outcome State Fault Refusal :=
  runWord (.bfx o) s (scalarOp [o.a] o.d (fun v => .pure (bfxW (src v 0) o.pos.toNat (o.wm1.toNat + 1))))

/-- BFI (R235): D is read after A. -/
def execBfi (o : BfOp) (s : State) : Host.Outcome State Fault Refusal :=
  runWord (.bfi o) s (scalarOp [o.a, o.d] o.d (fun v => .pure (bfiW (src v 1) (src v 0) o.pos.toNat (o.wm1.toNat + 1))))

/-- ADD immediate (R233). -/
def execAddImm (o : ImmOp) (s : State) : Host.Outcome State Fault Refusal :=
  runWord (.addImm o) s (immOp (fun a b => .pure (a + b)) o)

/-- MUL immediate (R233). -/
def execMulImm (o : ImmOp) (s : State) : Host.Outcome State Fault Refusal :=
  runWord (.mulImm o) s (immOp (fun a b => .pure (a * b)) o)

/-- AND immediate (R233). -/
def execAndImm (o : ImmOp) (s : State) : Host.Outcome State Fault Refusal :=
  runWord (.andImm o) s (immOp (fun a b => .pure (a &&& b)) o)

/-- OR immediate (R233). -/
def execOrImm (o : ImmOp) (s : State) : Host.Outcome State Fault Refusal :=
  runWord (.orImm o) s (immOp (fun a b => .pure (a ||| b)) o)

/-- XOR immediate (R233). -/
def execXorImm (o : ImmOp) (s : State) : Host.Outcome State Fault Refusal :=
  runWord (.xorImm o) s (immOp (fun a b => .pure (a ^^^ b)) o)

/-- SHL immediate (R233). -/
def execShlImm (o : ShiftOp) (s : State) : Host.Outcome State Fault Refusal :=
  runWord (.shlImm o) s (shiftOp (fun a b => .pure (shlW a b)) o)

/-- SHR immediate (R233). -/
def execShrImm (o : ShiftOp) (s : State) : Host.Outcome State Fault Refusal :=
  runWord (.shrImm o) s (shiftOp (fun a b => .pure (shrW a b)) o)

/-- SAR immediate (R233). -/
def execSarImm (o : ShiftOp) (s : State) : Host.Outcome State Fault Refusal :=
  runWord (.sarImm o) s (shiftOp (fun a b => .pure (sarW a b)) o)

/-- SLT immediate (R233). -/
def execSltImm (o : ImmOp) (s : State) : Host.Outcome State Fault Refusal :=
  runWord (.sltImm o) s (immOp (fun a b => .pure (bit1 (decide (sgn a < sgn b)))) o)

/-- SLTU immediate, compared as unsigned (R233). -/
def execSltuImm (o : ImmOp) (s : State) : Host.Outcome State Fault Refusal :=
  runWord (.sltuImm o) s (immOp (fun a b => .pure (bit1 (decide (a.toNat < b.toNat)))) o)

/-- SEQ immediate (R233). -/
def execSeqImm (o : ImmOp) (s : State) : Host.Outcome State Fault Refusal :=
  runWord (.seqImm o) s (immOp (fun a b => .pure (bit1 (decide (a = b)))) o)

/-- LI (R234). -/
def execLi (o : LiOp) (s : State) : Host.Outcome State Fault Refusal :=
  runWord (.li o) s (scalarOp [] o.d (fun _ => .pure (immVal o.i)))

/-- LUI (R234). -/
def execLui (o : ImmOp) (s : State) : Host.Outcome State Fault Refusal :=
  runWord (.lui o) s (immOp (fun a i => .pure (luiW a i)) o)

/-! ## LOC (R254, R255) -/

def ordCode : Ord → Nat
  | .so => 0
  | .rc => 1
  | .un => 2
def aplCode : Apl → Nat
  | .near => 0
  | .mem => 1
  | .host => 2

/-- KIND, DIE and HOME of a target at its device; own: the executing isle, for the own window of this device (R255). -/
def locHome (own : Option Nat) : Tgt → Nat × Nat × Nat
  | .dram a => (1, vaultOf a / 32, vaultOf a)
  | .ws a => (2, wsIsle a / 32, wsIsle a)
  | .spad k _ => (3, k / 32, k)
  | .own _ => match own with
    | some k => (3, k / 32, k)
    | none => (7, 0, 0)
  | .msgwin k _ _ => (4, k / 32, k)
  | .mmio _ => (5, 0, 0)
  | .host _ => (6, 0, 0)
  | .peer _ _ => (7, 0, 0)
  | .unmapped _ => (7, 0, 0)

/-- The description that LOC writes for v (R254, R255). -/
def locWord (s : State) (k : Nat) (l : Launch) (v : Word) : Word :=
  match findSeg l.segs v.toNat with
  | .error _ => 0
  | .ok e =>
    let attrs := ordCode e.ord * 2 ^ 38 + aplCode e.apl * 2 ^ 36 + b2n e.resid * 2 ^ 35
    let self := selfOf l.part
    match segTgt self e v.toNat with
    | .host _ => BitVec.ofNat 64 (6 * 2 ^ 61 + attrs)
    | .peer p pa =>
      let (kind, die, home) := locHome none (localTgt pa)
      BitVec.ofNat 64 (kind * 2 ^ 61 + 2 ^ 60 + p * 2 ^ 48 + b2n (peerOk s l.part p) * 2 ^ 47 + attrs + die * 2 ^ 16 + home * 2 ^ 8)
    | t =>
      let (kind, die, home) := locHome (some k) t
      BitVec.ofNat 64 (kind * 2 ^ 61 + self.getD 0 * 2 ^ 48 + 2 ^ 47 + attrs + die * 2 ^ 16 + home * 2 ^ 8)

/-- LOC (R254): it takes no trap from translation. -/
def execLoc (o : RR) (s : State) : Host.Outcome State Fault Refusal :=
  runWord (.loc o) s (fun e =>
    scalarOp [o.a] o.d (fun v => .pure (match e.launch with
      | some l => locWord e.s e.k l (src v 0)
      | none => 0)) e)

end Sys2Proof.Machine
end

