-- ==== Sys2Proof/Machine/ScalarFp.lean ====
section
/-!
DEFINITION. Scalar floating point (R236 to R239): majors 0x12 and 0x13.
-/
namespace Sys2Proof.Machine

/-- FADD (R237). -/
def execFadd (o : FpRRR) (s : State) : Host.Outcome State Fault Refusal :=
  runWord (.fadd o) s (binOp (fun a b => fpRes (addF fF32 o.r (decodeF fF32 (lo32 a)) (decodeF fF32 (lo32 b)))) ⟨o.ct, o.d, o.a, o.b⟩)

/-- FSUB (R237). -/
def execFsub (o : FpRRR) (s : State) : Host.Outcome State Fault Refusal :=
  runWord (.fsub o) s (binOp (fun a b => fpRes (subF fF32 o.r (decodeF fF32 (lo32 a)) (decodeF fF32 (lo32 b)))) ⟨o.ct, o.d, o.a, o.b⟩)

/-- FMUL (R237). -/
def execFmul (o : FpRRR) (s : State) : Host.Outcome State Fault Refusal :=
  runWord (.fmul o) s (binOp (fun a b => fpRes (mulF fF32 o.r (decodeF fF32 (lo32 a)) (decodeF fF32 (lo32 b)))) ⟨o.ct, o.d, o.a, o.b⟩)

/-- FMIN (R237). -/
def execFmin (o : RRR) (s : State) : Host.Outcome State Fault Refusal :=
  runWord (.fmin o) s (binOp (fun a b => fpRes (minMaxF fF32 false (lo32 a) (lo32 b))) o)

/-- FMAX (R237). -/
def execFmax (o : RRR) (s : State) : Host.Outcome State Fault Refusal :=
  runWord (.fmax o) s (binOp (fun a b => fpRes (minMaxF fF32 true (lo32 a) (lo32 b))) o)

/-- FCMP (R238). -/
def execFcmp (o : FcmpOp) (s : State) : Host.Outcome State Fault Refusal :=
  runWord (.fcmp o) s (binOp (fun a b => fcmpRes o.k (lo32 a) (lo32 b)) ⟨o.ct, o.d, o.a, o.b⟩)

/-- FCVT.I32.F32 (R194, R239): the integer is sign-extended (R236). -/
def execFcvtI32F32 (o : FpRR) (s : State) : Host.Outcome State Fault Refusal :=
  runWord (.fcvtI32F32 o) s (unOp (fun a => let r := f32ToI32 o.r (lo32 a); ⟨sext64 32 r.1, r.2⟩) ⟨o.ct, o.d, o.a⟩)

/-- FCVT.F32.I32 (R194, R239). -/
def execFcvtF32I32 (o : FpRR) (s : State) : Host.Outcome State Fault Refusal :=
  runWord (.fcvtF32I32 o) s (unOp (fun a => fpRes (i32ToF32 o.r (lo32 a))) ⟨o.ct, o.d, o.a⟩)

/-- FCVT.BF16.F32 (R194, R239). -/
def execFcvtBf16F32 (o : FpRR) (s : State) : Host.Outcome State Fault Refusal :=
  runWord (.fcvtBf16F32 o) s (unOp (fun a => fpRes (convF fF32 fBF16 o.r (lo32 a))) ⟨o.ct, o.d, o.a⟩)

/-- FCVT.F32.BF16 (R194, R239). -/
def execFcvtF32Bf16 (o : RR) (s : State) : Host.Outcome State Fault Refusal :=
  runWord (.fcvtF32Bf16 o) s (unOp (fun a => fpRes (convF fBF16 fF32 .rne (lo16 a))) o)

/-- FCVT.F16.F32 (R194, R239). -/
def execFcvtF16F32 (o : FpRR) (s : State) : Host.Outcome State Fault Refusal :=
  runWord (.fcvtF16F32 o) s (unOp (fun a => fpRes (convF fF32 fF16 o.r (lo32 a))) ⟨o.ct, o.d, o.a⟩)

/-- FCVT.F32.F16 (R194, R239). -/
def execFcvtF32F16 (o : RR) (s : State) : Host.Outcome State Fault Refusal :=
  runWord (.fcvtF32F16 o) s (unOp (fun a => fpRes (convF fF16 fF32 .rne (lo16 a))) o)

/-- FCVT.L6.F32: l6_encode (R182, R239). -/
def execFcvtL6F32 (o : RR) (s : State) : Host.Outcome State Fault Refusal :=
  runWord (.fcvtL6F32 o) s (unOp (fun a => .pure (BitVec.ofNat 64 (l6Encode (decodeF fF32 (lo32 a))))) o)

/-- FCVT.F32.L6: l6_decode (R181, R239). -/
def execFcvtF32L6 (o : RR) (s : State) : Host.Outcome State Fault Refusal :=
  runWord (.fcvtF32L6 o) s (unOp (fun a => .pure (BitVec.ofNat 64 (roundVal fF32 .rne (l6Val (a.toNat % 64))).1)) o)

/-- FFMA (R237). -/
def execFfma (o : FfmaOp) (s : State) : Host.Outcome State Fault Refusal :=
  runWord (.ffma o) s (scalarOp [o.a, o.b, o.e] o.d (fun v => fpRes (fmaF fF32 o.r (decodeF fF32 (lo32 (src v 0))) (decodeF fF32 (lo32 (src v 1)))
    (decodeF fF32 (lo32 (src v 2))))))

end Sys2Proof.Machine
end

