-- ==== Sys2Proof/Machine/Sync.lean ====
section
/-!
DEFINITION. The synchronisation words: FENCE, barriers, STEP, SUCC, WAITVIS, WAIT (R303 to R311, R330): major 0x30.
-/
namespace Sys2Proof.Machine

/-- A FENCE of this scope completes the host-link writes that the context made or observed (R139). -/
def fencesHost (e : Env) (sc : Scope) : Bool := (sc = .dev || sc = .dom) && e.x.hostWr

/-- The zero-length read of the host link is under way. -/
def hostFencePending (s : State) (uid : Nat) (c : Ctx) : Bool := s.acc.any (fun a => a.same uid c && a.kind = .hostFence)

/-- The part of a zero-length read of the host link. -/
def hostFencePart : Part := ⟨0, 0, .host 0, 0, .un, .host, none, 0, 0, false, 0, .ok⟩

/-- FENCE (R304): it issues when everything before it is performed for its scope, after a zero-length read of the host link where R139
asks for one; an SC fence of DEV or DOM scope takes its place in the order of R134 at its issue. -/
def execFence (o : FenceOp) (s : State) : Host.Outcome State Fault Refusal :=
  runWord (.fence o) s (fun e =>
    if e.x.fenced then (if hostFencePending e.s e.i.uid e.c then .block .order else .go e.s)
    else if !fenceReady e.s e.k e.i.uid e.c e.x o.scope then .block .order
    else if fencesHost e o.scope then
      .hold ((issueAccess e .hostFence false [hostFencePart] none e.i e.s).updInst e.k (fun i =>
        i.updCtx e.c (fun x => { x with fenced := true }))) .order
    else .go e.s)

/-! ## Barriers (R305 to R309) -/

def Inst.setArr (i : Inst) (b : Nat) (v : BitVec 16) : Inst := { i with arr := Sparse.set 0 i.arr b v }
def CtxState.setLag (x : CtxState) (b : Nat) (v : BitVec 16) : CtxState := { x with lag := Sparse.set 0 x.lag b v }

/-- A lag one higher, saturating (R305). -/
def lagUp (v : BitVec 16) : BitVec 16 := if v = 0xFFFF then v else v + 1

/-- The arrival of context c of the instance on isle k (R306); none where it is a second arrival in one phase. -/
def arrive (e : Env) (b : Nat) (s : State) : Option State :=
  e.withLaunch none (fun l =>
    let lag := e.x.lagOf b
    if lag ≠ 0 then
      some (s.updInst e.k (fun i => i.updCtx e.c (fun x => x.setLag b (if lag = 0xFFFF then lag else lag - 1))))
    else if e.i.arrOf b = l.doneOf b + 1 then none
    else
      let s := s.updInst e.k (fun i =>
        let i := i.setArr b (i.arrOf b + 1)
        ctxs.foldl (fun i c => if c = e.c then i else i.updCtx c (fun x => x.setLag b (lagUp (x.lagOf b)))) i)
      some (evalBarrier e.i.launch b s))

/-- BAR.WAIT is blocked for the context (R307). -/
def barBlocked (e : Env) (b : Nat) (s : State) : Bool :=
  match s.inst e.k, s.launch e.i.launch with
  | some i, some l => (i.ctx e.c).lagOf b = 0 && i.arrOf b = l.doneOf b + 1
  | _, _ => false

/-- BAR.ARR (R306). -/
def execBarArr (o : BarOp) (s : State) : Host.Outcome State Fault Refusal :=
  runWord (.barArr o) s (fun e =>
    if bOver e.i o.b then .trap cOVERREACH ovBARS 0
    else match arrive e o.b.toNat e.s with
      | none => .trap cBARBAD o.b.toNat 0
      | some s => .go s)

/-- BAR.WAIT (R307). -/
def execBarWait (o : BarOp) (s : State) : Host.Outcome State Fault Refusal :=
  runWord (.barWait o) s (fun e =>
    if bOver e.i o.b then .trap cOVERREACH ovBARS 0
    else if barBlocked e o.b.toNat e.s then .block .barrier else .go e.s)

/-- Stores to other isles' windows and packets that the instance issued and that are not performed at their target (R308). -/
def windowStoresPending (s : State) (uid : Nat) : Bool :=
  s.acc.any (fun a => a.uid = uid && a.kind.ofCtx && a.kind.writes && a.parts.any (fun p => match p.tgt with
    | .spad .. => true
    | .peer _ pa => (match localTgt pa with
      | .spad .. => true
      | _ => false)
    | _ => false))

/-- STEP (R308): it waits for the window stores, arrives once, then waits for the phase. -/
def execStep (o : BarOp) (s : State) : Host.Outcome State Fault Refusal :=
  runWord (.step o) s (fun e =>
    let b := o.b.toNat
    if bOver e.i o.b then .trap cOVERREACH ovBARS 0
    else if e.x.stepped then (if barBlocked e b e.s then .block .barrier else .go e.s)
    else if windowStoresPending e.s e.i.uid then .block .order
    else match arrive e b e.s with
      | none => .trap cBARBAD b 0
      | some s =>
        if barBlocked e b s then .hold (s.updInst e.k (fun i => i.updCtx e.c (fun x => { x with stepped := true }))) .barrier
        else .go s)

/-! ## Succession (R310, R311) -/

/-- SUCC (R310). -/
def execSucc (o : TagOp) (s : State) : Host.Outcome State Fault Refusal :=
  runWord (.succ o) s (fun e => .go (e.s.setInst e.k { e.i with succ := true }))

/-- WAITVIS (R311): blocked until the predecessor of R74 has settled. -/
def execWaitvis (o : TagOp) (s : State) : Host.Outcome State Fault Refusal :=
  runWord (.waitvis o) s (fun e =>
    if e.spec then .block .specStop
    else e.withLaunch (.go e.s) (fun l =>
      match l.pred with
      | none => .go e.s
      | some p => if (e.s.launch p).isSome then .block .waitvis else .go e.s))

/-! ## WAIT (R330) -/

/-- The compare of R330. -/
def countReached (cnt n : BitVec 32) : Bool := decide (0 ≤ (cnt - n).toInt)

/-- The commands that engine en has counted are observed by context c, and with them the stores that their reads observed and their
writes to the host link (R133, R139, R330). -/
def observeEngine (c : Ctx) (en : Engine) (i : Inst) : Inst :=
  let ids := (i.engObs.filter (fun o => o.1 = en)).map (fun o => o.2)
  i.updCtx c (fun x => { x with observed := if ids = [] then x.observed else (x.observed ++ ids).eraseDups,
                                hostWr := x.hostWr || i.engHost })

/-- WAIT (R330): the count is read, or popped, once. -/
def execWait (o : WaitOp) (s : State) : Host.Outcome State Fault Refusal :=
  runWord (.wait o) s (fun e =>
    match e.x.waitCount with
    | some n => if countReached (e.i.cnt o.eng) n then .go (e.s.setInst e.k (observeEngine e.c o.eng e.i)) else .block .wait
    | none =>
      withSources e [o.d] [] [] (fun v i =>
        let n := (src v 0).setWidth 32
        let s := e.s.setInst e.k i
        if countReached (e.i.cnt o.eng) n then .go (e.s.setInst e.k (observeEngine e.c o.eng i))
        else .hold (s.setInst e.k (i.updCtx e.c (fun x => { x with waitCount := some n }))) .wait))

end Sys2Proof.Machine
end

