-- ==== Sys2Proof/Machine/System.lean ====
section
/-!
DEFINITION. System registers and control: SRD, SWR, TRAP, EXIT, NOP, HINT, PMARK (R218, R247 to R253): major 0x19.
-/
namespace Sys2Proof.Machine

/-- PEER_ID (R28, R111). -/
def peerIdWord (l : Launch) : Word :=
  if l.part.selfValid then BitVec.ofNat 64 (2 ^ 12 + l.part.self) else 0

/-- Register n of a capability map (R29). -/
def mapWord (m : BitVec 256) (n : Nat) : Word := (m >>> (64 * n)).setWidth 64

/-- The value that SRD reads at the start of the issue vc, for every register of R218. -/
def sysRead (s : State) (k : Nat) (i : Inst) (l : Option Launch) (n : Nat) : Word :=
  let vf : Vf := match l with
    | some l => s.vf l.vf
    | none => .reset
  match n with
  | 0x000 => BitVec.ofNat 64 k
  | 0x001 => BitVec.ofNat 64 i.rank
  | 0x002 => BitVec.ofNat 64 (match l with
    | some l => l.isles.length
    | none => 0)
  | 0x003 => (classOf s k).setWidth 64
  | 0x004 => BitVec.ofNat 64 (lanesOf s k)
  | 0x005 => (match l with
    | some l => peerIdWord l
    | none => 0)
  | 0x010 => mapWord s.popmap 0
  | 0x011 => mapWord s.popmap 1
  | 0x012 => mapWord s.popmap 2
  | 0x013 => mapWord s.popmap 3
  | 0x014 => mapWord s.mxmap 0
  | 0x015 => mapWord s.mxmap 1
  | 0x016 => mapWord s.mxmap 2
  | 0x017 => mapWord s.mxmap 3
  | 0x018 => mapWord s.vwmap 0
  | 0x019 => mapWord s.vwmap 1
  | 0x01A => mapWord s.vwmap 2
  | 0x01B => mapWord s.vwmap 3
  | 0x020 => i.vcyc
  | 0x021 => i.win.setWidth 64
  | 0x022 => BitVec.ofNat 64 (b2n i.tmode)
  | 0x023 => BitVec.ofNat 64 (match l with
    | some l => l.eff.frzlim
    | none => 0)
  | 0x024 => i.fex.setWidth 64
  | 0x025 => i.mflags.setWidth 64
  | 0x030 => i.fltCause
  | 0x031 => i.fltPc
  | 0x032 => i.fltAddr
  | 0x033 => i.eccLog
  | 0x040 => i.cntMx.setWidth 64
  | 0x041 => i.cntCp.setWidth 64
  | 0x042 => i.cntAt.setWidth 64
  | 0x043 => i.cntCl.setWidth 64
  | 0x044 => i.cntCi.setWidth 64
  | 0x045 => i.cntTd.setWidth 64
  | 0x046 => i.tideSt
  | 0x050 => i.mwsel.setWidth 64
  | 0x051 => (i.msgWin i.mwsel.toNat).cfg
  | 0x052 => (i.msgWin i.mwsel.toNat).shown.setWidth 64
  | 0x060 => vf.predHit
  | 0x061 => vf.predMiss
  | 0x062 => vf.predDoom
  | 0x063 => s.migContest
  | _ => 0

/-- A write of MWCFG is ignored as a whole when EN = 1 and its PEER is not valid under R112, or is FOREIGN (R156). -/
def mwcfgIgnored (s : State) (l : Launch) (v : Nat) : Bool :=
  let p := field v 28 12
  bitAt v 40 && selfOf l.part ≠ some p && (!peerOk s l.part p || bitAt l.part.foreign p)

/-- What an SWR of value v to register n writes; none where the register is read-only (R218, R248). -/
def sysDst (s : State) (i : Inst) (l : Option Launch) (n : Nat) (v : Word) : Option SysDst :=
  match n with
  | 0x021 => some .win
  | 0x022 => some .tmode
  | 0x024 => some .fexSet
  | 0x025 => some .mflagsClear
  | 0x033 => some .eccClear
  | 0x050 => some .mwsel
  | 0x051 => (match l with
    | some l => if mwcfgIgnored s l v.toNat then none else some (.mwcfg i.mwsel.toNat)
    | none => none)
  | 0x052 => some (.mwcur i.mwsel.toNat)
  | _ => none

/-- SRD (R247): a firmware register takes PRIV (R218). -/
def execSrd (o : SysOp) (s : State) : Host.Outcome State Fault Refusal :=
  runWord (.srd o) s (fun e =>
    if sysFirmware o.sys.toNat then .trap cPRIV 1 0
    else withSources e [] [o.d] [] (fun _ i => finishG e o.d (.pure (sysRead e.s e.k e.i e.launch o.sys.toNat)) i))

/-- SWR (R248): the write is visible from the next vc; writes to read-only registers are ignored. -/
def execSwr (o : SysOp) (s : State) : Host.Outcome State Fault Refusal :=
  runWord (.swr o) s (fun e =>
    if sysFirmware o.sys.toNat then .trap cPRIV 1 0
    else withSources e [o.d] [] [] (fun v i =>
      match sysDst e.s e.i e.launch o.sys.toNat (src v 0) with
      | some d => .go (e.s.setInst e.k (i.later e.c (.sys d) ((src v 0).setWidth 256)))
      | none => .go (e.s.setInst e.k i)))

/-- TRAP (R250). -/
def execTrap (o : CodeOp) (s : State) : Host.Outcome State Fault Refusal :=
  runWord (.trap o) s (fun _ => .trap cTRAP o.code.toNat 0)

/-- EXIT (R41, R251). -/
def execExit (o : TagOp) (s : State) : Host.Outcome State Fault Refusal := runWord (.exit o) s (fun _ => .exit)

/-- NOP (R252). -/
def execNop (o : TagOp) (s : State) : Host.Outcome State Fault Refusal := runWord (.nop o) s (fun e => .go e.s)

/-- HINT: every code behaves alike (R252). -/
def execHint (o : CodeOp) (s : State) : Host.Outcome State Fault Refusal := runWord (.hint o) s (fun e => .go e.s)

/-! ## PMARK (R253, R407) -/

def idxPMARK : Nat := 9
def idxPMARKOVER : Nat := 10

/-- A marker event reaches the PMARK buffer of its die: 1,024 entries, then it is dropped and counted (R407). -/
def pmarkEvent (k : Nat) (c : Ctx) (vcyc : Word) (marker : BitVec 12) (s : State) : State :=
  let n := dieOfIsle k
  let buf := Sparse.get [] s.pmark n
  let s := s.count (blkDie n) idxPMARK
  if buf.length < 1024 then { s with pmark := Sparse.set [] s.pmark n (buf ++ [⟨marker, c, k, vcyc⟩]) }
  else s.count (blkDie n) idxPMARKOVER

/-- PMARK (R253): in a speculative instance it emits nothing. -/
def execPmark (o : CodeOp) (s : State) : Host.Outcome State Fault Refusal :=
  runWord (.pmark o) s (fun e => .go (if e.spec then e.s else pmarkEvent e.k e.c e.i.vcyc o.code e.s))

end Sys2Proof.Machine
end

