-- ==== Sys2Proof/Machine/Vector.lean ====
section
/-!
DEFINITION. The vector instructions of the C context: arithmetic, compares, masks, conversions, transcendentals, reductions,
permutes and broadcast (R257 to R276): majors 0x40 to 0x4B.
-/
namespace Sys2Proof.Machine

/-! ## The frame of a vector word (R257 to R261) -/

/-- Lane l is active under mask m, as it stands at the start of the vc (R258). -/
def Env.active (e : Env) (m : BitVec 3) (l : Nat) : Bool := (e.i.mGet e.lanes m.toNat).getLsbD l

/-- Lane l of V r as a number. -/
def Env.vn (e : Env) (r : BitVec 5) (l : Nat) : Nat := (e.i.vGet r.toNat l).toNat

/-- A lane's result and its flags. -/
abbrev LaneRes := Nat × BitVec 5

/-- Writes f l to the lanes p selects of V v, ORing the flags (R258, R261). -/
def writeLanes (e : Env) (v : BitVec 5) (p : Nat → Bool) (f : Nat → LaneRes) (i : Inst) : Verdict :=
  let rs := ((upto e.lanes).filter p).map (fun l => (l, f l))
  .go (e.s.setInst e.k (orFlags e.c (orAll (rs.map (fun r => r.2.2)))
    (i.laterAll e.c (rs.map (fun r => (WbDst.v v.toNat r.1, BitVec.ofNat 256 r.2.1))))))

/-- A lane-by-lane operation on V sources under mask m (R258). -/
def laneOp (v : BitVec 5) (srcs : List (BitVec 5)) (m : BitVec 3) (f : Env → Nat → LaneRes) (e : Env) : Verdict :=
  withVec e [] [] (v :: srcs) [m] (fun _ i => writeLanes e v (e.active m) (f e) i)

/-- Writes mask M d, or G d, from the vc after (R266, R268). -/
def writeMask (e : Env) (md : BitVec 3) (val : Word) (f : BitVec 5) (i : Inst) : Verdict :=
  .go (e.s.setInst e.k (orFlags e.c f (i.later e.c (.m md.toNat) ((val &&& onesMask e.lanes).setWidth 256))))

def rndOf (x : Option Rnd) : Rnd := x.getD .rne

/-! ## Floating-point arithmetic (R263) -/

/-- An element of a format in the low bits of a lane (R260). -/
def elemBits (f : Fmt) (w : Nat) : Nat := w % 2 ^ (1 + f.eb + f.mb)
def elemOf (f : Fmt) (w : Nat) : FVal := decodeF f (elemBits f w)

/-- VADD, VSUB, VMUL (R263). -/
def vfArith (op : Fmt → Rnd → FVal → FVal → Nat × BitVec 5) (f : Fmt) (o : VfOp) : Env → Verdict :=
  laneOp o.v [o.a, o.b] o.m (fun e l => op f (rndOf o.x) (elemOf f (e.vn o.a l)) (elemOf f (e.vn o.b l)))

/-- VFMA: VD is the addend and the destination (R263). -/
def vfFma (f : Fmt) (o : VfOp) : Env → Verdict :=
  laneOp o.v [o.a, o.b] o.m (fun e l =>
    fmaF f (rndOf o.x) (elemOf f (e.vn o.a l)) (elemOf f (e.vn o.b l)) (elemOf f (e.vn o.v l)))

/-- VMIN, VMAX (R263). -/
def vfMinMax (isMax : Bool) (f : Fmt) (o : VfOp) : Env → Verdict :=
  laneOp o.v [o.a, o.b] o.m (fun e l => minMaxF f isMax (elemBits f (e.vn o.a l)) (elemBits f (e.vn o.b l)))

/-- VABS, VNEG: a NaN gives the canonical NaN (R263). -/
def vfSign (g : Nat → Nat → Nat) (f : Fmt) (o : Vf1Op) : Env → Verdict :=
  laneOp o.v [o.a] o.m (fun e l =>
    let w := elemBits f (e.vn o.a l)
    let x := decodeF f w
    (if x.isNan then f.nan else g (2 ^ (f.eb + f.mb)) w, if x.isSig then flNV else 0))

def absBits (s w : Nat) : Nat := w % s
def negBits (s w : Nat) : Nat := if w < s then w + s else w - s

/-- VADD.F32 (R263). -/
def execVaddF32 (o : VfOp) (s : State) : Host.Outcome State Fault Refusal :=
  runWord (.vaddF32 o) s (vfArith addF fF32 o)

/-- VSUB.F32 (R263). -/
def execVsubF32 (o : VfOp) (s : State) : Host.Outcome State Fault Refusal :=
  runWord (.vsubF32 o) s (vfArith subF fF32 o)

/-- VMUL.F32 (R263). -/
def execVmulF32 (o : VfOp) (s : State) : Host.Outcome State Fault Refusal :=
  runWord (.vmulF32 o) s (vfArith mulF fF32 o)

/-- VFMA.F32 (R263). -/
def execVfmaF32 (o : VfOp) (s : State) : Host.Outcome State Fault Refusal :=
  runWord (.vfmaF32 o) s (vfFma fF32 o)

/-- VMIN.F32 (R263). -/
def execVminF32 (o : VfOp) (s : State) : Host.Outcome State Fault Refusal :=
  runWord (.vminF32 o) s (vfMinMax false fF32 o)

/-- VMAX.F32 (R263). -/
def execVmaxF32 (o : VfOp) (s : State) : Host.Outcome State Fault Refusal :=
  runWord (.vmaxF32 o) s (vfMinMax true fF32 o)

/-- VABS.F32 (R263). -/
def execVabsF32 (o : Vf1Op) (s : State) : Host.Outcome State Fault Refusal :=
  runWord (.vabsF32 o) s (vfSign absBits fF32 o)

/-- VNEG.F32 (R263). -/
def execVnegF32 (o : Vf1Op) (s : State) : Host.Outcome State Fault Refusal :=
  runWord (.vnegF32 o) s (vfSign negBits fF32 o)

/-- VADD.BF16 (R263). -/
def execVaddBf16 (o : VfOp) (s : State) : Host.Outcome State Fault Refusal :=
  runWord (.vaddBf16 o) s (vfArith addF fBF16 o)

/-- VSUB.BF16 (R263). -/
def execVsubBf16 (o : VfOp) (s : State) : Host.Outcome State Fault Refusal :=
  runWord (.vsubBf16 o) s (vfArith subF fBF16 o)

/-- VMUL.BF16 (R263). -/
def execVmulBf16 (o : VfOp) (s : State) : Host.Outcome State Fault Refusal :=
  runWord (.vmulBf16 o) s (vfArith mulF fBF16 o)

/-- VFMA.BF16 (R263). -/
def execVfmaBf16 (o : VfOp) (s : State) : Host.Outcome State Fault Refusal :=
  runWord (.vfmaBf16 o) s (vfFma fBF16 o)

/-- VMIN.BF16 (R263). -/
def execVminBf16 (o : VfOp) (s : State) : Host.Outcome State Fault Refusal :=
  runWord (.vminBf16 o) s (vfMinMax false fBF16 o)

/-- VMAX.BF16 (R263). -/
def execVmaxBf16 (o : VfOp) (s : State) : Host.Outcome State Fault Refusal :=
  runWord (.vmaxBf16 o) s (vfMinMax true fBF16 o)

/-- VABS.BF16 (R263). -/
def execVabsBf16 (o : Vf1Op) (s : State) : Host.Outcome State Fault Refusal :=
  runWord (.vabsBf16 o) s (vfSign absBits fBF16 o)

/-- VNEG.BF16 (R263). -/
def execVnegBf16 (o : Vf1Op) (s : State) : Host.Outcome State Fault Refusal :=
  runWord (.vnegBf16 o) s (vfSign negBits fBF16 o)

/-- VADD.F16 (R263). -/
def execVaddF16 (o : VfOp) (s : State) : Host.Outcome State Fault Refusal :=
  runWord (.vaddF16 o) s (vfArith addF fF16 o)

/-- VSUB.F16 (R263). -/
def execVsubF16 (o : VfOp) (s : State) : Host.Outcome State Fault Refusal :=
  runWord (.vsubF16 o) s (vfArith subF fF16 o)

/-- VMUL.F16 (R263). -/
def execVmulF16 (o : VfOp) (s : State) : Host.Outcome State Fault Refusal :=
  runWord (.vmulF16 o) s (vfArith mulF fF16 o)

/-- VFMA.F16 (R263). -/
def execVfmaF16 (o : VfOp) (s : State) : Host.Outcome State Fault Refusal :=
  runWord (.vfmaF16 o) s (vfFma fF16 o)

/-- VMIN.F16 (R263). -/
def execVminF16 (o : VfOp) (s : State) : Host.Outcome State Fault Refusal :=
  runWord (.vminF16 o) s (vfMinMax false fF16 o)

/-- VMAX.F16 (R263). -/
def execVmaxF16 (o : VfOp) (s : State) : Host.Outcome State Fault Refusal :=
  runWord (.vmaxF16 o) s (vfMinMax true fF16 o)

/-- VABS.F16 (R263). -/
def execVabsF16 (o : Vf1Op) (s : State) : Host.Outcome State Fault Refusal :=
  runWord (.vabsF16 o) s (vfSign absBits fF16 o)

/-- VNEG.F16 (R263). -/
def execVnegF16 (o : Vf1Op) (s : State) : Host.Outcome State Fault Refusal :=
  runWord (.vnegF16 o) s (vfSign negBits fF16 o)

/-! ## Integer arithmetic (R264, R265) -/

/-- A 32-bit lane operation (R264). -/
def vi32 (f : BitVec 32 → BitVec 32 → BitVec 32) (o : VOp) : Env → Verdict :=
  laneOp o.v [o.a, o.b] o.m (fun e l => ((f (e.i.vGet o.a.toNat l) (e.i.vGet o.b.toNat l)).toNat, 0))

def count32 (b : BitVec 32) : Nat := b.toNat % 32

/-- A 16-bit element operation on both halves of a lane (R265). -/
def vi16 (f : BitVec 16 → BitVec 16 → BitVec 16) (o : VOp) : Env → Verdict :=
  laneOp o.v [o.a, o.b] o.m (fun e l =>
    let a := e.i.vGet o.a.toNat l
    let b := e.i.vGet o.b.toNat l
    let lo := f (a.setWidth 16) (b.setWidth 16)
    let hi := f ((a >>> 16).setWidth 16) ((b >>> 16).setWidth 16)
    (hi.toNat * 2 ^ 16 + lo.toNat, 0))

/-- Saturation to 16 bits (R265). -/
def sat16 (z : Int) : BitVec 16 := BitVec.ofInt 16 (satInt 16 z)

/-- VADD.I32 (R264). -/
def execVaddI32 (o : VOp) (s : State) : Host.Outcome State Fault Refusal :=
  runWord (.vaddI32 o) s (vi32 (fun a b => a + b) o)

/-- VSUB.I32 (R264). -/
def execVsubI32 (o : VOp) (s : State) : Host.Outcome State Fault Refusal :=
  runWord (.vsubI32 o) s (vi32 (fun a b => a - b) o)

/-- VMUL.I32 (R264). -/
def execVmulI32 (o : VOp) (s : State) : Host.Outcome State Fault Refusal :=
  runWord (.vmulI32 o) s (vi32 (fun a b => a * b) o)

/-- VMULH.I32 (R264). -/
def execVmulhI32 (o : VOp) (s : State) : Host.Outcome State Fault Refusal :=
  runWord (.vmulhI32 o) s (vi32 (fun a b => BitVec.ofInt 32 (a.toInt * b.toInt / (2 ^ 32 : Nat))) o)

/-- VMIN.I32 (R264). -/
def execVminI32 (o : VOp) (s : State) : Host.Outcome State Fault Refusal :=
  runWord (.vminI32 o) s (vi32 (fun a b => if b.toInt < a.toInt then b else a) o)

/-- VMAX.I32 (R264). -/
def execVmaxI32 (o : VOp) (s : State) : Host.Outcome State Fault Refusal :=
  runWord (.vmaxI32 o) s (vi32 (fun a b => if a.toInt < b.toInt then b else a) o)

/-- VMINU.I32 (R264). -/
def execVminuI32 (o : VOp) (s : State) : Host.Outcome State Fault Refusal :=
  runWord (.vminuI32 o) s (vi32 (fun a b => if b.toNat < a.toNat then b else a) o)

/-- VMAXU.I32 (R264). -/
def execVmaxuI32 (o : VOp) (s : State) : Host.Outcome State Fault Refusal :=
  runWord (.vmaxuI32 o) s (vi32 (fun a b => if a.toNat < b.toNat then b else a) o)

/-- VAND.I32 (R264). -/
def execVandI32 (o : VOp) (s : State) : Host.Outcome State Fault Refusal :=
  runWord (.vandI32 o) s (vi32 (fun a b => a &&& b) o)

/-- VOR.I32 (R264). -/
def execVorI32 (o : VOp) (s : State) : Host.Outcome State Fault Refusal :=
  runWord (.vorI32 o) s (vi32 (fun a b => a ||| b) o)

/-- VXOR.I32 (R264). -/
def execVxorI32 (o : VOp) (s : State) : Host.Outcome State Fault Refusal :=
  runWord (.vxorI32 o) s (vi32 (fun a b => a ^^^ b) o)

/-- VANDN.I32 (R264). -/
def execVandnI32 (o : VOp) (s : State) : Host.Outcome State Fault Refusal :=
  runWord (.vandnI32 o) s (vi32 (fun a b => a &&& ~~~b) o)

/-- VSHL.I32 (R264). -/
def execVshlI32 (o : VOp) (s : State) : Host.Outcome State Fault Refusal :=
  runWord (.vshlI32 o) s (vi32 (fun a b => a <<< count32 b) o)

/-- VSHR.I32 (R264). -/
def execVshrI32 (o : VOp) (s : State) : Host.Outcome State Fault Refusal :=
  runWord (.vshrI32 o) s (vi32 (fun a b => a >>> count32 b) o)

/-- VSAR.I32 (R264). -/
def execVsarI32 (o : VOp) (s : State) : Host.Outcome State Fault Refusal :=
  runWord (.vsarI32 o) s (vi32 (fun a b => a.sshiftRight (count32 b)) o)

/-- VADD.I16 (R265). -/
def execVaddI16 (o : VOp) (s : State) : Host.Outcome State Fault Refusal :=
  runWord (.vaddI16 o) s (vi16 (fun a b => a + b) o)

/-- VSUB.I16 (R265). -/
def execVsubI16 (o : VOp) (s : State) : Host.Outcome State Fault Refusal :=
  runWord (.vsubI16 o) s (vi16 (fun a b => a - b) o)

/-- VMUL.I16 (R265). -/
def execVmulI16 (o : VOp) (s : State) : Host.Outcome State Fault Refusal :=
  runWord (.vmulI16 o) s (vi16 (fun a b => a * b) o)

/-- VADDS.I16 (R265). -/
def execVaddsI16 (o : VOp) (s : State) : Host.Outcome State Fault Refusal :=
  runWord (.vaddsI16 o) s (vi16 (fun a b => sat16 (a.toInt + b.toInt)) o)

/-- VSUBS.I16 (R265). -/
def execVsubsI16 (o : VOp) (s : State) : Host.Outcome State Fault Refusal :=
  runWord (.vsubsI16 o) s (vi16 (fun a b => sat16 (a.toInt - b.toInt)) o)

/-- VMIN.I16 (R265). -/
def execVminI16 (o : VOp) (s : State) : Host.Outcome State Fault Refusal :=
  runWord (.vminI16 o) s (vi16 (fun a b => if b.toInt < a.toInt then b else a) o)

/-- VMAX.I16 (R265). -/
def execVmaxI16 (o : VOp) (s : State) : Host.Outcome State Fault Refusal :=
  runWord (.vmaxI16 o) s (vi16 (fun a b => if a.toInt < b.toInt then b else a) o)

/-! ## Compares, selection and masks (R266 to R268) -/

/-- A floating-point relation of VCMP and its NV (R266). -/
def vcmpF (f : Fmt) (k : VcmpCond) (wa wb : Nat) : Bool × BitVec 5 :=
  let a := decodeF f wa
  let b := decodeF f wb
  let nan := a.isNan || b.isNan
  let sig := a.isSig || b.isSig
  let fl (c : Bool) : BitVec 5 := if c then flNV else 0
  match k with
  | .eq => (eqF a b, fl sig)
  | .lt => (ltF a b, fl nan)
  | .le => (ltF a b || eqF a b, fl nan)
  | .ne => (!eqF a b, fl sig)

/-- An integer relation of VCMP (R266). -/
def vcmpI (k : VcmpCond) (a b : Int) : Bool :=
  match k with
  | .eq => a = b
  | .lt => decide (a < b)
  | .le => decide (a ≤ b)
  | .ne => a ≠ b

/-- The relation of VCMP on two lanes (R266). -/
def vcmpLane (t : VcmpTy) (k : VcmpCond) (a b : BitVec 32) : Bool × BitVec 5 :=
  match t with
  | .f32 => vcmpF fF32 k a.toNat b.toNat
  | .i32 => (vcmpI k a.toInt b.toInt, 0)
  | .u32 => (vcmpI k a.toNat b.toNat, 0)
  | .bf16 => vcmpF fBF16 k (a.toNat % 2 ^ 16) (b.toNat % 2 ^ 16)

/-- The word with bit l set for each lane of the list. -/
def maskOf (ls : List Nat) : Word := ls.foldl (fun m l => m ||| BitVec.ofNat 64 (2 ^ l)) 0

/-- VCMP (R266): inactive lanes clear their bit. -/
def execVcmp (o : VcmpOp) (s : State) : Host.Outcome State Fault Refusal :=
  runWord (.vcmp o) s (fun e =>
    withVec e [] [] [o.a, o.b] [o.m, o.md] (fun _ i =>
      let rs := ((upto e.lanes).filter (e.active o.m)).map (fun l =>
        (l, vcmpLane o.t o.k (e.i.vGet o.a.toNat l) (e.i.vGet o.b.toNat l)))
      writeMask e o.md (maskOf ((rs.filter (fun r => r.2.1)).map (fun r => r.1))) (orAll (rs.map (fun r => r.2.2))) i))

/-- VSEL (R267): every lane is written. -/
def execVsel (o : VOp) (s : State) : Host.Outcome State Fault Refusal :=
  runWord (.vsel o) s (fun e =>
    withVec e [] [] [o.v, o.a, o.b] [o.m] (fun _ i =>
      writeLanes e o.v (fun _ => true) (fun l => (if e.active o.m l then e.vn o.a l else e.vn o.b l, 0)) i))

/-- A mask operation with two mask sources (R268). -/
def maskOp (f : Word → Word → Word) (o : MmmOp) (e : Env) : Verdict :=
  withVec e [] [] [] [o.md, o.ma, o.mb] (fun _ i =>
    writeMask e o.md (f (e.i.mGet e.lanes o.ma.toNat) (e.i.mGet e.lanes o.mb.toNat)) 0 i)

/-- MAND (R268). -/
def execMand (o : MmmOp) (s : State) : Host.Outcome State Fault Refusal :=
  runWord (.mand o) s (maskOp (fun a b => a &&& b) o)

/-- MOR (R268). -/
def execMor (o : MmmOp) (s : State) : Host.Outcome State Fault Refusal :=
  runWord (.mor o) s (maskOp (fun a b => a ||| b) o)

/-- MXOR (R268). -/
def execMxor (o : MmmOp) (s : State) : Host.Outcome State Fault Refusal :=
  runWord (.mxor o) s (maskOp (fun a b => a ^^^ b) o)

/-- MANDN (R268). -/
def execMandn (o : MmmOp) (s : State) : Host.Outcome State Fault Refusal :=
  runWord (.mandn o) s (maskOp (fun a b => a &&& ~~~b) o)

/-- MNOT (R268). -/
def execMnot (o : MmOp) (s : State) : Host.Outcome State Fault Refusal :=
  runWord (.mnot o) s (fun e => withVec e [] [] [] [o.md, o.ma] (fun _ i => writeMask e o.md (~~~(e.i.mGet e.lanes o.ma.toNat)) 0 i))

/-- MPOP (R268). -/
def execMpop (o : GmOp) (s : State) : Host.Outcome State Fault Refusal :=
  runWord (.mpop o) s (fun e =>
    withVec e [] [o.d] [] [o.ma] (fun _ i => finishG e o.d (.pure (BitVec.ofNat 64 (popCount 64 (e.i.mGet e.lanes o.ma.toNat).toNat))) i))

/-- MTOG (R268). -/
def execMtog (o : GmOp) (s : State) : Host.Outcome State Fault Refusal :=
  runWord (.mtog o) s (fun e => withVec e [] [o.d] [] [o.ma] (fun _ i => finishG e o.d (.pure (e.i.mGet e.lanes o.ma.toNat)) i))

/-- MFROMG (R268). -/
def execMfromg (o : MgOp) (s : State) : Host.Outcome State Fault Refusal :=
  runWord (.mfromg o) s (fun e => withVec e [o.a] [] [] [o.md] (fun v i => writeMask e o.md (src v 0) 0 i))

/-! ## Conversions (R270 to R272) -/

/-- A conversion on the low bits of a lane (R270). -/
def vcvt (bits : Nat) (f : Rnd → Nat → Nat × BitVec 5) (o : Vf1Op) : Env → Verdict :=
  laneOp o.v [o.a] o.m (fun e l => f (rndOf o.x) (e.vn o.a l % 2 ^ bits))

/-- VCVT.F32.I32 (R270). -/
def execVcvtF32I32 (o : Vf1Op) (s : State) : Host.Outcome State Fault Refusal :=
  runWord (.vcvtF32I32 o) s (vcvt 32 i32ToF32 o)

/-- VCVT.I32.F32 (R270). -/
def execVcvtI32F32 (o : Vf1Op) (s : State) : Host.Outcome State Fault Refusal :=
  runWord (.vcvtI32F32 o) s (vcvt 32 f32ToI32 o)

/-- VCVT.F32.BF16 (R270). -/
def execVcvtF32Bf16 (o : Vf1Op) (s : State) : Host.Outcome State Fault Refusal :=
  runWord (.vcvtF32Bf16 o) s (vcvt 16 (convF fBF16 fF32) o)

/-- VCVT.BF16.F32 (R270). -/
def execVcvtBf16F32 (o : Vf1Op) (s : State) : Host.Outcome State Fault Refusal :=
  runWord (.vcvtBf16F32 o) s (vcvt 32 (convF fF32 fBF16) o)

/-- VCVT.F32.F16 (R270). -/
def execVcvtF32F16 (o : Vf1Op) (s : State) : Host.Outcome State Fault Refusal :=
  runWord (.vcvtF32F16 o) s (vcvt 16 (convF fF16 fF32) o)

/-- VCVT.F16.F32 (R270). -/
def execVcvtF16F32 (o : Vf1Op) (s : State) : Host.Outcome State Fault Refusal :=
  runWord (.vcvtF16F32 o) s (vcvt 32 (convF fF32 fF16) o)

/-- Byte k of a V register as a byte stream (R260). -/
def streamByte (e : Env) (r : BitVec 5) (k : Nat) : Nat := e.vn r (k / 4) / 2 ^ (8 * (k % 4)) % 256

/-- Code l of a packed register (R272). -/
def codeAt (e : Env) (r : BitVec 5) (l : Nat) : Nat :=
  let g := l / 4
  (streamByte e r (3 * g) + streamByte e r (3 * g + 1) * 256 + streamByte e r (3 * g + 2) * 65536) / 2 ^ (6 * (l % 4)) % 64

/-- VL6PACK (R271): every lane of VD is written. -/
def execVl6pack (o : Vf1Op) (s : State) : Host.Outcome State Fault Refusal :=
  runWord (.vl6pack o) s (fun e =>
    withVec e [] [] [o.v, o.a] [o.m] (fun _ i =>
      let cs := (upto e.lanes).map (fun l => if e.active o.m l then l6Encode (decodeF fF32 (e.vn o.a l)) else 0)
      let bs := packL6 e.lanes cs
      writeLanes e o.v (fun _ => true) (fun l => (leNat ((bs.drop (4 * l)).take 4), 0)) i))

/-- VL6UNPK (R272). -/
def execVl6unpk (o : Vf1Op) (s : State) : Host.Outcome State Fault Refusal :=
  runWord (.vl6unpk o) s (laneOp o.v [o.a] o.m (fun e l => ((roundVal fF32 .rne (l6Val (codeAt e o.a l))).1, 0)))

/-! ## Transcendental functions (R273) -/

/-- VEXP2 (R273). -/
def execVexp2 (o : Vf1Op) (s : State) : Host.Outcome State Fault Refusal :=
  runWord (.vexp2 o) s (laneOp o.v [o.a] o.m (fun e l => vexp2F (e.vn o.a l)))

/-- VLOG2 (R273). -/
def execVlog2 (o : Vf1Op) (s : State) : Host.Outcome State Fault Refusal :=
  runWord (.vlog2 o) s (laneOp o.v [o.a] o.m (fun e l => vlog2F (e.vn o.a l)))

/-- VRCP (R273). -/
def execVrcp (o : Vf1Op) (s : State) : Host.Outcome State Fault Refusal :=
  runWord (.vrcp o) s (laneOp o.v [o.a] o.m (fun e l => vrcpF (e.vn o.a l)))

/-- VRSQ (R273). -/
def execVrsq (o : Vf1Op) (s : State) : Host.Outcome State Fault Refusal :=
  runWord (.vrsq o) s (laneOp o.v [o.a] o.m (fun e l => vrsqF (e.vn o.a l)))

/-! ## Reductions, permutes and broadcast (R274 to R276) -/

/-- One level of the tree of R203. -/
def treeLevel (f : Nat → Nat → LaneRes) : List LaneRes → List LaneRes
  | a :: b :: rest =>
    let r := f a.1 b.1
    (r.1, r.2 ||| a.2 ||| b.2) :: treeLevel f rest
  | xs => xs

/-- The tree of R203 over a list whose length is a power of two, n levels. -/
def treeReduce (f : Nat → Nat → LaneRes) : Nat → List LaneRes → List LaneRes
  | 0, xs => xs
  | n + 1, xs => treeReduce f n (treeLevel f xs)

/-- Combine and identity of a VRED operation (R274). -/
def vredCombine (fn : VredFn) (r : Rnd) (a b : Nat) : LaneRes :=
  match fn with
  | .sumF32 => addF fF32 r (decodeF fF32 a) (decodeF fF32 b)
  | .maxF32 => minMaxF fF32 true a b
  | .minF32 => minMaxF fF32 false a b
  | .sumI32 => ((a + b) % 2 ^ 32, 0)
  | .maxI32 => (if sextInt 32 a < sextInt 32 b then b else a, 0)
  | .minI32 => (if sextInt 32 b < sextInt 32 a then b else a, 0)
  | .and => (Nat.land a b, 0)
  | .or => (Nat.lor a b, 0)
  | .xor => (Nat.xor a b, 0)
def vredIdentity : VredFn → Nat
  | .sumF32 => 0x80000000
  | .maxF32 => 0x7FC00000
  | .minF32 => 0x7FC00000
  | .sumI32 => 0
  | .maxI32 => 0x80000000
  | .minI32 => 0x7FFFFFFF
  | .and => 0xFFFFFFFF
  | .or => 0
  | .xor => 0

/-- The integer sums, maxima and minima are sign-extended (R274). -/
def vredWord (fn : VredFn) (w : Nat) : Word :=
  match fn with
  | .sumI32 => sext64 32 w
  | .maxI32 => sext64 32 w
  | .minI32 => sext64 32 w
  | _ => BitVec.ofNat 64 w

/-- VRED (R274): inactive lanes take the identity. -/
def execVred (o : VredOp) (s : State) : Host.Outcome State Fault Refusal :=
  runWord (.vred o) s (fun e =>
    withVec e [] [o.d] [o.a] [o.m] (fun _ i =>
      let w := (upto e.lanes).map (fun l => ((if e.active o.m l then e.vn o.a l else vredIdentity o.f, 0) : LaneRes))
      let r := (treeReduce (vredCombine o.f (rndOf o.x)) 6 w).headD (0, 0)
      finishG e o.d ⟨vredWord o.f r.1, r.2⟩ i))

/-- VPERM (R275): an index beyond the lanes gives zero. -/
def execVperm (o : VOp) (s : State) : Host.Outcome State Fault Refusal :=
  runWord (.vperm o) s (laneOp o.v [o.a, o.b] o.m (fun e l => (if e.vn o.b l < e.lanes then e.vn o.a (e.vn o.b l) else 0, 0)))

/-- VBCAST (R276): the source is read, or popped, once. -/
def execVbcast (o : VbcastOp) (s : State) : Host.Outcome State Fault Refusal :=
  runWord (.vbcast o) s (fun e =>
    withVec e [o.a] [] [o.v] [o.m] (fun v i => writeLanes e o.v (e.active o.m) (fun _ => ((src v 0).toNat % 2 ^ 32, 0)) i))

end Sys2Proof.Machine
end

