-- ==== Sys2Proof/Machine/VectorMem.lean ====
section
/-!
DEFINITION. Vector loads and stores (R277 to R284): majors 0x50 to 0x55.
-/
namespace Sys2Proof.Machine

/-- How a vector memory word finds its element addresses (R277, R278). -/
inductive VAddr
  | unit (off : Word)
  | strided (g : BitVec 5) (off : Word)
  | indexed (v : BitVec 5) (off : Word)

/-- G sources beside the base, and V sources (R277). -/
def VAddr.gs : VAddr → List (BitVec 5)
  | .strided g _ => [g]
  | _ => []
def VAddr.vs : VAddr → List (BitVec 5)
  | .indexed v _ => [v]
  | _ => []

/-- Address of lane l (R278); s is the stride. -/
def VAddr.at (e : Env) (base s : Word) (l : Nat) : VAddr → Word
  | .unit off => base + off + BitVec.ofNat 64 (4 * l)
  | .strided _ off => base + off + BitVec.ofNat 64 l * s
  | .indexed v off => base + off + (e.i.vGet v.toNat l).signExtend 64

/-- The trap of the elements whose addresses are known while a source still has to come: all of them where the base and the stride stand
ready, the first lane where the stride does not (R64, R280). -/
def elemsTrap (e : Env) (w : Want) (act : List Nat) (ad : VAddr) (vs : List (Option Word)) : Option TrapOf :=
  match vs.headD none, e.launch with
  | some base, some l =>
    let known := match ad, vs.getD 1 none with
      | .strided _ _, none => act.filter (fun n => n = 0)
      | _, _ => act
    match checkAll e.s e.k e.i l w 4 (known.map (fun n => (n, ad.at e base ((vs.getD 1 none).getD 0) n))) with
    | .error (t, va) => some (t.cause, t.detail, va)
    | .ok _ => none
  | _, _ => none

/-- The active lanes of a vector load: those whose bit of M1 to M7 is clear (R279). -/
def loadLanes (e : Env) (m : BitVec 3) : List Nat := (upto e.lanes).filter (fun n => m = 0 || !e.active m n)
/-- The active lanes of a vector store: those whose bit is set (R279). -/
def storeLanes (e : Env) (m : BitVec 3) : List Nat := (upto e.lanes).filter (fun n => m = 0 || e.active m n)

/-- A vector load: with M1 to M7 the lanes whose bit is clear are active, and failures are flagged (R279 to R282). -/
def vloadOp (v a : BitVec 5) (land : BitVec 6) (m : BitVec 3) (ad : VAddr) (e : Env) : Verdict :=
  withVecChecked e (a :: ad.gs) [] (v :: ad.vs) [m] (elemsTrap e (.load (decide (m ≠ 0))) (loadLanes e m) ad) (fun vals i =>
    e.withLaunch (.block .order) (fun l =>
      let addrs := (loadLanes e m).map (fun n => (n, ad.at e (src vals 0) (src vals 1) n))
      let w : Want := .load (decide (m ≠ 0))
      match checkAll e.s e.k e.i l w 4 addrs with
      | .error (t, va) => .trap t.cause t.detail va
      | .ok els =>
        if l.spec && els.any (stopsAt w) then .block .specStop
        else orHeld e l (els.map (fun x => x.tgt)) (
          if els.isEmpty then .go (e.s.setInst e.k i)
          else if landingFull i (.v v.toNat) then .block .landingBuffer
          else .go (issueAccess e .load false (els.map (fun x => x.part 4 0 0)) (some ⟨.v v.toNat, m.toNat, land.toNat, 2⟩) i e.s))))

/-- Elements in message windows of this isle: placed in lane order, then the packets close whose windows were told to (R284). -/
def placeElems (e : Env) (val : Nat → Nat) (els : List Elem) (s : State) : State :=
  let place (s : State) (x : Elem) : State :=
    match x.tgt with
    | .msgwin _ w off => s.updInst e.k (placeBytes w (off % 2048) (leBytes 4 (val x.lane)))
    | _ => s
  let s := els.foldl place s
  (upto 16).foldl (fun s w =>
    match els.find? (fun x => match x.tgt with
      | .msgwin _ w' off => w' = w && bitAt off 11
      | _ => false) with
    | some x => closePacket e.k w e.pc x.va s
    | none => s) s

def Elem.inWindow (x : Elem) : Bool :=
  match x.tgt with
  | .msgwin .. => true
  | _ => false

/-- A vector store: every active element is one store (R279, R283, R284). -/
def vstoreOp (v a : BitVec 5) (m : BitVec 3) (ad : VAddr) (e : Env) : Verdict :=
  withVecChecked e (a :: ad.gs) [] (v :: ad.vs) [m] (elemsTrap e .store (storeLanes e m) ad) (fun vals i =>
    e.withLaunch (.block .order) (fun l =>
      let addrs := (storeLanes e m).map (fun n => (n, ad.at e (src vals 0) (src vals 1) n))
      match checkAll e.s e.k e.i l .store 4 addrs with
      | .error (t, va) => .trap t.cause t.detail va
      | .ok els =>
        if l.spec && els.any (stopsAt .store) then .block .specStop
        else if els.any (fun x => padRefilling e.i x 4) then .block .refill
        else orHeld e l (els.map (fun x => x.tgt)) (
          let win := els.filter (fun x => x.inWindow)
          let rest := els.filter (fun x => !x.inWindow)
          let s := placeElems e (e.vn v) win (e.s.setInst e.k i)
          if rest.isEmpty then .go s
          else match s.inst e.k with
            | none => .go s
            | some i => .go (issueAccess e .store false (rest.map (fun x => x.part 4 (e.vn v x.lane) 0)) none i s))))

/-- The offset of a strided or indexed word (R208). -/
def off27 (o : BitVec 27) : Word := o.signExtend 64

/-- VLD (R278). -/
def execVld (o : VmemOp) (s : State) : Host.Outcome State Fault Refusal :=
  runWord (.vld o) s (vloadOp o.v o.a o.land o.m (.unit (offOf o.off)))
/-- VLDS (R278). -/
def execVlds (o : VmemXOp) (s : State) : Host.Outcome State Fault Refusal :=
  runWord (.vlds o) s (vloadOp o.v o.a o.land o.m (.strided o.x (off27 o.off)))
/-- VLDX (R278). -/
def execVldx (o : VmemXOp) (s : State) : Host.Outcome State Fault Refusal :=
  runWord (.vldx o) s (vloadOp o.v o.a o.land o.m (.indexed o.x (off27 o.off)))
/-- VST (R283). -/
def execVst (o : VmemOp) (s : State) : Host.Outcome State Fault Refusal :=
  runWord (.vst o) s (vstoreOp o.v o.a o.m (.unit (offOf o.off)))
/-- VSTS (R283). -/
def execVsts (o : VmemXOp) (s : State) : Host.Outcome State Fault Refusal :=
  runWord (.vsts o) s (vstoreOp o.v o.a o.m (.strided o.x (off27 o.off)))
/-- VSTX (R283). -/
def execVstx (o : VmemXOp) (s : State) : Host.Outcome State Fault Refusal :=
  runWord (.vstx o) s (vstoreOp o.v o.a o.m (.indexed o.x (off27 o.off)))

end Sys2Proof.Machine
end

