-- ==== Sys2Proof/Machine/Dispatch.lean ====
section
/-!
DEFINITION. The dispatch of an instruction or event to its meaning: one arm for each row of spec/opcode_table.json.
-/
namespace Sys2Proof.Machine

def exec (i : Instr) (s : State) : Host.Outcome State Fault Refusal :=
  match i with
  | .add o => Sys2Proof.Machine.execAdd o s
  | .sub o => Sys2Proof.Machine.execSub o s
  | .mul o => Sys2Proof.Machine.execMul o s
  | .mulh o => Sys2Proof.Machine.execMulh o s
  | .mulhu o => Sys2Proof.Machine.execMulhu o s
  | .div o => Sys2Proof.Machine.execDiv o s
  | .divu o => Sys2Proof.Machine.execDivu o s
  | .rem o => Sys2Proof.Machine.execRem o s
  | .remu o => Sys2Proof.Machine.execRemu o s
  | .and o => Sys2Proof.Machine.execAnd o s
  | .or o => Sys2Proof.Machine.execOr o s
  | .xor o => Sys2Proof.Machine.execXor o s
  | .andn o => Sys2Proof.Machine.execAndn o s
  | .shl o => Sys2Proof.Machine.execShl o s
  | .shr o => Sys2Proof.Machine.execShr o s
  | .sar o => Sys2Proof.Machine.execSar o s
  | .rol o => Sys2Proof.Machine.execRol o s
  | .min o => Sys2Proof.Machine.execMin o s
  | .max o => Sys2Proof.Machine.execMax o s
  | .minu o => Sys2Proof.Machine.execMinu o s
  | .maxu o => Sys2Proof.Machine.execMaxu o s
  | .slt o => Sys2Proof.Machine.execSlt o s
  | .sltu o => Sys2Proof.Machine.execSltu o s
  | .seq o => Sys2Proof.Machine.execSeq o s
  | .clz o => Sys2Proof.Machine.execClz o s
  | .ctz o => Sys2Proof.Machine.execCtz o s
  | .popc o => Sys2Proof.Machine.execPopc o s
  | .bswap o => Sys2Proof.Machine.execBswap o s
  | .loc o => Sys2Proof.Machine.execLoc o s
  | .sel o => Sys2Proof.Machine.execSel o s
  | .lea o => Sys2Proof.Machine.execLea o s
  | .bfx o => Sys2Proof.Machine.execBfx o s
  | .bfi o => Sys2Proof.Machine.execBfi o s
  | .addImm o => Sys2Proof.Machine.execAddImm o s
  | .mulImm o => Sys2Proof.Machine.execMulImm o s
  | .andImm o => Sys2Proof.Machine.execAndImm o s
  | .orImm o => Sys2Proof.Machine.execOrImm o s
  | .xorImm o => Sys2Proof.Machine.execXorImm o s
  | .shlImm o => Sys2Proof.Machine.execShlImm o s
  | .shrImm o => Sys2Proof.Machine.execShrImm o s
  | .sarImm o => Sys2Proof.Machine.execSarImm o s
  | .sltImm o => Sys2Proof.Machine.execSltImm o s
  | .sltuImm o => Sys2Proof.Machine.execSltuImm o s
  | .seqImm o => Sys2Proof.Machine.execSeqImm o s
  | .li o => Sys2Proof.Machine.execLi o s
  | .lui o => Sys2Proof.Machine.execLui o s
  | .fadd o => Sys2Proof.Machine.execFadd o s
  | .fsub o => Sys2Proof.Machine.execFsub o s
  | .fmul o => Sys2Proof.Machine.execFmul o s
  | .fmin o => Sys2Proof.Machine.execFmin o s
  | .fmax o => Sys2Proof.Machine.execFmax o s
  | .fcmp o => Sys2Proof.Machine.execFcmp o s
  | .fcvtI32F32 o => Sys2Proof.Machine.execFcvtI32F32 o s
  | .fcvtF32I32 o => Sys2Proof.Machine.execFcvtF32I32 o s
  | .fcvtBf16F32 o => Sys2Proof.Machine.execFcvtBf16F32 o s
  | .fcvtF32Bf16 o => Sys2Proof.Machine.execFcvtF32Bf16 o s
  | .fcvtF16F32 o => Sys2Proof.Machine.execFcvtF16F32 o s
  | .fcvtF32F16 o => Sys2Proof.Machine.execFcvtF32F16 o s
  | .fcvtL6F32 o => Sys2Proof.Machine.execFcvtL6F32 o s
  | .fcvtF32L6 o => Sys2Proof.Machine.execFcvtF32L6 o s
  | .ffma o => Sys2Proof.Machine.execFfma o s
  | .br o => Sys2Proof.Machine.execBr o s
  | .bc o => Sys2Proof.Machine.execBc o s
  | .loop o => Sys2Proof.Machine.execLoop o s
  | .call o => Sys2Proof.Machine.execCall o s
  | .jr o => Sys2Proof.Machine.execJr o s
  | .callr o => Sys2Proof.Machine.execCallr o s
  | .ret o => Sys2Proof.Machine.execRet o s
  | .qpeek o => Sys2Proof.Machine.execQpeek o s
  | .qcnt o => Sys2Proof.Machine.execQcnt o s
  | .srd o => Sys2Proof.Machine.execSrd o s
  | .swr o => Sys2Proof.Machine.execSwr o s
  | .trap o => Sys2Proof.Machine.execTrap o s
  | .exit o => Sys2Proof.Machine.execExit o s
  | .nop o => Sys2Proof.Machine.execNop o s
  | .hint o => Sys2Proof.Machine.execHint o s
  | .pmark o => Sys2Proof.Machine.execPmark o s
  | .ld o => Sys2Proof.Machine.execLd o s
  | .lds o => Sys2Proof.Machine.execLds o s
  | .ldAq o => Sys2Proof.Machine.execLdAq o s
  | .st o => Sys2Proof.Machine.execSt o s
  | .stRl o => Sys2Proof.Machine.execStRl o s
  | .amo o => Sys2Proof.Machine.execAmo o s
  | .amoRl o => Sys2Proof.Machine.execAmoRl o s
  | .cas o => Sys2Proof.Machine.execCas o s
  | .red o => Sys2Proof.Machine.execRed o s
  | .pref o => Sys2Proof.Machine.execPref o s
  | .cflush o => Sys2Proof.Machine.execCflush o s
  | .pgreq o => Sys2Proof.Machine.execPgreq o s
  | .fence o => Sys2Proof.Machine.execFence o s
  | .barArr o => Sys2Proof.Machine.execBarArr o s
  | .barWait o => Sys2Proof.Machine.execBarWait o s
  | .step o => Sys2Proof.Machine.execStep o s
  | .succ o => Sys2Proof.Machine.execSucc o s
  | .waitvis o => Sys2Proof.Machine.execWaitvis o s
  | .wait o => Sys2Proof.Machine.execWait o s
  | .launch o => Sys2Proof.Machine.execLaunch o s
  | .qtail o => Sys2Proof.Machine.execQtail o s
  | .vaddF32 o => Sys2Proof.Machine.execVaddF32 o s
  | .vsubF32 o => Sys2Proof.Machine.execVsubF32 o s
  | .vmulF32 o => Sys2Proof.Machine.execVmulF32 o s
  | .vfmaF32 o => Sys2Proof.Machine.execVfmaF32 o s
  | .vminF32 o => Sys2Proof.Machine.execVminF32 o s
  | .vmaxF32 o => Sys2Proof.Machine.execVmaxF32 o s
  | .vabsF32 o => Sys2Proof.Machine.execVabsF32 o s
  | .vnegF32 o => Sys2Proof.Machine.execVnegF32 o s
  | .vaddBf16 o => Sys2Proof.Machine.execVaddBf16 o s
  | .vsubBf16 o => Sys2Proof.Machine.execVsubBf16 o s
  | .vmulBf16 o => Sys2Proof.Machine.execVmulBf16 o s
  | .vfmaBf16 o => Sys2Proof.Machine.execVfmaBf16 o s
  | .vminBf16 o => Sys2Proof.Machine.execVminBf16 o s
  | .vmaxBf16 o => Sys2Proof.Machine.execVmaxBf16 o s
  | .vabsBf16 o => Sys2Proof.Machine.execVabsBf16 o s
  | .vnegBf16 o => Sys2Proof.Machine.execVnegBf16 o s
  | .vaddF16 o => Sys2Proof.Machine.execVaddF16 o s
  | .vsubF16 o => Sys2Proof.Machine.execVsubF16 o s
  | .vmulF16 o => Sys2Proof.Machine.execVmulF16 o s
  | .vfmaF16 o => Sys2Proof.Machine.execVfmaF16 o s
  | .vminF16 o => Sys2Proof.Machine.execVminF16 o s
  | .vmaxF16 o => Sys2Proof.Machine.execVmaxF16 o s
  | .vabsF16 o => Sys2Proof.Machine.execVabsF16 o s
  | .vnegF16 o => Sys2Proof.Machine.execVnegF16 o s
  | .vaddI32 o => Sys2Proof.Machine.execVaddI32 o s
  | .vsubI32 o => Sys2Proof.Machine.execVsubI32 o s
  | .vmulI32 o => Sys2Proof.Machine.execVmulI32 o s
  | .vmulhI32 o => Sys2Proof.Machine.execVmulhI32 o s
  | .vminI32 o => Sys2Proof.Machine.execVminI32 o s
  | .vmaxI32 o => Sys2Proof.Machine.execVmaxI32 o s
  | .vminuI32 o => Sys2Proof.Machine.execVminuI32 o s
  | .vmaxuI32 o => Sys2Proof.Machine.execVmaxuI32 o s
  | .vandI32 o => Sys2Proof.Machine.execVandI32 o s
  | .vorI32 o => Sys2Proof.Machine.execVorI32 o s
  | .vxorI32 o => Sys2Proof.Machine.execVxorI32 o s
  | .vandnI32 o => Sys2Proof.Machine.execVandnI32 o s
  | .vshlI32 o => Sys2Proof.Machine.execVshlI32 o s
  | .vshrI32 o => Sys2Proof.Machine.execVshrI32 o s
  | .vsarI32 o => Sys2Proof.Machine.execVsarI32 o s
  | .vaddI16 o => Sys2Proof.Machine.execVaddI16 o s
  | .vsubI16 o => Sys2Proof.Machine.execVsubI16 o s
  | .vmulI16 o => Sys2Proof.Machine.execVmulI16 o s
  | .vaddsI16 o => Sys2Proof.Machine.execVaddsI16 o s
  | .vsubsI16 o => Sys2Proof.Machine.execVsubsI16 o s
  | .vminI16 o => Sys2Proof.Machine.execVminI16 o s
  | .vmaxI16 o => Sys2Proof.Machine.execVmaxI16 o s
  | .vcmp o => Sys2Proof.Machine.execVcmp o s
  | .vsel o => Sys2Proof.Machine.execVsel o s
  | .mand o => Sys2Proof.Machine.execMand o s
  | .mor o => Sys2Proof.Machine.execMor o s
  | .mxor o => Sys2Proof.Machine.execMxor o s
  | .mandn o => Sys2Proof.Machine.execMandn o s
  | .mnot o => Sys2Proof.Machine.execMnot o s
  | .mpop o => Sys2Proof.Machine.execMpop o s
  | .mtog o => Sys2Proof.Machine.execMtog o s
  | .mfromg o => Sys2Proof.Machine.execMfromg o s
  | .vcvtF32I32 o => Sys2Proof.Machine.execVcvtF32I32 o s
  | .vcvtI32F32 o => Sys2Proof.Machine.execVcvtI32F32 o s
  | .vcvtF32Bf16 o => Sys2Proof.Machine.execVcvtF32Bf16 o s
  | .vcvtBf16F32 o => Sys2Proof.Machine.execVcvtBf16F32 o s
  | .vcvtF32F16 o => Sys2Proof.Machine.execVcvtF32F16 o s
  | .vcvtF16F32 o => Sys2Proof.Machine.execVcvtF16F32 o s
  | .vl6pack o => Sys2Proof.Machine.execVl6pack o s
  | .vl6unpk o => Sys2Proof.Machine.execVl6unpk o s
  | .vexp2 o => Sys2Proof.Machine.execVexp2 o s
  | .vlog2 o => Sys2Proof.Machine.execVlog2 o s
  | .vrcp o => Sys2Proof.Machine.execVrcp o s
  | .vrsq o => Sys2Proof.Machine.execVrsq o s
  | .vred o => Sys2Proof.Machine.execVred o s
  | .vperm o => Sys2Proof.Machine.execVperm o s
  | .vbcast o => Sys2Proof.Machine.execVbcast o s
  | .vld o => Sys2Proof.Machine.execVld o s
  | .vlds o => Sys2Proof.Machine.execVlds o s
  | .vldx o => Sys2Proof.Machine.execVldx o s
  | .vst o => Sys2Proof.Machine.execVst o s
  | .vsts o => Sys2Proof.Machine.execVsts o s
  | .vstx o => Sys2Proof.Machine.execVstx o s
  | .tld o => Sys2Proof.Machine.execTld o s
  | .tst o => Sys2Proof.Machine.execTst o s
  | .tmod o => Sys2Proof.Machine.execTmod o s
  | .mxm o => Sys2Proof.Machine.execMxm o s
  | .mxmRb o => Sys2Proof.Machine.execMxmRb o s
  | .mxz o => Sys2Proof.Machine.execMxz o s
  | .mxd o => Sys2Proof.Machine.execMxd o s
  | .cpy o => Sys2Proof.Machine.execCpy o s
  | .cpyT8 o => Sys2Proof.Machine.execCpyT8 o s
  | .cpyT16 o => Sys2Proof.Machine.execCpyT16 o s
  | .gather o => Sys2Proof.Machine.execGather o s
  | .scatter o => Sys2Proof.Machine.execScatter o s
  | .scadd o => Sys2Proof.Machine.execScadd o s
  | .wload o => Sys2Proof.Machine.execWload o s
  | .att o => Sys2Proof.Machine.execAtt o s
  | .copen o => Sys2Proof.Machine.execCopen o s
  | .chold o => Sys2Proof.Machine.execChold o s
  | .csend o => Sys2Proof.Machine.execCsend o s
  | .csendResume o => Sys2Proof.Machine.execCsendResume o s
  | .cshut o => Sys2Proof.Machine.execCshut o s
  | .cstat o => Sys2Proof.Machine.execCstat o s
  | .tide o => Sys2Proof.Machine.execTide o s
  | .ard o => Sys2Proof.Machine.execArd o s
  | .agt o => Sys2Proof.Machine.execAgt o s
  | .rsc o => Sys2Proof.Machine.execRsc o s
  | .bct o => Sys2Proof.Machine.execBct o s
  | .tree o => Sys2Proof.Machine.execTree o s
  | .rota o => Sys2Proof.Machine.execRota o s
  | .vcAdvance isle => Sys2Proof.Machine.execVcAdvance isle s
  | .timedLanding isle => Sys2Proof.Machine.execTimedLanding isle s
  | .landingDataArrival isle id only answers => Sys2Proof.Machine.execLandingDataArrival isle id only answers s
  | .freezeEnd isle => Sys2Proof.Machine.execFreezeEnd isle s
  | .watchdog isle => Sys2Proof.Machine.execWatchdog isle s
  | .pageRefillDone isle page => Sys2Proof.Machine.execPageRefillDone isle page s
  | .writeAcknowledge id die answers => Sys2Proof.Machine.execWriteAcknowledge id die answers s
  | .queueEnable vf q value => Sys2Proof.Machine.execQueueEnable vf q value s
  | .queueDisable vf q value => Sys2Proof.Machine.execQueueDisable vf q value s
  | .tailWrite vf q value => Sys2Proof.Machine.execTailWrite vf q value s
  | .parseNop vf q ext => Sys2Proof.Machine.execParseNop vf q ext s
  | .parseLaunch vf q ext => Sys2Proof.Machine.execParseLaunch vf q ext s
  | .parseFence vf q ext => Sys2Proof.Machine.execParseFence vf q ext s
  | .fenceCounterRead vf q ext => Sys2Proof.Machine.execFenceCounterRead vf q ext s
  | .parseSignal vf q ext => Sys2Proof.Machine.execParseSignal vf q ext s
  | .signalAdd vf q => Sys2Proof.Machine.execSignalAdd vf q s
  | .launchDispatch vf q ext => Sys2Proof.Machine.execLaunchDispatch vf q ext s
  | .saveComplete isle => Sys2Proof.Machine.execSaveComplete isle s
  | .instanceResume inst isle => Sys2Proof.Machine.execInstanceResume inst isle s
  | .speculationTimeout vf q => Sys2Proof.Machine.execSpeculationTimeout vf q s
  | .commitComplete vf q => Sys2Proof.Machine.execCommitComplete vf q s
  | .ingressRequest r => Sys2Proof.Machine.execIngressRequest r s
  | .refusedAccess id part step => Sys2Proof.Machine.execRefusedAccess id part step s
  | .fabricTimeout id => Sys2Proof.Machine.execFabricTimeout id s
  | .granuleMoveStart home granule holder => Sys2Proof.Machine.execGranuleMoveStart home granule holder s
  | .granuleMoveEnd home granule backing image => Sys2Proof.Machine.execGranuleMoveEnd home granule backing image s
  | .contestPinEnd granule => Sys2Proof.Machine.execContestPinEnd granule s
  | .moveRetry req => Sys2Proof.Machine.execMoveRetry req s
  | .moveRetryLimit req => Sys2Proof.Machine.execMoveRetryLimit req s
  | .foreignPeerTimeout part peer => Sys2Proof.Machine.execForeignPeerTimeout part peer s
  | .turnStart link => Sys2Proof.Machine.execTurnStart link s
  | .turnEnd link => Sys2Proof.Machine.execTurnEnd link s
  | .tideExpired link region => Sys2Proof.Machine.execTideExpired link region s
  | .windowPacketArrival p => Sys2Proof.Machine.execWindowPacketArrival p s
  | .meterIdle f => Sys2Proof.Machine.execMeterIdle f s
  | .probeArrival p => Sys2Proof.Machine.execProbeArrival p s
  | .probeSuccess f backtracks => Sys2Proof.Machine.execProbeSuccess f backtracks s
  | .probeFail f backtracks => Sys2Proof.Machine.execProbeFail f backtracks s
  | .circuitDataArrival c off data => Sys2Proof.Machine.execCircuitDataArrival c off data s
  | .markedPacketArrival f off => Sys2Proof.Machine.execMarkedPacketArrival f off s
  | .tokenArrival c off => Sys2Proof.Machine.execTokenArrival c off s
  | .circuitIdle f => Sys2Proof.Machine.execCircuitIdle f s
  | .demotionMarkArrival f => Sys2Proof.Machine.execDemotionMarkArrival f s
  | .circuitBreak c cause => Sys2Proof.Machine.execCircuitBreak c cause s
  | .teardownReported f => Sys2Proof.Machine.execTeardownReported f s
  | .holdExpiry f => Sys2Proof.Machine.execHoldExpiry f s
  | .leaseExpiry isle h => Sys2Proof.Machine.execLeaseExpiry isle h s
  | .fallbackDone isle h => Sys2Proof.Machine.execFallbackDone isle h s
  | .linkFailure port => Sys2Proof.Machine.execLinkFailure port s
  | .linkRetrain port => Sys2Proof.Machine.execLinkRetrain port s
  | .multicastForward tree tenant c => Sys2Proof.Machine.execMulticastForward tree tenant c s
  | .collectiveContribution isle c => Sys2Proof.Machine.execCollectiveContribution isle c s
  | .rackTokenArrival isle fromPeer label => Sys2Proof.Machine.execRackTokenArrival isle fromPeer label s
  | .caskArrival isle size n data => Sys2Proof.Machine.execCaskArrival isle size n data s
  | .rotaReopen isle opened => Sys2Proof.Machine.execRotaReopen isle opened s
  | .failureMarkArrival isle label => Sys2Proof.Machine.execFailureMarkArrival isle label s
  | .engineCommandStart isle engine cmd => Sys2Proof.Machine.execEngineCommandStart isle engine cmd s
  | .engineCommandComplete isle engine cmd row ext => Sys2Proof.Machine.execEngineCommandComplete isle engine cmd row ext s
  | .dieReset die => Sys2Proof.Machine.execDieReset die s
  | .dieResetTimeout die => Sys2Proof.Machine.execDieResetTimeout die s
  | .linkFlitError link hit => Sys2Proof.Machine.execLinkFlitError link hit s
  | .fabricFlitError port hit => Sys2Proof.Machine.execFabricFlitError port hit s
  | .clockThrottle junction => Sys2Proof.Machine.execClockThrottle junction s
  | .shutdown => Sys2Proof.Machine.execShutdown s
  | .deviceReset => Sys2Proof.Machine.execDeviceReset s
  | .firmwareLoad image signature => Sys2Proof.Machine.execFirmwareLoad image signature s
  | .attestation nonce => Sys2Proof.Machine.execAttestation nonce s
  | .lifeCycleChange target actor => Sys2Proof.Machine.execLifeCycleChange target actor s
  | .abortreq vf value => Sys2Proof.Machine.execAbortreq vf value s
  | .rrqctlWrite vf value => Sys2Proof.Machine.execRrqctlWrite vf value s
  | .rrqctlRead vf => Sys2Proof.Machine.execRrqctlRead vf s
  | .sidebandResetRequest => Sys2Proof.Machine.execSidebandResetRequest s
  | .registerWrite w => Sys2Proof.Machine.execRegisterWrite w s
  | .hostLinkRequest r => Sys2Proof.Machine.execHostLinkRequest r s
  | .dieReturnsToService die => Sys2Proof.Machine.execDieReturnsToService die s
  | .caskConsumed isle => Sys2Proof.Machine.execCaskConsumed isle s

end Sys2Proof.Machine
end

