-- ==== Sys2Proof/Machine/Fetch.lean ====
section
/-!
DEFINITION. Instruction fetch (R116, R206, R386, R409), passing over words (R36, R37, R44), decoding and issue (R39, R40, R219).
-/
namespace Sys2Proof.Machine

/-! ## Fetching a word -/

/-- What fetching one word gives. -/
inductive WordAt
  | word (w : Nat) (s : State)
  | trap (cause detail : Nat)
  | wait (b : Block)
  /-- The word has to be asked for outside this device's memories. -/
  | ask (t : Tgt)

/-- Word n of the instruction at the context's PC, as it came from outside; none where it has not been asked for. -/
def CtxState.outsideWord (x : CtxState) (n : Nat) : Option (Nat × Status) :=
  match x.fetched with
  | some (pc, ws) => if pc = x.pc then ws[n]? else none
  | none => none

/-- A fetch of the context is under way. -/
def fetchPending (s : State) (uid : Nat) (c : Ctx) : Bool :=
  s.acc.any (fun a => a.same uid c && (match a.kind with
    | .fetch => true
    | _ => false))

/-- A word that lies outside: taken from what has come, awaited, or asked for; a refused one reads zero (R143), a poisoned one
traps (R386). -/
def outsideFetch (e : Env) (n : Nat) (t : Tgt) : WordAt :=
  match e.x.outsideWord n with
  | some (_, .poison) => .trap cPOISON 5
  | some (w, .ok) => .word (w % 2 ^ 32) e.s
  | some _ => .word 0 e.s
  | none => if fetchPending e.s e.i.uid e.c then .wait .fetch else if e.spec then .wait .specStop else .ask t

/-- A word at cell x of this device; a speculation reads its own cellar (R98). -/
def cellFetch (e : Env) (x : Nat) : WordAt :=
  if memPoison e.s x 4 then .trap cPOISON 5
  else
    let w := leNat (launchBytes e.s e.i.launch (dieOfIsle e.k) x 4)
    .word w (if e.spec then addRead e.i.launch x 4 e.s else e.s)

/-- A word in DRAM of this device, or at the holder of its granule (R144). -/
def dramFetch (e : Env) (n x : Nat) (t : Tgt) : WordAt :=
  match dramPlace e.s false x with
  | .cell y => cellFetch e y
  | .outside => outsideFetch e n t
  | _ => .wait .fetch

/-- Word n of the instruction at PC, at virtual address va (R116, R206, R409). -/
def fetchWord (e : Env) (l : Launch) (n : Nat) (va : Word) : WordAt :=
  match findSeg l.segs va.toNat with
  | .error d => .trap cSEGV d
  | .ok g =>
    let t := segTgt (selfOf l.part) g va.toNat
    let badPeer := match t with
      | .peer p _ => if peerOk e.s l.part p then none else some p
      | _ => none
    match badPeer with
    | some p => .trap cPEERBAD p
    | none =>
      if !structTgt t then .trap cSEGV dBADPA
      else if !g.x then .trap cSEGV dPERM
      else if !resident e.s l.eff g va.toNat then .trap cSEGV dNONRES
      else match t with
        | .dram x => dramFetch e n x t
        | .peer q pa => (match guestOf e.s q pa with
          | some h => dramFetch e n (h.backing + normPa pa % 2 ^ 21) t
          | none => outsideFetch e n t)
        | _ => outsideFetch e n t

/-- Asks for the first n words at PC outside. -/
def askWords (e : Env) (l : Launch) (n : Nat) : State :=
  let part (k : Nat) : Option Part :=
    let va := e.pc + BitVec.ofNat 64 (4 * k)
    match findSeg l.segs va.toNat with
    | .error _ => none
    | .ok g => some ⟨k, va, segTgt (selfOf l.part) g va.toNat, 4, .rc, .mem, none, 0, 0, false, 0, .ok⟩
  let s := issueAccess e .fetch false ((upto n).filterMap part) none e.i e.s
  s.updInst e.k (fun i => i.updCtx e.c (fun x => x.blocked .fetch i.vcyc))

/-! ## Reaching the next own word (R37, R44) -/

/-- Where a context stands after passing. -/
inductive Reach
  /-- Nothing more happens in this vc. -/
  | stop
  /-- It stands at its own word w. -/
  | own (w : Nat)

/-- The context is blocked for b. -/
def blockCtx (k : Nat) (c : Ctx) (b : Block) (s : State) : State :=
  s.updInst k (fun i => i.updCtx c (fun x => x.blocked b i.vcyc))

/-- Words an instruction word takes. -/
def wordSize (w : Nat) : Nat := if hasXw w then 2 else 1

/-- Passes over words of other contexts, at most `left` of them, and stops at the context's own word or where it may go no
further. The extension word of a word that is passed over is not fetched, so that it needs no X permission of its own (R36, R37, R206;
DESIGN CHOICE, log 73). -/
def reach (k : Nat) (c : Ctx) : Nat → Nat → State → State × Reach
  | 0, _, s => (s, .stop)
  | fuel + 1, left, s =>
    match s.inst k with
    | none => (s, .stop)
    | some i => match s.launch i.launch with
      | none => (s, .stop)
      | some l =>
        if !i.acts c then (s, .stop)
        else if !slipOk i c 1 then (blockCtx k c (.slip 1) s, .stop)
        else match fetchWord ⟨s, k, c, i⟩ l 0 (i.ctx c).pc with
          | .trap cause d => (takeTrap k (ctxCode c) cause d (i.ctx c).pc (i.ctx c).pc s, .stop)
          | .wait b => (blockCtx k c b s, .stop)
          | .ask _ => (askWords ⟨s, k, c, i⟩ l 1, .stop)
          | .word w s =>
            if !slipOk i c (wordSize w) then (blockCtx k c (.slip (wordSize w)) s, .stop)
            else if tagFor (tagOf w) c then (s, .own w)
            else if left < wordSize w then (s, .stop)
            else reach k c fuel (left - wordSize w)
              (s.updInst k (fun i => i.updCtx c (fun x => x.advance (wordSize w))))

/-! ## Decoding and issue (R39, R40, R219) -/

/-- A precise trap of the context at the word it has reached. -/
def trapHere (k : Nat) (c : Ctx) (cause detail : Nat) (addr : Word) (s : State) : State :=
  match s.inst k with
  | none => s
  | some i => takeTrap k (ctxCode c) cause detail (i.ctx c).pc addr s

/-- The context still acts: the fetch of a word may have doomed its speculation (R99). -/
def stillActs (k : Nat) (c : Ctx) (s : State) : Bool :=
  match s.inst k with
  | some i => i.acts c
  | none => false

/-- Executes the words w and lit of the instruction that the context has reached. -/
def issueWords (k : Nat) (c : Ctx) (w lit : Nat) (s : State) : Host.Outcome State Fault Refusal :=
  match decodeWord w lit with
  | .ok i => if stillActs k c s then exec i s else .next s
  | .error _ => .next (trapHere k c cILLEGAL 1 0 s)

/-- The register fields that stand in an instruction word itself, of the words that may take an extension. -/
structure HeadFields where
  gs : List (BitVec 5) := []
  vs : List (BitVec 5) := []
  ts : List (BitVec 6) := []
  hs : List (BitVec 3) := []

/-- The fields of the word of an instruction; words without an extension, and events, are not asked (R205, R209). -/
def headFields : Instr → HeadFields
  | .addImm o | .mulImm o | .andImm o | .orImm o | .xorImm o | .sltImm o | .sltuImm o | .seqImm o | .lui o => { gs := [o.a, o.d] }
  | .shlImm o | .shrImm o | .sarImm o => { gs := [o.a, o.d] }
  | .li o => { gs := [o.d] }
  | .bc o => { gs := [o.a] }
  | .loop o => { gs := [o.a] }
  | .ld o | .lds o | .ldAq o => { gs := [o.a, o.d] }
  | .st o | .stRl o => { gs := [o.a, o.s] }
  | .amo o | .amoRl o => { gs := [o.a, o.d] }
  | .cas o => { gs := [o.a, o.d, o.d + 1] }
  | .red o => { gs := [o.a, o.s] }
  | .pref o | .cflush o | .pgreq o => { gs := [o.a] }
  | .vaddF32 o | .vsubF32 o | .vmulF32 o | .vfmaF32 o | .vminF32 o | .vmaxF32 o | .vaddBf16 o | .vsubBf16 o | .vmulBf16 o
  | .vfmaBf16 o | .vminBf16 o | .vmaxBf16 o | .vaddF16 o | .vsubF16 o | .vmulF16 o | .vfmaF16 o | .vminF16 o | .vmaxF16 o =>
    { vs := [o.v, o.a, o.b] }
  | .vabsF32 o | .vnegF32 o | .vabsBf16 o | .vnegBf16 o | .vabsF16 o | .vnegF16 o | .vcvtF32I32 o | .vcvtI32F32 o | .vcvtF32Bf16 o
  | .vcvtBf16F32 o | .vcvtF32F16 o | .vcvtF16F32 o | .vl6pack o | .vl6unpk o | .vexp2 o | .vlog2 o | .vrcp o | .vrsq o =>
    { vs := [o.v, o.a] }
  | .vred o => { gs := [o.d], vs := [o.a] }
  | .vld o | .vst o => { gs := [o.a], vs := [o.v] }
  | .vlds o | .vldx o | .vsts o | .vstx o => { gs := [o.a], vs := [o.v] }
  | .tld o | .tst o => { ts := [o.t] }
  | .tmod o => { ts := [o.t] }
  | .mxm o | .mxmRb o => { ts := [o.ta, o.tb] }
  | .mxd o => { ts := [o.ta] }
  | .cpy o | .cpyT8 o | .cpyT16 o | .wload o => { ts := [o.td, o.ts] }
  | .gather o | .scatter o | .scadd o => { ts := [o.td, o.ts, o.ti] }
  | .att o => { ts := [o.tq, o.tk, o.tv] }
  | .copen o => { hs := [o.h] }
  | .chold o | .csend o | .csendResume o | .cstat o => { hs := [o.h] }
  | .cshut o => { hs := [o.h] }
  | .ard o | .rsc o => { ts := [o.td, o.ts] }
  | .agt o | .bct o => { ts := [o.td, o.ts] }
  | .rota o => { ts := [o.ts] }
  | _ => {}

/-- OVERREACH of the fields that stand in the instruction word. -/
def headOver (i : Inst) (f : HeadFields) : Option Nat :=
  match overreach i f.gs f.vs with
  | some d => some d
  | none => if f.ts.any (tOver i) then some ovTENSORS else if f.hs.any (hOver i) then some ovCIRCUITS else none

/-- Words that a matrix engine executes (R24). -/
def needsMx : Instr → Bool
  | .mxm _ | .mxmRb _ | .mxz _ | .mxd _ | .att _ | .wload _ => true
  | _ => false

/-- ILLEGAL of an instruction word that its extension does not bear on: slot, class, and the return stack of a CALL (R24, R39, R243). -/
def headIllegal (s : State) (k : Nat) (c : Ctx) (x : CtxState) (i : Instr) : Option Nat :=
  let slot := match tagOfInstr i, slotOf i with
    | some t, some sl => slotLegal t c sl
    | _, _ => true
  if !slot then some 2
  else if needsMx i && !hasMx s k then some 3
  else match i with
    | .call _ => if stackDepth ≤ x.stack.length then some 4 else none
    | _ => none

/-- The context has reached its own word w, whose XW is set. ILLEGAL that the word shows by itself comes before a trap of fetching its
extension, and so does OVERREACH of a field of the word (R64, R219, R256); what its descriptors and operand values show is judged with
the whole instruction (DEDUCED, log 74). A poisoned extension word is recorded with its own address as PC (R375). -/
def issueLong (k : Nat) (c : Ctx) (w : Nat) (s : State) : Host.Outcome State Fault Refusal :=
  match decodeWord w 0, s.inst k with
  | .error _, _ => .next (trapHere k c cILLEGAL 1 0 s)
  | .ok _, none => .next s
  | .ok ins, some i => match s.launch i.launch, headIllegal s k c (i.ctx c) ins with
    | none, _ => .next s
    | some _, some d => .next (trapHere k c cILLEGAL d 0 s)
    | some l, none =>
      let va := (i.ctx c).pc + 4
      match fetchWord ⟨s, k, c, i⟩ l 1 va with
      | .trap cause d => match headOver i (headFields ins) with
        | some n => .next (trapHere k c cOVERREACH n 0 s)
        | none => .next (if cause = cPOISON then takeTrap k (ctxCode c) cause d va va s else trapHere k c cause d va s)
      | .wait b => .next (blockCtx k c b s)
      | .ask _ => .next (askWords ⟨s, k, c, i⟩ l 2)
      | .word lit s => issueWords k c w lit s

/-- The context has reached its own word w. -/
def issueAt (k : Nat) (c : Ctx) (w : Nat) (s : State) : Host.Outcome State Fault Refusal :=
  if hasXw w then issueLong k c w s else issueWords k c w 0 s

/-- The turn of a context to issue: nothing while its launch's commit is under way (R100). -/
def issueTurn (k : Nat) (c : Ctx) (s : State) : Host.Outcome State Fault Refusal :=
  match s.inst k with
  | none => .next s
  | some i =>
    if !i.acts c || launchClaiming s i.launch then .next s
    else match reach k c 9 8 s with
      | (s, .stop) => .next s
      | (s, .own w) => issueAt k c w s

end Sys2Proof.Machine
end

