-- ==== Sys2Proof/Machine/Auto.lean ====
section
/-!
DEFINITION. What the device does by itself between virtual cycles: the events that its own rules make due, and the events whose moment
the spec leaves open, which happen at the earliest unless the agenda names a moment for them (log 31). An event is called by its meaning.
-/
namespace Sys2Proof.Machine

/-- The meaning of an event with its operands. -/
abbrev Deed := State → Host.Outcome State Fault Refusal

/-! ## Events of the device's own rules, tried in this order -/

/-- A change of state as a deed. -/
def deedOf (f : State → State) : Deed := fun s => .next (f s)

/-- What goes by itself: requests that may leave, messages of the device to itself, the order of dispatch (R90). -/
def flowDeeds : List Deed := [deedOf sendReady, deedOf loopStep, deedOf (orderStep carryOut)]

/-- Events about instances: freezes and their limit, leases, saves. -/
def isleDeeds (s : State) : List Deed :=
  s.slots.flatMap (fun p =>
    [execFreezeEnd p.1, execWatchdog p.1, execSaveComplete p.1] ++
    (p.2.h.filter (fun h => h.2.st = .opened)).map (fun h => execLeaseExpiry p.1 h.1))

/-- Events about links and flows. -/
def linkDeeds (s : State) : List Deed :=
  s.links.flatMap (fun p =>
    p.2.pending.map (fun r => execTideExpired p.1 r.region) ++ (if p.2.pending.isEmpty then [] else [execTurnStart p.1])) ++
  s.meters.flatMap (fun m => [execMeterIdle m.flow, execCircuitIdle m.flow, execHoldExpiry m.flow])

/-- Foreign peers that an access waits for, with the partition. -/
def waitedPeers (s : State) (a : Access) : List (Nat × Nat) :=
  match s.launch a.launch with
  | none => []
  | some l => (a.parts.filterMap (fun p => match p.tgt with
    | .peer q _ => if !p.done && bitAt l.part.foreign q then some (l.part.pa, q) else none
    | _ => none)).eraseDups

/-- Timeouts and retries of accesses, pins, die resets. -/
def waitDeeds (s : State) : List Deed :=
  s.acc.flatMap (fun a =>
    (if a.nack.isSome then [execMoveRetryLimit a.id, execMoveRetry a.id] else []) ++
    (if a.parts.any (fabricLate s a) then [execFabricTimeout a.id] else []) ++
    (waitedPeers s a).map (fun p => execForeignPeerTimeout p.1 p.2)) ++
  (s.granules.filter (fun p => p.2.pin.isSome)).map (fun p => execContestPinEnd p.1) ++
  s.dieDown.map (fun p => execDieResetTimeout p.1)

/-- A counter of a waiting FENCE has reached its value, or 2 µs have passed since the last read (R72). -/
def fenceDue (s : State) (f : FenceWait) : Bool :=
  f.pairs.any (pairMet s []) || decide (f.lastRead + 2 * usec ≤ s.time)

/-- The counters of a waiting FENCE are read again. -/
def fenceDeeds (s : State) (v q : Nat) : List Deed :=
  match (s.queue v q).fence with
  | some f => if fenceDue s f then [execFenceCounterRead v q []] else []
  | none => []

/-- The SIGNAL at the head waits for the answer to its request. -/
def signalSent (q : HwQueue) : Bool :=
  match q.signal with
  | some w => w.sent
  | none => false

/-- Events of one queue: commit and time limit of its speculation, what waits at HEAD, the next packet, dispatch. -/
def queueDeeds (s : State) (v q : Nat) : List Deed :=
  let x := s.queue v q
  (if x.spec.isSome then [execCommitComplete v q, execSpeculationTimeout v q] else []) ++
  fenceDeeds s v q ++
  (if x.signal.isSome && !signalSent x then [execSignalAdd v q] else []) ++
  (if mayParse s x then [execParseNop v q [], execParseLaunch v q [], execParseFence v q [], execParseSignal v q []] else []) ++
  (if x.held.isSome then [execLaunchDispatch v q []] else [])

/-- The resumptions that the order has called for (R90, R94). -/
def resumeDeeds (s : State) : List Deed :=
  s.saved.filterMap (fun i => i.goes.map (fun k => execInstanceResume i.uid k))

/-- Everything the device's own rules may make due now. -/
def ownDeeds (s : State) : List Deed :=
  flowDeeds ++ isleDeeds s ++ linkDeeds s ++ waitDeeds s ++ s.queues.flatMap (fun p => queueDeeds s p.1 p.2) ++ resumeDeeds s

/-! ## Events whose moment the spec leaves open -/

/-- What an event of open timing is about: its kind and number. -/
def openKey : Instr → Option (Nat × Nat)
  | .landingDataArrival _ id _ _ => some (0, id)
  | .writeAcknowledge id _ _ => some (1, id)
  | .engineCommandStart _ _ cmd => some (2, cmd)
  | .engineCommandComplete _ _ cmd _ _ => some (3, cmd)
  | .pageRefillDone isle page => some (4, 256 * isle + page)
  | .fallbackDone isle h => some (5, 8 * isle + h)
  | .turnEnd link => some (6, link)
  | .caskConsumed isle => some (7, isle)
  | .signalAdd vf q => some (8, 16 * vf + q)
  | _ => none

/-- The agenda names a moment for the event of this key. -/
def onAgenda (s : State) (k : Nat × Nat) : Bool := s.agenda.any (fun p => openKey p.2 = some k)

/-- The event of one engine command that could happen now. -/
def cmdDeed (k : Nat) (c : Cmd) : List ((Nat × Nat) × Deed) :=
  match engineOf c.word with
  | none => []
  | some e => match c.phase with
    | .queued => [((2, c.id), execEngineCommandStart k e c.id)]
    | .finished => []
    | .rotating => [((7, k), execCaskConsumed k)]
    | _ => [((3, c.id), execEngineCommandComplete k e c.id none [])]

/-- The event of one access that could happen now. -/
def accessDeed (a : Access) : (Nat × Nat) × Deed :=
  if a.kind.returns then ((0, a.id), execLandingDataArrival a.isle a.id none []) else ((1, a.id), execWriteAcknowledge a.id none [])

/-- Events of open timing that could happen now. -/
def openDeeds (s : State) : List ((Nat × Nat) × Deed) :=
  s.acc.map accessDeed ++
  s.slots.flatMap (fun p =>
    p.2.cmds.flatMap (cmdDeed p.1) ++ p.2.refill.map (fun n => ((4, 256 * p.1 + n), execPageRefillDone p.1 n)) ++
    (p.2.h.filter (fun h => h.2.st = .fallback)).map (fun h => ((5, 8 * p.1 + h.1), execFallbackDone p.1 h.1))) ++
  (s.links.filter (fun p => p.2.turning.isSome)).map (fun p => ((6, p.1), execTurnEnd p.1)) ++
  (s.queues.filter (fun p => signalSent (s.queue p.1 p.2))).map (fun p => ((8, 16 * p.1 + p.2), execSignalAdd p.1 p.2))

/-! ## The first event that moves the machine -/

/-- The state after the first deed of a list that changes the state. -/
def firstMove : List Deed → State → Option State
  | [], _ => none
  | d :: ds, s => match d s with
    | .next t => if t = s then firstMove ds s else some t
    | _ => firstMove ds s

/-- Once an isle has freed, the queues that still look for a prediction start it where they can (R97). -/
def specMove (s : State) : Option State := if s.respec then some (trySpecs { s with respec := false }) else none

/-- What the device does by itself now, if anything. -/
def autoMove (s : State) : Option State :=
  match firstMove (ownDeeds s) s with
  | some t => some t
  | none => match specMove s with
    | some t => some t
    | none => firstMove (((openDeeds s).filter (fun e => !onAgenda s e.1)).map (fun e => e.2)) s

end Sys2Proof.Machine
end

