-- ==== Sys2Proof/Machine/Turns.lean ====
section
/-!
DEFINITION. The isle clock: events, then the virtual cycle of every unfrozen isle in ascending order, L, C, S within it (R35, R40, R55,
R58, R89); and how an instruction is laid where it is fetched next.
-/
namespace Sys2Proof.Machine

/-! ## Time (R10, R89, R407) -/

/-- The instance occupies its isle in the sense of R89. -/
def charged (s : State) (i : Inst) : Bool :=
  (i.life = .running || i.life = .saving) && (match s.launch i.launch with
    | some l => !l.spec
    | none => false)

/-- The deficits after a clock: one less for each instance of a region that occupies an isle (R89 states the time a region uses and not
how several of its instances add up: DESIGN CHOICE, log 68); the floor holds. -/
def chargeClock (s : State) : List (Nat × Int) :=
  s.slots.foldl (fun d p =>
    if charged s p.2 then (match s.launch p.2.launch with
      | some l => Sparse.set 0 d (l.chain.headD 0) (clampDeficit (deficitOf d (l.chain.headD 0) - 1))
      | none => d)
    else d) s.deficit

/-- Frozen isles are counted (R407). -/
def countFrozen (s : State) : State :=
  s.slots.foldl (fun s p => if p.2.runs && p.2.frozen.isSome then s.count (blkDie (dieOfIsle p.1)) idxFROZEN else s) s

/-- The first isle from k on whose virtual cycle passes in this clock. -/
def nextIsle (s : State) (k : Nat) : Option Nat :=
  (s.slots.find? (fun p => decide (k ≤ p.1) && p.2.runs && p.2.frozen.isNone)).map (fun p => p.1)

/-- The turn of the first isle from k on, or the next clock. -/
def turnFrom (s : State) (k : Nat) : Turn :=
  match nextIsle s k with
  | some j => .land j
  | none => .clock

/-- An isle clock passes: time, deficits and counters, and the virtual cycles of the running isles begin. -/
def startClock (s : State) : State :=
  let d := capIdle (readyList s) (chargeClock s)
  let s := countFrozen { s with time := s.time + s.period, deficit := d }
  { s with turn := turnFrom s 0 }

/-- A launch has been trapped in the last clock. -/
def anyTrapped (s : State) : Bool := s.launches.any (fun p => p.2.trapped)

/-- Between virtual cycles: other instances of trapped launches stop (R375), inputs that are due happen, then what the device does by
itself, one at a time; then the next clock. -/
def clockTurn (s : State) : Host.Outcome State Fault Refusal :=
  if anyTrapped s then .next (stopTrapped s)
  else match s.agenda with
    | (t, e) :: rest =>
      if t ≤ s.time then exec e { s with agenda := rest }
      else (match autoMove s with
        | some t => .next t
        | none => .next (startClock s))
    | [] => match autoMove s with
      | some t => .next t
      | none => .next (startClock s)

/-! ## The virtual cycle of one isle (R40, R52, R58) -/

/-- The next state with the turn passed on. -/
def thenTurn (t : State → Turn) (o : Host.Outcome State Fault Refusal) : Host.Outcome State Fault Refusal :=
  match o with
  | .next s => .next { s with turn := t s }
  | .fault f => .fault f
  | .refused r => .refused r

/-- Whose turn follows the issue of context c on isle k. -/
def afterIssue (k : Nat) : Ctx → Turn
  | .L => .issue k .C
  | .C => .issue k .S
  | .S => .edge k

/-- The isle still passes this virtual cycle. -/
def passing (s : State) (k : Nat) : Bool :=
  match s.inst k with
  | some i => i.runs && i.frozen.isNone
  | none => false

/-- One turn of the machine. -/
def takeTurn (s : State) : Host.Outcome State Fault Refusal :=
  match s.turn with
  | .clock => clockTurn s
  | .land k => thenTurn (fun t => if passing t k then .issue k .L else turnFrom t (k + 1)) (execTimedLanding k s)
  | .issue k c => thenTurn (fun _ => afterIssue k c) (issueTurn k c s)
  | .edge k => thenTurn (fun t => turnFrom t (k + 1)) (execVcAdvance k s)

/-! ## Laying an instruction where it is fetched next -/

/-- Address of the text that `hostText` installs, in DRAM of this device and in the launch's segment alike. -/
def textBase : Nat := 0x1000

/-- A segment that maps the first 512 GiB of virtual addresses onto local DRAM, with every permission. -/
def flatSeg : Seg :=
  { vabase := 0, log2sz := 39, resid := false, apl := .mem, ord := .rc, x := true, w := true, r := true, rem := false, peer := 0,
    lbase := 0, hbase := 0, resoff := 0, bad := false }

/-- The effective values of a region without limits. -/
def flatEff : Eff :=
  { prio := 0, preemptible := false, tideright := true, frzlim := 1000, budgets := [⟨[256, 256, 256, 256], 65536, 2048⟩],
    cellarq := 0, segtab := 0, part := 0, resmap := 0, saveBase := 0, saveN := 0 }

/-- A launch of one instance on isle k over `flatSeg`, its region's block at 0x8000. -/
def flatLaunch (id k : Nat) : Launch :=
  { id := id, vf := 1, q := 0, packet := List.replicate 64 0, header := List.replicate 128 0, mask := 0, args := [],
    key := Key.none, chain := [0x8000], doms := [0x8000], eff := flatEff, segs := [flatSeg], part := ⟨0, 0, 0, false, 0, 0⟩, isles := [k], done := [],
    pred := none, spec := false, claiming := false, retired := false, trapped := false, status := 0, cellar := [], readset := [],
    since := 0 }

/-- An instance in the state of R34 with every count declared to its limit and its contexts at textBase. -/
def flatInst (s : State) (l : Launch) (k : Nat) : Inst :=
  let i := Inst.start s l s.nextUid 0 k
  let x := CtxState.start (BitVec.ofNat 64 textBase)
  { i with counts := ⟨24, 32, 256, 32, 64, 8⟩, ctxL := x, ctxC := x, ctxS := x }

/-- The context that executes a word with this tag. -/
def ctxOfTag : Tag → Ctx
  | .A => .L
  | .L => .L
  | .C => .C
  | .S => .S

/-- The state with an instruction of at most eight bytes as the next one to issue: a launch with one instance on isle 0, whose
contexts stand at textBase, and the turn of the context that the word's tag names. -/
def placeWord (w : Nat) (s : State) : State :=
  let l := flatLaunch s.nextLaunch 0
  let i := flatInst s l 0
  let s := putCells (cellsOf textBase 8 w) s
  { s with
    launches := Assoc.put s.launches l.id l, slots := Assoc.put s.slots 0 i, nextLaunch := s.nextLaunch + 1
    nextUid := s.nextUid + 1, poison := Sparse.erase s.poison (lineOf textBase), turn := .issue 0 (ctxOfTag (tagOf (w % 2 ^ 32))) }

end Sys2Proof.Machine
end

