-- ==== Sys2Proof/Machine/Step.lean ====
section
/-!
DEFINITION. The step of the machine, and a state with an instruction laid where the step fetches next.
-/
namespace Sys2Proof.Machine

/-- One step: one turn of the isle clock. -/
def step (s : State) : Host.Outcome State Fault Refusal := takeTurn s

/-- The state in which the next step fetches and runs the instruction whose bits are w (log 32). -/
def State.withFetchWord (s : State) (nbits w : Nat) : State := placeWord (w % 2 ^ nbits) s

end Sys2Proof.Machine
end

