-- ==== Sys2Proof/Safety.lean ====
section
/-!
DEFINITION. What the statements speak of: a word at its turn to issue, its operands, the ways a word ends (it completes, branches,
waits or traps), what it leaves alone, an access it issues or a command it queues, and the invariants of the machine.
A run is safe while every step answers a next state (`Runs`) and memory keeps its canonical form (`MemWf`).
-/
namespace Sys2Proof.Safety

open Sys2Proof.Machine

/-! ## A word at its turn -/

/-- Context c of isle k, which holds instance i, has its turn; ins is well formed, its tag names c and c owns its slot class (R36 to
R40, R219). -/
structure Reached (ins : Instr) (s : State) (k : Nat) (c : Ctx) (i : Inst) : Prop where
  turn : s.turn = .issue k c
  inst : s.inst k = some i
  acts : i.acts c = true
  wellFormed : ins.wellFormed = true
  legal : ∃ t sl, tagOfInstr ins = some t ∧ slotOf ins = some sl ∧ tagFor t c = true ∧ slotLegal t c sl = true

/-- The G fields gs are read and dst is written: each names a declared register that no landing holds (R53, R63), and the reads give
vals and leave instance j after their pops (R226). -/
structure Sources (i : Inst) (c : Ctx) (gs dst : List (BitVec 5)) (vals : List Word) (j : Inst) : Prop where
  declared : ∀ f ∈ gs ++ dst, gOver i f = false
  free : ∀ f ∈ gs ++ dst, gFieldBusy i c f = false
  read : readG c i gs = .ok vals j

/-- The V fields vs name declared registers, and no landing holds one of them or one of the masks ms (R53, R63). -/
structure VFree (i : Inst) (vs : List (BitVec 5)) (ms : List (BitVec 3)) : Prop where
  declared : ∀ f ∈ vs, vOver i f = false
  free : ∀ f ∈ vs, i.vBusy f.toNat = false
  masks : ∀ m ∈ ms, i.mBusy m.toNat = false

/-! ## What a word leaves alone -/

/-- From s to t only the instance on isle k has changed; every byte of memory reads as before on every die. -/
structure OnlyIsle (k : Nat) (s t : State) : Prop where
  rest : t = { s with slots := t.slots }
  others : ∀ j, j ≠ k → t.inst j = s.inst j
  memory : ∀ d a, dieByte t d a = dieByte s d a

/-! ## The ways a word ends -/

/-- The word completes: context c goes on at the next sequential PC, its instance being j but for that, and nothing outside isle k
changes (R42, R43). -/
def Completes (ins : Instr) (s : State) (k : Nat) (c : Ctx) (j : Inst) : Prop :=
  ∃ t, exec ins s = .next t ∧ OnlyIsle k s t ∧ t.inst k = some (j.updCtx c (fun x => x.advance (Machine.sizeOf ins)))

/-- The word takes the branch to target: where the slip window lets the context advance by the words and one more, it does, its
instance being j but for that; else it is slip-blocked and nothing else changes (R43, R44, R240). -/
def Branches (ins : Instr) (s : State) (k : Nat) (c : Ctx) (i j : Inst) (target : Word) : Prop :=
  (slipOk i c (Machine.sizeOf ins + 1) = true →
    ∃ t, exec ins s = .next t ∧ OnlyIsle k s t ∧ t.inst k = some (j.updCtx c (fun x => x.branch (Machine.sizeOf ins) target))) ∧
  (slipOk i c (Machine.sizeOf ins + 1) = false →
    ∃ t, exec ins s = .next t ∧ OnlyIsle k s t ∧
      t.inst k = some (i.updCtx c (fun x => x.blocked (.slip (Machine.sizeOf ins + 1)) i.vcyc)))

/-- The word does not issue in this vc: the context is blocked for b and nothing else changes (R42, R65). -/
def Waits (ins : Instr) (s : State) (k : Nat) (c : Ctx) (i : Inst) (b : Block) : Prop :=
  ∃ t, exec ins s = .next t ∧ OnlyIsle k s t ∧ t.inst k = some (i.updCtx c (fun x => x.blocked b i.vcyc))

/-- The word takes the precise trap cause with detail and ADDR, from the state before it, at its own PC (R42, R375). -/
def Traps (ins : Instr) (s : State) (k : Nat) (c : Ctx) (i : Inst) (cause detail : Nat) (addr : Word) : Prop :=
  exec ins s = .next (takeTrap k (ctxCode c) cause detail (i.ctx c).pc addr s)

/-- The word issues an access of this kind with these parts, and asks for the landing ld where there is one; the instance is j but for
that and for its PC. -/
def Issues (ins : Instr) (s : State) (k : Nat) (c : Ctx) (i : Inst) (kind : AccKind) (acq : Bool) (parts : List Part)
    (ld : Option Landing) (j : Inst) : Prop :=
  exec ins s = .next ((issueAccess ⟨s, k, c, i⟩ kind acq parts ld j s).updInst k
    (fun i => i.updCtx c (fun x => x.advance (Machine.sizeOf ins))))

/-! ## Results of scalar words -/

/-- The word over the G sources gs writes r to d and raises the floating-point flags fl, whenever R relates the source values to them,
for every state in which it has its turn, its sources can be read and a push to d has room. -/
def WritesG (ins : Instr) (gs : List (BitVec 5)) (d : BitVec 5) (R : List Word → Word → BitVec 5 → Prop) : Prop :=
  ∀ s k c i vals j r fl, Reached ins s k c i → Sources i c gs [d] vals j → pushRoom i j d = true → R vals r fl →
    Completes ins s k c (orFlags c fl (writeG c s.nextId d r j))

/-- `WritesG` for a word without flags whose result is a function of one, two or three sources. -/
def Sets1 (ins : Instr) (a d : BitVec 5) (f : Word → Word) : Prop :=
  WritesG ins [a] d (fun v r fl => ∃ x, v = [x] ∧ r = f x ∧ fl = 0)
def Sets2 (ins : Instr) (a b d : BitVec 5) (f : Word → Word → Word) : Prop :=
  WritesG ins [a, b] d (fun v r fl => ∃ x y, v = [x, y] ∧ r = f x y ∧ fl = 0)
def Sets3 (ins : Instr) (a b e d : BitVec 5) (f : Word → Word → Word → Word) : Prop :=
  WritesG ins [a, b, e] d (fun v r fl => ∃ x y z, v = [x, y, z] ∧ r = f x y z ∧ fl = 0)

/-- `WritesG` for a floating-point word: pattern and flags are a function of the sources' low 32 bits (R236). -/
def Floats1 (ins : Instr) (a d : BitVec 5) (f : Nat → Nat × BitVec 5) : Prop :=
  WritesG ins [a] d (fun v r fl => ∃ x, v = [x] ∧ r = BitVec.ofNat 64 (f (x.toNat % 2 ^ 32)).1 ∧ fl = (f (x.toNat % 2 ^ 32)).2)
def Floats2 (ins : Instr) (a b d : BitVec 5) (f : Nat → Nat → Nat × BitVec 5) : Prop :=
  WritesG ins [a, b] d (fun v r fl => ∃ x y, v = [x, y] ∧ r = BitVec.ofNat 64 (f (x.toNat % 2 ^ 32) (y.toNat % 2 ^ 32)).1 ∧
    fl = (f (x.toNat % 2 ^ 32) (y.toNat % 2 ^ 32)).2)

/-- The value i of R208: the sign-extended IMM12 or literal. -/
def immInt : Imm → Int
  | .short i => i.toInt
  | .long l => l.toInt

/-- The word offset o of R208. -/
def offInt : Off → Int
  | .short o => o.toInt
  | .long l => l.toInt

/-- PC + 4 × o (R240). -/
def branchTo (i : Inst) (c : Ctx) (o : Off) : Word := (i.ctx c).pc + BitVec.ofInt 64 (4 * offInt o)

/-- SRD of register n writes f of the state, the isle, the instance and its launch to D (R247). -/
def ReadsSys (n : Nat) (f : State → Nat → Inst → Launch → Word) : Prop :=
  ∀ (o : SysOp) s k c i l, o.sys = BitVec.ofNat 12 n → Reached (.srd o) s k c i → s.launch i.launch = some l →
    Sources i c [] [o.d] [] i → pushRoom i i o.d = true → Completes (.srd o) s k c (writeG c s.nextId o.d (f s k i l) i)

/-- Byte k of a word (R9). -/
def byteOf (k : Nat) (a : Word) : BitVec 8 := a.extractLsb' (8 * k) 8

/-! ## Results of vector words -/

/-- VLANES of isle k (R28, R257). -/
def laneCount (s : State) (k : Nat) : Nat := if s.vwmap.getLsbD k then 64 else 32

/-- Bit l of mask M m as it stands; M0 has every bit set (R23, R258). -/
def maskBit (i : Inst) (m : BitVec 3) (l : Nat) : Bool := m = 0 || (Sparse.get 0 i.m m.toNat).getLsbD l

/-- The active lanes of a word with mask M m (R258). -/
def activeLanes (s : State) (k : Nat) (i : Inst) (m : BitVec 3) : List Nat :=
  (List.range (laneCount s k)).filter (fun l => maskBit i m l)

/-- The instance with lane l of V v taking f l from the next vc, for every lane of ls, and the flags of those lanes joining FEX (R52, R258,
R261). -/
def lanesTake (c : Ctx) (v : BitVec 5) (ls : List Nat) (f : Nat → Nat × BitVec 5) (i : Inst) : Inst :=
  orFlags c (ls.foldl (fun a l => a ||| (f l).2) 0) (i.laterAll c (ls.map (fun l => (.v v.toNat l, BitVec.ofNat 256 (f l).1))))

/-- The word writes f to its active lanes of V v, for every state in which it has its turn and its registers are free. -/
def WritesLanes (ins : Instr) (v : BitVec 5) (srcs : List (BitVec 5)) (m : BitVec 3) (f : Inst → Nat → Nat × BitVec 5) : Prop :=
  ∀ s k c i, Reached ins s k c i → VFree i (v :: srcs) [m] → Completes ins s k c (lanesTake c v (activeLanes s k i m) (f i) i)

/-- `WritesLanes` for words that compute each lane from the lanes of VA, or of VA and VB. -/
def Lanes1 (ins : Instr) (v a : BitVec 5) (m : BitVec 3) (f : BitVec 32 → Nat × BitVec 5) : Prop :=
  WritesLanes ins v [a] m (fun i l => f (i.vGet a.toNat l))
def Lanes2 (ins : Instr) (v a b : BitVec 5) (m : BitVec 3) (f : BitVec 32 → BitVec 32 → Nat × BitVec 5) : Prop :=
  WritesLanes ins v [a, b] m (fun i l => f (i.vGet a.toNat l) (i.vGet b.toNat l))

/-- The element of format f in the low bits of a lane (R260). -/
def laneElem (f : Fmt) (x : BitVec 32) : Nat := x.toNat % 2 ^ (1 + f.eb + f.mb)

/-- R263 for one format: the six operations of two sources and the two of one. -/
def FloatLanes (f : Fmt) (add sub mul fma min max : VfOp → Instr) (abs neg : Vf1Op → Instr) : Prop :=
  (∀ o, Lanes2 (add o) o.v o.a o.b o.m (fun x y => addF f (o.x.getD .rne) (decodeF f (laneElem f x)) (decodeF f (laneElem f y)))) ∧
  (∀ o, Lanes2 (sub o) o.v o.a o.b o.m (fun x y => addF f (o.x.getD .rne) (decodeF f (laneElem f x)) (decodeF f (laneElem f y)).neg)) ∧
  (∀ o, Lanes2 (mul o) o.v o.a o.b o.m (fun x y => mulF f (o.x.getD .rne) (decodeF f (laneElem f x)) (decodeF f (laneElem f y)))) ∧
  (∀ o, WritesLanes (fma o) o.v [o.a, o.b] o.m (fun i l => fmaF f (o.x.getD .rne) (decodeF f (laneElem f (i.vGet o.a.toNat l)))
    (decodeF f (laneElem f (i.vGet o.b.toNat l))) (decodeF f (laneElem f (i.vGet o.v.toNat l))))) ∧
  (∀ o, Lanes2 (min o) o.v o.a o.b o.m (fun x y => minMaxF f false (laneElem f x) (laneElem f y))) ∧
  (∀ o, Lanes2 (max o) o.v o.a o.b o.m (fun x y => minMaxF f true (laneElem f x) (laneElem f y))) ∧
  (∀ o, Lanes1 (abs o) o.v o.a o.m (fun x =>
    (if (decodeF f (laneElem f x)).isNan then f.nan else laneElem f x % 2 ^ (f.eb + f.mb),
      if (decodeF f (laneElem f x)).isSig then 16 else 0))) ∧
  (∀ o, Lanes1 (neg o) o.v o.a o.m (fun x =>
    (if (decodeF f (laneElem f x)).isNan then f.nan else (laneElem f x + 2 ^ (f.eb + f.mb)) % 2 ^ (1 + f.eb + f.mb),
      if (decodeF f (laneElem f x)).isSig then 16 else 0)))

/-- The low and the high half of a lane (R265). -/
def lowHalf (x : BitVec 32) : BitVec 16 := x.extractLsb' 0 16
def highHalf (x : BitVec 32) : BitVec 16 := x.extractLsb' 16 16

/-- A word that works on both halves of a lane (R265). -/
def Halves (ins : Instr) (v a b : BitVec 5) (m : BitVec 3) (f : BitVec 16 → BitVec 16 → BitVec 16) : Prop :=
  Lanes2 ins v a b m (fun x y => ((f (highHalf x) (highHalf y) ++ f (lowHalf x) (lowHalf y)).toNat, 0))

/-- z saturated to 16 bits (R265). -/
def sat (z : Int) : BitVec 16 := BitVec.ofInt 16 (if z < -2 ^ 15 then -2 ^ 15 else if 2 ^ 15 - 1 < z then 2 ^ 15 - 1 else z)

/-- The word writes to mask M d the word whose bit l, of the isle's lanes, is P i l, from the next vc, raising fl i; bits beyond the
lanes are zero (R266, R268). -/
def WritesMask (ins : Instr) (d : BitVec 3) (vs : List (BitVec 5)) (ms : List (BitVec 3)) (P : State → Nat → Inst → Nat → Bool)
    (fl : State → Nat → Inst → BitVec 5) : Prop :=
  ∀ s k c i, Reached ins s k c i → VFree i vs ms → ∃ w : Word, (∀ l, w.getLsbD l = (decide (l < laneCount s k) && P s k i l)) ∧
    Completes ins s k c (orFlags c (fl s k i) (i.later c (.m d.toNat) (w.setWidth 256)))

/-! ## Accesses -/

/-- Nothing keeps an access to the targets ts from issuing: no acquire of the context is outstanding, no foreign peer is at its limit
(R130, R177, R289). -/
def MayIssue (s : State) (i : Inst) (c : Ctx) (l : Launch) (ts : List Tgt) : Prop :=
  acquirePending s i.uid c = false ∧ foreignFull s l ts = false

/-- The instance executes outside a speculation. -/
def Plain (s : State) (i : Inst) (l : Launch) : Prop := s.launch i.launch = some l ∧ l.spec = false

/-- Nothing can retire, settle or free an isle: no instance has drained, and every live launch that is no speculation has a live
instance and has not retired (R78). -/
structure Quiet (s : State) : Prop where
  slots : ∀ p ∈ s.slots, p.2.drained = false
  launches : ∀ p ∈ s.launches, p.2.retired = false ∧ (p.2.spec = true ∨ unretired s p.1 ≠ [])

/-! ## Engine commands -/

/-- The word queues a command: number nextId, its own PC and word, the descriptors ds, the values gx and gy, the block, the scratchpad
footprints reads and writes; nothing done yet. The instance is j but for the command, its PC, and a latch that may be cleared (R327,
R336); nothing outside isle k changes but the numbering. -/
def Queues (ins : Instr) (s : State) (k : Nat) (c : Ctx) (i : Inst) (ds : List (BitVec 256)) (gx gy : Word) (block : List Byte)
    (reads writes : List (Nat × Nat)) (j : Inst) : Prop :=
  ∃ (t : State) (j' : Inst), exec ins s = .next t ∧ t = { s with slots := t.slots, nextId := s.nextId + 1 } ∧ (∀ n, n ≠ k → t.inst n = s.inst n) ∧
    (∀ d a, dieByte t d a = dieByte s d a) ∧ t.inst k = some (j'.updCtx c (fun x => x.advance (Machine.sizeOf ins))) ∧
    j' = { j with cmds := j.cmds ++ [⟨s.nextId, (i.ctx c).pc, ins, ds, gx, gy, block, reads, writes, .queued, 0, [], .start, [], [], 0,
      (i.ctx c).after, [], [], none⟩], latch := j'.latch } ∧
    (j'.latch = j.latch ∨ j'.latch = none)

/-- Fewer than 16 commands of the engine wait in their queue (R327). -/
def RoomFor (i : Inst) (en : Engine) : Prop := (i.cmds.filter (fun c => c.isOf en && c.phase = .queued)).length < 16

/-- The rule of a command holds when every clause of it does. -/
def ruleHolds (x : List Clause × List Opnd) : Bool × List Opnd := (x.1.all (fun c => c.2), x.2)

/-- The tensor fields ts name declared registers that no TLD holds, and their descriptors, with the command's own rule, are legal (R63,
R322, R325). -/
structure Operands (i : Inst) (ts : List (BitVec 6)) (rule : Bool) (ops : List Opnd) : Prop where
  declared : ∀ t ∈ ts, tOver i t = false
  free : ∀ t ∈ ts, i.tBusy t.toNat = false
  rule : rule = true
  legal : ∀ o ∈ ops, o.d.legal o.scales = true

/-- An engine word over descriptors queues its command with the footprints of its operands, when it runs outside a speculation on an
isle of a class that has the engine, its operands are legal and reachable, and the queue has room. -/
def EngineWord (ins : Instr) (mx : Bool) (en : Engine) (ts : List (BitVec 6)) (gs : List (BitVec 5))
    (mk : List Desc → Bool × List Opnd) : Prop :=
  ∀ s k c i l vals j, Reached ins s k c i → Plain s i l → (mx = true → s.mxmap.getLsbD k = true) →
    let ds := ts.map (fun t => i.tGet t.toNat)
    Operands i ts (mk (ds.map descOf)).1 (mk (ds.map descOf)).2 → opndTrap s k i l (mk (ds.map descOf)).2 = none →
    Sources i c gs [] vals j → RoomFor i en →
    Queues ins s k c i ds (vals.getD 0 0) 0 [] (((mk (ds.map descOf)).2.filter (fun o => o.rd)).flatMap Opnd.foot)
      (((mk (ds.map descOf)).2.filter (fun o => o.wr)).flatMap Opnd.foot) j

/-- A fabric word over tensor fields ts, G fields gs and handle fields hs queues its command when it runs outside a speculation, its
fields are declared and free, the judgement J of its operands finds nothing against it, and the queue has room (R349). -/
def FabricWord (ins : Instr) (mx : Bool) (en : Engine) (ts : List (BitVec 6)) (gs : List (BitVec 5)) (hs : List (BitVec 3))
    (J : Env → Launch → List Desc → List Word → Judged) : Prop :=
  ∀ s k c i l vals j, Reached ins s k c i → Plain s i l → (mx = true → s.mxmap.getLsbD k = true) →
    (∀ t ∈ ts, tOver i t = false) → (∀ t ∈ ts, i.tBusy t.toNat = false) → (∀ h ∈ hs, hOver i h = false) →
    Sources i c gs [] vals j → RoomFor i en →
    let q := J ⟨s, k, c, i⟩ l (ts.map (fun t => descOf (i.tGet t.toNat))) vals
    q.trap = none →
    Queues ins s k c i (ts.map (fun t => i.tGet t.toNat)) (vals.getD 0 0) (vals.getD 1 0) q.block q.reads q.writes j

/-! ## Fetch -/

/-- Context c of isle k, which holds instance i of launch l, has its turn to issue; the launch is no speculation and no commit is under
way. -/
structure ToIssue (s : State) (k : Nat) (c : Ctx) (i : Inst) (l : Launch) : Prop where
  turn : s.turn = .issue k c
  inst : s.inst k = some i
  acts : i.acts c = true
  launch : s.launch i.launch = some l
  plain : l.spec = false
  free : l.claiming = false

/-- Word w stands at virtual address va of launch l as an isle k reads it: in local DRAM, executable and resident, its die in service,
its granule at home, without poison (R116, R206, R409). -/
def TextAt (s : State) (k : Nat) (l : Launch) (va : Word) (w : Nat) : Prop :=
  ∃ g x, findSeg l.segs va.toNat = .ok g ∧ segTgt (selfOf l.part) g va.toNat = .dram x ∧ g.x = true ∧
    resident s l.eff g va.toNat = true ∧ dieIsDown s (homeDie x) = false ∧ (granuleOf s (x / 2 ^ 21)).place = .home ∧
    memPoison s x 4 = false ∧ leNat (dieBytes s (k / 32) x 4) = w

/-- Words that an instruction word takes by its bit XW (R205). -/
def wordsOf (w : Nat) : Nat := if w.testBit 29 then 2 else 1

/-- Total of the words that a list of instruction words takes. -/
def wordsIn (ws : List Nat) : Nat := (ws.map wordsOf).sum

/-- The context, having passed n words, may pass the words ws that follow: each stands in the text, is tagged for another context, and
fits into the slip window (R36, R37, R44). -/
def MayPass (s : State) (k : Nat) (c : Ctx) (i : Inst) (l : Launch) : Nat → List Nat → Prop
  | _, [] => True
  | n, w :: ws => TextAt s k l ((i.ctx c).pc + BitVec.ofNat 64 (4 * n)) w ∧ tagFor (tagOf w) c = false ∧
    slipOk (i.updCtx c (fun x => x.advance n)) c (wordsOf w) = true ∧ MayPass s k c i l (n + wordsOf w) ws

/-- The state in which the context has passed n words. -/
def passed (s : State) (k : Nat) (c : Ctx) (n : Nat) : State :=
  if n = 0 then s else s.updInst k (fun i => i.updCtx c (fun x => x.advance n))

/-! ## Events -/

/-- The event has its effect: the machine goes on in a state with P. -/
def After (e : Instr) (s : State) (P : State → Prop) : Prop := ∃ t, exec e s = .next t ∧ P t

/-- The event leads to a state with P, and what can retire or settle then does (R78). -/
def Swept (e : Instr) (s : State) (P : State → Prop) : Prop := ∃ t, exec e s = .next (sweep t) ∧ P t

/-- The DRAM bytes at x are at their home: its die is in service, its granule has not moved and turns nothing away (R144, R145, R388). -/
def AtHome (s : State) (x : Nat) : Prop :=
  dieIsDown s (homeDie x) = false ∧ (granuleOf s (x / 2 ^ 21)).place = .home ∧ (granuleOf s (x / 2 ^ 21)).nacked = []

/-- Access a is outstanding for a launch that is no speculation and commits nothing, and nothing earlier has to be performed first. -/
structure Due (s : State) (a : Access) : Prop where
  found : s.access a.id = some a
  launch : ∃ l, s.launch a.launch = some l ∧ l.spec = false ∧ l.claiming = false
  first : mayPerform s a = true

/-- A part at DRAM address x that is still to be performed here. -/
def DramPart (s : State) (p : Part) (x : Nat) : Prop :=
  p.done = false ∧ p.st = .ok ∧ p.sent = none ∧ p.tgt = .dram x ∧ AtHome s x

/-- The access of isle k to DRAM byte x crosses link n: the V-M link of the byte's home, or a V-V link on the way there (R153). -/
def Crosses (k x n : Nat) : Prop := (n < 8 ∧ homeDie x = n) ∨ (8 ≤ n ∧ n ∈ linksBetween 4 (k / 32) (homeDie x))

/-- Value v of a lane has come for request r of instance uid: it stands in the request until its vc, or the next one, begins (R53, R54). -/
def Lands (s t : State) (uid : Nat) (r : Req) (lane v : Nat) : Prop :=
  ∀ i, s.instOf uid = some i → i.life = .running → i.reqs.find? (fun q => q.id = r.id) = some r →
    ∃ j, t.instOf uid = some j ∧ { r with arrived := true, data := [(lane, v)], fails := [], va := 0 } ∈ j.reqs

/-- The bytes of DRAM outside x to x + n - 1 read as before, on every die and at home. -/
def KeepsOutside (s t : State) (x n : Nat) : Prop :=
  ∀ y, (y < x ∨ x + n ≤ y) → homeByte t y = homeByte s y ∧ ∀ d, dieByte t d y = dieByte s d y

/-- Every byte of memory reads as before, on every die and at home. -/
def KeepsMemory (s t : State) : Prop := ∀ y, homeByte t y = homeByte s y ∧ ∀ d, dieByte t d y = dieByte s d y

/-- The new value of an atomic on n bytes (R295). -/
def atomicResult (fn : AmoFn) (n old x : Nat) : Nat :=
  match fn with
  | .add => (old + x) % 2 ^ (8 * n)
  | .min => if (BitVec.ofNat (8 * n) x).toInt < (BitVec.ofNat (8 * n) old).toInt then x % 2 ^ (8 * n) else old
  | .max => if (BitVec.ofNat (8 * n) old).toInt < (BitVec.ofNat (8 * n) x).toInt then x % 2 ^ (8 * n) else old
  | .and => old &&& (x % 2 ^ (8 * n))
  | .or => old ||| (x % 2 ^ (8 * n))
  | .xor => old ^^^ (x % 2 ^ (8 * n))
  | .swap => x % 2 ^ (8 * n)
  | .addf => (addF fF32 .rne (decodeF fF32 old) (decodeF fF32 x)).1

/-! ## Queue events -/

/-- The tables of virtual functions and of their queues are in canonical form. -/
def QueuesWf (s : State) : Prop := Sparse.wf Vf.reset s.vfs = true ∧ ∀ p ∈ s.vfs, Sparse.wf HwQueue.reset p.2.queues = true

/-- From s to t queue (v, q) has become x, and no other queue has changed. -/
def QueueIs (s t : State) (v q : Nat) (x : HwQueue) : Prop :=
  t.queue v q = x ∧ ∀ w r, (w, r) ≠ (v, q) → t.queue w r = s.queue w r

/-- The queue stops with error e and vector 1 says so; nothing else changes (R67, R396). -/
def Stops (e : Instr) (s : State) (v q : Nat) (err : QErr) : Prop :=
  After e s (fun t => t = { s with vfs := t.vfs, out := s.out ++ [.msix v 1] } ∧
    QueueIs s t v q { s.queue v q with stopped := true, err := err })

/-- Number of n bytes at an offset of a packet (R9, R70). -/
def packetNum (p : List Byte) (off n : Nat) : Nat := leNat ((p.drop off).take n)

/-- Queue (v, q) may parse, and the packet at its HEAD is p: 64 bytes in local DRAM, read through the table of the queue's region; chain,
segs and part are that region's (R67, R68, R70, R409). -/
structure HeadPacket (s : State) (v q : Nat) (segs : List Seg) (part : Partition) (chain : List Nat) (p : List Byte) : Prop where
  tables : QueuesWf s
  works : s.boot = .running ∧ s.failed = false
  parses : (s.queue v q).en = true ∧ (s.queue v q).stopped = false ∧ (s.queue v q).head ≠ (s.queue v q).tail
  idle : (s.queue v q).held = none ∧ (s.queue v q).fence = none ∧ (s.queue v q).signal = none
  region : ∃ e, chainOf s v (s.queue v q).rcb = some (chain, e) ∧ segs = segsAt s e.segtab ∧ part = partAt s e.part
  size : p.length = 64
  bytes : ∀ n, n < 64 → ∃ a, structAt s segs part (fun g => g.r)
    ((s.queue v q).base.toNat + 64 * ((s.queue v q).head.toNat % 2 ^ (s.queue v q).logsz) + n) 1 = some (.dram a) ∧ AtHome s a ∧
    p[n]? = some (homeByte s a)

/-- A counter of 8 bytes in local DRAM at a, for virtual address va (R72). -/
def CounterAt (s : State) (segs : List Seg) (part : Partition) (va a : Nat) : Prop :=
  va % 8 = 0 ∧ structAt s segs part (fun g => g.r) va 8 = some (.dram a) ∧ ∀ n, n < 8 → AtHome s (a + n)

/-! ## Requests, refusals, granules, links -/

/-- Every instance runs, and every launch is live, plain and unretired: nothing can end, settle or be doomed. -/
structure Calm (s : State) : Prop where
  slots : ∀ p ∈ s.slots, p.2.life = .running
  launches : ∀ p ∈ s.launches, p.2.spec = false ∧ p.2.retired = false ∧ p.2.claiming = false ∧ unretired s p.1 ≠ []
  keys : (s.slots.map Prod.fst).Nodup ∧ (s.launches.map Prod.fst).Nodup
  uids : (∀ p ∈ s.slots, ∀ q ∈ s.slots, p.2.uid = q.2.uid → p = q) ∧ ∀ p ∈ s.slots, ∀ i ∈ s.saved, p.2.uid ≠ i.uid

/-- Entry e covers the whole of request r, for its source and tenant (R141, step 1). -/
def Covers (e : IngressEntry) (r : IngressReq) : Prop :=
  e.opened = true ∧ e.src = r.src ∧ e.tenant = r.tenant ∧ e.lbase ≤ r.addr ∧ r.addr + reqSize r.kind ≤ e.lbase + 2 ^ e.logsz

/-- Entry e grants what a kind of request needs (R141, step 3). -/
def granted (e : IngressEntry) : ReqKind → Bool
  | .load _ => e.r
  | .flush => e.r
  | .store _ => e.w
  | .amo _ _ _ ret => e.w && e.a && (e.r || !ret)
  | .cas _ _ _ => e.r && e.w && e.a

/-- The n bytes at a local address are the n bytes of DRAM from x on, in one granule (R105). -/
structure Spans (addr n x : Nat) : Prop where
  first : localTgt addr = .dram x
  fits : addr + n ≤ wsBase
  bytes : ∀ k, k < n → normPa (addr + k) = x + k ∧ (x + k) / 2 ^ 21 = x / 2 ^ 21

/-- Request r of a peer lies in one window, whose entry e has its generation and grants it; its bytes are those of DRAM from x on
(R141). -/
structure Passes (s : State) (r : IngressReq) (x : Nat) : Prop where
  direct : r.home = none
  peer : r.src < 4096
  window : ∃ n e, s.ingress = [(n, e)] ∧ Covers e r ∧ e.gen = r.gen ∧ granted e r.kind = true
  size : 0 < reqSize r.kind
  mapped : Spans r.addr (reqSize r.kind) x

/-- The dies of the n bytes at x are in service. -/
def DiesUp (s : State) (x n : Nat) : Prop := ∀ k, k < n → dieIsDown s (homeDie (x + k)) = false

/-- Access a of one part p, still to be performed, is outstanding for the running instance i of its isle and its launch l. -/
structure Pending (s : State) (a : Access) (p : Part) (i : Inst) (l : Launch) : Prop where
  found : s.access a.id = some a
  parts : a.parts = [p] ∧ p.done = false
  kind : a.kind = .load ∨ a.kind = .store ∨ a.kind = .cas ∨ (∃ fn, a.kind = .amo fn) ∨ (∃ fn, a.kind = .red fn)
  inst : s.inst a.isle = some i ∧ i.uid = a.uid ∧ i.launch = a.launch
  live : s.launch a.launch = some l
  word : a.pc ≠ 0
  unseen : a.atHome = false ∧ ∀ v ∈ s.versions, v.acc ≠ a.id
  calm : Calm s

/-- In t the record of launch l's region, of s else, has entry e, and so has memory (R374, R378, R379). -/
def Enters (s t : State) (l : Launch) (e : FaultEntry) : Prop :=
  t.mem = (recordEntry (l.chain.headD 0) e s).mem ∧ t.versions = (recordEntry (l.chain.headD 0) e s).versions

/-- Access a has the outcome of R143, refused in step: it is gone; a store or RED is entered; a load, CAS or AMO gives zero, which stands
in its request until it lands, and is entered unless the request names a mask register. -/
def Refused (s t : State) (a : Access) (p : Part) (i : Inst) (l : Launch) (step : BitVec 4) : Prop :=
  let entry (n : Nat) : FaultEntry := ⟨0x10, n + 16 * step.toNat, ctxCode a.ctx, a.rank, a.isle, a.pc, p.va, false⟩
  t.access a.id = none ∧ ∃ j, t.inst a.isle = some j ∧
    (a.kind = .store → Enters s t l (entry 2) ∧ j = noteFault (entry 2) i) ∧
    (∀ fn, a.kind = .red fn → Enters s t l (entry 4) ∧ j = noteFault (entry 4) i) ∧
    (∀ r, (a.kind = .load ∨ a.kind = .cas ∨ ∃ fn, a.kind = .amo fn) → r ∈ i.reqs → r.id = a.id → (∀ q ∈ i.reqs, q.id = a.id → q = r) →
      let n := if a.kind = .load then 1 else 3
      let zero : Req := { r with arrived := true, data := [(p.lane, 0)], fails := [(p.lane, .refused step)], va := 0 }
      let reqs := i.reqs.map (fun q => if q.id = a.id then zero else q)
      (r.mask = 0 → Enters s t l (entry n) ∧ j = { noteFault (entry n) i with reqs := reqs }) ∧
      (r.mask ≠ 0 → t.mem = s.mem ∧ t.versions = s.versions ∧ j = { i with reqs := reqs }))

/-- From s to t granule g has become x, and nothing else but what the caller names has changed. -/
def GranuleIs (s t : State) (g : Nat) (x : Granule) : Prop := granuleOf t g = x ∧ ∀ h, h ≠ g → granuleOf t h = granuleOf s h

/-- From s to t link n has become x, and no other link has changed. -/
def LinkIs (s t : State) (n : Nat) (x : Link) : Prop := t.link n = x ∧ ∀ m, m ≠ n → t.link m = s.link m

/-- The n bytes of memory at x are bs, at home and as every die reads them. -/
def BytesAt (t : State) (x : Nat) (bs : List Byte) : Prop :=
  ∀ n b, bs[n]? = some b → homeByte t (x + n) = b ∧ ∀ d, dieByte t d (x + n) = b

/-- From s to t the instance i on isle k has the bytes bs at offset off of its scratchpad, no poison there but what stood there, and is the
same else; no other isle has changed. -/
def PadTakes (s t : State) (k : Nat) (i : Inst) (off : Nat) (bs : List Byte) : Prop :=
  (∀ n, n ≠ k → t.inst n = s.inst n) ∧ ∃ j, t.inst k = some j ∧ j = { i with spad := j.spad, spadPoison := j.spadPoison } ∧
    (∀ n b, bs[n]? = some b → Sparse.get 0 j.spad (off + n) = b) ∧
    (∀ a, (a < off ∨ off + bs.length ≤ a) → Sparse.get 0 j.spad a = Sparse.get 0 i.spad a) ∧ ∀ q ∈ j.spadPoison, q ∈ i.spadPoison

/-- Flow f has one meter entry, m. -/
def OneMeter (s : State) (f : Flow) (m : Meter) : Prop := s.meter f = some m ∧ ∀ x ∈ s.meters, x.flow = f → x = m

/-- From s to t the meter of flow f has become m, and no other meter has changed. -/
def MeterIs (s t : State) (f : Flow) (m : Meter) : Prop := t.meter f = some m ∧ ∀ g, g ≠ f → t.meter g = s.meter g

/-! ## Engine events -/

/-- Command c is the only one of instance i of launch l, which runs on isle k with nothing in refill, no poison and no access
outstanding. -/
structure Lone (s : State) (k : Nat) (i : Inst) (l : Launch) (c : Cmd) : Prop where
  calm : Calm s
  inst : s.inst k = some i
  launch : s.launch i.launch = some l
  cmds : i.cmds = [c]
  free : i.frozen = none ∧ i.refill = [] ∧ i.spadPoison = [] ∧ i.accPoison = []
  acc : s.acc = []

/-- The command of engine e has completed and is counted (R328, R329). -/
def Counted (i j : Inst) (e : Engine) : Prop := j.cmds = [] ∧ j.cnt e = i.cnt e + 1

/-- d is a matrix of m rows of n bytes in the scratchpad: element q of row r is the byte at BASE + r × STRIDE1 + q (R178, R320). -/
structure ByteMatrix (d : Desc) (m n : Nat) : Prop where
  kind : d.fmt = 2 ∧ d.space = 0
  dims : d.dim 0 = n ∧ d.dim 1 = m ∧ d.dim 2 = 1 ∧ d.dim 3 = 1

/-- The rotation fails: entered with detail, a failure mark sent downstream, completed and counted (R366). -/
def RotaFails (s t : State) (k : Nat) (i : Inst) (l : Launch) (c : Cmd) (detail : Nat) : Prop :=
  Enters s t l ⟨0x16, detail, 0, i.rank, k, c.pc, 0, false⟩ ∧ t.out = s.out ++ [.failureMark k (rotaDown c.block) (rotaLabel c.block)] ∧
    ∃ j, t.inst k = some j ∧ Counted i j .cl

/-! ## Invariants -/

/-- Nothing but events stands on the agenda. -/
def EventsOnly (s : State) : Prop := ∀ p ∈ s.agenda, slotOf p.2 = none

/-- The machine answers a next state in s. -/
def Runs (s : State) : Prop := ∃ t, step s = .next t

end Sys2Proof.Safety
end

