-- ==== Sys2Proof/Certificates/Slice0/Obligations.lean ====
section
/-!
DEFINITION. The statements about the machine, from the numbered rules of spec/, for the provers. A predicate that a statement uses and
that no Machine file defines stands in Safety.lean.
-/

open Sys2Proof Sys2Proof.Machine Sys2Proof.Safety

/-- R229: what each register form of major 0x00, but for the shifts and divisions, writes to D, from the values a and b of its sources, for
every operand and every state in which it can issue; nothing but the instance changes. CLZ, CTZ, POPC and BSWAP: r is the number of leading,
trailing or set bits, or the word whose byte k is byte 7 - k of a. -/
def Obligations.IntegerArithmetic : Prop :=
  (∀ o, Sets2 (.add o) o.a o.b o.d (fun a b => a + b)) ∧
  (∀ o, Sets2 (.sub o) o.a o.b o.d (fun a b => a - b)) ∧
  (∀ o, Sets2 (.mul o) o.a o.b o.d (fun a b => BitVec.ofNat 64 (a.toNat * b.toNat))) ∧
  (∀ o, Sets2 (.mulh o) o.a o.b o.d (fun a b => BitVec.ofInt 64 (a.toInt * b.toInt / 2 ^ 64))) ∧
  (∀ o, Sets2 (.mulhu o) o.a o.b o.d (fun a b => BitVec.ofNat 64 (a.toNat * b.toNat / 2 ^ 64))) ∧
  (∀ o, Sets2 (.and o) o.a o.b o.d (fun a b => a &&& b)) ∧
  (∀ o, Sets2 (.or o) o.a o.b o.d (fun a b => a ||| b)) ∧
  (∀ o, Sets2 (.xor o) o.a o.b o.d (fun a b => a ^^^ b)) ∧
  (∀ o, Sets2 (.andn o) o.a o.b o.d (fun a b => a &&& ~~~b)) ∧
  (∀ o, Sets2 (.min o) o.a o.b o.d (fun a b => if a.toInt ≤ b.toInt then a else b)) ∧
  (∀ o, Sets2 (.max o) o.a o.b o.d (fun a b => if a.toInt ≤ b.toInt then b else a)) ∧
  (∀ o, Sets2 (.minu o) o.a o.b o.d (fun a b => if a.toNat ≤ b.toNat then a else b)) ∧
  (∀ o, Sets2 (.maxu o) o.a o.b o.d (fun a b => if a.toNat ≤ b.toNat then b else a)) ∧
  (∀ o, Sets2 (.slt o) o.a o.b o.d (fun a b => if a.toInt < b.toInt then 1 else 0)) ∧
  (∀ o, Sets2 (.sltu o) o.a o.b o.d (fun a b => if a.toNat < b.toNat then 1 else 0)) ∧
  (∀ o, Sets2 (.seq o) o.a o.b o.d (fun a b => if a = b then 1 else 0)) ∧
  (∀ o, WritesG (.clz o) [o.a] o.d (fun v r fl => fl = 0 ∧ ∃ a n, v = [a] ∧ r = BitVec.ofNat 64 n ∧ n ≤ 64 ∧
    (∀ m, 64 - n ≤ m → a.getLsbD m = false) ∧ (n < 64 → a.getLsbD (63 - n) = true))) ∧
  (∀ o, WritesG (.ctz o) [o.a] o.d (fun v r fl => fl = 0 ∧ ∃ a n, v = [a] ∧ r = BitVec.ofNat 64 n ∧ n ≤ 64 ∧
    (∀ m, m < n → a.getLsbD m = false) ∧ (n < 64 → a.getLsbD n = true))) ∧
  (∀ o, Sets1 (.popc o) o.a o.d (fun a => BitVec.ofNat 64 ((List.range 64).filter (fun m => a.getLsbD m)).length)) ∧
  (∀ o, WritesG (.bswap o) [o.a] o.d (fun v r fl => fl = 0 ∧ ∃ a, v = [a] ∧ ∀ k, k < 8 → byteOf k r = byteOf (7 - k) a))

/-- R230: DIV, DIVU, REM and REMU write these values and raise nothing, division by zero and -2^63 / -1 among them. -/
def Obligations.Divisions : Prop :=
  (∀ o, Sets2 (.div o) o.a o.b o.d (fun a b =>
    if b = 0 then BitVec.ofNat 64 (2 ^ 64 - 1)
    else if a.toInt = -2 ^ 63 ∧ b.toInt = -1 then BitVec.ofInt 64 (-2 ^ 63)
    else BitVec.ofInt 64 (a.toInt.tdiv b.toInt))) ∧
  (∀ o, Sets2 (.rem o) o.a o.b o.d (fun a b =>
    if b = 0 then a
    else if a.toInt = -2 ^ 63 ∧ b.toInt = -1 then 0
    else BitVec.ofInt 64 (a.toInt - b.toInt * a.toInt.tdiv b.toInt))) ∧
  (∀ o, Sets2 (.divu o) o.a o.b o.d (fun a b => if b = 0 then BitVec.ofNat 64 (2 ^ 64 - 1) else BitVec.ofNat 64 (a.toNat / b.toNat))) ∧
  (∀ o, Sets2 (.remu o) o.a o.b o.d (fun a b => if b = 0 then a else BitVec.ofNat 64 (a.toNat % b.toNat)))

/-- R231: SHL, SHR, SAR and ROL shift by b[5:0] and ignore b[63:6]. -/
def Obligations.Shifts : Prop :=
  (∀ o, Sets2 (.shl o) o.a o.b o.d (fun a b => BitVec.ofNat 64 (a.toNat * 2 ^ (b.toNat % 64)))) ∧
  (∀ o, Sets2 (.shr o) o.a o.b o.d (fun a b => BitVec.ofNat 64 (a.toNat / 2 ^ (b.toNat % 64)))) ∧
  (∀ o, Sets2 (.sar o) o.a o.b o.d (fun a b => BitVec.ofInt 64 (a.toInt / 2 ^ (b.toNat % 64)))) ∧
  (∀ o, Sets2 (.rol o) o.a o.b o.d (fun a b =>
    BitVec.ofNat 64 (a.toNat * 2 ^ (b.toNat % 64) + a.toNat / 2 ^ (64 - b.toNat % 64))))

/-- R232: LEA writes a + b × 2^s; SEL reads A, B and the condition register and writes a where it is not zero, else b. R235: BFX writes the w
bits of a from pos up; BFI reads D after A and replaces those bits of it by the low w bits of a. -/
def Obligations.ScaledAndFields : Prop :=
  (∀ o, Sets2 (.lea o) o.a o.b o.d (fun a b => BitVec.ofNat 64 (a.toNat + b.toNat * 2 ^ o.s.toNat))) ∧
  (∀ o, Sets3 (.sel o) o.a o.b o.e o.d (fun a b c => if c ≠ 0 then a else b)) ∧
  (∀ o, Sets1 (.bfx o) o.a o.d (fun a => BitVec.ofNat 64 (a.toNat / 2 ^ o.pos.toNat % 2 ^ (o.wm1.toNat + 1)))) ∧
  (∀ o, WritesG (.bfi o) [o.a, o.d] o.d (fun v r fl => fl = 0 ∧ ∃ a d, v = [a, d] ∧ ∀ n,
    r.getLsbD n = if o.pos.toNat ≤ n ∧ n < o.pos.toNat + (o.wm1.toNat + 1) then a.getLsbD (n - o.pos.toNat) else d.getLsbD n))

/-- R208, R233, R234: the immediate forms write op(a, i) with i the sign-extended IMM12 or literal, shifts by their count; LI writes i,
LUI the low halves of i and a. -/
def Obligations.Immediates : Prop :=
  (∀ o, Sets1 (.addImm o) o.a o.d (fun a => BitVec.ofInt 64 (a.toInt + immInt o.i))) ∧
  (∀ o, Sets1 (.mulImm o) o.a o.d (fun a => BitVec.ofInt 64 (a.toInt * immInt o.i))) ∧
  (∀ o, Sets1 (.andImm o) o.a o.d (fun a => a &&& BitVec.ofInt 64 (immInt o.i))) ∧
  (∀ o, Sets1 (.orImm o) o.a o.d (fun a => a ||| BitVec.ofInt 64 (immInt o.i))) ∧
  (∀ o, Sets1 (.xorImm o) o.a o.d (fun a => a ^^^ BitVec.ofInt 64 (immInt o.i))) ∧
  (∀ o, Sets1 (.shlImm o) o.a o.d (fun a => BitVec.ofNat 64 (a.toNat * 2 ^ o.n.toNat))) ∧
  (∀ o, Sets1 (.shrImm o) o.a o.d (fun a => BitVec.ofNat 64 (a.toNat / 2 ^ o.n.toNat))) ∧
  (∀ o, Sets1 (.sarImm o) o.a o.d (fun a => BitVec.ofInt 64 (a.toInt / 2 ^ o.n.toNat))) ∧
  (∀ o, Sets1 (.sltImm o) o.a o.d (fun a => if a.toInt < immInt o.i then 1 else 0)) ∧
  (∀ o, Sets1 (.sltuImm o) o.a o.d (fun a => if a.toNat < (BitVec.ofInt 64 (immInt o.i)).toNat then 1 else 0)) ∧
  (∀ o, Sets1 (.seqImm o) o.a o.d (fun a => if a.toInt = immInt o.i then 1 else 0)) ∧
  (∀ o, WritesG (.li o) [] o.d (fun v r fl => v = [] ∧ r = BitVec.ofInt 64 (immInt o.i) ∧ fl = 0)) ∧
  (∀ o, Sets1 (.lui o) o.a o.d (fun a => (BitVec.ofInt 32 (immInt o.i)) ++ (a.setWidth 32)))

/-- R236, R237: FADD, FSUB, FMUL and FFMA compute exactly and round once in the word's mode; FMIN and FMAX give minimumNumber and maximumNumber;
the FP32 result is zero-extended and its flags join FEX. R238: FCMP writes 1 when its relation holds, else 0; NV is raised by any NaN for LT
and LE and by a signalling NaN for EQ and UN. R182, R194, R236, R239: the conversions, their rounding mode, the bits of the source they take
and where the result stands. -/
def Obligations.ScalarFloat : Prop :=
  (∀ o, Floats2 (.fadd o) o.a o.b o.d (fun x y => addF fF32 o.r (decodeF fF32 x) (decodeF fF32 y))) ∧
  (∀ o, Floats2 (.fsub o) o.a o.b o.d (fun x y => addF fF32 o.r (decodeF fF32 x) (decodeF fF32 y).neg)) ∧
  (∀ o, Floats2 (.fmul o) o.a o.b o.d (fun x y => mulF fF32 o.r (decodeF fF32 x) (decodeF fF32 y))) ∧
  (∀ o, WritesG (.ffma o) [o.a, o.b, o.e] o.d (fun v r fl => ∃ x y z, v = [x, y, z] ∧
    (r, fl) = (fun q : Nat × BitVec 5 => (BitVec.ofNat 64 q.1, q.2)) (fmaF fF32 o.r (decodeF fF32 (x.toNat % 2 ^ 32))
      (decodeF fF32 (y.toNat % 2 ^ 32)) (decodeF fF32 (z.toNat % 2 ^ 32))))) ∧
  (∀ o, Floats2 (.fmin o) o.a o.b o.d (minMaxF fF32 false)) ∧
  (∀ o, Floats2 (.fmax o) o.a o.b o.d (minMaxF fF32 true)) ∧
  (∀ o, Floats2 (.fcmp o) o.a o.b o.d (fun x y =>
      let a := decodeF fF32 x
      let b := decodeF fF32 y
      let nan := a.isNan || b.isNan
      let holds : Bool := match o.k with
        | .eq => !nan && !ltF a b && !ltF b a
        | .lt => ltF a b
        | .le => !nan && !ltF b a
        | .un => nan
      let nv : Bool := match o.k with
        | .eq => a.isSig || b.isSig
        | .lt => nan
        | .le => nan
        | .un => a.isSig || b.isSig
      (if holds then 1 else 0, if nv then 16 else 0))) ∧
  (∀ o, WritesG (.fcvtI32F32 o) [o.a] o.d (fun v r fl => ∃ x z, v = [x] ∧ f32ToI32 o.r (x.toNat % 2 ^ 32) = (z, fl) ∧
    r = (BitVec.ofNat 32 z).signExtend 64)) ∧
  (∀ o, Floats1 (.fcvtF32I32 o) o.a o.d (fun x => i32ToF32 o.r x)) ∧
  (∀ o, Floats1 (.fcvtBf16F32 o) o.a o.d (fun x => convF fF32 fBF16 o.r x)) ∧
  (∀ o, Floats1 (.fcvtF32Bf16 o) o.a o.d (fun x => convF fBF16 fF32 .rne (x % 2 ^ 16))) ∧
  (∀ o, Floats1 (.fcvtF16F32 o) o.a o.d (fun x => convF fF32 fF16 o.r x)) ∧
  (∀ o, Floats1 (.fcvtF32F16 o) o.a o.d (fun x => convF fF16 fF32 .rne (x % 2 ^ 16))) ∧
  (∀ o, Floats1 (.fcvtL6F32 o) o.a o.d (fun x => (l6Encode (decodeF fF32 x), 0))) ∧
  (∀ o, Floats1 (.fcvtF32L6 o) o.a o.d (fun x => ((roundVal fF32 .rne (l6Val (x % 64))).1, 0)))

/-- R192: an operand that is a NaN makes the result the canonical NaN of the format, raising NV for a signalling NaN only; minimum and maximum
give the other operand where one is a NaN. R191: a value that the format represents is not changed by rounding, in any mode, and raises
nothing. -/
def Obligations.RoundingAndNans : Prop :=
  (∀ f ∈ [fF32, fBF16, fF16], ∀ (r : Rnd) (a b : FVal), (a.isNan = true ∨ b.isNan = true) →
      addF f r a b = (f.nan, if a.isSig || b.isSig then 16 else 0) ∧
      mulF f r a b = (f.nan, if a.isSig || b.isSig then 16 else 0) ∧
      (∀ x y m, decodeF f x = a → decodeF f y = b →
        minMaxF f m x y = (if a.isNan && b.isNan then f.nan else if a.isNan then y else x, if a.isSig || b.isSig then 16 else 0))) ∧
  (∀ f ∈ [fF32, fBF16, fF16], ∀ (r : Rnd) (w : Nat), w < 2 ^ (1 + f.eb + f.mb) → (decodeF f w).isNan = false →
      roundVal f r (decodeF f w) = (w, 0))

/-- R254, R255: LOC writes the description of its address's target and takes no trap from translation; an address without an entry gives
zero, local DRAM and a scratchpad window give their kind, home and die, and PEEROK. -/
def Obligations.Locate : Prop :=
  (∀ o s k c i l x j, Reached (.loc o) s k c i → s.launch i.launch = some l → Sources i c [o.a] [o.d] [x] j →
    pushRoom i j o.d = true → Completes (.loc o) s k c (writeG c s.nextId o.d (locWord s k l x) j)) ∧
  (∀ s k l (x : Word) d, findSeg l.segs x.toNat = .error d → locWord s k l x = 0) ∧
  (∀ s k l (x : Word) e a, findSeg l.segs x.toNat = .ok e → segTgt (selfOf l.part) e x.toNat = .dram a → l.part.self < 4096 →
    locWord s k l x = BitVec.ofNat 64 (1 * 2 ^ 61 + (selfOf l.part).getD 0 * 2 ^ 48 + 2 ^ 47 + ordCode e.ord * 2 ^ 38 +
      aplCode e.apl * 2 ^ 36 + (if e.resid then 2 ^ 35 else 0) + (vaultOf a / 32) * 2 ^ 16 + vaultOf a * 2 ^ 8)) ∧
  (∀ s k l (x : Word) e n a, findSeg l.segs x.toNat = .ok e → segTgt (selfOf l.part) e x.toNat = .spad n a →
    locWord s k l x = BitVec.ofNat 64 (3 * 2 ^ 61 + (selfOf l.part).getD 0 * 2 ^ 48 + 2 ^ 47 + ordCode e.ord * 2 ^ 38 +
      aplCode e.apl * 2 ^ 36 + (if e.resid then 2 ^ 35 else 0) + (n / 32) * 2 ^ 16 + n * 2 ^ 8))

/-- R208, R212, R240, R241: BR is always taken, BC when its test of A holds, LOOP when A less one is not zero; the target is PC + 4 × o;
not taken, they complete; LOOP leaves A less one in A. -/
def Obligations.RelativeBranches : Prop :=
  (∀ o s k c i, Reached (.br o) s k c i → Branches (.br o) s k c i i (branchTo i c o.o)) ∧
  (∀ o s k c i x j, Reached (.bc o) s k c i → Sources i c [o.a] [] [x] j →
    let test : Prop := match o.k with
      | .eqz => x.toInt = 0
      | .nez => x.toInt ≠ 0
      | .ltz => x.toInt < 0
      | .gez => 0 ≤ x.toInt
      | .gtz => 0 < x.toInt
      | .lez => x.toInt ≤ 0
    (test → Branches (.bc o) s k c i j (branchTo i c o.o)) ∧ (¬ test → Completes (.bc o) s k c j)) ∧
  (∀ o s k c i x j, Reached (.loop o) s k c i → Sources i c [o.a] [o.a] [x] j →
    (x ≠ 1 → Branches (.loop o) s k c i (writeG c s.nextId o.a (x - 1) j) (branchTo i c o.o)) ∧
    (x = 1 → Completes (.loop o) s k c (writeG c s.nextId o.a 0 j)))

/-- R242, R243: CALL and CALLR push bits [47:0] of the address of the next word and branch, JR branches, RET pops the newest entry and branches to it.
R243: the traps of calls, jumps and returns: ILLEGAL at a full or an empty return stack, SEGV NOSEG for a target with a bit above 47,
ALIGN for a misaligned one, with the target in ADDR; nothing of the word takes effect. The DETAIL 4 of ILLEGAL is R374's. -/
def Obligations.CallsAndReturns : Prop :=
  (∀ o s k c i, Reached (.call o) s k c i → (i.ctx c).stack.length < 7 →
    Branches (.call o) s k c i (i.updCtx c (fun x => { x with stack :=
      (BitVec.ofNat 64 (((i.ctx c).pc + (match o.o with
        | .short _ => 4
        | .long _ => 8)).toNat % 2 ^ 48)) :: x.stack })) (branchTo i c o.o)) ∧
  (∀ o s k c i x j, Reached (.callr o) s k c i → (i.ctx c).stack.length < 7 → Sources i c [o.a] [] [x] j → x.toNat < 2 ^ 48 →
    x.toNat % 4 = 0 → Branches (.callr o) s k c i (j.updCtx c (fun y => { y with stack := BitVec.ofNat 64 (((i.ctx c).pc + 4).toNat % 2 ^ 48) :: y.stack })) x) ∧
  (∀ o s k c i x j, Reached (.jr o) s k c i → Sources i c [o.a] [] [x] j → x.toNat < 2 ^ 48 → x.toNat % 4 = 0 →
    Branches (.jr o) s k c i j x) ∧
  (∀ o s k c i t rest, Reached (.ret o) s k c i → (i.ctx c).stack = t :: rest →
    Branches (.ret o) s k c i (i.updCtx c (fun x => { x with stack := rest })) t) ∧
  (∀ o s k c i, Reached (.call o) s k c i → 7 ≤ (i.ctx c).stack.length → Traps (.call o) s k c i 0x01 4 0) ∧
  (∀ o s k c i, Reached (.callr o) s k c i → 7 ≤ (i.ctx c).stack.length → Traps (.callr o) s k c i 0x01 4 0) ∧
  (∀ o s k c i, Reached (.ret o) s k c i → (i.ctx c).stack = [] → Traps (.ret o) s k c i 0x01 4 0) ∧
  (∀ o s k c i x j, Reached (.jr o) s k c i → Sources i c [o.a] [] [x] j →
    (2 ^ 48 ≤ x.toNat → Traps (.jr o) s k c i 0x04 1 x) ∧
    (x.toNat < 2 ^ 48 → x.toNat % 4 ≠ 0 → Traps (.jr o) s k c i 0x06 0 x)) ∧
  (∀ o s k c i x j, Reached (.callr o) s k c i → (i.ctx c).stack.length < 7 → Sources i c [o.a] [] [x] j →
    (2 ^ 48 ≤ x.toNat → Traps (.callr o) s k c i 0x04 1 x) ∧
    (x.toNat < 2 ^ 48 → x.toNat % 4 ≠ 0 → Traps (.callr o) s k c i 0x06 0 x))

/-- R218, R247: the value that SRD writes to D, for every register of R218. -/
def Obligations.SystemReads : Prop :=
  ReadsSys 0x000 (fun _ k _ _ => BitVec.ofNat 64 k) ∧
  ReadsSys 0x001 (fun _ _ i _ => BitVec.ofNat 64 i.rank) ∧
  ReadsSys 0x002 (fun _ _ _ l => BitVec.ofNat 64 l.isles.length) ∧
  ReadsSys 0x003 (fun s k _ _ => BitVec.ofNat 64 ((if s.mxmap.getLsbD k then 0 else 2) + (if s.vwmap.getLsbD k then 0 else 1))) ∧
  ReadsSys 0x004 (fun s k _ _ => if s.vwmap.getLsbD k then 64 else 32) ∧
  ReadsSys 0x005 (fun _ _ _ l => if l.part.selfValid then BitVec.ofNat 64 (2 ^ 12 + l.part.self) else 0) ∧
  (∀ n, n < 4 → ReadsSys (0x010 + n) (fun s _ _ _ => s.popmap.extractLsb' (64 * n) 64)) ∧
  (∀ n, n < 4 → ReadsSys (0x014 + n) (fun s _ _ _ => s.mxmap.extractLsb' (64 * n) 64)) ∧
  (∀ n, n < 4 → ReadsSys (0x018 + n) (fun s _ _ _ => s.vwmap.extractLsb' (64 * n) 64)) ∧
  ReadsSys 0x020 (fun _ _ i _ => i.vcyc) ∧
  ReadsSys 0x021 (fun _ _ i _ => i.win.setWidth 64) ∧
  ReadsSys 0x022 (fun _ _ i _ => if i.tmode then 1 else 0) ∧
  ReadsSys 0x023 (fun _ _ _ l => BitVec.ofNat 64 l.eff.frzlim) ∧
  ReadsSys 0x024 (fun _ _ i _ => i.fex.setWidth 64) ∧
  ReadsSys 0x025 (fun _ _ i _ => i.mflags.setWidth 64) ∧
  ReadsSys 0x030 (fun _ _ i _ => i.fltCause) ∧
  ReadsSys 0x031 (fun _ _ i _ => i.fltPc) ∧
  ReadsSys 0x032 (fun _ _ i _ => i.fltAddr) ∧
  ReadsSys 0x033 (fun _ _ i _ => i.eccLog) ∧
  ReadsSys 0x040 (fun _ _ i _ => i.cntMx.setWidth 64) ∧
  ReadsSys 0x041 (fun _ _ i _ => i.cntCp.setWidth 64) ∧
  ReadsSys 0x042 (fun _ _ i _ => i.cntAt.setWidth 64) ∧
  ReadsSys 0x043 (fun _ _ i _ => i.cntCl.setWidth 64) ∧
  ReadsSys 0x044 (fun _ _ i _ => i.cntCi.setWidth 64) ∧
  ReadsSys 0x045 (fun _ _ i _ => i.cntTd.setWidth 64) ∧
  ReadsSys 0x046 (fun _ _ i _ => i.tideSt) ∧
  ReadsSys 0x050 (fun _ _ i _ => i.mwsel.setWidth 64) ∧
  ReadsSys 0x051 (fun _ _ i _ => (i.msgWin i.mwsel.toNat).cfg) ∧
  ReadsSys 0x052 (fun _ _ i _ => (i.msgWin i.mwsel.toNat).shown.setWidth 64) ∧
  ReadsSys 0x060 (fun s _ _ l => (s.vf l.vf).predHit) ∧
  ReadsSys 0x061 (fun s _ _ l => (s.vf l.vf).predMiss) ∧
  ReadsSys 0x062 (fun s _ _ l => (s.vf l.vf).predDoom) ∧
  ReadsSys 0x063 (fun s _ _ _ => s.migContest)

/-- R195, R218, R248, R249: SWR to a writable register completes: the fields of WIN, TMODE, FEX, MFLAGS, ECC_LOG, MWSEL, MWCFG or MWCUR take
the value of its source from the next vc, MWCFG and MWCUR those of the window that MWSEL selects; a write of MWCFG that R156 ignores, and
one to a register without writable fields, complete and write nothing. -/
def Obligations.SystemWrites : Prop :=
  (∀ o s k c i x j, Reached (.swr o) s k c i → Sources i c [o.d] [] [x] j →
    (o.sys = 0x021 → Completes (.swr o) s k c (j.later c (.sys .win) (x.setWidth 256))) ∧
    (o.sys = 0x022 → Completes (.swr o) s k c (j.later c (.sys .tmode) (x.setWidth 256))) ∧
    (o.sys = 0x024 → Completes (.swr o) s k c (j.later c (.sys .fexSet) (x.setWidth 256))) ∧
    (o.sys = 0x025 → Completes (.swr o) s k c (j.later c (.sys .mflagsClear) (x.setWidth 256))) ∧
    (o.sys = 0x033 → Completes (.swr o) s k c (j.later c (.sys .eccClear) (x.setWidth 256))) ∧
    (o.sys = 0x050 → Completes (.swr o) s k c (j.later c (.sys .mwsel) (x.setWidth 256))) ∧
    (o.sys = 0x052 → Completes (.swr o) s k c (j.later c (.sys (.mwcur i.mwsel.toNat)) (x.setWidth 256))) ∧
    (o.sys = 0x051 → ∀ l, s.launch i.launch = some l →
      (mwcfgIgnored s l x.toNat = false → Completes (.swr o) s k c (j.later c (.sys (.mwcfg i.mwsel.toNat)) (x.setWidth 256))) ∧
      (mwcfgIgnored s l x.toNat = true → Completes (.swr o) s k c j)) ∧
    (o.sys.toNat < 0xF00 → o.sys ∉ [0x021, 0x022, 0x024, 0x025, 0x033, 0x050, 0x051, 0x052] → Completes (.swr o) s k c j)) ∧
  (∀ (i : Inst) (c : Ctx) (x : BitVec 256),
    i.applyWb ⟨c, .sys .win, x⟩ = { i with win := x.setWidth 12 } ∧
    i.applyWb ⟨c, .sys .tmode, x⟩ = { i with tmode := x.getLsbD 0 } ∧
    i.applyWb ⟨c, .sys .fexSet, x⟩ = { i with fex := x.setWidth 5 } ∧
    i.applyWb ⟨c, .sys .fexOr, x⟩ = { i with fex := i.fex ||| x.setWidth 5 } ∧
    i.applyWb ⟨c, .sys .mflagsClear, x⟩ = { i with mflags := i.mflags &&& ~~~(x.setWidth 3) } ∧
    i.applyWb ⟨c, .sys .mwsel, x⟩ = { i with mwsel := x.setWidth 4 })

/-- R218: an SRD or SWR that names a firmware register takes the precise trap PRIV. The DETAIL 1 is R374's. R250: TRAP takes the precise
trap TRAP with its code at the word. -/
def Obligations.TrapWords : Prop :=
  (∀ o s k c i, Reached (.srd o) s k c i → 0xF00 ≤ o.sys.toNat → Traps (.srd o) s k c i 0x02 1 0) ∧
  (∀ o s k c i, Reached (.swr o) s k c i → 0xF00 ≤ o.sys.toNat → Traps (.swr o) s k c i 0x02 1 0) ∧
  (∀ o s k c i, Reached (.trap o) s k c i → Traps (.trap o) s k c i 0x0C o.code.toNat 0)

/-- R252: NOP and HINT issue and advance the walk position, whatever the code of the hint; nothing else changes. -/
def Obligations.NopAndHint : Prop :=
  (∀ o s k c i, Reached (.nop o) s k c i → Completes (.nop o) s k c i) ∧
  (∀ o s k c i, Reached (.hint o) s k c i → Completes (.hint o) s k c i)

/-- R41, R251: EXIT ends its context and discards its return stack; where it was the last live context outside a speculation, the instance
retires. R253, R310: SUCC marks the instance; PMARK adds its marker, context, isle and VCYC to the buffer
of its die and counts it, where the buffer holds fewer than 1,024 entries, and in a speculation emits nothing. -/
def Obligations.ExitAndMarks : Prop :=
  (∀ o s k c i, Reached (.exit o) s k c i →
      let j := i.updCtx c (fun x => { x.advance 1 with live := false, stack := [] })
      ((∃ c', c' ≠ c ∧ (i.ctx c').live = true) →
        ∃ t, exec (.exit o) s = .next t ∧ OnlyIsle k s t ∧ t.inst k = some j) ∧
      ((∀ c', c' ≠ c → (i.ctx c').live = false) → ∀ l, s.launch i.launch = some l →
        (l.spec = true → ∃ t, exec (.exit o) s = .next t ∧ OnlyIsle k s t ∧ t.inst k = some j) ∧
        (l.spec = false → ∃ t, OnlyIsle k s t ∧ t.inst k = some j ∧ exec (.exit o) s = .next (retireInst k t)))) ∧
  (∀ o s k c i, Reached (.succ o) s k c i → Completes (.succ o) s k c { i with succ := true }) ∧
  (∀ o s k c i l, Reached (.pmark o) s k c i → s.launch i.launch = some l →
    (l.spec = true → Completes (.pmark o) s k c i) ∧
    (l.spec = false → (Sparse.get [] s.pmark (k / 32)).length < 1024 →
      ∃ t, exec (.pmark o) s = .next t ∧
        t = { s with slots := t.slots, pmark := t.pmark, counters := (s.count (k / 32) 9).counters } ∧
        t.pmark = Sparse.set [] s.pmark (k / 32) (Sparse.get [] s.pmark (k / 32) ++ [⟨o.code, c, k, i.vcyc⟩]) ∧
        t.inst k = some (i.updCtx c (fun x => x.advance 1)) ∧ ∀ n, n ≠ k → t.inst n = s.inst n))

/-- R48, R49, R287, R288, R290 to R292: a load whose checks pass issues a read of its bytes at read_g(A) + off; the data lands, sign- or
zero-extended, in D: a register, a reserved queue entry, or nowhere for G0; LD.AQ acquires. -/
def Obligations.LoadsIssue : Prop :=
  ∀ o s k c i l x j el n sx acq, ∀ mk ∈ [Instr.ld, Instr.lds, Instr.ldAq],
    ((mk = Instr.ld ∧ sx = 0 ∧ acq = false) ∨ (mk = Instr.lds ∧ sx = 8 * n ∧ acq = false) ∨ (mk = Instr.ldAq ∧ sx = 0 ∧ acq = true)) →
    Reached (mk o) s k c i → s.launch i.launch = some l → Sources i c [o.a] [o.d] [x] j → VFree i [] [o.m] → n = (Sz.bytes o.sz) →
    checkElem s k i l (.load (decide (o.m ≠ 0))) n 0 (x + offOf o.off) = .ok el →
    (l.spec = true → stopsAt (.load (decide (o.m ≠ 0))) el = false) → MayIssue s i c l [el.tgt] → pushRoom i j o.d = true →
    (o.d ≠ 0 → j.landingUsed < 48) →
    Issues (mk o) s k c i .load acq [⟨0, x + offOf o.off, el.tgt, n, el.ord, el.apl, none, 0, 0, decide (el.st = .nonres), 0, el.st⟩]
      (some ⟨if 24 ≤ o.d.toNat then .q (o.d.toNat - 24) sx else if o.d = 0 then .discard else .g c o.d.toNat sx, o.m.toNat,
        o.land.toNat, 1⟩) j

/-- R287, R288, R293: a store whose checks pass issues a write of the low bytes of S at read_g(A) + off, ST.RL once its release condition
holds; a store to an enabled message window of its own isle places its bytes there at once. -/
def Obligations.StoresIssue : Prop :=
  ∀ o s k c i l x y j el, ∀ mk ∈ [Instr.st, Instr.stRl],
    Reached (mk o) s k c i → s.launch i.launch = some l → Sources i c [o.a, o.s] [] [x, y] j →
    checkElem s k i l .store (Sz.bytes o.sz) 0 (x + offOf o.off) = .ok el → (l.spec = true → stopsAt .store el = false) →
    padRefilling i el (Sz.bytes o.sz) = false → MayIssue s i c l [el.tgt] →
    (mk = Instr.stRl → releaseReady s i.uid c (i.ctx c) = true) →
    ((∀ a w off, el.tgt ≠ .msgwin a w off) →
      Issues (mk o) s k c i .store false
        [⟨0, x + offOf o.off, el.tgt, (Sz.bytes o.sz), el.ord, el.apl, none, y.toNat % 2 ^ (8 * (Sz.bytes o.sz)), 0, decide (el.st = .nonres), 0, el.st⟩] none j) ∧
    (∀ a w off, el.tgt = .msgwin a w off → off / 2048 % 2 = 0 →
      Completes (mk o) s k c (placeBytes w (off % 2048) (leBytes (Sz.bytes o.sz) (y.toNat % 2 ^ (8 * (Sz.bytes o.sz)))) j)) ∧
    (∀ a w off, el.tgt = .msgwin a w off → off / 2048 % 2 = 1 → exec (mk o) s = .next
      ((closePacket k w (i.ctx c).pc (x + offOf o.off)
        (s.setInst k (placeBytes w (off % 2048) (leBytes (Sz.bytes o.sz) (y.toNat % 2 ^ (8 * (Sz.bytes o.sz)))) j))).updInst k
        (fun i => i.updCtx c (fun y => y.advance (Machine.sizeOf (mk o))))))

/-- R287, R288, R294, R296, R297, R299: outside a speculation an atomic whose checks pass issues an indivisible access with its operand;
AMO and CAS ask for the old value in D, RED asks for nothing; the release forms wait for their condition. -/
def Obligations.AtomicsIssue : Prop :=
  (∀ o s k c i l x y j el, ∀ mk ∈ [Instr.amo, Instr.amoRl],
    Reached (mk o) s k c i → Plain s i l → Sources i c [o.a, o.d] [o.d] [x, y] j →
    checkElem s k i l (.amo o.fn) (Sz.bytes o.sz) 0 (x + offOf o.off) = .ok el → padRefilling i el (Sz.bytes o.sz) = false →
    MayIssue s i c l [el.tgt] → (mk = Instr.amoRl → releaseReady s i.uid c (i.ctx c) = true) → pushRoom i j o.d = true →
    (o.d ≠ 0 → j.landingUsed < 48) →
    Issues (mk o) s k c i (.amo o.fn) o.q
      [⟨0, x + offOf o.off, el.tgt, (Sz.bytes o.sz), el.ord, el.apl, none, y.toNat % 2 ^ (8 * (Sz.bytes o.sz)), 0, decide (el.st = .nonres), 0, el.st⟩]
      (some ⟨if 24 ≤ o.d.toNat then .q (o.d.toNat - 24) 0 else if o.d = 0 then .discard else .g c o.d.toNat 0, 0, o.land.toNat, 3⟩) j) ∧
  (∀ o s k c i l x y z j el, Reached (.cas o) s k c i → Plain s i l → Sources i c [o.a, o.d, o.d + 1] [o.d] [x, y, z] j →
    checkElem s k i l .cas (Sz.bytes o.sz) 0 (x + offOf o.off) = .ok el → padRefilling i el (Sz.bytes o.sz) = false →
    MayIssue s i c l [el.tgt] → (o.rl = true → releaseReady s i.uid c (i.ctx c) = true) → j.landingUsed < 48 →
    Issues (.cas o) s k c i .cas o.aq
      [⟨0, x + offOf o.off, el.tgt, (Sz.bytes o.sz), el.ord, el.apl, none, y.toNat % 2 ^ (8 * (Sz.bytes o.sz)), z.toNat % 2 ^ (8 * (Sz.bytes o.sz)),
        decide (el.st = .nonres), 0, el.st⟩]
      (some ⟨.g c o.d.toNat 0, 0, o.land.toNat, 3⟩) j) ∧
  (∀ o s k c i l x y j el, Reached (.red o) s k c i → Plain s i l → Sources i c [o.a, o.s] [] [x, y] j →
    checkElem s k i l (.red o.fn) (Sz.bytes o.sz) 0 (x + offOf o.off) = .ok el → padRefilling i el (Sz.bytes o.sz) = false →
    MayIssue s i c l [el.tgt] → (o.rl = true → releaseReady s i.uid c (i.ctx c) = true) →
    Issues (.red o) s k c i (.red o.fn) false
      [⟨0, x + offOf o.off, el.tgt, (Sz.bytes o.sz), el.ord, el.apl, none, y.toNat % 2 ^ (8 * (Sz.bytes o.sz)), 0, decide (el.st = .nonres), 0, el.st⟩] none j)

/-- R300 to R302: PREF changes nothing; CFLUSH outside a speculation issues a flush of the line of a DRAM address and has no other effect
elsewhere; PGREQ posts a request where the granule is not resident and else does nothing. -/
def Obligations.LineWords : Prop :=
  (∀ o s k c i x j, Reached (.pref o) s k c i → Sources i c [o.a] [] [x] j → acquirePending s i.uid c = false →
    Completes (.pref o) s k c j) ∧
  (∀ o s k c i l x j el, Reached (.cflush o) s k c i → Plain s i l → Sources i c [o.a] [] [x] j →
    checkElem s k i l .cflush 1 0 (x + offOf o.off) = .ok el → MayIssue s i c l [el.tgt] →
    (∀ a, el.st = .ok → el.tgt = .dram a →
      Issues (.cflush o) s k c i .cflush false [⟨0, x + offOf o.off, .dram (a / 64 * 64), 64, el.ord, el.apl, none, 0, 0, false, 0, .ok⟩] none j) ∧
    (((∀ a, el.tgt ≠ .dram a) ∧ (∀ p a, el.tgt ≠ .peer p a)) ∨ el.st = .nonres → Completes (.cflush o) s k c j)) ∧
  (∀ o s k c i l x j g, Reached (.pgreq o) s k c i → Plain s i l → Sources i c [o.a] [] [x] j →
    findSeg l.segs (x + offOf o.off).toNat = .ok g → g.r = true → acquirePending s i.uid c = false →
    (resident s l.eff g (x + offOf o.off).toNat = true → Completes (.pgreq o) s k c j) ∧
    (resident s l.eff g (x + offOf o.off).toNat = false → exec (.pgreq o) s = .next
      ((residencyRequest l.vf (l.chain.headD 0) (granuleBit g (x + offOf o.off).toNat) (granuleVa g (x + offOf o.off).toNat) k i.rank
        (s.setInst k j)).updInst k (fun i => i.updCtx c (fun y => y.advance (Machine.sizeOf (.pgreq o)))))))

/-- R51, R54, R126, R139, R287: what issuing an access does: it joins the outstanding accesses under the next number, its landing request and
a reserved queue entry join the instance, and its context has written to the host link where it writes there; nothing leaves the device
yet, and no byte of memory changes. -/
def Obligations.AccessesAreRecorded : Prop :=
  ∀ (s : State) k c i kind acq parts (ld : Option Landing) j,
    let t := issueAccess ⟨s, k, c, i⟩ kind acq parts ld j s
    let mark (x : Inst) : Inst := if writesHost kind parts then x.updCtx c (fun y => { y with hostWr := true }) else x
    (∃ a, t.acc = s.acc ++ [a] ∧ a.id = s.nextId ∧ a.isle = k ∧ a.uid = i.uid ∧ a.launch = i.launch ∧ a.ctx = c ∧ a.pc = (i.ctx c).pc ∧
      a.kind = kind ∧ a.parts = parts ∧ a.acq = acq ∧ a.atHome = false ∧ a.vis = 0) ∧
    t = { s with slots := t.slots, acc := t.acc, nextId := s.nextId + 1 } ∧
    (∀ n, n ≠ k → t.inst n = s.inst n) ∧ (∀ d a, dieByte t d a = dieByte s d a) ∧
    (ld = none → t.inst k = some (mark j)) ∧
    (∀ d, ld = some d → ∃ j', t.inst k = some (mark j') ∧
      j'.reqs = j.reqs ++ [⟨s.nextId, (i.ctx c).pc, c, d.dst, d.mask, decide (d.land ≠ 0), i.vcyc + BitVec.ofNat 64 d.land, i.vcyc, false,
        [], [], d.poisonDetail, 0⟩] ∧
      j' = { j with reqs := j'.reqs, qs := j'.qs } ∧
      (∀ n sx, d.dst = .q n sx → n < j.qs.length → (j'.fifo n).pushes = (j.fifo n).pushes ++ [⟨none, s.nextId, c, s.nextId⟩]) ∧
      ((∀ n sx, d.dst ≠ .q n sx) → j'.qs = j.qs))

/-- R64, R115 to R118, R287: the checks of a load or store of n bytes at local DRAM: SEGV where no entry maps it, where the permission lacks, or
where an unmasked or writing access meets a granule that is not resident (unless the last byte of a misaligned access meets a trap
that comes before); ALIGN where the address is no multiple of n and its last byte meets none of these; else it
passes, with the target, the page kind and the placement of the entry. R42, R287, R290, R293: a load or store whose element fails its checks takes that trap, precise,
with its address in ADDR. -/
def Obligations.ElementChecks : Prop :=
  (∀ s k i l (w : Want) n va, w = .store ∨ w = .load true ∨ w = .load false →
      (va.toNat % n ≠ 0 → ∀ t, elemAt s k i l w 1 (va.toNat + n - 1) = .error t → 5 ≤ t.rank) →
      (∀ d, findSeg l.segs va.toNat = .error d → checkElem s k i l w n 0 va = .error ⟨5, 0x04, d⟩) ∧
      (∀ e a, findSeg l.segs va.toNat = .ok e → segTgt (selfOf l.part) e va.toNat = .dram a →
        let allowed := if w = .store then e.w else e.r
        let here := resident s l.eff e va.toNat
        (allowed = false → checkElem s k i l w n 0 va = .error ⟨5, 0x04, 3⟩) ∧
        (allowed = true → here = false → w ≠ .load true → checkElem s k i l w n 0 va = .error ⟨5, 0x04, 4⟩) ∧
        (allowed = true → (here = true ∨ w = .load true) → va.toNat % n ≠ 0 →
          (∀ d, findSeg l.segs (va.toNat + n - 1) = .error d → checkElem s k i l w n 0 va = .error ⟨5, 0x04, d⟩) ∧
          (∀ b, findSeg l.segs (va.toNat + n - 1) = .ok e → segTgt (selfOf l.part) e (va.toNat + n - 1) = .dram b →
            (resident s l.eff e (va.toNat + n - 1) = true ∨ w = .load true) →
            checkElem s k i l w n 0 va = .error ⟨6, 0x06, 0⟩)) ∧
        (allowed = true → (here = true ∨ w = .load true) → va.toNat % n = 0 →
          checkElem s k i l w n 0 va = .ok ⟨0, va, .dram a, e.ord, if e.rem then .mem else e.apl, if here then .ok else .nonres⟩))) ∧
  (∀ o s k c i l x j t, ∀ mk ∈ [Instr.ld, Instr.lds, Instr.ldAq], Reached (mk o) s k c i → s.launch i.launch = some l →
    Sources i c [o.a] [o.d] [x] j → VFree i [] [o.m] →
    checkElem s k i l (.load (decide (o.m ≠ 0))) (Sz.bytes o.sz) 0 (x + offOf o.off) = .error t →
    Traps (mk o) s k c i t.cause t.detail (x + offOf o.off)) ∧
  (∀ o s k c i l x y j t, ∀ mk ∈ [Instr.st, Instr.stRl], Reached (mk o) s k c i → s.launch i.launch = some l →
    Sources i c [o.a, o.s] [] [x, y] j → checkElem s k i l .store (Sz.bytes o.sz) 0 (x + offOf o.off) = .error t →
    Traps (mk o) s k c i t.cause t.detail (x + offOf o.off))

/-- R139, R289, R304: a FENCE order-waits until its condition holds; it issues then, but one of DEV or DOM scope of a context that has written
to the host link first makes a zero-length read of the host link, and issues when that is performed. R74, R311: WAITVIS waits while the
predecessor of its launch is live, and else issues at once. R133, R330: WAIT reads its count once; it issues where the engine's counter is at
the count or past it, and the context then has observed the commands counted; else it keeps the count and waits. -/
def Obligations.FencesAndWaits : Prop :=
  (∀ o s k c i, Reached (.fence o) s k c i →
      ((i.ctx c).fenced = false → fenceReady s k i.uid c (i.ctx c) o.scope = false → Waits (.fence o) s k c i .order) ∧
      ((i.ctx c).fenced = false → fenceReady s k i.uid c (i.ctx c) o.scope = true →
        ((o.scope = .isle ∨ o.scope = .die ∨ (i.ctx c).hostWr = false) → Completes (.fence o) s k c i) ∧
        ((o.scope = .dev ∨ o.scope = .dom) → (i.ctx c).hostWr = true →
          exec (.fence o) s = .next ((issueAccess ⟨s, k, c, i⟩ .hostFence false [⟨0, 0, .host 0, 0, .un, .host, none, 0, 0, false, 0, .ok⟩] none i
            s).updInst k (fun i => i.updCtx c (fun x => { x with fenced := true }.blocked .order i.vcyc))))) ∧
      ((i.ctx c).fenced = true →
        ((∃ a ∈ s.acc, a.same i.uid c = true ∧ a.kind = .hostFence) → Waits (.fence o) s k c i .order) ∧
        ((∀ a ∈ s.acc, a.same i.uid c = true → a.kind ≠ .hostFence) → Completes (.fence o) s k c i))) ∧
  (∀ o s k c i l, Reached (.waitvis o) s k c i → Plain s i l →
    ((l.pred = none ∨ ∃ p, l.pred = some p ∧ s.launch p = none) → Completes (.waitvis o) s k c i) ∧
    (∀ p m, l.pred = some p → s.launch p = some m → Waits (.waitvis o) s k c i .waitvis)) ∧
  (∀ o s k c i, Reached (.wait o) s k c i →
    (∀ n, (i.ctx c).waitCount = some n →
      (0 ≤ (i.cnt o.eng - n).toInt → Completes (.wait o) s k c (observeEngine c o.eng i)) ∧
      ((i.cnt o.eng - n).toInt < 0 → Waits (.wait o) s k c i .wait)) ∧
    (∀ x j, (i.ctx c).waitCount = none → Sources i c [o.d] [] [x] j →
      (0 ≤ (i.cnt o.eng - x.setWidth 32).toInt → Completes (.wait o) s k c (observeEngine c o.eng j)) ∧
      ((i.cnt o.eng - x.setWidth 32).toInt < 0 → ∃ t, exec (.wait o) s = .next t ∧ OnlyIsle k s t ∧
        t.inst k = some (j.updCtx c (fun y => { y with waitCount := some (x.setWidth 32) } |>.blocked .wait i.vcyc)))))

/-- R305 to R307: BAR.ARR of a context with a lag makes its lag one less (0xFFFF stays) and changes nothing else; without a lag it takes
BARBAD where the instance has arrived in this phase, and else the instance arrives, the lag of its other contexts goes up by one, and the
phase completes where all unretired instances have arrived. BAR.WAIT waits while the context has no lag and the instance has arrived in
this phase. R308: STEP order-waits while a store to another isle's window or a packet of the instance is outstanding; then it catches up
where its context has a lag; where it arrives and the phase is not complete, it has arrived once and waits; arrived, it completes when the
phase has completed. -/
def Obligations.BarriersAndSteps : Prop :=
  (∀ o s k c i l, Reached (.barArr o) s k c i → s.launch i.launch = some l → o.b.toNat < i.counts.bars →
    let b := o.b.toNat
    let lag := (i.ctx c).lagOf b
    (lag ≠ 0 → Completes (.barArr o) s k c (i.updCtx c (fun x => x.setLag b (if lag = 0xFFFF then lag else lag - 1)))) ∧
    (lag = 0 → i.arrOf b = l.doneOf b + 1 → Traps (.barArr o) s k c i 0x0B b 0) ∧
    (lag = 0 → i.arrOf b ≠ l.doneOf b + 1 →
      let up (y : Ctx) (i : Inst) : Inst := if y = c then i else i.updCtx y (fun x => x.setLag b (lagUp (x.lagOf b)))
      exec (.barArr o) s = .next ((evalBarrier i.launch b (s.updInst k (fun i => up .S (up .C (up .L (i.setArr b (i.arrOf b + 1))))))).updInst k
        (fun i => i.updCtx c (fun x => x.advance 1))))) ∧
  (∀ o s k c i l, Reached (.barWait o) s k c i → s.launch i.launch = some l → o.b.toNat < i.counts.bars →
    let b := o.b.toNat
    ((i.ctx c).lagOf b = 0 ∧ i.arrOf b = l.doneOf b + 1 → Waits (.barWait o) s k c i .barrier) ∧
    (¬ ((i.ctx c).lagOf b = 0 ∧ i.arrOf b = l.doneOf b + 1) → Completes (.barWait o) s k c i)) ∧
  (∀ s id b l, s.launch id = some l →
    (unretired s id ≠ [] → (∀ i ∈ unretired s id, i.arrOf b = l.doneOf b + 1) →
      evalBarrier id b s = s.updLaunch id (fun l' => { l' with done := Sparse.set 0 l'.done b (l.doneOf b + 1) })) ∧
    ((∃ i ∈ unretired s id, i.arrOf b ≠ l.doneOf b + 1) → evalBarrier id b s = s)) ∧
  (∀ o s k c i l, Reached (.step o) s k c i → s.launch i.launch = some l → o.b.toNat < i.counts.bars →
      let b := o.b.toNat
      ((i.ctx c).stepped = true → (i.ctx c).lagOf b = 0 ∧ i.arrOf b = l.doneOf b + 1 → Waits (.step o) s k c i .barrier) ∧
      ((i.ctx c).stepped = true → ¬ ((i.ctx c).lagOf b = 0 ∧ i.arrOf b = l.doneOf b + 1) → Completes (.step o) s k c i) ∧
      ((i.ctx c).stepped = false → windowStoresPending s i.uid = true → Waits (.step o) s k c i .order) ∧
      ((i.ctx c).stepped = false → windowStoresPending s i.uid = false →
        ((i.ctx c).lagOf b = 0 → i.arrOf b = l.doneOf b + 1 → Traps (.step o) s k c i 0x0B b 0) ∧
        (1 < ((i.ctx c).lagOf b).toNat → ((i.ctx c).lagOf b).toNat < 0xFFFF →
          Completes (.step o) s k c (i.updCtx c (fun x => x.setLag b ((i.ctx c).lagOf b - 1)))) ∧
        ((i.ctx c).lagOf b = 0 → i.arrOf b ≠ l.doneOf b + 1 →
          let up (y : Ctx) (i : Inst) : Inst := if y = c then i else i.updCtx y (fun x => x.setLag b (lagUp (x.lagOf b)))
          let s' := evalBarrier i.launch b (s.updInst k (fun i => up .S (up .C (up .L (i.setArr b (i.arrOf b + 1))))))
          ∀ l', s'.launch i.launch = some l' →
            (l'.doneOf b = i.arrOf b → exec (.step o) s = .next (s'.updInst k (fun i => i.updCtx c (fun x =>
              { x with stepped := true }.blocked .barrier i.vcyc)))) ∧
            (l'.doneOf b = i.arrOf b + 1 → exec (.step o) s = .next (s'.updInst k (fun i => i.updCtx c (fun x => x.advance 1)))))))

/-- R312 to R314: outside a speculation, once the release condition holds, LAUNCH issues the read of its 64-byte packet for queue B[3:0],
and QTAIL the write of B[31:0] to TAIL of queue A[3:0]. -/
def Obligations.QueueAppends : Prop :=
  (∀ o s k c i l x y j el, Reached (.launch o) s k c i → Plain s i l → Sources i c [o.a, o.b] [] [x, y] j →
    checkElem s k i l .launch 64 0 x = .ok el → MayIssue s i c l [el.tgt] → releaseReady s i.uid c (i.ctx c) = true →
    Issues (.launch o) s k c i .tail false
      [⟨0, x, el.tgt, 64, el.ord, el.apl, none, y.toNat % 16, 0, decide (el.st = .nonres), 0, el.st⟩] none j) ∧
  (∀ o s k c i l x y j, Reached (.qtail o) s k c i → Plain s i l → Sources i c [o.a, o.b] [] [x, y] j →
    acquirePending s i.uid c = false → releaseReady s i.uid c (i.ctx c) = true →
    Issues (.qtail o) s k c i .tail false [⟨0, 0, .mmio 0, 0, .rc, .mem, none, x.toNat % 16, y.toNat % 2 ^ 32, false, 0, .ok⟩] none j)

/-- R257, R258, R260, R261, R263: the floating-point vector words of the three formats: each active lane takes the operation of its
elements, rounded once in the word's mode, and raises its flags; inactive lanes keep their value. -/
def Obligations.VectorFloat : Prop :=
  FloatLanes fF32 .vaddF32 .vsubF32 .vmulF32 .vfmaF32 .vminF32 .vmaxF32 .vabsF32 .vnegF32 ∧
  FloatLanes fBF16 .vaddBf16 .vsubBf16 .vmulBf16 .vfmaBf16 .vminBf16 .vmaxBf16 .vabsBf16 .vnegBf16 ∧
  FloatLanes fF16 .vaddF16 .vsubF16 .vmulF16 .vfmaF16 .vminF16 .vmaxF16 .vabsF16 .vnegF16

/-- R258, R264: the 32-bit integer vector words; inactive lanes keep their value and nothing is raised. R258, R265: the 16-bit integer
vector words work on the two halves of each active lane separately; saturation raises nothing. -/
def Obligations.VectorInteger : Prop :=
  (∀ o, Lanes2 (.vaddI32 o) o.v o.a o.b o.m (fun a b => ((a.toNat + b.toNat) % 2 ^ 32, 0))) ∧
  (∀ o, Lanes2 (.vsubI32 o) o.v o.a o.b o.m (fun a b => ((BitVec.ofInt 32 (a.toInt - b.toInt)).toNat, 0))) ∧
  (∀ o, Lanes2 (.vmulI32 o) o.v o.a o.b o.m (fun a b => (a.toNat * b.toNat % 2 ^ 32, 0))) ∧
  (∀ o, Lanes2 (.vmulhI32 o) o.v o.a o.b o.m (fun a b => ((BitVec.ofInt 32 (a.toInt * b.toInt / 2 ^ 32)).toNat, 0))) ∧
  (∀ o, Lanes2 (.vminI32 o) o.v o.a o.b o.m (fun a b => ((if a.toInt ≤ b.toInt then a else b).toNat, 0))) ∧
  (∀ o, Lanes2 (.vmaxI32 o) o.v o.a o.b o.m (fun a b => ((if a.toInt ≤ b.toInt then b else a).toNat, 0))) ∧
  (∀ o, Lanes2 (.vminuI32 o) o.v o.a o.b o.m (fun a b => (Nat.min a.toNat b.toNat, 0))) ∧
  (∀ o, Lanes2 (.vmaxuI32 o) o.v o.a o.b o.m (fun a b => (Nat.max a.toNat b.toNat, 0))) ∧
  (∀ o, Lanes2 (.vandI32 o) o.v o.a o.b o.m (fun a b => ((a &&& b).toNat, 0))) ∧
  (∀ o, Lanes2 (.vorI32 o) o.v o.a o.b o.m (fun a b => ((a ||| b).toNat, 0))) ∧
  (∀ o, Lanes2 (.vxorI32 o) o.v o.a o.b o.m (fun a b => ((a ^^^ b).toNat, 0))) ∧
  (∀ o, Lanes2 (.vandnI32 o) o.v o.a o.b o.m (fun a b => ((a &&& ~~~b).toNat, 0))) ∧
  (∀ o, Lanes2 (.vshlI32 o) o.v o.a o.b o.m (fun a b => (a.toNat * 2 ^ (b.toNat % 32) % 2 ^ 32, 0))) ∧
  (∀ o, Lanes2 (.vshrI32 o) o.v o.a o.b o.m (fun a b => (a.toNat / 2 ^ (b.toNat % 32), 0))) ∧
  (∀ o, Lanes2 (.vsarI32 o) o.v o.a o.b o.m (fun a b => ((BitVec.ofInt 32 (a.toInt / 2 ^ (b.toNat % 32))).toNat, 0))) ∧
  (∀ o, Halves (.vaddI16 o) o.v o.a o.b o.m (fun a b => a + b)) ∧
  (∀ o, Halves (.vsubI16 o) o.v o.a o.b o.m (fun a b => a - b)) ∧
  (∀ o, Halves (.vmulI16 o) o.v o.a o.b o.m (fun a b => a * b)) ∧
  (∀ o, Halves (.vaddsI16 o) o.v o.a o.b o.m (fun a b => sat (a.toInt + b.toInt))) ∧
  (∀ o, Halves (.vsubsI16 o) o.v o.a o.b o.m (fun a b => sat (a.toInt - b.toInt))) ∧
  (∀ o, Halves (.vminI16 o) o.v o.a o.b o.m (fun a b => if a.toInt ≤ b.toInt then a else b)) ∧
  (∀ o, Halves (.vmaxI16 o) o.v o.a o.b o.m (fun a b => if a.toInt ≤ b.toInt then b else a))

/-- R266: VCMP writes every bit of M d: one where the lane is active and the relation holds; NV as the condition says, from the active
lanes. R23, R268: the mask operations act on the bits of the isle's lanes; MPOP counts and MTOG gives them to D, MFROMG takes them from A.
-/
def Obligations.VectorMasks : Prop :=
  (∀ o,
      let rel (a b : BitVec 32) : Bool × Bool :=
        let fp (f : Fmt) : Bool × Bool :=
          let x := decodeF f (laneElem f a)
          let y := decodeF f (laneElem f b)
          let nan := x.isNan || y.isNan
          let sig := x.isSig || y.isSig
          match o.k with
          | .eq => (!nan && !ltF x y && !ltF y x, sig)
          | .lt => (ltF x y, nan)
          | .le => (!nan && !ltF y x, nan)
          | .ne => (nan || ltF x y || ltF y x, sig)
        let int (x y : Int) : Bool × Bool :=
          (match o.k with
            | .eq => decide (x = y)
            | .lt => decide (x < y)
            | .le => decide (x ≤ y)
            | .ne => decide (x ≠ y), false)
        match o.t with
        | .f32 => fp fF32
        | .i32 => int a.toInt b.toInt
        | .u32 => int a.toNat b.toNat
        | .bf16 => fp fBF16
      WritesMask (.vcmp o) o.md [o.a, o.b] [o.m, o.md]
        (fun _ _ i l => maskBit i o.m l && (rel (i.vGet o.a.toNat l) (i.vGet o.b.toNat l)).1)
        (fun s k i => if (activeLanes s k i o.m).any (fun l => (rel (i.vGet o.a.toNat l) (i.vGet o.b.toNat l)).2) then 16 else 0)) ∧
  (∀ o, WritesMask (.mand o) o.md [] [o.md, o.ma, o.mb] (fun _ _ i l => maskBit i o.ma l && maskBit i o.mb l) (fun _ _ _ => 0)) ∧
  (∀ o, WritesMask (.mor o) o.md [] [o.md, o.ma, o.mb] (fun _ _ i l => maskBit i o.ma l || maskBit i o.mb l) (fun _ _ _ => 0)) ∧
  (∀ o, WritesMask (.mxor o) o.md [] [o.md, o.ma, o.mb] (fun _ _ i l => maskBit i o.ma l ^^ maskBit i o.mb l) (fun _ _ _ => 0)) ∧
  (∀ o, WritesMask (.mandn o) o.md [] [o.md, o.ma, o.mb] (fun _ _ i l => maskBit i o.ma l && !maskBit i o.mb l) (fun _ _ _ => 0)) ∧
  (∀ o, WritesMask (.mnot o) o.md [] [o.md, o.ma] (fun _ _ i l => !maskBit i o.ma l) (fun _ _ _ => 0)) ∧
  (∀ o s k c i, Reached (.mpop o) s k c i → Sources i c [] [o.d] [] i → VFree i [] [o.ma] → pushRoom i i o.d = true →
    Completes (.mpop o) s k c (writeG c s.nextId o.d (BitVec.ofNat 64 (activeLanes s k i o.ma).length) i)) ∧
  (∀ o s k c i w, Reached (.mtog o) s k c i → Sources i c [] [o.d] [] i → VFree i [] [o.ma] → pushRoom i i o.d = true →
    (∀ l, w.getLsbD l = (decide (l < laneCount s k) && maskBit i o.ma l)) → Completes (.mtog o) s k c (writeG c s.nextId o.d w i)) ∧
  (∀ o s k c i x j, Reached (.mfromg o) s k c i → Sources i c [o.a] [] [x] j → VFree i [] [o.md] → ∃ w : Word,
    (∀ l, w.getLsbD l = (decide (l < laneCount s k) && x.getLsbD l)) ∧
    Completes (.mfromg o) s k c (j.later c (.m o.md.toNat) (w.setWidth 256)))

/-- R267, R275, R276: VSEL writes every lane, from VA where its mask bit is set and else from VB; VPERM writes the active lanes with the
lane of VA that VB names, zero beyond the lanes; VBCAST reads, or pops, its source once and writes it to the active lanes. -/
def Obligations.VectorMoves : Prop :=
  (∀ o s k c i, Reached (.vsel o) s k c i → VFree i [o.v, o.a, o.b] [o.m] →
    Completes (.vsel o) s k c (lanesTake c o.v (List.range (laneCount s k))
      (fun l => ((if maskBit i o.m l then i.vGet o.a.toNat l else i.vGet o.b.toNat l).toNat, 0)) i)) ∧
  (∀ o s k c i, Reached (.vperm o) s k c i → VFree i [o.v, o.a, o.b] [o.m] →
    Completes (.vperm o) s k c (lanesTake c o.v (activeLanes s k i o.m)
      (fun l => (if (i.vGet o.b.toNat l).toNat < laneCount s k then (i.vGet o.a.toNat (i.vGet o.b.toNat l).toNat).toNat else 0, 0)) i)) ∧
  (∀ o s k c i x j, Reached (.vbcast o) s k c i → Sources i c [o.a] [] [x] j → VFree i [o.v] [o.m] →
    Completes (.vbcast o) s k c (lanesTake c o.v (activeLanes s k i o.m) (fun _ => (x.toNat % 2 ^ 32, 0)) j))

/-- R194, R270, R272, R273: the conversions and transcendental functions of the active lanes, with the low 16 bits of a lane where the source is
BF16 or FP16. R271, R272: VL6PACK writes every lane of VD with the packed codes of VA, the zero code for an inactive lane; VL6UNPK writes
the active lanes with the values of the codes packed in VA. Byte n of a register is byte n mod 4 of lane n / 4 (R260). R203, R274: VRED
combines the lanes of VA, inactive ones as the identity, by the tree over the isle's lanes, and writes the result to D, sign-extended for
the integer sum, maximum and minimum. -/
def Obligations.VectorConversions : Prop :=
  (∀ o, Lanes1 (.vcvtF32I32 o) o.v o.a o.m (fun x => i32ToF32 (o.x.getD .rne) x.toNat)) ∧
  (∀ o, Lanes1 (.vcvtI32F32 o) o.v o.a o.m (fun x => f32ToI32 (o.x.getD .rne) x.toNat)) ∧
  (∀ o, Lanes1 (.vcvtF32Bf16 o) o.v o.a o.m (fun x => convF fBF16 fF32 (o.x.getD .rne) (laneElem fBF16 x))) ∧
  (∀ o, Lanes1 (.vcvtBf16F32 o) o.v o.a o.m (fun x => convF fF32 fBF16 (o.x.getD .rne) x.toNat)) ∧
  (∀ o, Lanes1 (.vcvtF32F16 o) o.v o.a o.m (fun x => convF fF16 fF32 (o.x.getD .rne) (laneElem fF16 x))) ∧
  (∀ o, Lanes1 (.vcvtF16F32 o) o.v o.a o.m (fun x => convF fF32 fF16 (o.x.getD .rne) x.toNat)) ∧
  (∀ o, Lanes1 (.vexp2 o) o.v o.a o.m (fun x => vexp2F x.toNat)) ∧
  (∀ o, Lanes1 (.vlog2 o) o.v o.a o.m (fun x => vlog2F x.toNat)) ∧
  (∀ o, Lanes1 (.vrcp o) o.v o.a o.m (fun x => vrcpF x.toNat)) ∧
  (∀ o, Lanes1 (.vrsq o) o.v o.a o.m (fun x => vrsqF x.toNat)) ∧
  (∀ o s k c i, Reached (.vl6pack o) s k c i → VFree i [o.v, o.a] [o.m] →
    let code (l : Nat) : Nat := if maskBit i o.m l then l6Encode (decodeF fF32 (i.vGet o.a.toNat l).toNat) else 0
    let group (g : Nat) : Nat := code (4 * g) + code (4 * g + 1) * 2 ^ 6 + code (4 * g + 2) * 2 ^ 12 + code (4 * g + 3) * 2 ^ 18
    let byte (n : Nat) : Nat := if n < 3 * laneCount s k / 4 then group (n / 3) / 2 ^ (8 * (n % 3)) % 256 else 0
    Completes (.vl6pack o) s k c (lanesTake c o.v (List.range (laneCount s k))
      (fun l => (byte (4 * l) + byte (4 * l + 1) * 2 ^ 8 + byte (4 * l + 2) * 2 ^ 16 + byte (4 * l + 3) * 2 ^ 24, 0)) i)) ∧
  (∀ o, WritesLanes (.vl6unpk o) o.v [o.a] o.m (fun i l =>
    let byte (n : Nat) : Nat := (i.vGet o.a.toNat (n / 4)).toNat / 2 ^ (8 * (n % 4)) % 256
    let group (g : Nat) : Nat := byte (3 * g) + byte (3 * g + 1) * 2 ^ 8 + byte (3 * g + 2) * 2 ^ 16
    ((roundVal fF32 .rne (l6Val (group (l / 4) / 2 ^ (6 * (l % 4)) % 64))).1, 0))) ∧
  (∀ o s k c i r fl, Reached (.vred o) s k c i → Sources i c [] [o.d] [] i → VFree i [o.a] [o.m] → pushRoom i i o.d = true →
      let ident : Nat := match o.f with
        | .sumF32 => 0x80000000
        | .maxF32 => 0x7FC00000
        | .minF32 => 0x7FC00000
        | .maxI32 => 0x80000000
        | .minI32 => 0x7FFFFFFF
        | .and => 0xFFFFFFFF
        | .sumI32 => 0
        | .or => 0
        | .xor => 0
      let leaves := (List.range (laneCount s k)).map (fun l => (if maskBit i o.m l then (i.vGet o.a.toNat l).toNat else ident, (0 : BitVec 5)))
      treeReduce (vredCombine o.f (o.x.getD .rne)) (if s.vwmap.getLsbD k then 6 else 5) leaves = [(r, fl)] →
      Completes (.vred o) s k c (orFlags c fl (writeG c s.nextId o.d
        (if o.f = .sumI32 ∨ o.f = .maxI32 ∨ o.f = .minI32 then BitVec.ofInt 64 (sextInt 32 r) else BitVec.ofNat 64 r) i)))

/-- R277 to R283: the vector loads and stores issue one access with an element of 4 bytes for each active lane, at base + 4l, base + l × s
or base + sext(lane l of VX); a load takes the lanes whose bit of M k is clear (all for M0) and lands in VD, a store those whose bit is
set, with their lanes of VS; elements in a message window of the isle are placed there; with no active lane nothing is accessed. -/
def Obligations.VectorAccesses : Prop :=
  let loads (ins : Instr) (v a : BitVec 5) (land : BitVec 6) (m : BitVec 3) (gs vs : List (BitVec 5)) (ad : Inst → List Word → Nat → Word) : Prop :=
    ∀ s k c i l vals j els, Reached ins s k c i → s.launch i.launch = some l → Sources i c (a :: gs) [] vals j → VFree i (v :: vs) [m] →
      checkAll s k i l (.load (decide (m ≠ 0))) 4
        (((List.range (laneCount s k)).filter (fun n => m = 0 || !maskBit i m n)).map (fun n => (n, ad i vals n))) = .ok els →
      (l.spec = true → ∀ x ∈ els, stopsAt (.load (decide (m ≠ 0))) x = false) → MayIssue s i c l (els.map (fun x => x.tgt)) →
      (els = [] → Completes ins s k c j) ∧
      (els ≠ [] → j.landingUsed < 48 → Issues ins s k c i .load false
        (els.map (fun x => ⟨x.lane, x.va, x.tgt, 4, x.ord, x.apl, none, 0, 0, decide (x.st = .nonres), 0, x.st⟩))
        (some ⟨.v v.toNat, m.toNat, land.toNat, 2⟩) j)
  let stores (ins : Instr) (v a : BitVec 5) (m : BitVec 3) (gs vs : List (BitVec 5)) (ad : Inst → List Word → Nat → Word) : Prop :=
    ∀ s k c i l vals j els, Reached ins s k c i → s.launch i.launch = some l → Sources i c (a :: gs) [] vals j → VFree i (v :: vs) [m] →
      checkAll s k i l .store 4 ((activeLanes s k i m).map (fun n => (n, ad i vals n))) = .ok els →
      (l.spec = true → ∀ x ∈ els, stopsAt .store x = false) → (∀ x ∈ els, padRefilling i x 4 = false) →
      MayIssue s i c l (els.map (fun x => x.tgt)) →
      let stored (es : List Elem) : List Part :=
        es.map (fun x => ⟨x.lane, x.va, x.tgt, 4, x.ord, x.apl, none, (i.vGet v.toNat x.lane).toNat, 0, decide (x.st = .nonres), 0, x.st⟩)
      let next (t : State) : State := t.updInst k (fun i => i.updCtx c (fun x => x.advance (Machine.sizeOf ins)))
      let win := els.filter (fun x => x.inWindow)
      let rest := els.filter (fun x => !x.inWindow)
      let placed := placeElems ⟨s, k, c, i⟩ (fun n => (i.vGet v.toNat n).toNat) win (s.setInst k j)
      (els = [] → Completes ins s k c j) ∧
      (win = [] → els ≠ [] → Issues ins s k c i .store false (stored els) none j) ∧
      (win ≠ [] → rest = [] → exec ins s = .next (next placed)) ∧
      (∀ j', win ≠ [] → rest ≠ [] → placed.inst k = some j' →
        exec ins s = .next (next (issueAccess ⟨s, k, c, i⟩ .store false (stored rest) none j' placed)))
  let unit (off : Option (BitVec 32)) (_ : Inst) (vals : List Word) (n : Nat) : Word := vals.getD 0 0 + offOf off + BitVec.ofNat 64 (4 * n)
  let strided (off : BitVec 27) (_ : Inst) (vals : List Word) (n : Nat) : Word :=
    vals.getD 0 0 + off.signExtend 64 + BitVec.ofNat 64 n * vals.getD 1 0
  let indexed (x : BitVec 5) (off : BitVec 27) (i : Inst) (vals : List Word) (n : Nat) : Word :=
    vals.getD 0 0 + off.signExtend 64 + (i.vGet x.toNat n).signExtend 64
  (∀ o, loads (.vld o) o.v o.a o.land o.m [] [] (unit o.off)) ∧
  (∀ o, loads (.vlds o) o.v o.a o.land o.m [o.x] [] (strided o.off)) ∧
  (∀ o, loads (.vldx o) o.v o.a o.land o.m [] [o.x] (indexed o.x o.off)) ∧
  (∀ o, stores (.vst o) o.v o.a o.m [] [] (unit o.off)) ∧
  (∀ o, stores (.vsts o) o.v o.a o.m [o.x] [] (strided o.off)) ∧
  (∀ o, stores (.vstx o) o.v o.a o.m [] [o.x] (indexed o.x o.off))

/-- R325, R326: TLD issues the read of 32 bytes into T n, TST the write of T n; TMOD changes one field of T n, from the next vc, by the
value or to it, and leaves the other bits. -/
def Obligations.DescriptorWords : Prop :=
  (∀ o s k c i l x j el, Reached (.tld o) s k c i → s.launch i.launch = some l → tOver i o.t = false → i.tBusy o.t.toNat = false →
    Sources i c [o.gx] [] [x] j → checkElem s k i l (.load false) 32 0 (x + o.off.signExtend 64) = .ok el →
    (l.spec = true → stopsAt (.load false) el = false) → MayIssue s i c l [el.tgt] →
    Issues (.tld o) s k c i .tld false [⟨0, x + o.off.signExtend 64, el.tgt, 32, el.ord, el.apl, none, 0, 0, decide (el.st = .nonres), 0, el.st⟩]
      (some ⟨.t o.t.toNat, 0, 0, 4⟩) j) ∧
  (∀ o s k c i l x j el, Reached (.tst o) s k c i → s.launch i.launch = some l → tOver i o.t = false → i.tBusy o.t.toNat = false →
    Sources i c [o.gx] [] [x] j → checkElem s k i l .store 32 0 (x + o.off.signExtend 64) = .ok el →
    (l.spec = true → stopsAt .store el = false) → padRefilling i el 32 = false → MayIssue s i c l [el.tgt] →
    ((∀ a w off, el.tgt ≠ .msgwin a w off) →
      Issues (.tst o) s k c i .store false
        [⟨0, x + o.off.signExtend 64, el.tgt, 32, el.ord, el.apl, none, (i.tGet o.t.toNat).toNat, 0, decide (el.st = .nonres), 0, el.st⟩] none j) ∧
    (∀ a w off, el.tgt = .msgwin a w off → exec (.tst o) s = .next
      ((windowStore ⟨s, k, c, i⟩ w off 32 (i.tGet o.t.toNat).toNat (x + o.off.signExtend 64) j).updInst k
        (fun i => i.updCtx c (fun y => y.advance (Machine.sizeOf (.tst o))))))) ∧
  (∀ o s k c i x j, Reached (.tmod o) s k c i → tOver i o.t = false → i.tBusy o.t.toNat = false → Sources i c [o.gx] [] [x] j →
    let place : Nat × Nat := match o.f with
      | .base => (0, 48)
      | .sb => (48, 6)
      | .flags => (54, 2)
      | .ndim => (56, 2)
      | .space => (58, 2)
      | .fmt => (60, 4)
      | .size0 => (64, 16)
      | .size1 => (80, 16)
      | .size2 => (96, 16)
      | .size3 => (112, 16)
      | .stride1 => (128, 32)
      | .stride2 => (160, 32)
      | .stride3 => (192, 32)
      | .gsoff => (224, 32)
    let old := i.tGet o.t.toNat
    ∃ new : BitVec 256, Completes (.tmod o) s k c (j.later c (.t o.t.toNat) new) ∧
      (∀ n, (n < place.1 ∨ place.1 + place.2 ≤ n) → new.getLsbD n = old.getLsbD n) ∧
      new.toNat / 2 ^ place.1 % 2 ^ place.2 = ((if o.add then old.toNat / 2 ^ place.1 % 2 ^ place.2 else 0) + x.toNat) % 2 ^ place.2)

/-- R327, R335 to R342: the matrix, copy and attention words queue a command with their descriptors as they stand, their G value and the
scratchpad footprints of what they read and write. -/
def Obligations.EngineCommands : Prop :=
  (∀ o, EngineWord (.mxm o) true .mx [o.ta, o.tb] [] (fun ds => ruleHolds (mxmOps o ds))) ∧
  (∀ o, EngineWord (.mxmRb o) true .mx [o.ta, o.tb] [] (fun ds => ruleHolds (mxmOps o ds))) ∧
  (∀ o, EngineWord (.mxz o) true .mx [] [] (fun _ => (true, []))) ∧
  (∀ o, EngineWord (.mxd o) true .mx [o.ta] [] (fun ds =>
    (copySpaces (dAt ds 0) && decide ((dAt ds 0).ndim ≤ 1) && decide ((dAt ds 0).dim 0 ≤ 128) &&
      decide ((dAt ds 0).dim 1 ≤ 128), [.write o.ta (dAt ds 0) false]))) ∧
  (∀ o, EngineWord (.cpy o) false .cp [o.td, o.ts] [] (fun ds =>
    ((dAt ds 0).fmt = (dAt ds 1).fmt && sameDims (dAt ds 0) (dAt ds 1) && copySpaces (dAt ds 0),
      [.read o.ts (dAt ds 1) false, .write o.td (dAt ds 0) false]))) ∧
  (∀ o, EngineWord (.cpyT8 o) false .cp [o.td, o.ts] [] (fun ds => ruleHolds (transOps o [fmtINT8] ds))) ∧
  (∀ o, EngineWord (.cpyT16 o) false .cp [o.td, o.ts] [] (fun ds => ruleHolds (transOps o [fmtBF16, fmtFP16] ds))) ∧
  (∀ o, EngineWord (.gather o) false .cp [o.td, o.ts, o.ti] [] (fun ds => ruleHolds (indexRule (dAt ds 0) (dAt ds 1) (dAt ds 2) 0,
    [.read o.ts (dAt ds 1) false, .read o.ti (dAt ds 2) false, .write o.td (dAt ds 0) false]))) ∧
  (∀ o, EngineWord (.scatter o) false .cp [o.td, o.ts, o.ti] [] (fun ds => ruleHolds (indexRule (dAt ds 0) (dAt ds 1) (dAt ds 2) 1,
    [.read o.ts (dAt ds 1) false, .read o.ti (dAt ds 2) false, .write o.td (dAt ds 0) false]))) ∧
  (∀ o, EngineWord (.scadd o) false .cp [o.td, o.ts, o.ti] [] (fun ds => ruleHolds
    (([0], [fmtINT32, fmtFP32, fmtBF16, fmtFP16].contains (dAt ds 0).fmt) :: indexRule (dAt ds 0) (dAt ds 1) (dAt ds 2) 1,
    [.read o.ts (dAt ds 1) false, .read o.ti (dAt ds 2) false, ⟨o.td, dAt ds 0, false, true, true, true⟩]))) ∧
  (∀ o, EngineWord (.wload o) true .cp [o.td, o.ts] [] (fun ds =>
    ((dAt ds 0).space = spWSTORE && (dAt ds 0).csl && copySpaces (dAt ds 1) && decide ((dAt ds 1).ndim ≤ 1) &&
      (dAt ds 0).fmt = (dAt ds 1).fmt && sameDims (dAt ds 0) (dAt ds 1) && (dAt ds 0).gsp = (dAt ds 1).gsp,
      [.read o.ts (dAt ds 1) (dAt ds 1).gsp, .write o.td (dAt ds 0) (dAt ds 0).gsp]))) ∧
  (∀ o, EngineWord (.att o) true .at [o.tq, o.tk, o.tv] [o.gx] (fun ds => ruleHolds
    (([], o.acco ≠ o.accs) :: attRule (dAt ds 0) (dAt ds 1) (dAt ds 2),
      [.read o.tq (dAt ds 0) false, .read o.tk (dAt ds 1) false, .read o.tv (dAt ds 2) false])))

/-- R349, R350, R352 to R355, R357 to R360, R363: the circuit, collective and tide words queue a command with the values of GX and GY, the
descriptors, ROTA's block and the scratchpad bytes they read and write. -/
def Obligations.FabricCommands : Prop :=
  (∀ o, FabricWord (.copen o) false .ci [] [o.gx, o.gy] [o.h] (fun e l _ v =>
    { illegal := coLen (src v 1) = 0 || decide (2 ^ 22 < coLen (src v 1)) || decide (2 ^ 22 < coRbase (src v 0) + coLen (src v 1))
      beyondPad := padOver e.i (coLbase (src v 1) + coLen (src v 1) - 1)
      peer := peerBad e.s l (coPeer (src v 0)) })) ∧
  (∀ o, FabricWord (.chold o) false .ci [] [o.gx] [o.h] (fun _ _ _ _ => {})) ∧
  (∀ o, FabricWord (.csend o) false .ci [] [o.gx] [o.h] (fun e _ _ _ => { reads := handleRange e.i o.h })) ∧
  (∀ o, FabricWord (.csendResume o) false .ci [] [o.gx] [o.h] (fun e _ _ _ => { reads := handleRange e.i o.h })) ∧
  (∀ o, FabricWord (.cshut o) false .ci [] [] [o.h] (fun _ _ _ _ => {})) ∧
  (∀ o, FabricWord (.cstat o) false .ci [] [o.gx] [o.h] (fun e _ _ v =>
    { beyondPad := padOver e.i ((src v 0).toNat % 2 ^ 22 + 31), unaligned := (src v 0).toNat % 32 != 0
      writes := [((src v 0).toNat % 2 ^ 22, (src v 0).toNat % 2 ^ 22 + 31)] })) ∧
  (∀ o, FabricWord (.tree o) false .cl [] [o.gx, o.gy] [] (fun e _ _ v =>
    { beyondPad := padOver e.i ((src v 1).toNat % 2 ^ 22 + 31), unaligned := (src v 1).toNat % 32 != 0
      reads := [((src v 1).toNat % 2 ^ 22, (src v 1).toNat % 2 ^ 22 + 31)] })) ∧
  (∀ o, FabricWord (.ard o) false .cl [o.td, o.ts] [o.gx, o.gy] [] (fun e _ ds v =>
    judgeColl true false (fun _ d t => d = t) e ⟨ds.map some, v.map some⟩)) ∧
  (∀ o, FabricWord (.agt o) false .cl [o.td, o.ts] [o.gx, o.gy] [] (fun e _ ds v =>
    judgeColl false false (fun n d t => d = n * t) e ⟨ds.map some, v.map some⟩)) ∧
  (∀ o, FabricWord (.rsc o) false .cl [o.td, o.ts] [o.gx, o.gy] [] (fun e _ ds v =>
    judgeColl true false (fun n d t => t = n * d) e ⟨ds.map some, v.map some⟩)) ∧
  (∀ o, FabricWord (.bct o) false .cl [o.td, o.ts] [o.gx, o.gy] [] (fun e _ ds v =>
    judgeColl false true (fun _ d t => d = t) e ⟨ds.map some, v.map some⟩)) ∧
  (∀ o s k c i l x j, Reached (.rota o) s k c i → Plain s i l → (o.att = true → s.mxmap.getLsbD k = true) → tOver i o.ts = false →
    i.tBusy o.ts.toNat = false → Sources i c [o.gx] [] [x] j → RoomFor i .cl →
    let b := x.toNat % 2 ^ 22
    padWritesPending s i b (b + 127) = false →
    let q := judgeRota o ⟨s, k, c, i⟩ l ⟨[some (descOf (i.tGet o.ts.toNat))], [some x]⟩
    q.trap = none →
    Queues (.rota o) s k c i [i.tGet o.ts.toNat] x 0 (spadBytesAt i b 128) q.reads q.writes j) ∧
  (∀ o s k c i l x j, Reached (.tide o) s k c i → Plain s i l → Sources i c [o.gx] [] [x] j →
    (l.eff.tideright = false → Traps (.tide o) s k c i 0x02 2 0) ∧
    (l.eff.tideright = true → RoomFor i .td → Queues (.tide o) s k c i [] x 0 [] [] [] j))

/-- Decoding takes the bytes of an encoded instruction for that instruction and leaves the bytes behind it, for every well-formed
instruction that has words, with every value of every operand. The encoder is the model's own, from the encoding tables of the spec. -/
def Obligations.RoundTrip : Prop :=
  ∀ i, i.wellFormed = true → (encodeWord i).isSome = true → ∀ rest, decode (encodeBytes i ++ rest) = .ok (i, rest)

/-- R36, R205, R210, R211, R219: a word that decodes gives a well-formed instruction that can be encoded, with the tag of the word, the
slot class of its major opcode and the words that XW says; a word whose OP is unassigned, or whose XW stands against its major, is
refused. -/
def Obligations.DecodedWords : Prop :=
  (∀ w lit i, decodeWord w lit = .ok i → i.wellFormed = true ∧ (encodeWord i).isSome = true ∧ tagOfInstr i = some (tagOf w) ∧
    Machine.sizeOf i = wordsOf w ∧
    (let op := w / 2 ^ 22 % 128
     (op ≤ 0x19 → slotOf i = some .scalar) ∧
     (op ∈ [0x20, 0x21, 0x22, 0x29, 0x2B, 0x50, 0x51, 0x52] → slotOf i = some .memoryRead) ∧
     (op ∈ [0x23, 0x24, 0x25, 0x26, 0x27, 0x28, 0x2A, 0x53, 0x54, 0x55] → slotOf i = some .memoryWrite) ∧
     (op = 0x30 → slotOf i = some .sync) ∧ (op = 0x31 → slotOf i = some .message) ∧
     (0x40 ≤ op → op ≤ 0x4B → slotOf i = some .vector) ∧ (0x60 ≤ op → slotOf i = some .engineCommand))) ∧
  (∀ w lit i, decodeWord w lit = .ok i →
    let op := w / 2 ^ 22 % 128
    op ≤ 0x19 ∨ (0x20 ≤ op ∧ op ≤ 0x2B) ∨ op = 0x30 ∨ op = 0x31 ∨ (0x40 ≤ op ∧ op ≤ 0x4B) ∨ (0x50 ≤ op ∧ op ≤ 0x55) ∨
      (0x60 ≤ op ∧ op ≤ 0x63) ∨ (0x70 ≤ op ∧ op ≤ 0x73)) ∧
  (∀ w lit i, decodeWord w lit = .ok i → w.testBit 29 = true →
    w / 2 ^ 22 % 128 ∉ [0x00, 0x01, 0x02, 0x03, 0x04, 0x12, 0x13, 0x17, 0x18, 0x19, 0x30, 0x31, 0x43, 0x44, 0x45, 0x46, 0x47, 0x4B]) ∧
  (∀ w lit i, decodeWord w lit = .ok i → w.testBit 29 = false →
    w / 2 ^ 22 % 128 ∉ [0x51, 0x52, 0x54, 0x55, 0x60, 0x61, 0x62, 0x63, 0x70, 0x71, 0x72, 0x73])

/-- R205, R207, R212 to R219, R284, R315, R324: words written out field by field from the spec's tables, CT, XW, OP and the body of
the format, and what they decode to. -/
def Obligations.WordsDecode : Prop :=
  (∀ lit, decodeWord 0b00_0_0000000_00000_00000_00000_0000000 lit = .ok (.add { ct := .A, d := 0, a := 0, b := 0 })) ∧
  (∀ lit, decodeWord 0b01_0_0000000_00011_11000_00101_0000001 lit = .ok (.sub { ct := .L, d := 3, a := 24, b := 5 })) ∧
  (∀ lit, decodeWord 0b10_0_0000101_00001_00010_111111111111 lit =
    .ok (.addImm { ct := .C, d := 1, a := 2, i := .short (-1) })) ∧
  (decodeWord 0b10_1_0000101_00001_00010_000000000000 0x80000000 =
    .ok (.addImm { ct := .C, d := 1, a := 2, i := .long 0x80000000 })) ∧
  (∀ lit, decodeWord 0b01_0_0100000_00111_01000_000100_11_0010 lit =
    .ok (.ld { ct := .L, sz := .d, d := 7, a := 8, land := 4, m := 2, off := none })) ∧
  (decodeWord 0b11_1_0100011_00111_01000_000000_10_0000 0xFFFFFFFC =
    .ok (.st { ct := .S, sz := .w, s := 7, a := 8, off := some 0xFFFFFFFC })) ∧
  (∀ lit, decodeWord 0b00_0_0011001_00000_000000000000_00011 lit = .ok (.exit { ct := .A })) ∧
  (∀ lit, decodeWord 0b10_0_1000000_00001_00010_00011_000_0000 lit =
    .ok (.vaddF32 { ct := .C, v := 1, a := 2, b := 3, m := 0, x := none })) ∧
  (decodeWord 0b10_1_1100001_000001_000010_000011_0000 0 = .ok (.mxm { ct := .C, acc := 3, ta := 1, tb := 2 })) ∧
  (∀ lit, decodeWord 0b00_0_1111111_00000_00000_00000_0000000 lit = .error .unassignedOp)

/-- R35, R206: at its turn a context that stands at a word of its own, in its text, executes the instruction that the word, with its
extension word where XW is set, decodes to; then the turn passes on in the order L, C, S. An input that is due happens by its own meaning
between virtual cycles. -/
def Obligations.StepRuns : Prop :=
  (∀ s k c i l w lit ins, ToIssue s k c i l → TextAt s k l (i.ctx c).pc w → tagFor (tagOf w) c = true →
    slipOk i c (wordsOf w) = true → (w.testBit 29 = true → TextAt s k l ((i.ctx c).pc + 4) lit) → decodeWord w lit = .ok ins →
    step s = thenTurn (fun _ => match c with
      | .L => .issue k .C
      | .C => .issue k .S
      | .S => .edge k) (exec ins s)) ∧
  (∀ s t e rest, s.turn = .clock → (∀ p ∈ s.launches, p.2.trapped = false) → s.agenda = (t, e) :: rest → t ≤ s.time →
    step s = exec e { s with agenda := rest })

/-- R36, R37, R44, R219: in its turn a context first passes over words of other contexts, at most eight with their extension words, and
then executes its own word; where more of them follow it issues nothing; a word that does not decode, or one that shows no other ILLEGAL
by itself and does not decode with its extension word, takes ILLEGAL with DETAIL 1, at its own PC; a context that the slip window holds back does not reach the word. -/
def Obligations.PassingOver : Prop :=
  (∀ s k c i l ws w lit ins, ToIssue s k c i l → MayPass s k c i l 0 ws → wordsIn ws ≤ 8 →
    let n := wordsIn ws
    let pc := (i.ctx c).pc + BitVec.ofNat 64 (4 * n)
    TextAt s k l pc w → tagFor (tagOf w) c = true → slipOk (i.updCtx c (fun x => x.advance n)) c (wordsOf w) = true →
    (w.testBit 29 = true → TextAt s k l (pc + 4) lit) →
    (decodeWord w lit = .ok ins → step s = thenTurn (fun _ => afterIssue k c) (exec ins (passed s k c n))) ∧
    (∀ er, decodeWord w 0 = .error er ∨ (decodeWord w lit = .error er ∧ w.testBit 29 = true ∧
        ∀ ins', decodeWord w 0 = .ok ins' → headIllegal s k c (i.ctx c) ins' = none) →
      step s = .next { takeTrap k (ctxCode c) 0x01 1 pc 0 (passed s k c n) with turn := afterIssue k c })) ∧
  (∀ s k c i l ws w, ToIssue s k c i l → MayPass s k c i l 0 (ws ++ [w]) → wordsIn ws ≤ 8 → 8 < wordsIn ws + wordsOf w →
    step s = .next { passed s k c (wordsIn ws) with turn := afterIssue k c }) ∧
  (∀ s k c i l, ToIssue s k c i l → slipOk i c 1 = false →
    step s = .next { s.updInst k (fun i => i.updCtx c (fun x => x.blocked (.slip 1) i.vcyc)) with turn := afterIssue k c })

/-- Every step answers a next state, from every state whose agenda holds events alone, and keeps the agenda so: nothing faults and
nothing is refused. -/
def Obligations.StepAnswers : Prop :=
  ∀ s, EventsOnly s → ∃ t, step s = .next t ∧ EventsOnly t

/-- Every step keeps the canonical form of memory. -/
def Obligations.StepKeepsMemoryForm : Prop :=
  ∀ s t, MemWf s.mem → step s = .next t → MemWf t.mem
/-- R46, R47, R49, R226: what reading G fields gives, field by field: G0 gives zero, G1 to G23 the register of the context, 24 to 31 the head of
a queue register, which is popped; an empty queue makes the word queue-blocked on it, a reserved head makes it wait on the interlock, and
where a later field waits, the whole word waits. R245, R246: QPEEK writes the head of its queue and does not pop it, waits on the queue
where it is empty and on an interlock where the head is reserved; QCNT writes the count of entries, with bit 3 set where the head holds
data, and never waits. -/
def Obligations.SourceReads : Prop :=
  (∀ c i, readG c i [] = .ok [] i) ∧
  (∀ c i f fs, f.toNat < 24 →
    (∀ b, readG c i fs = .wait b → readG c i (f :: fs) = .wait b) ∧
    (∀ vs j, readG c i fs = .ok vs j →
      readG c i (f :: fs) = .ok ((if f = 0 then 0 else Sparse.get 0 (i.ctx c).g f.toNat) :: vs) j)) ∧
  (∀ c i f fs, 24 ≤ f.toNat →
    let n := f.toNat - 24
    let q := i.fifo n
    (q.ents = [] → readG c i (f :: fs) = .wait (.queue n)) ∧
    (∀ h rest, q.ents = h :: rest →
      (h.data = none → readG c i (f :: fs) = .wait .interlock) ∧
      (∀ x, h.data = some x →
        let j := (i.setFifo n { q with ents := rest, popped := q.popped + 1 }).updCtx c (fun y =>
          { y with after := joinAfter y.after (boundOf h.by_ h.bound) })
        (∀ b, readG c j fs = .wait b → readG c i (f :: fs) = .wait b) ∧
        (∀ vs k, readG c j fs = .ok vs k → readG c i (f :: fs) = .ok (x :: vs) k)))) ∧
  (∀ o s k c i, Reached (.qpeek o) s k c i → Sources i c [] [o.d] [] i →
    ((i.fifo o.q.toNat).ents = [] → Waits (.qpeek o) s k c i (.queue o.q.toNat)) ∧
    (∀ h rest, (i.fifo o.q.toNat).ents = h :: rest →
      (h.data = none → Waits (.qpeek o) s k c i .interlock) ∧
      (∀ x, h.data = some x → pushRoom i i o.d = true → Completes (.qpeek o) s k c (writeG c s.nextId o.d x i)))) ∧
  (∀ o s k c i, Reached (.qcnt o) s k c i → Sources i c [] [o.d] [] i → pushRoom i i o.d = true →
    Completes (.qcnt o) s k c (writeG c s.nextId o.d (BitVec.ofNat 64 ((i.fifo o.q.toNat).ents.length +
      (match (i.fifo o.q.toNat).ents with
        | h :: _ => if h.data.isSome then 8 else 0
        | [] => 0))) i))

/-- R24, R47, R53, R63: when words do not issue. For the register forms of three G fields, every vector word of three V fields, TMOD, the
barrier words, CSHUT and the matrix words: a field beyond its declared count takes OVERREACH with the DETAIL of its kind; a register that a
landing holds makes the word wait; a source that cannot be popped, and a full destination queue, queue-block it; a matrix, weight or
attention command on an isle without a matrix engine takes ILLEGAL with DETAIL 3. R39, R64: a word whose slot class its context does not
own, or an A-tagged word that is neither scalar nor sync, takes ILLEGAL with DETAIL 2, whatever its operands. -/
def Obligations.WordsThatDoNotIssue : Prop :=
  (∀ (o : RRR) s k c i, ∀ mk ∈ [Instr.add, .sub, .mul, .mulh, .mulhu, .div, .divu, .rem, .remu, .and, .or, .xor, .andn, .shl, .shr, .sar, .rol,
      .min, .max, .minu, .maxu, .slt, .sltu, .seq, .fmin, .fmax],
    Reached (mk o) s k c i →
    ((∃ f ∈ [o.a, o.b, o.d], i.counts.gregs ≤ f.toNat ∧ f.toNat ≤ 23) → Traps (mk o) s k c i 0x03 1 0) ∧
    ((∀ f ∈ [o.a, o.b, o.d], ¬ (i.counts.gregs ≤ f.toNat ∧ f.toNat ≤ 23)) →
      ((∃ f ∈ [o.a, o.b, o.d], f.toNat < 24 ∧ i.gBusy c f.toNat = true) → Waits (mk o) s k c i .interlock) ∧
      ((∀ f ∈ [o.a, o.b, o.d], f.toNat < 24 → i.gBusy c f.toNat = false) →
        (∀ b, readG c i [o.a, o.b] = .wait b → Waits (mk o) s k c i b) ∧
        (∀ vals j, readG c i [o.a, o.b] = .ok vals j → pushRoom i j o.d = false → Waits (mk o) s k c i (.queue (o.d.toNat - 24)))))) ∧
  (∀ (o : VfOp) s k c i, ∀ mk ∈ [Instr.vaddF32, .vsubF32, .vmulF32, .vfmaF32, .vminF32, .vmaxF32, .vaddBf16, .vsubBf16, .vmulBf16, .vfmaBf16,
      .vminBf16, .vmaxBf16, .vaddF16, .vsubF16, .vmulF16, .vfmaF16, .vminF16, .vmaxF16],
    Reached (mk o) s k c i →
    ((∃ f ∈ [o.v, o.a, o.b], i.counts.vregs ≤ f.toNat) → Traps (mk o) s k c i 0x03 2 0) ∧
    ((∀ f ∈ [o.v, o.a, o.b], f.toNat < i.counts.vregs) →
      ((∃ f ∈ [o.v, o.a, o.b], i.vBusy f.toNat = true) ∨ i.mBusy o.m.toNat = true) → Waits (mk o) s k c i .interlock)) ∧
  (∀ o s k c i, Reached (.tmod o) s k c i → gOver i o.gx = false →
    (i.counts.tensors ≤ o.t.toNat → Traps (.tmod o) s k c i 0x03 5 0) ∧
    (o.t.toNat < i.counts.tensors → i.tBusy o.t.toNat = true → Waits (.tmod o) s k c i .interlock)) ∧
  (∀ o s k c i, i.counts.bars ≤ o.b.toNat →
    (Reached (.barArr o) s k c i → Traps (.barArr o) s k c i 0x03 4 0) ∧
    (Reached (.barWait o) s k c i → Traps (.barWait o) s k c i 0x03 4 0) ∧
    (Reached (.step o) s k c i → Traps (.step o) s k c i 0x03 4 0)) ∧
  (∀ o s k c i l, Reached (.cshut o) s k c i → Plain s i l → i.counts.circuits ≤ o.h.toNat → Traps (.cshut o) s k c i 0x03 6 0) ∧
  (∀ s k c i, s.mxmap.getLsbD k = false →
    (∀ o, ∀ mk ∈ [Instr.mxm, .mxmRb], Reached (mk o) s k c i → Traps (mk o) s k c i 0x01 3 0) ∧
    (∀ o, Reached (.mxz o) s k c i → Traps (.mxz o) s k c i 0x01 3 0) ∧
    (∀ o, Reached (.mxd o) s k c i → Traps (.mxd o) s k c i 0x01 3 0) ∧
    (∀ o, Reached (.wload o) s k c i → Traps (.wload o) s k c i 0x01 3 0) ∧
    (∀ o, Reached (.att o) s k c i → Traps (.att o) s k c i 0x01 3 0) ∧
    (∀ o, o.att = true → Reached (.rota o) s k c i → Traps (.rota o) s k c i 0x01 3 0)) ∧
  (∀ ins s k c i t sl, s.turn = .issue k c → s.inst k = some i → i.acts c = true → ins.wellFormed = true → tagOfInstr ins = some t →
      slotOf ins = some sl → tagFor t c = true →
      let owned : Bool := match sl with
        | .scalar => true
        | .sync => true
        | .memoryRead => decide (c = .L)
        | .memoryWrite => decide (c = .S)
        | .message => decide (c = .S)
        | .vector => decide (c = .C)
        | .engineCommand => decide (c = .C)
      ((t = .A ∧ sl ≠ .scalar ∧ sl ≠ .sync) ∨ (t ≠ .A ∧ owned = false)) →
      exec ins s = .next (takeTrap k (ctxCode c) 0x01 2 (i.ctx c).pc 0 s))

/-- R49, R52, R226: a result for G0 is discarded, one for a queue register joins the pushes of this vc, one for another register joins the
results of this vc. At the start of the next vc of an isle without landing requests these apply, those of L, then of C, then of S, each
in issue order; each sets the one register it names. -/
def Obligations.ResultsAppear : Prop :=
  (∀ c n v i, writeG c n 0 v i = i) ∧
  (∀ c n (d : BitVec 5) v i, d ≠ 0 → d.toNat < 24 → writeG c n d v i = { i with wb := i.wb ++ [⟨c, .g c d.toNat, v.setWidth 256⟩] }) ∧
  (∀ c n (d : BitVec 5) v i, 24 ≤ d.toNat → i.qs.length = 8 →
    ∃ j : Inst, writeG c n d v i = j ∧ j = { i with qs := j.qs } ∧ (∀ m, m ≠ d.toNat - 24 → j.fifo m = i.fifo m) ∧
      j.fifo (d.toNat - 24) = { i.fifo (d.toNat - 24) with pushes := (i.fifo (d.toNat - 24)).pushes ++ [⟨some v, 0, c, n⟩] }) ∧
  (∀ s k i, s.inst k = some i → i.life = .running → i.frozen = none → i.reqs = [] →
    ∃ t, exec (.timedLanding k) s = .next t ∧ OnlyIsle k s t ∧
      t.inst k = some (((i.wb.filter (fun w => w.ctx = .L)) ++ (i.wb.filter (fun w => w.ctx = .C)) ++ (i.wb.filter (fun w => w.ctx = .S))).foldl
        (fun i w => i.applyWb w) { i with wb := [] })) ∧
  (∀ (i : Inst) c c' n x, 0 < n → Sparse.wf 0 (i.ctx c).g = true →
    ((i.applyWb ⟨c', .g c n, x⟩).ctx c).gGet n = x.setWidth 64 ∧
    (∀ d m, (d, m) ≠ (c, n) → ((i.applyWb ⟨c', .g c n, x⟩).ctx d).gGet m = (i.ctx d).gGet m)) ∧
  (∀ (i : Inst) c n l x, l < 64 → Sparse.wf 0 i.v = true →
    (i.applyWb ⟨c, .v n l, x⟩).vGet n l = x.setWidth 32 ∧
    (∀ m r, r < 64 → (m, r) ≠ (n, l) → (i.applyWb ⟨c, .v n l, x⟩).vGet m r = i.vGet m r)) ∧
  (∀ (i : Inst) c n x, n ≠ 0 → Sparse.wf 0 i.m = true →
    (i.applyWb ⟨c, .m n, x⟩).mGet 64 n = x.setWidth 64 ∧
    (∀ m lanes, m ≠ n → (i.applyWb ⟨c, .m n, x⟩).mGet lanes m = i.mGet lanes m)) ∧
  (∀ (i : Inst) c n x, Sparse.wf 0 i.t = true →
    (i.applyWb ⟨c, .t n, x⟩).tGet n = x ∧ (∀ m, m ≠ n → (i.applyWb ⟨c, .t n, x⟩).tGet m = i.tGet m))

/-- R50, R58, R227, R247: at the end of a vc VCYC goes up by one, the pushes of the vc join their queues and SRD sees the cursors of the message windows
as they stand, unless every live context has been queue-blocked, or blocked by the slip window that still has no room for it, since an
earlier vc, one of them queue-blocked: then QDEAD is taken at the context that entered its block last,
the later of L, C, S among equals, with the queue it is blocked on in DETAIL, or 8 for a slip block. That the blocks began in an
earlier vc is the model's reading (log 40). -/
def Obligations.VirtualCycles : Prop :=
  let held (i : Inst) (c : Ctx) : Prop :=
    ((∃ q, (i.ctx c).block = .queue q) ∨ ∃ n, (i.ctx c).block = .slip n ∧ slipOk i c n = false) ∧
      (i.ctx c).blockVc.toNat < i.vcyc.toNat
  (∀ s k i, s.inst k = some i → i.life = .running → i.frozen = none →
    ((∃ c, (i.ctx c).live = true ∧ ¬ held i c) ∨ (∀ c, (i.ctx c).live = true → ∀ q, (i.ctx c).block ≠ .queue q)) →
    ∃ t, exec (.vcAdvance k) s = .next t ∧ t = { s with slots := t.slots, counters := (s.count (k / 32) 0).counters } ∧
      (∀ n, n ≠ k → t.inst n = s.inst n) ∧
      ∃ ws, t.inst k = some { i with vcyc := i.vcyc + 1, qs := i.qs.map (fun f => ⟨f.ents ++ f.pushes, 0, []⟩), wins := ws } ∧
        (Sparse.wf .start i.wins = true → ∀ w, Sparse.get .start ws w = { i.msgWin w with shown := (i.msgWin w).cursor })) ∧
  (∀ s k i c, s.inst k = some i → i.life = .running → i.frozen = none → (i.ctx c).live = true →
    (∀ d, (i.ctx d).live = true → held i d ∧ (i.ctx d).blockVc.toNat ≤ (i.ctx c).blockVc.toNat ∧
      ((i.ctx d).blockVc.toNat = (i.ctx c).blockVc.toNat → ctxRank d ≤ ctxRank c)) →
    (∃ d q, (i.ctx d).live = true ∧ (i.ctx d).block = .queue q) →
    (∀ q, (i.ctx c).block = .queue q → exec (.vcAdvance k) s = .next (takeTrap k (ctxCode c) 0x07 q (i.ctx c).pc 0 s)) ∧
    (∀ n, (i.ctx c).block = .slip n → exec (.vcAdvance k) s = .next (takeTrap k (ctxCode c) 0x07 8 (i.ctx c).pc 0 s))) ∧
  (∀ s k i, s.inst k = some i → (i.life ≠ .running ∨ i.frozen ≠ none) → exec (.vcAdvance k) s = .next s)

/-- R42, R101, R375, R376: taking a precise trap, outside a speculation: an entry is made in the block of the launch's region, the launch
has STATUS.TRAP due and its other instances stop in the next clock, and the instance stops, none of its contexts acting any more; in a
speculation it is discarded and nothing is recorded. -/
def Obligations.TakingATrap : Prop :=
  (∀ s k ctx cause detail (pc addr : Word) i l, s.inst k = some i → i.life = .running → s.launch i.launch = some l → l.spec = false →
    l.retired = false →
    takeTrap k ctx cause detail pc addr s = sweep (stopInst k ((recordEntry (l.chain.headD 0)
      ⟨cause, detail, ctx, i.rank, k, pc, addr, false⟩ s).updLaunch i.launch (fun l => { l with trapped := true, status := l.status ||| 2 })))) ∧
  (∀ s k ctx cause detail (pc addr : Word) i l, s.inst k = some i → i.life = .running → s.launch i.launch = some l → l.spec = true →
    takeTrap k ctx cause detail pc addr s = sweep (discardSpec .doom i.launch s)) ∧
  (∀ s k i, s.inst k = some i → (i.life = .running ∨ i.life = .saving) →
    ∃ j, (stopInst k s).inst k = some j ∧ j.life = .stopped ∧ (∀ c, j.acts c = false) ∧ j.uid = i.uid ∧ j.wb = [] ∧ j.h = [] ∧ j.wins = [] ∧
      (∀ r ∈ j.reqs, r.arrived = false ∧ r.dst = .discard ∧ r.mask = 0) ∧ (∀ c ∈ j.cmds, c.phase ≠ .queued)) ∧
  (∀ s, s.turn = .clock → (∃ p ∈ s.launches, p.2.trapped = true) → step s = .next (stopTrapped s)) ∧
  (∀ s id l, s.launch id = some l → l.spec = true → QueuesWf s →
    let t := discardSpec .doom id s
    t.mem = s.mem ∧ t.versions = s.versions ∧ (∀ a ∈ t.acc, a.launch ≠ id) ∧ (t.vf l.vf).predDoom = (s.vf l.vf).predDoom + 1 ∧
      (t.queue l.vf l.q).spec = none ∧ (∀ k i c, t.inst k = some i → i.launch = id → i.acts c = false))

/-- R9, R378, R379: making an entry in the record of a block: bit CAUSE of KINDS is set and COUNT goes up by one; LAST holds the entry, and
FIRST does where COUNT was zero, no entry of the device being on its way to it, and else stays; no byte outside the record changes. The
record is at its home. R380: the FLT registers take the entry and SEQ
goes up by one. -/
def Obligations.FaultRecords : Prop :=
  (∀ (s : State) b (e : FaultEntry), MemWf s.mem → b + 128 ≤ spreadBase → e.cause < 32 → e.ctx < 4 → e.detail < 4096 → e.isle < 256 →
    e.rank < 256 →
    let t := recordEntry b e s
    let r := b + 0x40
    (∀ n, n < 64 → AtHome s (r + n)) →
    let head := e.cause + e.ctx * 2 ^ 26 + e.detail * 2 ^ 28 + e.isle * 2 ^ 40 + e.rank * 2 ^ 48 + (if e.late then 2 ^ 63 else 0)
    homeNat t r 8 = (homeNat s r 8 + 1) % 2 ^ 64 ∧
    (∀ n, n < 32 → (homeNat t (r + 8) 4).testBit n = (decide (n = e.cause) || (homeNat s (r + 8) 4).testBit n)) ∧
    (homeNat t (r + 0x28) 8 = head ∧ homeNat t (r + 0x30) 8 = e.pc.toNat ∧ homeNat t (r + 0x38) 8 = e.addr.toNat) ∧
    (homeNat s r 8 = 0 → pendingAdd s r = false →
      homeNat t (r + 0x10) 8 = head ∧ homeNat t (r + 0x18) 8 = e.pc.toNat ∧ homeNat t (r + 0x20) 8 = e.addr.toNat) ∧
    (homeNat s r 8 ≠ 0 → ∀ a, r + 0x10 ≤ a → a < r + 0x28 → homeByte t a = homeByte s a) ∧
    (∀ a, (a < r ∨ r + 0x40 ≤ a ∨ (r + 0xC ≤ a ∧ a < r + 0x10)) → homeByte t a = homeByte s a)) ∧
  (∀ (e : FaultEntry) (i : Inst), e.cause < 256 → e.ctx < 4 → e.detail < 4096 →
    let j := noteFault e i
    let f := j.fltCause.toNat
    f % 2 ^ 8 = e.cause ∧ f / 2 ^ 8 % 2 ^ 18 = 0 ∧ f / 2 ^ 26 % 2 ^ 2 = e.ctx ∧ f / 2 ^ 28 % 2 ^ 12 = e.detail ∧
      f / 2 ^ 40 % 2 ^ 8 = (i.fltCause.toNat / 2 ^ 40 % 2 ^ 8 + 1) % 2 ^ 8 ∧ f / 2 ^ 48 = 0 ∧
      j.fltPc = e.pc ∧ j.fltAddr = e.addr ∧ j = { i with fltCause := j.fltCause, fltPc := j.fltPc, fltAddr := j.fltAddr })

/-- R78, R79, R80: a retired launch settles once its writes are acknowledged and its
isles hold no command of it, and is then gone, and its queue waits for it no more; its completion record in DRAM, which is at its home, has its STATUS bits
joined and COUNT one higher, and no other byte has changed. Where nothing can retire or settle, the sweep changes nothing. -/
def Obligations.Settling : Prop :=
  (∀ s, Quiet s → sweep s = s) ∧
  (∀ s id l a, s.launch id = some l → l.retired = true → l.claiming = false → (∀ x ∈ s.acc, x.launch ≠ id) →
    (∀ p ∈ s.slots, p.2.launch = id → p.2.cmds = []) → MemWf s.mem → (s.launches.map Prod.fst).Nodup → QueuesWf s →
    let caddr := leNat ((l.packet.drop 0x18).take 8)
    (∃ g, findSeg l.segs caddr = .ok g ∧ g.w = true ∧ segTgt (selfOf l.part) g caddr = .dram a) →
    (∃ g, findSeg l.segs (caddr + 8) = .ok g ∧ g.w = true ∧ segTgt (selfOf l.part) g (caddr + 8) = .dram (a + 8)) →
    (∀ n, n < 16 → AtHome s (a + n)) → caddr ≠ 0 → l.status < 2 ^ 64 →
    let t := settleLaunch id s
    t.launch id = none ∧ (∀ n, n ≠ id → (∃ m, s.launch n = some m ∧ m.spec = false) → t.launch n = s.launch n) ∧
      homeNat t a 8 = (homeNat s a 8 + 1) % 2 ^ 64 ∧ homeNat t (a + 8) 8 = homeNat s (a + 8) 8 ||| l.status ∧
      (∀ x, (x < a ∨ a + 16 ≤ x) → homeByte t x = homeByte s x) ∧ id ∉ (t.queue l.vf l.q).unsettled) ∧
  (∀ s id l, s.launch id = some l → (l.retired = false ∨ l.claiming = true ∨ (∃ x ∈ s.acc, x.launch = id ∧ x.settles = true) ∨
    (∃ p ∈ s.slots, p.2.launch = id ∧ p.2.cmds ≠ [])) → settleLaunch id s = s)
/-- R51 to R55, R57, R59, R120, R121, R291: a timed landing is written at the start of its vc and not before, an interlocked one at the start of the next
vc after its data has come; a timed one that is missing
then freezes the isle or, in trap mode, takes SCHEDMISS at the requesting word; poisoned, it takes POISON there, while a failure of a masked one sets its lane's flag
and its bit of MFLAGS. A freeze ends when nothing is late, and past
FRZ_LIMIT raises WATCHDOG: an entry for the instance, STATUS.WATCHDOG, the instance stops and its fault domain aborts with DETAIL 1.
A refilled page leaves the pages in refill. -/
def Obligations.LandingsAndFreezes : Prop :=
  (∀ s k i r, s.inst k = some i → i.life = .running → i.frozen = none → i.reqs = [r] → i.wb = [] →
    let now : Prop := r.timed = false ∨ r.due.toNat ≤ i.vcyc.toNat
    ((r.timed = true → i.vcyc.toNat < r.due.toNat) → (r.timed = false → r.arrived = false) →
      After (.timedLanding k) s (fun t => OnlyIsle k s t ∧ t.inst k = some i)) ∧
    (∀ l st, now → r.arrived = true → r.mask ≠ 0 → r.fails = [(l, st)] → l < 64 → Sparse.wf 0 i.m = true →
      After (.timedLanding k) s (fun t => OnlyIsle k s t ∧ ∃ j, t.inst k = some j ∧ j.reqs = [] ∧
        Sparse.get 0 j.m r.mask = Sparse.get 0 i.m r.mask ||| BitVec.ofNat 64 (2 ^ l) ∧ j.mflags = i.mflags ||| (match st with
          | .ok => 0
          | .nonres => 1
          | .refused _ => 2
          | .poison => 4))) ∧
    (∀ c n sx l v, now → r.arrived = true → r.mask = 0 → (∀ f ∈ r.fails, f.2 ≠ .poison) → r.data = [(l, v)] → r.dst = .g c n sx →
      (i.ctx c).live = true → n ≠ 0 → Sparse.wf 0 (i.ctx c).g = true → After (.timedLanding k) s (fun t => OnlyIsle k s t ∧ ∃ j,
        t.inst k = some j ∧ j.reqs = [] ∧
        (j.ctx c).gGet n = (if sx = 0 then BitVec.ofNat 64 v else (BitVec.ofNat sx v).signExtend 64) ∧
        ∀ d m, (d, m) ≠ (c, n) → (j.ctx d).gGet m = (i.ctx d).gGet m)) ∧
    (∀ c n sx, r.timed = true → r.due.toNat ≤ i.vcyc.toNat → r.arrived = false → r.dst = .g c n sx → (i.ctx c).live = true →
      (i.tmode = false → After (.timedLanding k) s (fun t => OnlyIsle k s t ∧ t.inst k = some { i with frozen := some s.time })) ∧
      (i.tmode = true → exec (.timedLanding k) s = .next (takeTrap k (ctxCode r.ctx) 0x08 0 r.pc 0 s))) ∧
    (∀ c n sx l, now → r.arrived = true → r.mask = 0 → r.fails = [(l, .poison)] → r.dst = .g c n sx →
      (i.ctx r.ctx).live = true → (i.ctx c).live = true →
      exec (.timedLanding k) s = .next (takeTrap k (ctxCode r.ctx) 0x0A r.poisonDetail r.pc r.va s))) ∧
  (∀ s k i t0, s.inst k = some i → i.frozen = some t0 → (∀ r ∈ i.reqs, r.timed = true → i.vcyc.toNat < r.due.toNat ∨ r.arrived = true) →
    After (.freezeEnd k) s (fun t => OnlyIsle k s t ∧ t.inst k = some { i with frozen := none })) ∧
  (∀ s k i l t0 r, s.inst k = some i → i.frozen = some t0 → s.launch i.launch = some l → l.retired = false →
    t0 + l.eff.frzlim * Config.ticksPerUs < s.time → i.reqs = [r] → r.timed = true → r.due.toNat ≤ i.vcyc.toNat → r.arrived = false →
    (∃ c n sx, r.dst = .g c n sx ∧ (i.ctx c).live = true) →
    (l.spec = false →
      let t := stopInst k ((recordEntry (l.chain.headD 0) ⟨0x09, 0, 0, i.rank, k, r.pc, 0, false⟩ s).updLaunch i.launch
        (fun l => { l with status := l.status ||| 16 }))
      exec (.watchdog k) s = .next (abortDomain l.dom 1 [] t)) ∧
    (l.spec = true → exec (.watchdog k) s = .next (sweep (discardSpec .doom i.launch s)))) ∧
  (∀ s k i p, s.inst k = some i → After (.pageRefillDone k p) s (fun t => OnlyIsle k s t ∧
    t.inst k = some { i with refill := i.refill.filter (fun q => q ≠ p) }))

/-- R54, R78, R122, R128, R132, R293 to R299: when the memory system performs an access at DRAM of this device. A load gets the bytes that
its die sees, and memory stays; a store's bytes are seen by every die once it is acknowledged, and before that by the die named and by
the home die alone, and every other byte reads as before; an atomic reads its home, writes what R295 or R297 says there and nothing
else, and returns the old value where it returns one. -/
def Obligations.MemoryIsPerformed : Prop :=
  (∀ s a p x r, Due s a → a.kind = .load → a.parts = [p] → DramPart s p x → memPoison s x p.len = false → r.id = a.id →
    Swept (.landingDataArrival a.isle a.id none []) s (fun t => t.access a.id = none ∧ KeepsMemory s t ∧
      Lands s t a.uid r p.lane (leNat (dieBytes s (a.isle / 32) x p.len)))) ∧
  (∀ s a, Due s a → a.kind = .store → a.atHome = false → onPacketPlane s a = true → (∀ v ∈ s.versions, v.acc ≠ a.id) → MemWf s.mem →
    (∀ p ∈ a.parts, ∃ x, DramPart s p x) →
    Swept (.writeAcknowledge a.id none []) s (fun t => t.access a.id = none ∧
      (∀ d y, (∀ p ∈ a.parts, ∀ x, p.tgt = .dram x → (y < x ∨ x + p.len ≤ y)) → dieByte t d y = dieByte s d y) ∧
      (∀ p x, a.parts = [p] → p.tgt = .dram x → ∀ d n, n < p.len → dieByte t d (x + n) = BitVec.ofNat 8 (p.x / 2 ^ (8 * n))))) ∧
  (∀ s a p x d, Due s a → x % 64 + p.len ≤ 64 → a.kind = .store → a.atHome = false → onPacketPlane s a = true → (∀ v ∈ s.versions, v.acc ≠ a.id) →
    a.parts = [p] → DramPart s p x → 0 < p.len → d < 8 →
    After (.writeAcknowledge a.id (some d) []) s (fun t => (∃ b, t.access a.id = some b ∧ b.atHome = true) ∧
      (∀ n, n < p.len → dieByte t d (x + n) = BitVec.ofNat 8 (p.x / 2 ^ (8 * n))) ∧
      (∀ n, n < p.len → homeByte t (x + n) = BitVec.ofNat 8 (p.x / 2 ^ (8 * n))) ∧
      (∀ e y, e < 8 → e ≠ d → (∀ n, n < p.len → homeDie (x + n) ≠ e) → dieByte t e y = dieByte s e y) ∧ KeepsOutside s t x p.len)) ∧
  (∀ s a v, s.access a.id = some a → a.kind = .store → a.atHome = true → (∀ p ∈ a.parts, p.done = true ∧ p.st = .ok) → s.versions = [v] →
    v.acc = a.id → (v.cells.map Prod.fst).Nodup → MemWf s.mem →
    Swept (.writeAcknowledge a.id none []) s (fun t => t.access a.id = none ∧ ∀ d y, dieByte t d y = homeByte s y)) ∧
  (∀ s a p x, Due s a → (∀ i, s.instOf a.uid = some i → i.launch = a.launch) → a.parts = [p] → DramPart s p x → (p.len = 4 ∨ p.len = 8) →
    memPoison s x p.len = false → MemWf s.mem →
    let old := homeNat s x p.len
    (∀ fn r, a.kind = .amo fn → r.id = a.id → Swept (.landingDataArrival a.isle a.id none []) s (fun t =>
      t.access a.id = none ∧ homeNat t x p.len = atomicResult fn p.len old p.x ∧ KeepsOutside s t x p.len ∧ Lands s t a.uid r p.lane old)) ∧
    (∀ r, a.kind = .cas → r.id = a.id → Swept (.landingDataArrival a.isle a.id none []) s (fun t =>
      t.access a.id = none ∧ homeNat t x p.len = (if old = p.x % 2 ^ (8 * p.len) then p.y % 2 ^ (8 * p.len) else old) ∧
        KeepsOutside s t x p.len ∧ Lands s t a.uid r p.lane old)) ∧
    (∀ fn, a.kind = .red fn → a.atHome = false → onPacketPlane s a = true → (∀ v ∈ s.versions, v.acc ≠ a.id) →
      Swept (.writeAcknowledge a.id none []) s (fun t =>
        t.access a.id = none ∧ homeNat t x p.len = atomicResult fn p.len old p.x ∧ KeepsOutside s t x p.len)))
/-- R67, R68, R69, R70, R72, R73, R77, R410: the events of hardware queues. Enabling clears the queue and checks it; disabling abandons
what is at HEAD; a TAIL write is taken, ignored or stops the queue by its distance from HEAD; a packet of an unknown type or with
reserved bits stops it with BADPKT; a NOP advances HEAD; a LAUNCH is rejected with its cause, which is recorded, or held; a FENCE is
passed when its counter has reached its value; a SIGNAL waits for its settles, adds its value and advances HEAD, once a
request that it sent is answered. A TAIL write takes effect while no LAUNCH makes its append. -/
def Obligations.QueueEvents : Prop :=
  (∀ s v q (value : Word), QueuesWf s → s.boot = .running → s.failed = false → 1 ≤ v → v ≤ 64 → q < 16 → (s.queue v q).en = false →
    value.getLsbD 5 = true →
    let size := value.toNat % 2 ^ 5
    let rcb := value.toNat / 2 ^ 7 % 2 ^ 38 * 2 ^ 7
    let on (stop : Bool) (e : QErr) : HwQueue := { s.queue v q with
      rcb := rcb, logsz := size, en := true, head := 0, tail := 0, stopped := stop, err := e, last := none, lastKey := none,
      unsettled := [], held := none, fence := none, signal := none, history := [], want := none }
    (∀ c e, 4 ≤ size → size ≤ 16 → chainOf s v rcb = some (c, e) →
      (∀ n, n < 64 → structAt s (segsAt s e.segtab) (partAt s e.part) (fun g => g.r) ((s.queue v q).base.toNat + n) 1 ≠ none) →
      After (.queueEnable v q value) s (fun t => t = { s with vfs := t.vfs } ∧ QueueIs s t v q (on false .none))) ∧
    ((size < 4 ∨ 16 < size ∨ chainOf s v rcb = none) → After (.queueEnable v q value) s (fun t =>
      t = { s with vfs := t.vfs, out := s.out ++ [.msix v 1] } ∧ QueueIs s t v q (on true .badqueue)))) ∧
  (∀ s v q (value : Word), QueuesWf s → (s.queue v q).en = true → value.getLsbD 5 = false → (s.queue v q).spec = none →
    After (.queueDisable v q value) s (fun t => t = { s with vfs := t.vfs } ∧
      QueueIs s t v q { s.queue v q with en := false, held := none, fence := none, signal := none, want := none })) ∧
  (∀ s v q (value : Word), QueuesWf s → appending s v q = false →
    let new : BitVec 32 := value.setWidth 32
    let far := (new - (s.queue v q).head).toNat
    (((s.queue v q).en = false ∨ (s.queue v q).stopped = true) → exec (.tailWrite v q value) s = .next s) ∧
    ((s.queue v q).en = true → (s.queue v q).stopped = false →
      (2 ^ (s.queue v q).logsz < far → Stops (.tailWrite v q value) s v q .overflow) ∧
      (far ≤ 2 ^ (s.queue v q).logsz → far < ((s.queue v q).tail - (s.queue v q).head).toNat → exec (.tailWrite v q value) s = .next s) ∧
      (far ≤ 2 ^ (s.queue v q).logsz → ((s.queue v q).tail - (s.queue v q).head).toNat ≤ far →
        After (.tailWrite v q value) s (fun t => t = { s with vfs := t.vfs } ∧ QueueIs s t v q { s.queue v q with tail := new })))) ∧
  (∀ s v q segs part chain p ext, HeadPacket s v q segs part chain p →
    let num := packetNum p
    let at_ (t : State) (x : HwQueue) : Prop := t = { s with vfs := t.vfs } ∧ QueueIs s t v q x
    let next : HwQueue := { s.queue v q with head := (s.queue v q).head + 1 }
    (4 ≤ num 0 1 → ∀ e ∈ [Instr.parseNop v q ext, .parseLaunch v q ext, .parseFence v q ext, .parseSignal v q ext],
      Stops e s v q .badpkt) ∧
    (num 0 1 = 0 → After (.parseNop v q ext) s (fun t => at_ t next)) ∧
    (num 0 1 = 1 → (8 ≤ num 1 1 ∨ num 6 2 ≠ 0 ∨ 2 ^ 48 ≤ num 8 8 ∨ 2 ^ 45 ≤ num 0x10 8 ∨ 2 ^ 48 ≤ num 0x18 8) →
      Stops (.parseLaunch v q ext) s v q .badpkt) ∧
    (∀ c, num 0 1 = 1 → launchBadpkt p = false → judgeLaunch s v q ext p = .reject c →
      let entry : FaultEntry := ⟨0x12, q * 256 + c, 0, 0, 0, BitVec.ofNat 64 (num 8 8), 0, false⟩
      let clear := s.setQueue v q { s.queue v q with want := none }
      (tablesOf s v (num 0x10 8) = none →
        exec (.parseLaunch v q ext) s = .next (advanceHead v q (recordEntry (chain.headD 0) entry clear))) ∧
      (tablesOf s v (num 0x10 8) ≠ none → num 0x18 8 = 0 →
        exec (.parseLaunch v q ext) s = .next (advanceHead v q (recordEntry (num 0x10 8) entry clear)))) ∧
    (num 1 1 / 2 % 2 = 1 → num 1 1 / 4 % 2 = 0 → judgeLaunch s v q ext p = .reject 6) ∧
    ((num 1 1 / 2 % 2 = 0 ∨ num 1 1 / 4 % 2 = 1) → tablesOf s v (num 0x10 8) = none → judgeLaunch s v q ext p = .reject 4) ∧
    (∀ l, num 0 1 = 1 → launchBadpkt p = false → judgeLaunch s v q ext p = .good l →
      After (.parseLaunch v q ext) s (fun t => t = { s with vfs := t.vfs, nextLaunch := s.nextLaunch + 1 } ∧
        QueueIs s t v q { s.queue v q with held := some l, want := none, unsettled := (s.queue v q).unsettled ++ [l.id] })) ∧
    (num 0 1 = 2 → num 1 1 = 0 → num 2 1 = 1 → num 3 5 = 0 → num 8 8 = 0 → (∀ k, k < 4 → num (0x20 + 8 * k) 8 = 0) →
      (num 0x10 8 % 8 ≠ 0 → Stops (.parseFence v q ext) s v q .badaddr) ∧
      (∀ a, CounterAt s segs part (num 0x10 8) a →
        let value := BitVec.ofNat 64 (num 0x18 8)
        (0 ≤ (BitVec.ofNat 64 (homeNat s a 8) - value).toInt → After (.parseFence v q ext) s (fun t => at_ t next)) ∧
        ((BitVec.ofNat 64 (homeNat s a 8) - value).toInt < 0 → After (.parseFence v q ext) s (fun t =>
          at_ t { s.queue v q with fence := some ⟨[(num 0x10 8, .dram a, value)], s.time⟩ })))) ∧
    (num 0 1 = 3 → num 1 1 < 2 → num 2 6 = 0 → (∀ k, k < 5 → num (0x18 + 8 * k) 8 = 0) →
      (num 8 8 % 8 ≠ 0 → Stops (.parseSignal v q ext) s v q .badaddr) ∧
      (∀ g, num 8 8 % 8 = 0 → structAt s segs part (fun g => g.w) (num 8 8) 8 = some g → After (.parseSignal v q ext) s (fun t =>
        at_ t { s.queue v q with signal := some ⟨g, BitVec.ofNat 64 (num 0x10 8), decide (num 1 1 = 1), part, false⟩ })))) ∧
  (∀ s v q ext f va a (value : Word), QueuesWf s → (s.queue v q).fence = some f → f.pairs = [(va, .dram a, value)] →
    (∀ n, n < 8 → AtHome s (a + n)) →
    (0 ≤ (BitVec.ofNat 64 (homeNat s a 8) - value).toInt → After (.fenceCounterRead v q ext) s (fun t => t = { s with vfs := t.vfs } ∧
      QueueIs s t v q { s.queue v q with fence := none, head := (s.queue v q).head + 1 })) ∧
    ((BitVec.ofNat 64 (homeNat s a 8) - value).toInt < 0 → After (.fenceCounterRead v q ext) s (fun t => t = { s with vfs := t.vfs } ∧
      QueueIs s t v q { s.queue v q with fence := some ⟨f.pairs, s.time⟩ }))) ∧
  (∀ s v q w, QueuesWf s → (s.queue v q).signal = some w →
    (w.sent = true → After (.signalAdd v q) s (fun t => t = { s with vfs := t.vfs } ∧
      QueueIs s t v q { s.queue v q with signal := none, head := (s.queue v q).head + 1 })) ∧
    (w.sent = false → w.settled = true → (s.queue v q).unsettled ≠ [] → exec (.signalAdd v q) s = .next s) ∧
    (∀ a, w.sent = false → (w.settled = true → (s.queue v q).unsettled = []) → w.tgt = .dram a → AtHome s a → MemWf s.mem →
      After (.signalAdd v q) s (fun t => homeNat t a 8 = (homeNat s a 8 + w.value.toNat) % 2 ^ 64 ∧ KeepsOutside s t a 8 ∧
        (t.queue v q).head = (s.queue v q).head + 1 ∧ (t.queue v q).signal = none)))
/-- R33, R34, R59, R62, R76, R86, R90, R92 to R94, R99, R100, R113, R128: the events of the scheduler. A launch that the order dispatches
to isles that hold nothing becomes live on them, ranks ascending, its contexts at the word after the header in the state of R34, and
HEAD advances; a saved victim leaves its isle, and only its save slot is written; the instance that the order resumes runs on its isle
again, its pages in refill, its segment table read again, what it has observed visible there; a speculation without a claim for 1 ms is
doomed; a commit write puts its bytes in memory and nothing else, and with none of them left the claim is complete: the cellar is
gone, L′ counts as dispatched, and HEAD advances. -/
def Obligations.SchedulerEvents : Prop :=
  (∀ s v q l T ks ext r, QueuesWf s → Quiet s → (s.queue v q).spec = none → (s.queue v q).held = some l → (s.queue v q).history = [] →
    readyOf s v q = some r → packetNum l.packet 1 1 / 4 % 2 = 0 → (beginOrder s).ordering = true →
    (evaluate (beginOrder s)).act = some (.dispatch v q ks) → allFree s ks = true → ks ≠ [] → ks.Nodup →
    tablesOf s v (packetNum l.packet 0x10 8) = some T →
    After (.launchDispatch v q ext) s (fun t =>
      (∃ m, t.launch l.id = some m ∧ m.isles = ks ∧ m.args = (l.packet.drop 0x20).take (packetNum l.packet 4 2) ∧ m.packet = l.packet ∧
        m.header = l.header ∧ m.chain = T.chain ∧ m.doms = domainsOf s T.chain ∧ m.eff = T.eff ∧ m.segs = T.segs ∧ m.part = T.part ∧
        m.pred = (s.queue v q).last ∧ m.since = s.time) ∧
      (t.queue v q).held = none ∧ (t.queue v q).head = (s.queue v q).head + 1 ∧ (t.queue v q).last = some l.id ∧
      (∀ k, k ∉ ks → t.inst k = s.inst k) ∧ KeepsMemory s t ∧
      ∀ n k, ks[n]? = some k → ∃ i, t.inst k = some i ∧ i.launch = l.id ∧ i.rank = n ∧ i.life = .running ∧ i.vcyc = 0 ∧ i.fex = 0 ∧
        i.v = [] ∧ i.m = [] ∧ i.t = [] ∧ i.acc = [] ∧ i.h = [] ∧ i.qs = List.replicate 8 ⟨[], 0, []⟩ ∧
        i.win = BitVec.ofNat 12 (packetNum l.header 0x10 2) ∧
        ∀ c, (i.ctx c).pc = BitVec.ofNat 64 (packetNum l.packet 8 8 + 128) ∧ (i.ctx c).live = true ∧ (i.ctx c).g = [] ∧
          (i.ctx c).walk = 0 ∧ (i.ctx c).stack = [])) ∧
  (∀ s k i, s.inst k = some i → i.life = .saving → atBoundary s i = true → (∀ c ∈ i.cmds, c.block.length ≤ 256) →
    (s.slots.map Prod.fst).Nodup → MemWf s.mem →
    Swept (.saveComplete k) s (fun t => t.inst k = none ∧ t.saved = s.saved ++ [i.parked] ∧ t.freed = true ∧
      KeepsOutside s t (i.slotBase + 0xA0000 * i.slotNo) 0xA0000)) ∧
  (∀ s (i : Inst) a n b, n < 24 → b < 8 →
    let byte (x : Word) : Byte := BitVec.ofNat 8 (x.toNat / 2 ^ (8 * b))
    (a + 0x100 + 8 * n + b, byte (i.ctxL.gGet n)) ∈ saveCells s i a ∧ (a + 0x300 + 8 * n + b, byte (i.ctxC.gGet n)) ∈ saveCells s i a ∧
      (a + 0x500 + 8 * n + b, byte (i.ctxS.gGet n)) ∈ saveCells s i a ∧ (a + 0x1C0 + b, byte i.ctxL.pc) ∈ saveCells s i a ∧
      (a + 0x3C0 + b, byte i.ctxC.pc) ∈ saveCells s i a ∧ (a + 0x5C0 + b, byte i.ctxS.pc) ∈ saveCells s i a) ∧
  (∀ s uid k i, Quiet s → (beginOrder s).ordering = true → (evaluate (beginOrder s)).act = some (.resume uid k) → k < 256 →
    allFree s [k] = true → s.saved.find? (fun j => j.uid = uid) = some i →
    After (.instanceResume uid k) s (fun t =>
      t.inst k = some { i with life := .running, since := s.time, refill := List.range i.counts.spad, goes := none } ∧
      (∀ n, n ≠ k → t.inst n = s.inst n) ∧ (∀ j ∈ t.saved, j.uid ≠ uid) ∧ t.vfs = s.vfs ∧ t.acc = s.acc ∧ t.out = s.out ∧
      t.launch i.launch = (s.launch i.launch).map (fun l => { l with segs := segsAt s l.eff.segtab }) ∧
      (∀ n, n ≠ i.launch → t.launch n = s.launch n) ∧ (∀ a, homeByte t a = homeByte s a) ∧
      (∀ w ∈ t.versions, w.acc ∈ seenStores s i → w.vis.getLsbD (k / 32) = true) ∧
      ∀ d a, d ≠ k / 32 → dieByte t d a = dieByte s d a)) ∧
  (∀ s v q id l, (s.queue v q).spec = some id → s.launch id = some l → l.spec = true → l.since + 1000 * Config.ticksPerUs ≤ s.time →
    exec (.speculationTimeout v q) s = .next (sweep (discardSpec .doom id s))) ∧
  (∀ s a p x l, s.access a.id = some a → a.kind = .commit → a.parts = [p] → a.atHome = false → s.launch a.launch = some l → l.spec = false →
    mayPerform s a = true → onPacketPlane s a = true → DramPart s p x → MemWf s.mem → (∀ v ∈ s.versions, v.acc ≠ a.id) →
    Swept (.writeAcknowledge a.id none []) s (fun t => t.access a.id = none ∧
      (∀ n, n < p.len → homeByte t (x + n) = BitVec.ofNat 8 (p.x / 2 ^ (8 * n))) ∧ KeepsOutside s t x p.len)) ∧
  (∀ s v q id l, (s.queue v q).spec = some id → s.launch id = some l → l.claiming = true → l.id = id → QueuesWf s →
    ((∃ a ∈ s.acc, a.launch = id ∧ a.kind = .commit) → exec (.commitComplete v q) s = .next s) ∧
    ((∀ a ∈ s.acc, a.launch = id → a.kind ≠ .commit) → ∃ t, exec (.commitComplete v q) s = .next (trySpec v q (sweep t)) ∧
      t.launch id = some { l with claiming := false, cellar := [], readset := [], since := s.time } ∧ (t.queue v q).spec = none ∧
      (∀ h, (s.queue v q).held = some h → h.id = id →
        (t.queue v q).held = none ∧ (t.queue v q).head = (s.queue v q).head + 1 ∧ (t.queue v q).last = some id) ∧
      ((s.queue v q).held = none → (t.queue v q).head = (s.queue v q).head) ∧ KeepsMemory s t ∧
      ∀ k, t.inst k = (s.inst k).map (fun i => if i.launch = id then { i with since := s.time } else i)))
/-- R141 to R145, R177, R386 to R388: requests that arrive, and refusals that come back. A request is refused at the first of steps 1 to
4 that fails, and nothing changes; one that passes is performed at its DRAM bytes and answered, held while its die is in reset, held
or negatively acknowledged while its granule moves or has turned its flow away, or sent on to the holder of a lent granule, who
performs it. A request of this device that is refused, by an ingress, a timeout or the retry limit, has the outcome of R143. -/
def Obligations.RequestEvents : Prop :=
  (∀ s r, r.home = none →
    let refused (st : BitVec 4) : Prop := exec (.ingressRequest r) s = .next { s with out := s.out ++ [.response r.src (.refused st) 0] }
    ((∀ p ∈ s.ingress, ¬ Covers p.2 r) → refused 1) ∧
    (∀ n e, s.ingress = [(n, e)] → Covers e r →
      (e.gen ≠ r.gen → refused 2) ∧
      (e.gen = r.gen → granted e r.kind = false → refused 3) ∧
      (∀ pa, e.gen = r.gen → granted e r.kind = true → localTgt r.addr = .unmapped pa → refused 4) ∧
      (∀ k o, e.gen = r.gen → granted e r.kind = true → localTgt r.addr = .spad k o → s.inst k = none → refused 4) ∧
      (∀ a k, e.gen = r.gen → granted e r.kind = true → localTgt r.addr = .ws a → k < reqSize r.kind → wsOut s (r.addr + k) = true →
        refused 4))) ∧
  (∀ s r x, Passes s r x → DiesUp s x (reqSize r.kind) → (granuleOf s (x / 2 ^ 21)).place = .home →
    (granuleOf s (x / 2 ^ 21)).nacked = [] →
    (∀ n, r.kind = .load n →
      (memPoison s x n = false →
        Swept (.ingressRequest r) s (fun t => t = { s with out := s.out ++ [.response r.src (.ok (homeNat s x n)) (homeNat s x n)] })) ∧
      (memPoison s x n = true → Swept (.ingressRequest r) s (fun t => t = { s with out := s.out ++ [.response r.src .poison 0] }))) ∧
    (∀ d, r.kind = .store d → MemWf s.mem → Swept (.ingressRequest r) s (fun t =>
      t.out = s.out ++ [.response r.src (.ok 0) 0] ∧ BytesAt t x d ∧ KeepsOutside s t x d.length)) ∧
    (∀ fn y n ret, r.kind = .amo fn y n ret → (n = 4 ∨ n = 8) → memPoison s x n = false → MemWf s.mem →
      let v := if ret then homeNat s x n else 0
      Swept (.ingressRequest r) s (fun t => t.out = s.out ++ [.response r.src (.ok v) v] ∧
        homeNat t x n = atomicResult fn n (homeNat s x n) y ∧ KeepsOutside s t x n)) ∧
    (∀ cmp new n, r.kind = .cas cmp new n → (n = 4 ∨ n = 8) → memPoison s x n = false → MemWf s.mem →
      Swept (.ingressRequest r) s (fun t => t.out = s.out ++ [.response r.src (.ok (homeNat s x n)) (homeNat s x n)] ∧
        homeNat t x n = (if homeNat s x n = cmp % 2 ^ (8 * n) then new % 2 ^ (8 * n) else homeNat s x n) ∧ KeepsOutside s t x n))) ∧
  (∀ s r x, Passes s r x → DiesUp s x (reqSize r.kind) → (∃ d, r.kind = .store d) → Sparse.wf .atHome s.granules = true →
    let g := granuleOf s (x / 2 ^ 21)
    let key := (r.src, r.label)
    let turned : Prop := Swept (.ingressRequest r) s (fun t =>
      t = { s with granules := t.granules, out := s.out ++ [.response r.src .nack 0] } ∧ GranuleIs s t (x / 2 ^ 21) g)
    (g.place = .moving →
      (g.held.length < 64 → (∀ n ∈ g.nacked, n.1 ≠ key ∧ n.2 ≠ .inr r) → Swept (.ingressRequest r) s (fun t =>
        t = { s with granules := t.granules } ∧ GranuleIs s t (x / 2 ^ 21) { g with held := g.held ++ [.inr r] })) ∧
      (g.held.length < 64 → g.nacked = [(key, .inr r)] → Swept (.ingressRequest r) s (fun t =>
        t = { s with granules := t.granules } ∧ GranuleIs s t (x / 2 ^ 21) { g with nacked := [], held := g.held ++ [.inr r] })) ∧
      (g.held.length = 64 → (∀ n ∈ g.nacked, n.1 ≠ key) → Swept (.ingressRequest r) s (fun t =>
        t = { s with granules := t.granules, out := s.out ++ [.response r.src .nack 0] } ∧
        GranuleIs s t (x / 2 ^ 21) { g with nacked := g.nacked ++ [(key, .inr r)] })) ∧
      (g.held.length = 64 → (∃ n ∈ g.nacked, n.1 = key) → turned)) ∧
    ((∃ n ∈ g.nacked, n.1 = key ∧ n.2 ≠ .inr r) → turned)) ∧
  (∀ s r x h, Passes s r x → DiesUp s x (reqSize r.kind) → (granuleOf s (x / 2 ^ 21)).nacked = [] → Sparse.wf .atHome s.granules = true →
    (granuleOf s (x / 2 ^ 21)).place = .lent → (granuleOf s (x / 2 ^ 21)).holder = some h →
    Swept (.ingressRequest r) s (fun t => t = { s with out := s.out ++ [.forward h r] })) ∧
  (∀ s r x, Passes s r x → dieIsDown s (homeDie x) = true →
    Swept (.ingressRequest r) s (fun t => t = { s with dieHeld := s.dieHeld ++ [r] })) ∧
  (∀ s r x h b d, r.home = some h → r.kind = .store d → Spans r.addr d.length x → s.guests = [⟨h, x / 2 ^ 21, b⟩] →
    let y := b + x % 2 ^ 21
    (DiesUp s y d.length → MemWf s.mem → Swept (.ingressRequest r) s (fun t =>
      t.out = s.out ++ [.response r.src (.ok 0) 0] ∧ BytesAt t y d ∧ KeepsOutside s t y d.length)) ∧
    (∀ k, k < d.length → dieIsDown s (homeDie (y + k)) = true → exec (.ingressRequest r) s = .next { s with dieHeld := s.dieHeld ++ [r] })) ∧
  (∀ s a p i l, Pending s a p i l →
    (∀ step, After (.refusedAccess a.id 0 step) s (fun t => Refused s t a p i l step)) ∧
    (∀ q pa t0, p.tgt = .peer q pa → p.sent = some t0 → (∀ m ∈ s.meters, heldBack m a.id = false) → l.part.foreign.testBit q = false →
      (s.time < t0 + s.fabTimeout * Config.ticksPerUs → exec (.fabricTimeout a.id) s = .next s) ∧
      (t0 + s.fabTimeout * Config.ticksPerUs ≤ s.time → After (.fabricTimeout a.id) s (fun t => Refused s t a p i l 5))) ∧
    (∀ q pa t0, p.tgt = .peer q pa → p.sent = some t0 → l.part.foreign.testBit q = true → s.acc = [a] →
      (foreignOf s l.part.pa q).reachable = true → t0 + (foreignOf s l.part.pa q).timeout * Config.ticksPerUs ≤ s.time →
      After (.foreignPeerTimeout l.part.pa q) s (fun t => Refused s t a p i l 6 ∧
        foreignOf t l.part.pa q = { foreignOf s l.part.pa q with reachable := false })) ∧
    (∀ n, a.nack = some n → Sparse.wf .atHome s.granules = true →
      (s.time < n.first + 10000 * Config.ticksPerUs → exec (.moveRetryLimit a.id) s = .next s) ∧
      (n.first + 10000 * Config.ticksPerUs ≤ s.time → After (.moveRetryLimit a.id) s (fun t => Refused s t a p i l 7)))) ∧
  (∀ s pa x, s.boot = .running →
    (∀ n, 0 < n → Spans pa n x → (∀ k, k < n → AtHome s (x + k)) →
      (memPoison s x n = false → Swept (.hostLinkRequest (.read pa n)) s (fun t =>
        t = { s with out := s.out ++ [.hostResponse (.ok (homeNat s x n)) (homeNat s x n)] })) ∧
      (memPoison s x n = true → Swept (.hostLinkRequest (.read pa n)) s (fun t => t = { s with out := s.out ++ [.hostResponse .poison 0] }))) ∧
    (∀ d, MemWf s.mem → Spans pa d.length x → (∀ k, k < d.length → AtHome s (x + k)) → Swept (.hostLinkRequest (.write pa d)) s (fun t =>
      t.out = s.out ∧ BytesAt t x d ∧ KeepsOutside s t x d.length ∧
        ∀ n, (∀ b, b < 64 → x ≤ 64 * n + b ∧ 64 * n + b < x + d.length) → memPoison t (64 * n) 1 = false)) ∧
    (localTgt pa = .dram x → Sparse.wf false s.poison = true → After (.hostLinkRequest (.poison pa)) s (fun t =>
      t = { s with poison := t.poison, counters := t.counters } ∧ memPoison t x 1 = true)))

/-- R144, R145, R146, R147: moves of granules. A move starts unless the granule moves already, is there already, or is pinned; at its end
the granule is at its home or lent, its bytes come with it, and held requests are performed or sent on; the fourth move to complete
within 1 ms of the first pins the granule, counts in MIG_CONTEST and brings it home; the pin ends after 100 ms. A request that was
turned away is tried again when its backoff is over, and the backoff doubles up to 64 µs where it is turned away once more. That the
window is that of the last four completions is the model's reading (log 28). -/
def Obligations.GranuleMoves : Prop :=
  (∀ s g holder, Sparse.wf .atHome s.granules = true →
    let x := granuleOf s g
    (x.place = .moving ∨ x.holder = holder ∨ (x.pin ≠ none ∧ holder ≠ none) → exec (.granuleMoveStart none g holder) s = .next s) ∧
    (x.place ≠ .moving → x.holder ≠ holder → x.pin = none → After (.granuleMoveStart none g holder) s (fun t =>
      t = { s with granules := t.granules } ∧ GranuleIs s t g { x with place := .moving, target := holder }))) ∧
  (∀ s g b image, Sparse.wf .atHome s.granules = true → MemWf s.mem → (granuleOf s g).place = .moving →
    (image.map Prod.fst).Nodup → (∀ c ∈ image, c.1 < 2 ^ 21) →
    let x := granuleOf s g
    let n := x.moves.length
    let done : Granule := { x with target := none, held := [], moves := if x.pin = none then x.moves ++ [s.time] else x.moves }
    ((x.pin ≠ none ∨ n < 3 ∨ ∃ m, x.moves[n - 3]? = some m ∧ m + 1000 * Config.ticksPerUs < s.time) →
      (x.target = none → x.held = [] → Swept (.granuleMoveEnd none g b image) s (fun t => t.migContest = s.migContest ∧
        GranuleIs s t g { done with place := .home, holder := none } ∧ KeepsOutside s t (g * 2 ^ 21) (2 ^ 21) ∧
        (DiesUp s (g * 2 ^ 21) (2 ^ 21) → ∀ o v, (o, v) ∈ image → homeByte t (g * 2 ^ 21 + o) = v))) ∧
      (∀ h, x.target = some h → x.held = [] → Swept (.granuleMoveEnd none g b image) s (fun t =>
        t = { s with granules := t.granules } ∧ GranuleIs s t g { done with place := .lent, holder := some h })) ∧
      (∀ h r, x.target = some h → x.held = [.inr r] → reqDown s r = false →
        Swept (.granuleMoveEnd none g b image) s (fun t => t = { s with granules := t.granules, out := s.out ++ [.forward h r] } ∧
          GranuleIs s t g { done with place := .lent, holder := some h })) ∧
      (∀ r y d, x.target = none → x.held = [.inr r] → r.kind = .store d → Spans r.addr d.length y → DiesUp s y d.length → y / 2 ^ 21 = g →
        r.src < 4096 → Swept (.granuleMoveEnd none g b image) s (fun t => t.out = s.out ++ [.response r.src (.ok 0) 0] ∧ BytesAt t y d ∧
          GranuleIs s t g { done with place := .home, holder := none }))) ∧
    (∀ m, 3 ≤ n → x.moves[n - 3]? = some m → s.time ≤ m + 1000 * Config.ticksPerUs → x.pin = none →
      let pin := some (s.time + 100000 * Config.ticksPerUs)
      (∀ h, x.target = some h → Swept (.granuleMoveEnd none g b image) s (fun t =>
        t = { s with granules := t.granules, migContest := s.migContest + 1 } ∧
        GranuleIs s t g { x with place := .moving, holder := some h, target := none, pin := pin, moves := [] })) ∧
      (x.target = none → x.held = [] → Swept (.granuleMoveEnd none g b image) s (fun t => t.migContest = s.migContest + 1 ∧
        GranuleIs s t g { done with place := .home, holder := none, pin := pin, moves := [] })))) ∧
  (∀ s h g b image, MemWf s.mem → (image.map Prod.fst).Nodup → (∀ c ∈ image, c.1 < 2 ^ 21) →
    (s.guests = [] → (∀ o, o < 2 ^ 21 → AtHome s (b + o)) → After (.granuleMoveEnd (some h) g b image) s (fun t =>
      t.guests = [⟨h, g, b⟩] ∧ KeepsOutside s t b (2 ^ 21) ∧ ∀ o v, (o, v) ∈ image → homeByte t (b + o) = v)) ∧
    (∀ c, s.guests = [⟨h, g, c⟩] → exec (.granuleMoveEnd (some h) g b image) s = .next { s with guests := [] })) ∧
  (∀ s g u, Sparse.wf .atHome s.granules = true → (granuleOf s g).pin = some u →
    (s.time < u → exec (.contestPinEnd g) s = .next s) ∧
    (u ≤ s.time → (granuleOf s g).place ≠ .moving → After (.contestPinEnd g) s (fun t => t = { s with granules := t.granules } ∧
      GranuleIs s t g { granuleOf s g with pin := none, moves := [] }))) ∧
  (∀ s a p x n, Due s a → a.parts = [p] → p.done = false → p.sent = none → p.tgt = .dram x → a.kind = .store → a.atHome = false →
    onPacketPlane s a = true → dieIsDown s (homeDie x) = false → (granuleOf s (x / 2 ^ 21)).place = .moving →
    (granuleOf s (x / 2 ^ 21)).nacked = [((8192 + a.isle, 0), .inl a.id)] → Sum.inl a.id ∉ (granuleOf s (x / 2 ^ 21)).held →
    a.nack = some n → Sparse.wf .atHome s.granules = true →
    (s.time < n.next → exec (.moveRetry a.id) s = .next s) ∧
    (n.next ≤ s.time → (granuleOf s (x / 2 ^ 21)).held.length < 64 → After (.moveRetry a.id) s (fun t =>
      (∃ c, t.access a.id = some c ∧ c.nack = none) ∧ KeepsMemory s t ∧
      granuleOf t (x / 2 ^ 21) = { granuleOf s (x / 2 ^ 21) with
        nacked := [], held := (granuleOf s (x / 2 ^ 21)).held ++ [.inl a.id] })) ∧
    (n.next ≤ s.time → (granuleOf s (x / 2 ^ 21)).held.length = 64 → After (.moveRetry a.id) s (fun t =>
      KeepsMemory s t ∧ ∃ c, t.access a.id = some c ∧ c.nack = some ⟨n.first, s.time + Nat.min (2 * n.backoff) (64 * Config.ticksPerUs),
        Nat.min (2 * n.backoff) (64 * Config.ticksPerUs)⟩)))

/-- R148 to R151, R155, R357, R390, R391, R395, R407: the links of the dies and of the fabric. A turn starts for the pending request of the
highest PRIO, the earliest among equals, no sooner than 5 µs after the last one and as the fifth in 20 µs never; at its end the link
has the split, and the TIDE completes GRANTED; one that has waited for 100 µs completes EXPIRED. Requests over a failed fabric link
are refused and circuits over it break; a retrained one carries traffic again. Load data lost on a link arrives poisoned, lost write
data poisons its target and makes LINKERR, a lost line of an engine command is kept with it, and a lost control flit ends the
transactions in flight. -/
def Obligations.LinkEvents : Prop :=
  (∀ s n pre r post, (s.links.map Prod.fst).Nodup →
    let x := s.link n
    x.turning = none → x.pending = pre ++ r :: post → (∀ q ∈ pre, q.prio < r.prio) → (∀ q ∈ post, q.prio ≤ r.prio) →
    let recent := x.starts.filter (fun u => decide (s.time < u + 20 * Config.ticksPerUs))
    (((∃ u, x.lastEnd = some u ∧ s.time < u + 5 * Config.ticksPerUs) ∨ 4 ≤ recent.length) → exec (.turnStart n) s = .next s) ∧
    ((∀ u, x.lastEnd = some u → u + 5 * Config.ticksPerUs ≤ s.time) → recent.length < 4 → After (.turnStart n) s (fun t =>
      t = { s with links := t.links, counters := t.counters } ∧ LinkIs s t n { x with
        pending := x.pending.filter (fun q => q ≠ r), turning := some (r, r.wanted, s.time + Config.ticksPerUs / 25),
        starts := recent ++ [s.time] }))) ∧
  (∀ s n r split u k i c, Calm s → (s.links.map Prod.fst).Nodup → s.inst k = some i → i.uid = r.uid → i.cmds = [c] → c.id = r.cmd →
    engineOf c.word = some .td →
    let done (z status : Nat) : Inst := { i with
      cmds := [], cntTd := i.cntTd + 1, engObs := i.engObs ++ c.obs.map (fun m => (.td, m))
      tideSt := BitVec.ofNat 64 (status + 2 ^ 8 * linkNumber n + 2 ^ 16 * z) }
    ((s.link n).turning = some (r, split, u) →
      (s.time < u → exec (.turnEnd n) s = .next s) ∧
      (u ≤ s.time → (∀ q ∈ (s.link n).pending, q.wanted ≠ split) → After (.turnEnd n) s (fun t =>
        t = { s with links := t.links, slots := t.slots } ∧ LinkIs s t n { s.link n with split := split, turning := none, lastEnd := some s.time } ∧
        t.inst k = some (done split 1) ∧ ∀ m, m ≠ k → t.inst m = s.inst m))) ∧
    ((s.link n).pending = [r] → r.entered + 100 * Config.ticksPerUs ≤ s.time → After (.tideExpired n r.region) s (fun t =>
      t = { s with links := t.links, slots := t.slots } ∧ LinkIs s t n { s.link n with pending := [] } ∧
      t.inst k = some (done (s.link n).split 3) ∧ ∀ m, m ≠ k → t.inst m = s.inst m))) ∧
  (∀ s n, Sparse.wf .reset s.ports = true →
    ((s.port n).failed = true → exec (.linkFailure n) s = .next s) ∧
    ((s.port n).failed = false → s.acc = [] → (∀ x ∈ s.xpts, x.xpt ≠ .port n true ∧ x.xpt ≠ .port n false) →
      Swept (.linkFailure n) s (fun t =>
        t = { s with ports := t.ports } ∧ t.port n = { s.port n with failed := true } ∧ ∀ m, m ≠ n → t.port m = s.port m)) ∧
    After (.linkRetrain n) s (fun t => t = { s with ports := t.ports } ∧ t.port n = { s.port n with failed := false } ∧
      ∀ m, m ≠ n → t.port m = s.port m)) ∧
  (∀ s n a p i l q pa me, Pending s a p i l → s.acc = [a] → (∀ x ∈ s.xpts, x.xpt ≠ .port n true ∧ x.xpt ≠ .port n false) →
    (∀ m ∈ s.meters, heldBack m a.id = false) → p.tgt = .peer q pa → q < 4096 → p.sent ≠ none → l.part.foreign.testBit q = false →
    selfOf l.part = some me → fabricPort s me q = some n → (s.port n).failed = false → Sparse.wf .reset s.ports = true →
    After (.linkFailure n) s (fun t => Refused s t a p i l 5 ∧ (t.port n).failed = true)) ∧
  (∀ s n k h i prio pre, Calm s → s.acc = [] → s.xpts = [⟨.port n true, .strait k h, prio, pre⟩] → s.inst k = some i → i.cmds = [] →
    Sparse.wf .closed i.h = true → (i.handle h).st = .opened → (i.handle h).autofb = false → (s.port n).failed = false →
    After (.linkFailure n) s (fun t => t.xpts = [] ∧
      ∃ j, t.inst k = some j ∧ j.handle h = { i.handle h with st := .broken, cause := 4 })) ∧
  (∀ s n m prio pre, (s.port n).failed = false → s.acc = [] → s.xpts = [⟨.port n true, .promoted m.flow, prio, pre⟩] → s.meters = [m] →
    s.isSelf m.flow.peer = false → (m.st = .circ ∨ m.st = .demoting) →
    Swept (.linkFailure n) s (fun t => t.meters = [{ m with st := .breaking, since := s.time }] ∧ t.xpts = [])) ∧
  (∀ s n a p i l, Pending s a p i l →
    (∀ r, (a.kind = .load ∨ a.kind = .cas ∨ ∃ fn, a.kind = .amo fn) → i.reqs = [r] → r.id = a.id →
      let lost (e : Instr) : Prop := After e s (fun t => t.access a.id = none ∧ KeepsMemory s t ∧
        t.inst a.isle = some { i with reqs := [{ r with arrived := true, data := [(p.lane, p.res)], fails := [(p.lane, .poison)], va := p.va }] })
      (∀ x, DramPart s p x → x < spreadBase → Crosses a.isle x n → lost (.linkFlitError n (.loadData a.id))) ∧
      (p.sent ≠ none → (∀ m ∈ s.meters, heldBack m a.id = false) → partPort s a p = some n → lost (.fabricFlitError n (.loadData a.id)))) ∧
    (∀ x, a.kind = .store → DramPart s p x → x < spreadBase → Crosses a.isle x n → n < 18 → Sparse.wf false s.poison = true →
      let entry (data : Nat) : FaultEntry :=
        ⟨0x18, data + 16 * homeDie x + linkNumber n, ctxCode a.ctx, a.rank, a.isle, a.pc, p.va, false⟩
      (0 < p.len → l.chain.headD 0 + 128 ≤ x / 64 * 64 → After (.linkFlitError n (.storeData a.id)) s (fun t =>
        t.access a.id = none ∧ memPoison t x p.len = true ∧ Enters s t l (entry 128))) ∧
      (∀ y, y < spreadBase / 64 → After (.linkFlitError n (.control [a.id] [y])) s (fun t =>
        t.access a.id = none ∧ memPoison t (64 * y) 64 = true ∧ Enters s t l (entry 0)))) ∧
    exec (.fabricFlitError n (.storeData a.id)) s = .next s) ∧
  (∀ s k i l c n y, Calm s → s.slots = [(k, i)] → s.launch i.launch = some l → i.cmds = [c] →
    exec (.linkFlitError n (.engineRead c.id y)) s =
      .next { s with slots := [(k, { i with cmds := [{ c with lost := c.lost ++ [(y, false)] }] })] } ∧
    (∀ a p, s.acc = [a] → a.kind = .engRead c.id → a.uid = i.uid → a.parts = [p] → p.done = false → p.sent ≠ none → s.meters = [] →
      partPort s a p = some n → After (.fabricFlitError n (.engineRead c.id y)) s (fun t => t.acc = [] ∧
        t.slots = [(k, { i with cmds := [{ c with got := c.got ++ [{ p with done := true, st := .poison }] }] })])) ∧
    (n < 8 →
      let fpa : Word := BitVec.ofNat 64 (2 ^ 63 + (selfPeer s i).getD 0 * 2 ^ 45 + 64 * y)
      let entry : FaultEntry := ⟨0x18, 16 * n + 128, 0, i.rank, k, c.pc, (writesLine s ⟨k, i, c⟩ y).getD fpa, false⟩
      After (.linkFlitError n (.engineWrite c.id y)) s (fun t => Enters s t l entry ∧
        t.slots = [(k, { noteFault entry i with cmds := [{ c with lost := c.lost ++ [(y, true)] }] })])) ∧
    exec (.fabricFlitError n (.engineWrite c.id y)) s = .next s) ∧
  (∀ s n y, y < spreadBase / 64 → Sparse.wf false s.poison = true →
    ∀ e ∈ [Instr.linkFlitError n (.arriving y), .fabricFlitError n (.arriving y)], After e s (fun t =>
      t = { s with poison := t.poison } ∧ memPoison t (64 * y) 64 = true)) ∧
  (∀ s n ids lines, exec (.fabricFlitError n (.control ids lines)) s = exec (.linkFailure n) s)

/-- R107, R141, R158 to R169, R351, R366, R372: window packets, flow meters and circuits. A packet from a peer is checked, written to the
scratchpad it names or refused whole, and held behind an open circuit of its flow. The sender of a promotion goes from PROBE to CIRC
with a marked packet or to HOLD, from CIRC to demotion or, broken, to waiting for the teardown report, then resends from A to E; a probe
that finds its way to an isle of this device is taken there, where R141, R107 and the promotion buffers let it, or its instance for a
ring, and holds its crosspoints; the receiver holds bytes until the marked packet, no more than 16 KiB of them, and then writes them,
with a token for each further 1 KiB and a final one. A strait's handle follows its tokens, breaks or goes into FALLBACK, and closes when
that is sent. -/
def Obligations.CircuitEvents : Prop :=
  (∀ s (p : WindowPacket), s.receiver { p.flow with peer := p.srcPeer } = none →
    let base := spadBase + p.flow.isle * 2 ^ 22 + p.cursor
    let answers (a : Answer) : Prop := exec (.windowPacketArrival p) s = .next { s with out := s.out ++ [.response p.srcPeer a 0] }
    (s.ingress = [] → answers (.refused 1)) ∧
    (∀ n e, s.ingress = [(n, e)] → e.opened = true → e.src = p.srcPeer → e.tenant = p.tenant → e.lbase ≤ base →
      base + p.data.length ≤ e.lbase + 2 ^ e.logsz →
      (e.gen ≠ p.gen → answers (.refused 2)) ∧ (e.gen = p.gen → e.w = false → answers (.refused 3)) ∧
      (e.gen = p.gen → e.w = true → (s.inst p.flow.isle = none → answers (.refused 4)) ∧
        (∀ i l, s.inst p.flow.isle = some i → i.life = .running → Plain s i l →
          (i.counts.spad * 16384 < p.cursor + p.data.length → answers (.refused 4)) ∧
          (p.cursor + p.data.length ≤ i.counts.spad * 16384 → Sparse.wf 0 i.spad = true → After (.windowPacketArrival p) s (fun t =>
            t = { s with slots := t.slots, out := s.out ++ [.response p.srcPeer (.ok 0) 0] } ∧ PadTakes s t p.flow.isle i p.cursor p.data))))) ) ∧
  (∀ s (p : WindowPacket) r n e, let f : Flow := { p.flow with peer := p.srcPeer }
    let base := spadBase + p.flow.isle * 2 ^ 22 + p.cursor
    s.receivers = [r] → r.flow = f → r.mark ≠ none → s.ingress = [(n, e)] → e.opened = true → e.src = p.srcPeer → e.tenant = p.tenant →
    e.lbase ≤ base → base + p.data.length ≤ e.lbase + 2 ^ e.logsz → e.gen = p.gen → e.w = true →
    exec (.windowPacketArrival p) s = .next { s with receivers := [{ r with packets := r.packets ++ [(p.cursor, p.data)] }] }) ∧
  (∀ s f m, OneMeter s f m →
    let free := s.xpts.filter (fun x => x.circ ≠ .promoted f)
    (s.time < m.lastSend + 2 * Config.ticksPerUs → exec (.meterIdle f) s = .next s) ∧
    (m.lastSend + 2 * Config.ticksPerUs ≤ s.time → After (.meterIdle f) s (fun t => t = { s with meters := t.meters } ∧
      MeterIs s t f { m with count := 0 })) ∧
    (m.st = .probe →
      (∀ b, b ≤ 3 → After (.probeSuccess f b) s (fun t =>
        (s.isSelf f.peer = false → t = { s with meters := t.meters, counters := t.counters, out := s.out ++ [.marked f m.endOff] }) ∧
        (s.isSelf f.peer = true → t = { s with meters := t.meters, counters := t.counters, loop := s.loop ++ [.marked f m.endOff] }) ∧
        MeterIs s t f { m with st := .circ, since := s.time, lastSend := s.time, acked := m.endOff, onCircuit := [] })) ∧
      (∀ b, After (.probeFail f b) s (fun t => t = { s with meters := t.meters, counters := t.counters, xpts := free } ∧
        MeterIs s t f { m with st := .hold, since := s.time }))) ∧
    (m.st = .hold →
      (s.time < m.since + 20 * Config.ticksPerUs → exec (.holdExpiry f) s = .next s) ∧
      (m.since + 20 * Config.ticksPerUs ≤ s.time → After (.holdExpiry f) s (fun t => t = { s with meters := t.meters } ∧
        MeterIs s t f { m with st := .pkt, count := 0, since := s.time }))) ∧
    (m.st = .circ →
      (s.time < m.lastSend + 2 * Config.ticksPerUs → exec (.circuitIdle f) s = .next s) ∧
      (m.lastSend + 2 * Config.ticksPerUs ≤ s.time → After (.circuitIdle f) s (fun t =>
        (s.isSelf f.peer = false → t = { s with meters := t.meters, counters := t.counters, out := s.out ++ [.demotionMark f] }) ∧
        (s.isSelf f.peer = true → t = { s with meters := t.meters, counters := t.counters, loop := s.loop ++ [.demotion f] }) ∧
        MeterIs s t f { m with st := .demoting, since := s.time }))) ∧
    (m.st = .circ ∨ m.st = .demoting → ∀ cause, After (.circuitBreak (.promoted f) cause) s (fun t =>
      (s.isSelf f.peer = false → t = { s with meters := t.meters, counters := t.counters, xpts := free }) ∧
      (s.isSelf f.peer = true → t.xpts = free ∧
        t.loop = (dropCircuitData f .promoted s).loop ++ [.broken (.arriving f .promoted) cause, .torn f]) ∧
      MeterIs s t f { m with st := .breaking, since := s.time }))) ∧
  (∀ s f m pk a, Calm s → OneMeter s f m → m.onCircuit = [pk] → s.acc = [a] → a.id = pk.acc → a.kind = .packet f pk.cursor →
    (∀ p ∈ a.parts, p.st = .ok) → s.versions = [] → s.isSelf f.peer = false →
    0 < pk.data.length → pk.data.length < 2 ^ 22 → pk.cursor < 2 ^ 22 →
    let off := (pk.cursor + pk.data.length) % 2 ^ 22
    (m.st = .circ → After (.tokenArrival (.promoted f) off) s (fun t => t = { s with meters := t.meters, counters := t.counters, acc := [] } ∧
      MeterIs s t f { m with acked := off, onCircuit := [] })) ∧
    (m.st = .demoting → m.waiting = [] → After (.tokenArrival (.promoted f) off) s (fun t =>
      t = { s with meters := t.meters, counters := t.counters, acc := [], xpts := s.xpts.filter (fun x => x.circ ≠ .promoted f),
                   out := s.out ++ [.teardown (.promoted f)] } ∧
      MeterIs s t f { m with acked := off, onCircuit := [], st := .pkt, count := 0, since := s.time })) ∧
    (∀ l, m.st = .breaking → m.waiting = [] → m.acked = pk.cursor → pk.data.length ≤ 2048 → a.id < s.nextId → s.launch a.launch = some l →
      After (.teardownReported f) s (fun t => MeterIs s t f { m with onCircuit := [], st := .hold, since := s.time } ∧
        t.out = s.out ++ [.packet ⟨(selfOf l.part).getD 0, l.part.tenant, genOf s l.part f.peer, f, pk.cursor, pk.data⟩] ∧
        t.access a.id = none ∧ ∃ b, t.acc = [b] ∧ b.id = s.nextId ∧ b.kind = .packet f pk.cursor ∧ b.ctx = .S ∧ b.uid = a.uid ∧
          b.launch = a.launch))) ∧
  (∀ s (p : Probe), s.isSelf p.srcPeer = false →
    let f : Flow := { p.flow with peer := p.srcPeer }
    let way := probeIn s ⟨.arriving f p.kind, p.prio, p.pre⟩ p.port p.flow.isle p.backtracks
    let answer (good : Bool) (n : Nat) : Out := .probeAnswer p.srcPeer f p.kind good n
    (way = none → exec (.probeArrival p) s = .next { s with out := s.out ++ [answer false 3] }) ∧
    (∀ w, way = some w → w.broken = [] →
      let held : List Xhold := w.held.map (fun x => ⟨x, .arriving f p.kind, p.prio, p.pre⟩)
      let refused : Prop := exec (.probeArrival p) s = .next { s with out := s.out ++ [answer false w.backs] }
      (p.kind = .promoted →
        (s.receiver f = none → (s.receivers.filter (fun r => r.flow.isle = p.flow.isle)).length < 4 →
          exec (.probeArrival p) s = .next { s with
            receivers := s.receivers ++ [⟨f, none, [], [], 0, 0⟩], xpts := s.xpts ++ held, out := s.out ++ [answer true w.backs] }) ∧
        (4 ≤ (s.receivers.filter (fun r => r.flow.isle = p.flow.isle)).length → refused)) ∧
      (∀ h a n, p.kind = .strait h → p.range = some (a, n) →
        (s.ingress = [] → refused) ∧
        (s.inst p.flow.isle = none → refused) ∧
        (∀ i l m e, s.ingress = [(m, e)] → s.inst p.flow.isle = some i → i.life = .running → Plain s i l →
          Covers e ⟨none, p.srcPeer, p.tenant, p.gen, spadBase + p.flow.isle * 2 ^ 22 + a, 0, .load n⟩ → e.gen = p.gen →
          (e.w = false → refused) ∧ (i.counts.spad * 16384 < a + n → refused) ∧
          (e.w = true → a + n ≤ i.counts.spad * 16384 → s.straits = [] → exec (.probeArrival p) s = .next { s with
            straits := [⟨f, h, none⟩], xpts := s.xpts ++ held, out := s.out ++ [answer true w.backs] }))) ∧
      (p.kind = .ring → p.range = some (0, 1) →
        (s.ingress = [] → refused) ∧
        (s.inst p.flow.isle = none → refused) ∧
        (∀ i l m e, s.ingress = [(m, e)] → s.inst p.flow.isle = some i → i.life = .running ∨ i.life = .retired → i.cmds = [] → Plain s i l →
          Covers e ⟨none, p.srcPeer, p.tenant, p.gen, spadBase + p.flow.isle * 2 ^ 22, 0, .load 1⟩ → e.gen = p.gen → e.w = true →
          ((∀ down, (down, p.srcPeer, p.flow.label) ∈ i.rotaDone → refused) ∧
           (i.rotaDone = [] → s.rotaEnded = [] →
             exec (.probeArrival p) s = .next { s with xpts := s.xpts ++ held, out := s.out ++ [answer true w.backs] })))))) ∧
  (∀ s r i l (c : CircuitSrc) off data, let d : CircuitData := circuitBytes c off data
    let f : Flow := { d.flow with peer := d.srcPeer }
    s.receivers = [r] → r.flow = f → d.kind = .promoted → s.isSelf d.srcPeer = false → s.inst d.flow.isle = some i → i.life = .running →
    Plain s i l → Sparse.wf 0 i.spad = true →
    (s.ingress = [] → r.mark = none →
      exec (.circuitDataArrival c off data) s = .next { s with out := s.out ++ [.response d.srcPeer (.refused 1) 0] }) ∧
    (judgeStream s d.srcPeer d.tenant d.gen d.flow.isle d.off d.data.length = none → d.off + d.data.length ≤ i.counts.spad * 16384 →
      (r.mark = none →
        ((r.held.map (fun h => h.2.length)).sum + d.data.length ≤ 16384 →
          exec (.circuitDataArrival c off data) s = .next { s with receivers := [{ r with held := r.held ++ [(d.off, d.data)] }] }) ∧
        (16384 < (r.held.map (fun h => h.2.length)).sum + d.data.length →
          exec (.circuitDataArrival c off data) s = .next { s with loop := s.loop ++ [.data d] })) ∧
      (∀ o, r.mark = some o → r.token ≤ d.off →
        (d.off + d.data.length < r.token + 1024 → After (.circuitDataArrival c off data) s (fun t =>
          t = { s with slots := t.slots, receivers := [{ r with reached := d.off + d.data.length }] } ∧
          PadTakes s t d.flow.isle i d.off d.data)) ∧
        (r.token + 1024 ≤ d.off + d.data.length → d.off + d.data.length < r.token + 2048 → After (.circuitDataArrival c off data) s (fun t =>
          t = { s with slots := t.slots, receivers := [{ r with reached := d.off + d.data.length, token := r.token + 1024 }],
                       out := s.out ++ [.token d.srcPeer f .promoted (r.token + 1024)] } ∧ PadTakes s t d.flow.isle i d.off d.data))))) ∧
  (∀ s f r i l off (data : List Byte), s.receivers = [r] → r.flow = f → s.isSelf f.peer = false → s.inst f.isle = some i →
    i.life = .running → Plain s i l → off + data.length ≤ i.counts.spad * 16384 → Sparse.wf 0 i.spad = true →
    let free := s.xpts.filter (fun x => x.circ ≠ .arriving f .promoted)
    (r.mark = none → r.held = [(off, data)] → data.length < 1024 → After (.markedPacketArrival f off) s (fun t =>
      t = { s with slots := t.slots, receivers := [{ r with mark := some off, held := [], reached := off + data.length, token := off }] } ∧
      PadTakes s t f.isle i off data)) ∧
    (∀ o, r.mark = some o → r.packets = [(off, data)] →
      After (.demotionMarkArrival f) s (fun t =>
        t = { s with slots := t.slots, receivers := [], xpts := free, loop := t.loop,
                     out := s.out ++ [.token f.peer f .promoted r.reached, .response f.peer (.ok 0) 0] } ∧
        PadTakes s t f.isle i off data) ∧
      (∀ cause, After (.circuitBreak (.arriving f .promoted) cause) s (fun t =>
        t = { s with slots := t.slots, receivers := [], xpts := free, loop := t.loop,
                     out := s.out ++ [.response f.peer (.ok 0) 0, .teardown (.arriving f .promoted)] } ∧
        PadTakes s t f.isle i off data)))) ∧
  (∀ s i l h (c : CircuitSrc) off data, let d : CircuitData := circuitBytes c off data
    let f : Flow := { d.flow with peer := d.srcPeer }
    s.straits = [⟨f, h, none⟩] → d.kind = .strait h → s.isSelf d.srcPeer = false → s.inst d.flow.isle = some i → i.life = .running →
    Plain s i l → d.off + d.data.length ≤ i.counts.spad * 16384 → Sparse.wf 0 i.spad = true →
    judgeStream s d.srcPeer d.tenant d.gen d.flow.isle d.off d.data.length = none → 0 < d.data.length →
    (d.ends = true → d.data.length ≤ 1024 → After (.circuitDataArrival c off data) s (fun t =>
      t = { s with slots := t.slots, straits := [⟨f, h, some (d.off + d.data.length)⟩],
                   out := s.out ++ [.token d.srcPeer f (.strait h) (d.off + d.data.length)] } ∧ PadTakes s t d.flow.isle i d.off d.data)) ∧
    (d.ends = false → d.data.length < 1024 → After (.circuitDataArrival c off data) s (fun t =>
      t = { s with slots := t.slots, straits := [⟨f, h, some d.off⟩] } ∧ PadTakes s t d.flow.isle i d.off d.data))) ∧
  (∀ s k h i l, Calm s → s.inst k = some i → s.launch i.launch = some l → (i.handle h).st = .opened → Sparse.wf .closed i.h = true →
    let x := i.handle h
    let torn (t : State) (out : List Out) : Prop :=
      t = { s with slots := t.slots, xpts := s.xpts.filter (fun x => x.circ ≠ .strait k h), out := out } ∧ ∀ n, n ≠ k → t.inst n = s.inst n
    (∀ off, x.ackoff.toNat < off → off ≤ x.sentoff.toNat →
      let e := Instr.tokenArrival (.strait k h) (x.rbase.toNat + off)
      (i.cmds = [] → After e s (fun t => OnlyIsle k s t ∧ ∃ j, t.inst k = some j ∧ j = { i with h := j.h } ∧
        j.handle h = { x with ackoff := BitVec.ofNat 23 off } ∧ ∀ g, g ≠ h → j.handle g = i.handle g)) ∧
      (∀ c o frm upTo, i.cmds = [c] → (c.word = .csend o ∨ c.word = .csendResume o) → o.h.toNat = h → c.phase = .streaming frm upTo →
        upTo ≤ off → After e s (fun t => OnlyIsle k s t ∧ ∃ j, t.inst k = some j ∧ j.cmds = [] ∧ j.cntCi = i.cntCi + 1 ∧
          j.handle h = { x with ackoff := BitVec.ofNat 23 off }))) ∧
    (x.pre = false → exec (.circuitBreak (.strait k h) 3) s = .next s) ∧
    (s.time < x.leaseEnd → exec (.leaseExpiry k h) s = .next s) ∧
    (s.isSelf x.peer.toNat = false →
      (x.autofb = false → i.cmds = [] →
        (∀ cause, (cause = 3 → x.pre = true) → After (.circuitBreak (.strait k h) cause) s (fun t =>
          torn t (s.out ++ [.teardown (.strait k h)]) ∧ ∃ j, t.inst k = some j ∧ j = { i with h := j.h } ∧
            j.handle h = { x with st := .broken, cause := cause } ∧ ∀ g, g ≠ h → j.handle g = i.handle g)) ∧
        (x.leaseEnd ≤ s.time → After (.leaseExpiry k h) s (fun t => torn t (s.out ++ [.teardown (.strait k h)]) ∧
          ∃ j, t.inst k = some j ∧ j = { i with h := j.h } ∧ j.handle h = { x with st := .broken, cause := 2 }))) ∧
      (x.autofb = true → x.leaseEnd ≤ s.time → i.spadPoison = [] →
        let f : Flow := ⟨k, x.peer.toNat, x.isle.toNat, x.label.toNat⟩
        let n := x.sentoff.toNat - x.ackoff.toNat
        (n = 0 → i.cmds = [] → After (.leaseExpiry k h) s (fun t => torn t (s.out ++ [.teardown (.strait k h)]) ∧
          ∃ j, t.inst k = some j ∧ j = { i with h := j.h } ∧ j.handle h = { x with st := .fallback, cause := 2 })) ∧
        (0 < n → n ≤ 2048 → After (.leaseExpiry k h) s (fun t => (∃ j, t.inst k = some j ∧
            j.handle h = { x with st := .fallback, cause := 2 }) ∧
          t.out = s.out ++ [.teardown (.strait k h), .packet ⟨(selfOf l.part).getD 0, l.part.tenant, genOf s l.part x.peer.toNat, f,
            x.rbase.toNat + x.ackoff.toNat,
            (List.range n).map (fun b => Sparse.get 0 i.spad (x.lbase.toNat + x.ackoff.toNat + b))⟩]))))) ∧
  (∀ s k h i, Calm s → s.inst k = some i → (i.handle h).st = .fallback → Sparse.wf .closed i.h = true →
    (∀ a ∈ s.acc, ∀ f c, a.kind ≠ .fallback f c h) → ∀ c o frm e, i.cmds = [c] → (c.word = .csend o ∨ c.word = .csendResume o) →
    o.h.toNat = h → c.phase = .streaming frm e →
    After (.fallbackDone k h) s (fun t => OnlyIsle k s t ∧ ∃ j, t.inst k = some j ∧ j.cmds = [] ∧ j.cntCi = i.cntCi + 1 ∧
      j.handle h = { i.handle h with st := .closed }))

/-- R161, R165, R171, R173, R188, R327, R328, R332, R335 to R337, R339, R349 to R355, R358, R361, R362, R365, R366, R370: engine commands
that start and complete, and what reaches the collectives. A command of a data engine starts, MXM.RB with the latched operand that is
valid for its B; MXZ clears its tile, MXM over INT8 adds the exact products, CPY over bytes copies them; a COPEN waits in FALLBACK, ends
in OPEN, else takes its operands and probes over the crosspoints of its way, and opens or fails; CHOLD extends the lease, CSEND streams,
CSHUT closes, CSTAT writes; a TIDE enters its request or completes at once; TREE writes its entry or records why not. A contribution is
held, joined to its command, or fails it; a multicast packet goes to every child, and to ISLE where LOCAL is set; a rotation asks for
its circuit with the first token (log 22), sends, takes and consumes casks, counts tokens, reopens its circuit by probes 20 µs apart and
resumes the cask under way, and fails. -/
def Obligations.EngineEvents : Prop :=
  (∀ s k i l c m z d a p x, Lone s k i l c → c.phase = .queued →
    let starts (e : Engine) (latched : Option Latch) : Prop := After (.engineCommandStart k e c.id) s (fun t =>
      OnlyIsle k s t ∧ t.inst k = some { i with cmds := [{ c with phase := .running, latched := latched }] })
    ((c.word = .mxm m ∨ c.word = .mxz z ∨ c.word = .mxd d) → starts .mx none) ∧
    (c.word = .mxmRb m → starts .mx (i.latch.filter (fun l => l.desc = c.ds.getD 1 0))) ∧
    ((c.word = .cpy p ∨ c.word = .cpyT8 p ∨ c.word = .cpyT16 p ∨ c.word = .wload p ∨ c.word = .gather x ∨ c.word = .scatter x ∨
      c.word = .scadd x) → starts .cp none) ∧
    (c.word = .att a → starts .at none)) ∧
  (∀ s k i l c, Lone s k i l c → c.phase = .running →
    (∀ o, c.word = .mxz o → Sparse.wf 0 i.acc = true → After (.engineCommandComplete k .mx c.id none []) s (fun t => OnlyIsle k s t ∧
      ∃ j, t.inst k = some j ∧ Counted i j .mx ∧ ∀ a m n, m < 128 → n < 128 →
        Sparse.get 0 j.acc (16384 * a + 128 * m + n) = if a = o.acc.toNat then 0 else Sparse.get 0 i.acc (16384 * a + 128 * m + n))) ∧
    (∀ o mm nn kk, (c.word = .mxm o ∨ c.word = .mxmRb o) → c.latched = none → ByteMatrix (c.desc 0) mm kk → ByteMatrix (c.desc 1) nn kk → mm ≤ 128 → nn ≤ 128 → Sparse.wf 0 i.acc = true →
      let at_ (d : Desc) (r q : Nat) : Int := (Sparse.get 0 i.spad (d.base + r * d.str 1 + q)).toInt
      let key (a m n : Nat) : Nat := 16384 * a + 128 * m + n
      After (.engineCommandComplete k .mx c.id none []) s (fun t => OnlyIsle k s t ∧ ∃ j, t.inst k = some j ∧ Counted i j .mx ∧
        j.spad = i.spad ∧
        (∀ m n, m < mm → n < nn → Sparse.get 0 j.acc (key o.acc.toNat m n) = Sparse.get 0 i.acc (key o.acc.toNat m n) +
          BitVec.ofInt 32 ((List.range kk).map (fun q => at_ (c.desc 0) m q * at_ (c.desc 1) n q)).sum) ∧
        (∀ a m n, m < 128 → n < 128 → ¬ (a = o.acc.toNat ∧ m < mm ∧ n < nn) → Sparse.get 0 j.acc (key a m n) = Sparse.get 0 i.acc (key a m n)))) ∧
    (∀ o m n, c.word = .cpy o → c.rows = 0 → ByteMatrix (c.desc 0) m n → ByteMatrix (c.desc 1) m n → 0 < n → Sparse.wf 0 i.spad = true →
      let to_ (r q : Nat) : Nat := (c.desc 0).base + r * (c.desc 0).str 1 + q
      let from_ (r q : Nat) : Nat := (c.desc 1).base + r * (c.desc 1).str 1 + q
      (∀ r q r' q', r < m → q < n → r' < m → q' < n → to_ r q ≠ from_ r' q' ∧ (to_ r q = to_ r' q' → r = r' ∧ q = q')) →
      After (.engineCommandComplete k .cp c.id none []) s (fun t => OnlyIsle k s t ∧ ∃ j, t.inst k = some j ∧ Counted i j .cp ∧
        (∀ r q, r < m → q < n → Sparse.get 0 j.spad (to_ r q) = Sparse.get 0 i.spad (from_ r q)) ∧
        (∀ a, (∀ r q, r < m → q < n → a ≠ to_ r q) → Sparse.get 0 j.spad a = Sparse.get 0 i.spad a)))) ∧
  (∀ s k i l c, Lone s k i l c → Sparse.wf .closed i.h = true →
    let lease (x : BitVec 14) : Nat := s.time + Nat.max 1 (Nat.min 10000 x.toNat) * Config.ticksPerUs
    (∀ o, c.word = .copen o →
      let n := o.h.toNat
      let x := i.handle n
      let self := selfOf l.part
      let y : Handle := ⟨.opening, 0, c.gy.getLsbD 63, BitVec.ofNat 3 l.eff.prio, l.eff.preemptible, c.gx.extractLsb' 52 12,
        c.gx.extractLsb' 44 8, c.gx.extractLsb' 36 8, c.gy.extractLsb' 0 22, c.gx.extractLsb' 0 22, c.gy.extractLsb' 23 23, 0, 0, x.leaseEnd⟩
      let f : Flow := ⟨k, y.peer.toNat, y.isle.toNat, y.label.toNat⟩
      let own : Prop := self = some f.peer ∧ f.isle = k
      let way := probeWay s self ⟨.strait k n, l.eff.prio % 8, l.eff.preemptible⟩ f
      let free := s.xpts.filter (fun x => x.circ ≠ .strait k n)
      let ends (t : State) (h : Handle) : Prop := ∃ j, t.inst k = some j ∧ Counted i j .ci ∧ j.handle n = h
      (c.phase = .queued → x.st = .fallback → After (.engineCommandStart k .ci c.id) s (fun t => OnlyIsle k s t ∧
        t.inst k = some { i with cmds := [{ c with phase := .running }] })) ∧
      (c.phase = .queued → x.st = .opened → After (.engineCommandStart k .ci c.id) s (fun t => OnlyIsle k s t ∧ ends t x)) ∧
      (c.phase = .queued → x.st = .closed →
        (∀ w q, ¬ own → way = some (w, q) → w.broken = [] → After (.engineCommandStart k .ci c.id) s (fun t =>
          t = { s with slots := t.slots, xpts := s.xpts ++ w.held.map (fun x => ⟨x, .strait k n, l.eff.prio % 8, l.eff.preemptible⟩),
                       out := s.out ++ q.toList.map (fun q => .probe ⟨self.getD 0, l.part.tenant, genOf s l.part f.peer, f, .strait n,
                         l.eff.prio % 8, l.eff.preemptible, some (y.rbase.toNat, y.len.toNat), w.backs, q⟩) } ∧
          ∃ j, t.inst k = some j ∧ j = { i with h := j.h, cmds := [{ c with phase := .probing }] } ∧ j.handle n = y ∧
            ∀ g, g ≠ n → j.handle g = i.handle g)) ∧
        (own ∨ way = none → After (.engineCommandStart k .ci c.id) s (fun t => t = { s with slots := t.slots, xpts := free } ∧
          ends t { y with st := .failed, cause := 6 }))) ∧
      (c.phase = .probing → x.st = .opening →
        (self ≠ some x.peer.toNat →
          (∀ v, After (.engineCommandComplete k .ci c.id none [(0, .ok v)]) s (fun t => OnlyIsle k s t ∧
            ends t { x with st := .opened, leaseEnd := lease (c.gy.extractLsb' 46 14) })) ∧
          (∀ st, After (.engineCommandComplete k .ci c.id none [(0, .refused st)]) s (fun t =>
            t = { s with slots := t.slots, xpts := free } ∧ ends t { x with st := .failed, cause := 6 }))) ∧
        (self = some x.peer.toNat →
          (s.inst x.isle.toNat = none → After (.engineCommandComplete k .ci c.id none []) s (fun t =>
            t = { s with slots := t.slots, xpts := free } ∧ ends t { x with st := .failed, cause := 6 })) ∧
          (∀ j, s.inst x.isle.toNat = some j → (s.launch j.launch).isSome = true → x.rbase.toNat + x.len.toNat ≤ j.counts.spad * 16384 →
            s.straits = [] → After (.engineCommandComplete k .ci c.id none []) s (fun t =>
              t = { s with slots := t.slots, straits := [⟨⟨k, x.peer.toNat, x.isle.toNat, x.label.toNat⟩, n, none⟩] } ∧
              ends t { x with st := .opened, leaseEnd := lease (c.gy.extractLsb' 46 14) }))))) ∧
    (∀ o, c.word = .chold o → c.phase = .queued → (i.handle o.h.toNat).st = .opened → After (.engineCommandStart k .ci c.id) s (fun t =>
      OnlyIsle k s t ∧ ∃ j, t.inst k = some j ∧ Counted i j .ci ∧
        j.handle o.h.toNat = { i.handle o.h.toNat with leaseEnd := lease (c.gx.extractLsb' 0 14) })) ∧
    (∀ o, (c.word = .csend o ∨ c.word = .csendResume o) → c.phase = .queued → (i.handle o.h.toNat).st = .opened →
      let x := i.handle o.h.toNat
      let from_ := if c.word = .csend o then x.sentoff.toNat else x.ackoff.toNat
      let upTo := Nat.min x.len.toNat (x.sentoff.toNat + (c.gx.extractLsb' 0 23).toNat)
      (upTo ≤ from_ → After (.engineCommandStart k .ci c.id) s (fun t => OnlyIsle k s t ∧ ∃ j, t.inst k = some j ∧ Counted i j .ci)) ∧
      let self := selfOf l.part
      let d : CircuitData := ⟨self.getD 0, l.part.tenant, genOf s l.part x.peer.toNat, ⟨k, x.peer.toNat, x.isle.toNat, x.label.toNat⟩,
        .strait o.h.toNat, x.rbase.toNat + from_,
        (List.range (upTo - from_)).map (fun n => Sparse.get 0 i.spad (x.lbase.toNat + from_ + n)), true⟩
      (from_ < upTo → After (.engineCommandStart k .ci c.id) s (fun t =>
        (self ≠ some x.peer.toNat → t = { s with slots := t.slots, out := s.out ++ [.circuitData d] }) ∧
        (self = some x.peer.toNat → t = { s with slots := t.slots, loop := s.loop ++ [.data d] }) ∧
        ∃ j, t.inst k = some j ∧ j = { i with h := j.h, cmds := [{ c with phase := .streaming from_ upTo }] } ∧
          j.handle o.h.toNat = { x with sentoff := BitVec.ofNat 23 upTo }))) ∧
    (∀ o, c.word = .cshut o → c.phase = .running → (i.handle o.h.toNat).st = .opened → After (.engineCommandComplete k .ci c.id none []) s (fun t =>
      (s.isSelf (i.handle o.h.toNat).peer.toNat = false → t = { s with
        slots := t.slots, xpts := s.xpts.filter (fun x => x.circ ≠ .strait k o.h.toNat), out := s.out ++ [.teardown (.strait k o.h.toNat)] }) ∧
      (s.isSelf (i.handle o.h.toNat).peer.toNat = true → t = { s with
        slots := t.slots, straits := t.straits, loop := t.loop, xpts := s.xpts.filter (fun x => x.circ ≠ .strait k o.h.toNat) }) ∧
      ∃ j, t.inst k = some j ∧ Counted i j .ci ∧ j.handle o.h.toNat = { i.handle o.h.toNat with st := .closed, cause := 1 })) ∧
    (∀ o, c.word = .cstat o → c.phase = .running → Sparse.wf 0 i.spad = true → After (.engineCommandComplete k .ci c.id none []) s (fun t =>
      OnlyIsle k s t ∧ ∃ j, t.inst k = some j ∧ Counted i j .ci ∧
        ∀ n b, c.block[n]? = some b → Sparse.get 0 j.spad ((c.gx.extractLsb' 0 22).toNat + n) = b))) ∧
  (∀ s k i l c o, Lone s k i l c → c.word = .tide o → c.phase = .queued → o.link.toNat = 0 → k < 256 →
    let n := k / 32
    let wanted := Nat.max 2 (Nat.min 22 (c.gx.extractLsb' 0 5).toNat)
    (wanted = (s.link n).split → (s.link n).pending = [] → After (.engineCommandStart k .td c.id) s (fun t =>
      ∃ j, t.inst k = some j ∧ Counted i j .td ∧ j.tideSt = BitVec.ofNat 64 (1 + 2 ^ 16 * wanted) ∧ LinkIs s t n (s.link n))) ∧
    (wanted ≠ (s.link n).split → (∀ r ∈ (s.link n).pending, r.region ≠ l.chain.headD 0 ∧ r.wanted ≠ (s.link n).split) →
      After (.engineCommandStart k .td c.id) s (fun t => t = { s with links := t.links, slots := t.slots } ∧
        LinkIs s t n { s.link n with pending := (s.link n).pending ++ [⟨k, i.uid, c.id, l.chain.headD 0, wanted, l.eff.prio, s.time⟩] } ∧
        t.inst k = some { i with cmds := [{ c with phase := .pending }] }))) ∧
  (∀ s k i l c o, Lone s k i l c → s.slots = [(k, i)] → c.word = .tree o → c.phase = .queued → Sparse.wf 0 s.trees = true →
    let n := (c.gx.extractLsb' 0 8).toNat
    let a := (c.gy.extractLsb' 0 22).toNat
    let bit (b : Nat) : Bool := (Sparse.get 0 i.spad (a + b / 8)).getLsbD (b % 8)
    let old := Sparse.get 0 s.trees n
    let mayWrite : Prop := old.getLsbD 128 = false ∨ (old.extractLsb' 160 16).toNat = l.part.tenant
    let reserved (b : Nat) : Prop := (131 ≤ b ∧ b < 136) ∨ (151 ≤ b ∧ b < 160) ∨ (176 ≤ b ∧ b < 256)
    let up := ((List.range 7).map (fun b => if bit (144 + b) then 2 ^ b else 0)).sum
    let ports : Prop := (∀ b, b < 128 → bit b = true → isGridPort s b = true) ∧ isGridPort s up = true
    let fault (d : Nat) : Prop := After (.engineCommandStart k .cl c.id) s (fun t => Enters s t l ⟨0x14, n + 256 * d, 0, i.rank, k, c.pc, 0, false⟩ ∧
      t.trees = s.trees ∧ ∃ j, t.inst k = some j ∧ Counted i j .cl)
    (¬ mayWrite → fault 1) ∧
    (mayWrite → (∃ b, reserved b ∧ bit b = true) → fault 2) ∧
    (mayWrite → (∀ b, reserved b → bit b = false) → ¬ ports → fault 3) ∧
    (mayWrite → (∀ b, reserved b → bit b = false) → ports →
      After (.engineCommandStart k .cl c.id) s (fun t => t = { s with trees := t.trees, slots := t.slots } ∧
        (∀ b, b < 256 → (Sparse.get 0 t.trees n).getLsbD b = if 160 ≤ b ∧ b < 176 then l.part.tenant.testBit (b - 160) else bit b) ∧
        (∀ m, m ≠ n → Sparse.get 0 t.trees m = Sparse.get 0 s.trees m) ∧ ∃ j, t.inst k = some j ∧ Counted i j .cl))) ∧
  (∀ s k (x : Contribution), s.inst k = none → exec (.collectiveContribution k x) s = .next { s with heldColl := s.heldColl ++ [(k, x)] }) ∧
  (∀ s k i l c o (own x : Contribution), Lone s k i l c → c.word = .ard o → c.phase = .gathering → c.contribs = [own] →
    x.tree = (c.gx.extractLsb' 32 8).toNat → x.tag = (c.gy.extractLsb' 0 16).toNat →
    own = { ownContribution c [] with data := own.data } → own.crank < own.n →
    let e := s.tree x.tree
    let serves : Prop := e.getLsbD 128 = true ∧ e.getLsbD 129 = true ∧ (e.extractLsb' 136 8).toNat = k ∧
      (e.extractLsb' 160 16).toNat = l.part.tenant
    let fails (d : Nat) : Prop := After (.collectiveContribution k x) s (fun t => Enters s t l ⟨0x15, d, 0, i.rank, k, c.pc, 0, false⟩ ∧
      ∃ j, t.inst k = some j ∧ Counted i j .cl)
    let like : Prop := x = { own with crank := x.crank, root := x.root, first := x.first, data := x.data }
    (¬ serves → fails 3) ∧
    (serves → like → x.crank ≠ own.crank → x.crank < own.n →
      exec (.collectiveContribution k x) s = .next { s with slots := Assoc.upd s.slots k (fun i => { i with cmds := [{ c with contribs := [own, x] }] }) }) ∧
    (serves → x.crank = own.crank → x.first = own.first → fails 2) ∧
    (serves → x.refused = false → x.count ≠ own.count → x.crank ≠ own.crank → fails 1)) ∧
  (∀ s tree tenant (x : Contribution),
    let e := s.tree tree
    let isle := (e.extractLsb' 136 8).toNat
    let sent := ((List.range 128).filter (fun p => e.getLsbD p)).map (fun p => Out.multicast p tree tenant x)
    (e.getLsbD 128 = false ∨ (e.extractLsb' 160 16).toNat ≠ tenant →
      exec (.multicastForward tree tenant x) s = .next { s with out := s.out ++ [.response 0 (.refused 4) 0] }) ∧
    (e.getLsbD 128 = true → (e.extractLsb' 160 16).toNat = tenant →
      (e.getLsbD 129 = false → exec (.multicastForward tree tenant x) s = .next { s with out := s.out ++ sent }) ∧
      (e.getLsbD 129 = true → s.inst isle = none →
        exec (.multicastForward tree tenant x) s = .next { s with out := s.out ++ sent, heldColl := s.heldColl ++ [(isle, x)] }))) ∧
  (∀ s k fromPeer label, s.inst k = none →
    ((∀ e ∈ s.rotaEnded, ¬ (e.1 = k ∧ e.2.1 = fromPeer ∧ e.2.2.2 = label)) →
      exec (.rackTokenArrival k fromPeer label) s = .next { s with heldTok := s.heldTok ++ [(k, fromPeer, label)] }) ∧
    (∀ up, (k, fromPeer, up, label) ∈ s.rotaEnded → exec (.rackTokenArrival k fromPeer label) s = .next s)) ∧
  (∀ s k i fromPeer up label, s.inst k = some i → i.cmds = [] → (fromPeer, up, label) ∈ i.rotaDone →
    exec (.rackTokenArrival k fromPeer label) s = .next s) ∧
  (∀ s k i l c o tr ao p, Lone s k i l c → c.word = .rota o → c.phase = .rotating → 1 < rotaN c.block →
    let down := rotaDown c.block
    let label := rotaLabel c.block
    let z := c.cask.2
    let own := (List.range z).map (fun n => Sparse.get 0 i.spad (c.cask.1 + n))
    let becomes (t : State) (r : Ring) : Prop := (∀ n, n ≠ k → t.inst n = s.inst n) ∧ t.inst k = some { i with cmds := [{ c with ring := r }] }
    let self := selfOf l.part
    let f : Flow := ⟨k, down, k, label⟩
    let way := probeWay s self ⟨.ring k, l.eff.prio, p⟩ f
    let free := s.xpts.filter (fun x => x.circ ≠ .ring k)
    let held (w : Walk) : List Xhold := s.xpts ++ w.held.map (fun x => ⟨x, .ring k, l.eff.prio, p⟩)
    let probe (w : Walk) (q : Nat) : Out :=
      .probe ⟨self.getD 0, l.part.tenant, genOf s l.part down, f, .ring, l.eff.prio, p, some (0, 1), w.backs, q⟩
    let due : Prop := tr + 20 * Config.ticksPerUs ≤ s.time
    (c.ring = ⟨0, 0, 0, 0, 0, 0, true, 0, tr, 0, p, true⟩ → After (.rackTokenArrival k down label) s (fun t =>
      t = { s with slots := t.slots, out := s.out ++ [.cask k down label z (rotaN c.block) 0 own] } ∧
      becomes t ⟨0, 1, 0, 0, 0, 0, true, 0, tr, 0, p, true⟩)) ∧
    (c.ring = ⟨0, 0, 0, 0, 0, 0, false, 0, tr, 0, p, false⟩ →
      (∀ b, exec (.rotaReopen k b) s = .next s) ∧
      (∀ w q, self ≠ some down → way = some (w, some q) → w.broken = [] → After (.rackTokenArrival k down label) s (fun t =>
        t = { s with slots := t.slots, xpts := held w, out := s.out ++ [probe w q] } ∧
        becomes t ⟨0, 0, 0, 0, 1, 0, false, 0, s.time, 0, p, true⟩))) ∧
    (∀ tok, c.ring = ⟨0, 0, 0, 0, tok, 0, false, 0, tr, 0, p, true⟩ →
      After (.rackTokenArrival k down label) s (fun t => OnlyIsle k s t ∧ becomes t ⟨0, 0, 0, 0, tok + 1, 0, false, 0, tr, 0, p, true⟩) ∧
      (∀ data : List Byte, data.length = z → Sparse.wf 0 i.spad = true →
        After (.caskArrival k z (rotaN c.block) data) s (fun t =>
          t = { s with slots := t.slots, out := s.out ++ [.token (rotaUp c.block) ⟨k, rotaUp c.block, k, label⟩ .ring z] } ∧
          ∃ j, t.inst k = some j ∧ j.cmds = [{ c with ring := ⟨0, 0, 0, 1, tok, 0, false, 0, tr, 0, p, true⟩ }] ∧
          ∀ n b, data[n]? = some b → Sparse.get 0 j.spad (rotaRbase c.block + n) = b)) ∧
      (∀ size n data, (size ≠ z ∨ n ≠ rotaN c.block) → After (.caskArrival k size n data) s (fun t => RotaFails s t k i l c 3)) ∧
      (o.att = false → Sparse.wf 0 i.spad = true → rotaRank c.block < rotaN c.block → 0 < z → After (.caskConsumed k) s (fun t =>
        OnlyIsle k s t ∧ ∃ j, t.inst k = some j ∧ j.cmds = [{ c with ring := ⟨1, 0, 0, 0, tok, 0, false, 0, tr, 0, p, true⟩ }] ∧
          ∀ n, n < z → Sparse.get 0 j.spad (rotaGbase c.block + rotaRank c.block * z + n) = own.getD n 0)) ∧
      (s.time < tr + 20 * Config.ticksPerUs → ∀ b, exec (.rotaReopen k b) s = .next s) ∧
      (due → self = some down ∨ way = none → ∀ b, After (.rotaReopen k b) s (fun t =>
        t = { s with slots := t.slots, xpts := free } ∧ becomes t ⟨0, 0, 0, 0, tok, 0, false, 1, s.time, 0, p, true⟩)) ∧
      (∀ w q, due → self ≠ some down → way = some (w, some q) → w.broken = [] →
        After (.rotaReopen k false) s (fun t => t = { s with slots := t.slots, xpts := t.xpts, out := s.out ++ [probe w q] } ∧
          t.xpts = (held w).filter (fun x => x.circ ≠ .ring k) ∧ becomes t ⟨0, 0, 0, 0, tok, 0, false, 1, s.time, 0, p, true⟩) ∧
        (tok = 0 → After (.rotaReopen k true) s (fun t => t = { s with slots := t.slots, xpts := held w, out := s.out ++ [probe w q] } ∧
          becomes t ⟨0, 0, 0, 0, 0, 0, true, 0, tr, 0, p, true⟩))) ∧
      (∀ cause, cause ≠ 7 → (cause = 3 → p = true) → After (.circuitBreak (.ring k) cause) s (fun t =>
        t = { s with slots := t.slots, xpts := free } ∧ becomes t ⟨0, 0, 0, 0, tok, 0, false, 0, s.time, 0, p, true⟩)) ∧
      (p = false → exec (.circuitBreak (.ring k) 3) s = .next s) ∧
      After (.circuitBreak (.ring k) 7) s (fun t => RotaFails s t k i l c 2) ∧
      After (.failureMarkArrival k label) s (fun t => RotaFails s t k i l c 5)) ∧
    (∀ w q, c.ring = ⟨0, 1, 0, 0, 0, 0, false, 0, tr, ao, p, true⟩ → ao ≤ z → due → self ≠ some down → way = some (w, some q) → w.broken = [] →
      After (.rotaReopen k true) s (fun t =>
        t = { s with slots := t.slots, xpts := held w,
                     out := s.out ++ [probe w q, .cask k down label z (rotaN c.block) ao (own.drop ao)] } ∧
        becomes t ⟨0, 1, 0, 0, 0, 0, true, 0, tr, ao, p, true⟩)) ∧
    (c.ring = ⟨0, 0, 0, 0, 0, 0, false, 2, tr, 0, p, true⟩ → due → self = some down ∨ way = none →
      After (.rotaReopen k false) s (fun t => RotaFails s t k i l c 1)))
/-- R388, R389, R408: the reset of a stack group. Its instances stop, its scratchpads, accumulators and weight-store slices are cleared, a
line that was modified in its caches becomes POISON where the copy was lost, which is open (log 23), and other lines keep their bytes
and marks; splits and ingress windows stay. It returns to service with its held requests in order; 10 ms after the reset began that
is a device failure, as a shutdown is: FAIL in every function, and vector 3. -/
def Obligations.DieResets : Prop :=
  (∀ s d, (8 ≤ d ∨ dieIsDown s d = true ∨ s.boot ≠ .running) → exec (.dieReset d) s = .next s) ∧
  (∀ s d, d < 8 → dieIsDown s d = false → s.boot = .running → (s.slots.map Prod.fst).Nodup →
    (s.links.map Prod.fst).Nodup → After (.dieReset d) s (fun t => (∀ n, (t.link n).split = (s.link n).split) ∧ t.ingress = s.ingress ∧
      dieIsDown t d = true ∧
      (∀ k j, k / 32 = d → t.inst k = some j → j.life ≠ .running ∧ j.life ≠ .saving ∧ j.spad = [] ∧
        j.spadPoison = [] ∧ j.acc = [] ∧ j.accPoison = []))) ∧
  (∀ s d, d < 8 → dieIsDown s d = false → s.boot = .running → Calm s → (∀ p ∈ s.slots, p.1 / 32 ≠ d) → After (.dieReset d) s (fun t =>
    t.slots = s.slots ∧ t.dieDown = s.dieDown ++ [(d, s.time)] ∧
    (∀ a, homeByte t a = if wsBase ≤ a ∧ wsIsle a / 32 = d then 0 else homeByte s a) ∧
    (∀ n, (∀ p ∈ s.dirty, p.1 ≠ n) → Sparse.get false t.poison n = Sparse.get false s.poison n) ∧
    (∀ n, s.dirty = [(n, 257)] → homeDie (64 * n) = d →
      Sparse.get false t.poison n = (Config.lineLost s.fresh n || Sparse.get false s.poison n)))) ∧
  (∀ s d u, s.dieDown = [(d, u)] →
    (s.failed = true → exec (.dieReturnsToService d) s = .next s) ∧
    (s.failed = false → s.dieHeld = [] → Swept (.dieReturnsToService d) s (fun t =>
      t = { s with dieDown := [], freed := true, respec := true })) ∧
    (∀ r x bs, s.failed = false → s.dieHeld = [r] → r.home = none → r.kind = .store bs → r.src < 4096 → Spans r.addr bs.length x →
      0 < bs.length → (granuleOf s (x / 2 ^ 21)).place = .home → (granuleOf s (x / 2 ^ 21)).nacked = [] → MemWf s.mem → Swept (.dieReturnsToService d) s (fun t => t.dieDown = [] ∧ t.dieHeld = [] ∧
        BytesAt t x bs ∧ KeepsOutside s t x bs.length ∧ t.out = s.out ++ [.response r.src (.ok 0) 0])) ∧
    (s.time < u + 10000 * Config.ticksPerUs → exec (.dieResetTimeout d) s = .next s) ∧
    (u + 10000 * Config.ticksPerUs ≤ s.time → s.failed = false → s.launches = [] → QueuesWf s → (∀ p ∈ s.vfs, p.2.queues = []) →
      After (.dieResetTimeout d) s (fun t => t = { s with
          failed := true, fresh := s.fresh + 1, vfs := t.vfs, out := s.out ++ (List.range 65).map (fun v => .msix v 3) } ∧
        ∀ v, v ≤ 64 → t.vf v = { s.vf v with fail := true }))) ∧
  (∀ s, s.failed = false → s.launches = [] → QueuesWf s → (∀ p ∈ s.vfs, p.2.queues = []) → After .shutdown s (fun t => t = { s with
      failed := true, fresh := s.fresh + 1, vfs := t.vfs, out := s.out ++ (List.range 65).map (fun v => .msix v 3) } ∧
    ∀ v, v ≤ 64 → t.vf v = { s.vf v with fail := true }))

/-- R402 to R407: resets, firmware, attestation, the life cycle and the clock. A reset, asked for by the host or over the sideband, leaves
every byte zero, no POISON, no instance, launch or queue, the splits of R148, and keeps the fused maps and the life-cycle state; an
image that verifies runs and one that does not leaves BOOTFAIL; a report is signed over its digest; the life cycle advances by the
table of R405 alone, with a reset. The clock falls by 50 MHz at 100 °C, down to 400 MHz. -/
def Obligations.ModuleEvents : Prop :=
  (∀ s, ∀ e ∈ [Instr.deviceReset, .sidebandResetRequest], After e s (fun t =>
    (∀ a, homeByte t a = 0 ∧ ∀ d, dieByte t d a = 0) ∧ t.poison = [] ∧ t.poisonWs = [] ∧ t.slots = [] ∧ t.saved = [] ∧ t.launches = [] ∧
    t.acc = [] ∧ t.vfs = [] ∧ t.boot = .rom ∧ t.failed = false ∧ t.lifeCycle = s.lifeCycle ∧ t.popmap = s.popmap ∧ t.mxmap = s.mxmap ∧
    t.vwmap = s.vwmap ∧ ∀ n, n < 18 → (t.link n).split = if n < 8 then 20 else 8)) ∧
  (∀ s image sig, (s.boot = .running → exec (.firmwareLoad image sig) s = .next s) ∧
    (s.boot ≠ .running → Config.falconVerifies (Config.shake256 image) sig = true →
      exec (.firmwareLoad image sig) s = .next { s with boot := .running, image := image }) ∧
    (s.boot ≠ .running → Config.falconVerifies (Config.shake256 image) sig = false →
      exec (.firmwareLoad image sig) s = .next { s with boot := .bootfail, out := s.out ++ [.bootFailed] })) ∧
  (∀ s nonce, s.boot = .running → nonce.length = 32 →
    ((s.lifeCycle = .blank ∨ s.lifeCycle = .rma) → exec (.attestation nonce) s = .next { s with out := s.out ++ [.attestationFailed] }) ∧
    ((s.lifeCycle = .provisioned ∨ s.lifeCycle = .deployed) → ∃ r,
      exec (.attestation nonce) s = .next { s with out := s.out ++ [.attestation r (Config.falconSign (Config.shake256 r))] } ∧
      r.take 2 = [1, 0] ∧ (r.drop 4).take 32 = nonce ∧ (r.drop 36).take (Config.shake256 s.image).length = Config.shake256 s.image ∧
      ((Config.shake256 s.image).length = 64 → Config.identityDigest.length = 64 → r.length = 288 ∧
        leNat ((r.drop 164).take 32) = s.popmap.toNat ∧ leNat ((r.drop 196).take 32) = s.mxmap.toNat ∧
        leNat ((r.drop 228).take 32) = s.vwmap.toNat ∧ r.drop 260 = List.replicate 28 0))) ∧
  (∀ s tgt actor,
    let allowed : Prop := (s.lifeCycle = .blank ∧ tgt = .provisioned ∧ actor = .vendor) ∨
      (s.lifeCycle = .provisioned ∧ tgt = .deployed ∧ actor = .owner) ∨ (s.lifeCycle = .provisioned ∧ tgt = .rma) ∨
      (s.lifeCycle = .deployed ∧ tgt = .rma ∧ actor = .owner)
    (¬ allowed → exec (.lifeCycleChange tgt actor) s = .next s) ∧
    (allowed → ∃ t, exec .deviceReset s = .next t ∧ exec (.lifeCycleChange tgt actor) s = .next { t with lifeCycle := tgt })) ∧
  (∀ s j, (j < 100 ∨ s.mhz < 450 → exec (.clockThrottle j) s = .next s) ∧
    (100 ≤ j → 450 ≤ s.mhz → exec (.clockThrottle j) s = .next { s with mhz := s.mhz - 50 }))

/-- R12, R67, R83, R86, R112, R140, R155, R160, R170, R171, R175, R177, R396 to R399: writes to registers, by access code. QBASE and the registers
of a function take their fields while no queue of it is enabled, a write that sets or clears EN enables or disables its queue, RRQCTL
always takes HEAD, reading it clears DROPS, ABORTREQ aborts a fault domain of a valid chain and says so by vector 2; read-only
registers ignore writes; the firmware's registers take their values where these are in range, a UALink station by groups of four
ports. That an ingress entry with a size out of range matches nothing is the model's choice (log 63). -/
def Obligations.RegisterWrites : Prop :=
  (∀ s v q (value : Word), QueuesWf s → s.boot = .running → 1 ≤ v → v ≤ 64 → q < 16 →
    ((s.queue v q).en = true → exec (.registerWrite (.qbase v q value)) s = .next s) ∧
    ((s.queue v q).en = false → After (.registerWrite (.qbase v q value)) s (fun t => t = { s with vfs := t.vfs } ∧
      QueueIs s t v q { s.queue v q with base := value &&& 0xFFFFFFFFFFC0 })) ∧
    (value.getLsbD 5 = true → exec (.registerWrite (.qcfg v q value)) s = exec (.queueEnable v q value) s) ∧
    (value.getLsbD 5 = false → (s.queue v q).en = true → exec (.registerWrite (.qcfg v q value)) s = exec (.queueDisable v q value) s) ∧
    (value.getLsbD 5 = false → (s.queue v q).en = false → After (.registerWrite (.qcfg v q value)) s (fun t => t = { s with vfs := t.vfs } ∧
      QueueIs s t v q { s.queue v q with rcb := (value.extractLsb' 7 38).toNat * 128, logsz := (value.extractLsb' 0 5).toNat })) ∧
    exec (.registerWrite (.qhead v q value)) s = .next s) ∧
  (∀ s v (value : Word), Sparse.wf .reset s.vfs = true → s.boot = .running → v ≤ 64 →
    let becomes (e : Instr) (x : Vf) : Prop := After e s (fun t => t = { s with vfs := t.vfs } ∧ t.vf v = x ∧ ∀ w, w ≠ v → t.vf w = s.vf w)
    let x := s.vf v
    let w := x.rrqDrops * 2 ^ 48 + x.rrqTail * 2 ^ 32 + x.rrqHead * 2 ^ 16 + x.rrqLogsz
    exec (.registerWrite (.vfstat v value)) s = .next s ∧
    ((∃ q ∈ x.queues, q.2.en = true) →
      exec (.registerWrite (.rootrcb v value)) s = .next s ∧ exec (.registerWrite (.poolbase v value)) s = .next s ∧
      exec (.registerWrite (.poolsize v value)) s = .next s ∧ exec (.registerWrite (.rrqbase v value)) s = .next s ∧
      becomes (.rrqctlWrite v value) { x with rrqHead := (value.extractLsb' 16 16).toNat }) ∧
    ((∀ q ∈ x.queues, q.2.en = false) →
      becomes (.registerWrite (.rootrcb v value)) { x with rootrcb := (value.extractLsb' 7 38).toNat * 2 ^ 7 } ∧
      becomes (.registerWrite (.poolbase v value)) { x with poolbase := (value.extractLsb' 21 24).toNat * 2 ^ 21 } ∧
      becomes (.registerWrite (.poolsize v value)) { x with poolsize := (value.extractLsb' 0 20).toNat } ∧
      becomes (.registerWrite (.rrqbase v value)) { x with rrqbase := (value.extractLsb' 12 33).toNat * 2 ^ 12 } ∧
      becomes (.rrqctlWrite v value) { x with rrqHead := (value.extractLsb' 16 16).toNat, rrqLogsz := (value.extractLsb' 0 5).toNat }) ∧
    After (.rrqctlRead v) s (fun t => t = { s with vfs := t.vfs, out := s.out ++ [.hostResponse (.ok w) w] } ∧ t.vf v = { x with rrqDrops := 0 } ∧
      ∀ u, u ≠ v → t.vf u = s.vf u) ∧
    (chainOf s v ((value.extractLsb' 7 38).toNat * 128) = none → exec (.abortreq v value) s = .next s) ∧
    (∀ chain e, chainOf s v ((value.extractLsb' 7 38).toNat * 128) = some (chain, e) →
      After (.abortreq v value) s (fun t => t = abortDomain (domainOf s chain) 3 [v] s ∧ .msix v 2 ∈ t.out))) ∧
  (∀ s, s.boot = .running →
    (∀ n src tenant lbase logsz r w a gen o, n < 4096 → Sparse.wf .unused s.ingress = true →
      After (.registerWrite (.ingress n src tenant lbase logsz r w a gen o)) s (fun t => t = { s with ingress := t.ingress } ∧
        (∀ m, m ≠ n → Sparse.get .unused t.ingress m = Sparse.get .unused s.ingress m) ∧
        (21 ≤ logsz → logsz ≤ 39 → lbase < 2 ^ 45 → lbase % 2 ^ logsz = 0 → Sparse.get .unused t.ingress n =
          ⟨src % 4096, tenant % 65536, lbase, logsz, r, w, a, gen % 65536, o⟩) ∧
        (logsz < 21 ∨ 39 < logsz → (Sparse.get .unused t.ingress n).opened = false))) ∧
    (∀ p (role : BitVec 2) c, p < 128 → Sparse.wf .reset s.ports = true → c < 64 →
      (s.launches ≠ [] → exec (.registerWrite (.portRole p role c)) s = .next s) ∧
      (s.launches = [] → After (.registerWrite (.portRole p role c)) s (fun t => t = { s with ports := t.ports } ∧
        (∀ m, m / 4 ≠ p / 4 → t.port m = s.port m) ∧
        t.port p = { s.port p with role := if role = 1 then .row c else if role = 2 then .col c else if role = 3 then .ualink else .unused } ∧
        ∀ m, m / 4 = p / 4 → m ≠ p → t.port m = { s.port m with
          role := if role = 3 then .ualink else if (s.port p).role = .ualink then .unused else (s.port m).role }))) ∧
    (∀ p u, u ≤ 16384 → Sparse.wf .reset s.ports = true → After (.registerWrite (.promoThr p u)) s (fun t => t = { s with ports := t.ports } ∧
      t.port p = { s.port p with promoThr := 64 * u } ∧ ∀ m, m ≠ p → t.port m = s.port m)) ∧
    (∀ u, 10 ≤ u → u ≤ 10000 → exec (.registerWrite (.fabTimeout u)) s = .next { s with fabTimeout := u }) ∧
    (∀ pt q limit u, 1 ≤ limit → limit ≤ 1024 → 1 ≤ u → u ≤ 10000 → After (.registerWrite (.foreignLimit pt q limit u)) s (fun t =>
      t = { s with foreign := t.foreign } ∧ foreignOf t pt q = { foreignOf s pt q with limit := limit, timeout := u })) ∧
    (∀ pt q, After (.registerWrite (.foreignReachable pt q)) s (fun t =>
      t = { s with foreign := t.foreign } ∧ foreignOf t pt q = { foreignOf s pt q with reachable := true })) ∧
    (∀ p on, p < 4096 → After (.registerWrite (.presence p on)) s (fun t => t = { s with presence := t.presence } ∧
      ∀ m, t.presence.testBit m = if m = p then on else s.presence.testBit m)) ∧
    (∀ n image, n < 256 → image.length = 32 → Sparse.wf 0 s.trees = true → After (.registerWrite (.treeEntry n image)) s (fun t =>
      t = { s with trees := t.trees } ∧ ∀ m, Sparse.get 0 t.trees m = if m = n then BitVec.ofNat 256 (leNat image) else Sparse.get 0 s.trees m)) ∧
    (∀ q m, s.slots = [] → s.meters = [m] → m.flow.peer = q → m.st = .circ → Swept (.registerWrite (.targetChanged q)) s (fun t =>
      t.meters = [{ m with st := .breaking, since := s.time }])))

/-- R147, R148, R155, R177, R399, R403, R406: what reset leaves: every byte zero on every die, no POISON, no instance,
launch or queue, the function registers and MIG_CONTEST zero, the splits of R148, FAB_TIMEOUT 100 µs, every foreign peer with limit 64 and
timeout 50 µs, and the boot ROM waiting for an image. That foreign peers are reachable and granules at home is the model's choice (log 4);
memory is in canonical form and nothing but events stands on the agenda. -/
def Obligations.ResetState : Prop :=
  (∀ a, homeByte State.reset a = 0 ∧ ∀ d, dieByte State.reset d a = 0) ∧ (∀ a n, memPoison State.reset a n = false) ∧
  (∀ k, State.reset.inst k = none) ∧ (∀ id, State.reset.launch id = none) ∧ State.reset.saved = [] ∧ State.reset.acc = [] ∧
  (∀ v, State.reset.vf v = ⟨[], 0, 0, 0, 0, 0, 0, 0, 0, false, false, 0, 0, 0⟩) ∧
  (∀ v q, (State.reset.queue v q).en = false ∧ (State.reset.queue v q).head = 0 ∧ (State.reset.queue v q).tail = 0 ∧
    (State.reset.queue v q).stopped = false ∧ (State.reset.queue v q).err = .none ∧ (State.reset.queue v q).base = 0) ∧
  (∀ n, n < 18 → (State.reset.link n).split = (if n < 8 then 20 else 8) ∧ (State.reset.link n).pending = []) ∧
  State.reset.migContest = 0 ∧ State.reset.fabTimeout = 100 ∧ State.reset.boot = .rom ∧
  (∀ p q, foreignOf State.reset p q = ⟨p, q, 64, 50, true⟩) ∧ (∀ g, (granuleOf State.reset g).place = .home) ∧
  MemWf State.reset.mem ∧ EventsOnly State.reset
end

