-- ==== Sys2Proof/Laws/Exec.lean ====
section
/-!
SUPPORT. One equation of exec for each instruction, and what every word has in common: it runs a body at its turn (`runWord`), and so
answers a next state there.
-/
namespace Sys2Proof.Machine

theorem exec_add (o : RRR) (s : State) :
    exec (.add o) s = execAdd o s := rfl
theorem exec_sub (o : RRR) (s : State) :
    exec (.sub o) s = execSub o s := rfl
theorem exec_mul (o : RRR) (s : State) :
    exec (.mul o) s = execMul o s := rfl
theorem exec_mulh (o : RRR) (s : State) :
    exec (.mulh o) s = execMulh o s := rfl
theorem exec_mulhu (o : RRR) (s : State) :
    exec (.mulhu o) s = execMulhu o s := rfl
theorem exec_div (o : RRR) (s : State) :
    exec (.div o) s = execDiv o s := rfl
theorem exec_divu (o : RRR) (s : State) :
    exec (.divu o) s = execDivu o s := rfl
theorem exec_rem (o : RRR) (s : State) :
    exec (.rem o) s = execRem o s := rfl
theorem exec_remu (o : RRR) (s : State) :
    exec (.remu o) s = execRemu o s := rfl
theorem exec_and (o : RRR) (s : State) :
    exec (.and o) s = execAnd o s := rfl
theorem exec_or (o : RRR) (s : State) :
    exec (.or o) s = execOr o s := rfl
theorem exec_xor (o : RRR) (s : State) :
    exec (.xor o) s = execXor o s := rfl
theorem exec_andn (o : RRR) (s : State) :
    exec (.andn o) s = execAndn o s := rfl
theorem exec_shl (o : RRR) (s : State) :
    exec (.shl o) s = execShl o s := rfl
theorem exec_shr (o : RRR) (s : State) :
    exec (.shr o) s = execShr o s := rfl
theorem exec_sar (o : RRR) (s : State) :
    exec (.sar o) s = execSar o s := rfl
theorem exec_rol (o : RRR) (s : State) :
    exec (.rol o) s = execRol o s := rfl
theorem exec_min (o : RRR) (s : State) :
    exec (.min o) s = execMin o s := rfl
theorem exec_max (o : RRR) (s : State) :
    exec (.max o) s = execMax o s := rfl
theorem exec_minu (o : RRR) (s : State) :
    exec (.minu o) s = execMinu o s := rfl
theorem exec_maxu (o : RRR) (s : State) :
    exec (.maxu o) s = execMaxu o s := rfl
theorem exec_slt (o : RRR) (s : State) :
    exec (.slt o) s = execSlt o s := rfl
theorem exec_sltu (o : RRR) (s : State) :
    exec (.sltu o) s = execSltu o s := rfl
theorem exec_seq (o : RRR) (s : State) :
    exec (.seq o) s = execSeq o s := rfl
theorem exec_clz (o : RR) (s : State) :
    exec (.clz o) s = execClz o s := rfl
theorem exec_ctz (o : RR) (s : State) :
    exec (.ctz o) s = execCtz o s := rfl
theorem exec_popc (o : RR) (s : State) :
    exec (.popc o) s = execPopc o s := rfl
theorem exec_bswap (o : RR) (s : State) :
    exec (.bswap o) s = execBswap o s := rfl
theorem exec_loc (o : RR) (s : State) :
    exec (.loc o) s = execLoc o s := rfl
theorem exec_sel (o : SelOp) (s : State) :
    exec (.sel o) s = execSel o s := rfl
theorem exec_lea (o : LeaOp) (s : State) :
    exec (.lea o) s = execLea o s := rfl
theorem exec_bfx (o : BfOp) (s : State) :
    exec (.bfx o) s = execBfx o s := rfl
theorem exec_bfi (o : BfOp) (s : State) :
    exec (.bfi o) s = execBfi o s := rfl
theorem exec_addImm (o : ImmOp) (s : State) :
    exec (.addImm o) s = execAddImm o s := rfl
theorem exec_mulImm (o : ImmOp) (s : State) :
    exec (.mulImm o) s = execMulImm o s := rfl
theorem exec_andImm (o : ImmOp) (s : State) :
    exec (.andImm o) s = execAndImm o s := rfl
theorem exec_orImm (o : ImmOp) (s : State) :
    exec (.orImm o) s = execOrImm o s := rfl
theorem exec_xorImm (o : ImmOp) (s : State) :
    exec (.xorImm o) s = execXorImm o s := rfl
theorem exec_shlImm (o : ShiftOp) (s : State) :
    exec (.shlImm o) s = execShlImm o s := rfl
theorem exec_shrImm (o : ShiftOp) (s : State) :
    exec (.shrImm o) s = execShrImm o s := rfl
theorem exec_sarImm (o : ShiftOp) (s : State) :
    exec (.sarImm o) s = execSarImm o s := rfl
theorem exec_sltImm (o : ImmOp) (s : State) :
    exec (.sltImm o) s = execSltImm o s := rfl
theorem exec_sltuImm (o : ImmOp) (s : State) :
    exec (.sltuImm o) s = execSltuImm o s := rfl
theorem exec_seqImm (o : ImmOp) (s : State) :
    exec (.seqImm o) s = execSeqImm o s := rfl
theorem exec_li (o : LiOp) (s : State) :
    exec (.li o) s = execLi o s := rfl
theorem exec_lui (o : ImmOp) (s : State) :
    exec (.lui o) s = execLui o s := rfl
theorem exec_fadd (o : FpRRR) (s : State) :
    exec (.fadd o) s = execFadd o s := rfl
theorem exec_fsub (o : FpRRR) (s : State) :
    exec (.fsub o) s = execFsub o s := rfl
theorem exec_fmul (o : FpRRR) (s : State) :
    exec (.fmul o) s = execFmul o s := rfl
theorem exec_fmin (o : RRR) (s : State) :
    exec (.fmin o) s = execFmin o s := rfl
theorem exec_fmax (o : RRR) (s : State) :
    exec (.fmax o) s = execFmax o s := rfl
theorem exec_fcmp (o : FcmpOp) (s : State) :
    exec (.fcmp o) s = execFcmp o s := rfl
theorem exec_fcvtI32F32 (o : FpRR) (s : State) :
    exec (.fcvtI32F32 o) s = execFcvtI32F32 o s := rfl
theorem exec_fcvtF32I32 (o : FpRR) (s : State) :
    exec (.fcvtF32I32 o) s = execFcvtF32I32 o s := rfl
theorem exec_fcvtBf16F32 (o : FpRR) (s : State) :
    exec (.fcvtBf16F32 o) s = execFcvtBf16F32 o s := rfl
theorem exec_fcvtF32Bf16 (o : RR) (s : State) :
    exec (.fcvtF32Bf16 o) s = execFcvtF32Bf16 o s := rfl
theorem exec_fcvtF16F32 (o : FpRR) (s : State) :
    exec (.fcvtF16F32 o) s = execFcvtF16F32 o s := rfl
theorem exec_fcvtF32F16 (o : RR) (s : State) :
    exec (.fcvtF32F16 o) s = execFcvtF32F16 o s := rfl
theorem exec_fcvtL6F32 (o : RR) (s : State) :
    exec (.fcvtL6F32 o) s = execFcvtL6F32 o s := rfl
theorem exec_fcvtF32L6 (o : RR) (s : State) :
    exec (.fcvtF32L6 o) s = execFcvtF32L6 o s := rfl
theorem exec_ffma (o : FfmaOp) (s : State) :
    exec (.ffma o) s = execFfma o s := rfl
theorem exec_br (o : BrOp) (s : State) :
    exec (.br o) s = execBr o s := rfl
theorem exec_bc (o : BcOp) (s : State) :
    exec (.bc o) s = execBc o s := rfl
theorem exec_loop (o : LoopOp) (s : State) :
    exec (.loop o) s = execLoop o s := rfl
theorem exec_call (o : BrOp) (s : State) :
    exec (.call o) s = execCall o s := rfl
theorem exec_jr (o : ROp) (s : State) :
    exec (.jr o) s = execJr o s := rfl
theorem exec_callr (o : ROp) (s : State) :
    exec (.callr o) s = execCallr o s := rfl
theorem exec_ret (o : TagOp) (s : State) :
    exec (.ret o) s = execRet o s := rfl
theorem exec_qpeek (o : QOp) (s : State) :
    exec (.qpeek o) s = execQpeek o s := rfl
theorem exec_qcnt (o : QOp) (s : State) :
    exec (.qcnt o) s = execQcnt o s := rfl
theorem exec_srd (o : SysOp) (s : State) :
    exec (.srd o) s = execSrd o s := rfl
theorem exec_swr (o : SysOp) (s : State) :
    exec (.swr o) s = execSwr o s := rfl
theorem exec_trap (o : CodeOp) (s : State) :
    exec (.trap o) s = execTrap o s := rfl
theorem exec_exit (o : TagOp) (s : State) :
    exec (.exit o) s = execExit o s := rfl
theorem exec_nop (o : TagOp) (s : State) :
    exec (.nop o) s = execNop o s := rfl
theorem exec_hint (o : CodeOp) (s : State) :
    exec (.hint o) s = execHint o s := rfl
theorem exec_pmark (o : CodeOp) (s : State) :
    exec (.pmark o) s = execPmark o s := rfl
theorem exec_ld (o : LoadOp) (s : State) :
    exec (.ld o) s = execLd o s := rfl
theorem exec_lds (o : LoadOp) (s : State) :
    exec (.lds o) s = execLds o s := rfl
theorem exec_ldAq (o : LoadOp) (s : State) :
    exec (.ldAq o) s = execLdAq o s := rfl
theorem exec_st (o : StoreOp) (s : State) :
    exec (.st o) s = execSt o s := rfl
theorem exec_stRl (o : StoreOp) (s : State) :
    exec (.stRl o) s = execStRl o s := rfl
theorem exec_amo (o : AmoOp) (s : State) :
    exec (.amo o) s = execAmo o s := rfl
theorem exec_amoRl (o : AmoOp) (s : State) :
    exec (.amoRl o) s = execAmoRl o s := rfl
theorem exec_cas (o : CasOp) (s : State) :
    exec (.cas o) s = execCas o s := rfl
theorem exec_red (o : RedOp) (s : State) :
    exec (.red o) s = execRed o s := rfl
theorem exec_pref (o : AddrOp) (s : State) :
    exec (.pref o) s = execPref o s := rfl
theorem exec_cflush (o : AddrOp) (s : State) :
    exec (.cflush o) s = execCflush o s := rfl
theorem exec_pgreq (o : AddrOp) (s : State) :
    exec (.pgreq o) s = execPgreq o s := rfl
theorem exec_fence (o : FenceOp) (s : State) :
    exec (.fence o) s = execFence o s := rfl
theorem exec_barArr (o : BarOp) (s : State) :
    exec (.barArr o) s = execBarArr o s := rfl
theorem exec_barWait (o : BarOp) (s : State) :
    exec (.barWait o) s = execBarWait o s := rfl
theorem exec_step (o : BarOp) (s : State) :
    exec (.step o) s = execStep o s := rfl
theorem exec_succ (o : TagOp) (s : State) :
    exec (.succ o) s = execSucc o s := rfl
theorem exec_waitvis (o : TagOp) (s : State) :
    exec (.waitvis o) s = execWaitvis o s := rfl
theorem exec_wait (o : WaitOp) (s : State) :
    exec (.wait o) s = execWait o s := rfl
theorem exec_launch (o : AbOp) (s : State) :
    exec (.launch o) s = execLaunch o s := rfl
theorem exec_qtail (o : AbOp) (s : State) :
    exec (.qtail o) s = execQtail o s := rfl
theorem exec_vaddF32 (o : VfOp) (s : State) :
    exec (.vaddF32 o) s = execVaddF32 o s := rfl
theorem exec_vsubF32 (o : VfOp) (s : State) :
    exec (.vsubF32 o) s = execVsubF32 o s := rfl
theorem exec_vmulF32 (o : VfOp) (s : State) :
    exec (.vmulF32 o) s = execVmulF32 o s := rfl
theorem exec_vfmaF32 (o : VfOp) (s : State) :
    exec (.vfmaF32 o) s = execVfmaF32 o s := rfl
theorem exec_vminF32 (o : VfOp) (s : State) :
    exec (.vminF32 o) s = execVminF32 o s := rfl
theorem exec_vmaxF32 (o : VfOp) (s : State) :
    exec (.vmaxF32 o) s = execVmaxF32 o s := rfl
theorem exec_vabsF32 (o : Vf1Op) (s : State) :
    exec (.vabsF32 o) s = execVabsF32 o s := rfl
theorem exec_vnegF32 (o : Vf1Op) (s : State) :
    exec (.vnegF32 o) s = execVnegF32 o s := rfl
theorem exec_vaddBf16 (o : VfOp) (s : State) :
    exec (.vaddBf16 o) s = execVaddBf16 o s := rfl
theorem exec_vsubBf16 (o : VfOp) (s : State) :
    exec (.vsubBf16 o) s = execVsubBf16 o s := rfl
theorem exec_vmulBf16 (o : VfOp) (s : State) :
    exec (.vmulBf16 o) s = execVmulBf16 o s := rfl
theorem exec_vfmaBf16 (o : VfOp) (s : State) :
    exec (.vfmaBf16 o) s = execVfmaBf16 o s := rfl
theorem exec_vminBf16 (o : VfOp) (s : State) :
    exec (.vminBf16 o) s = execVminBf16 o s := rfl
theorem exec_vmaxBf16 (o : VfOp) (s : State) :
    exec (.vmaxBf16 o) s = execVmaxBf16 o s := rfl
theorem exec_vabsBf16 (o : Vf1Op) (s : State) :
    exec (.vabsBf16 o) s = execVabsBf16 o s := rfl
theorem exec_vnegBf16 (o : Vf1Op) (s : State) :
    exec (.vnegBf16 o) s = execVnegBf16 o s := rfl
theorem exec_vaddF16 (o : VfOp) (s : State) :
    exec (.vaddF16 o) s = execVaddF16 o s := rfl
theorem exec_vsubF16 (o : VfOp) (s : State) :
    exec (.vsubF16 o) s = execVsubF16 o s := rfl
theorem exec_vmulF16 (o : VfOp) (s : State) :
    exec (.vmulF16 o) s = execVmulF16 o s := rfl
theorem exec_vfmaF16 (o : VfOp) (s : State) :
    exec (.vfmaF16 o) s = execVfmaF16 o s := rfl
theorem exec_vminF16 (o : VfOp) (s : State) :
    exec (.vminF16 o) s = execVminF16 o s := rfl
theorem exec_vmaxF16 (o : VfOp) (s : State) :
    exec (.vmaxF16 o) s = execVmaxF16 o s := rfl
theorem exec_vabsF16 (o : Vf1Op) (s : State) :
    exec (.vabsF16 o) s = execVabsF16 o s := rfl
theorem exec_vnegF16 (o : Vf1Op) (s : State) :
    exec (.vnegF16 o) s = execVnegF16 o s := rfl
theorem exec_vaddI32 (o : VOp) (s : State) :
    exec (.vaddI32 o) s = execVaddI32 o s := rfl
theorem exec_vsubI32 (o : VOp) (s : State) :
    exec (.vsubI32 o) s = execVsubI32 o s := rfl
theorem exec_vmulI32 (o : VOp) (s : State) :
    exec (.vmulI32 o) s = execVmulI32 o s := rfl
theorem exec_vmulhI32 (o : VOp) (s : State) :
    exec (.vmulhI32 o) s = execVmulhI32 o s := rfl
theorem exec_vminI32 (o : VOp) (s : State) :
    exec (.vminI32 o) s = execVminI32 o s := rfl
theorem exec_vmaxI32 (o : VOp) (s : State) :
    exec (.vmaxI32 o) s = execVmaxI32 o s := rfl
theorem exec_vminuI32 (o : VOp) (s : State) :
    exec (.vminuI32 o) s = execVminuI32 o s := rfl
theorem exec_vmaxuI32 (o : VOp) (s : State) :
    exec (.vmaxuI32 o) s = execVmaxuI32 o s := rfl
theorem exec_vandI32 (o : VOp) (s : State) :
    exec (.vandI32 o) s = execVandI32 o s := rfl
theorem exec_vorI32 (o : VOp) (s : State) :
    exec (.vorI32 o) s = execVorI32 o s := rfl
theorem exec_vxorI32 (o : VOp) (s : State) :
    exec (.vxorI32 o) s = execVxorI32 o s := rfl
theorem exec_vandnI32 (o : VOp) (s : State) :
    exec (.vandnI32 o) s = execVandnI32 o s := rfl
theorem exec_vshlI32 (o : VOp) (s : State) :
    exec (.vshlI32 o) s = execVshlI32 o s := rfl
theorem exec_vshrI32 (o : VOp) (s : State) :
    exec (.vshrI32 o) s = execVshrI32 o s := rfl
theorem exec_vsarI32 (o : VOp) (s : State) :
    exec (.vsarI32 o) s = execVsarI32 o s := rfl
theorem exec_vaddI16 (o : VOp) (s : State) :
    exec (.vaddI16 o) s = execVaddI16 o s := rfl
theorem exec_vsubI16 (o : VOp) (s : State) :
    exec (.vsubI16 o) s = execVsubI16 o s := rfl
theorem exec_vmulI16 (o : VOp) (s : State) :
    exec (.vmulI16 o) s = execVmulI16 o s := rfl
theorem exec_vaddsI16 (o : VOp) (s : State) :
    exec (.vaddsI16 o) s = execVaddsI16 o s := rfl
theorem exec_vsubsI16 (o : VOp) (s : State) :
    exec (.vsubsI16 o) s = execVsubsI16 o s := rfl
theorem exec_vminI16 (o : VOp) (s : State) :
    exec (.vminI16 o) s = execVminI16 o s := rfl
theorem exec_vmaxI16 (o : VOp) (s : State) :
    exec (.vmaxI16 o) s = execVmaxI16 o s := rfl
theorem exec_vcmp (o : VcmpOp) (s : State) :
    exec (.vcmp o) s = execVcmp o s := rfl
theorem exec_vsel (o : VOp) (s : State) :
    exec (.vsel o) s = execVsel o s := rfl
theorem exec_mand (o : MmmOp) (s : State) :
    exec (.mand o) s = execMand o s := rfl
theorem exec_mor (o : MmmOp) (s : State) :
    exec (.mor o) s = execMor o s := rfl
theorem exec_mxor (o : MmmOp) (s : State) :
    exec (.mxor o) s = execMxor o s := rfl
theorem exec_mandn (o : MmmOp) (s : State) :
    exec (.mandn o) s = execMandn o s := rfl
theorem exec_mnot (o : MmOp) (s : State) :
    exec (.mnot o) s = execMnot o s := rfl
theorem exec_mpop (o : GmOp) (s : State) :
    exec (.mpop o) s = execMpop o s := rfl
theorem exec_mtog (o : GmOp) (s : State) :
    exec (.mtog o) s = execMtog o s := rfl
theorem exec_mfromg (o : MgOp) (s : State) :
    exec (.mfromg o) s = execMfromg o s := rfl
theorem exec_vcvtF32I32 (o : Vf1Op) (s : State) :
    exec (.vcvtF32I32 o) s = execVcvtF32I32 o s := rfl
theorem exec_vcvtI32F32 (o : Vf1Op) (s : State) :
    exec (.vcvtI32F32 o) s = execVcvtI32F32 o s := rfl
theorem exec_vcvtF32Bf16 (o : Vf1Op) (s : State) :
    exec (.vcvtF32Bf16 o) s = execVcvtF32Bf16 o s := rfl
theorem exec_vcvtBf16F32 (o : Vf1Op) (s : State) :
    exec (.vcvtBf16F32 o) s = execVcvtBf16F32 o s := rfl
theorem exec_vcvtF32F16 (o : Vf1Op) (s : State) :
    exec (.vcvtF32F16 o) s = execVcvtF32F16 o s := rfl
theorem exec_vcvtF16F32 (o : Vf1Op) (s : State) :
    exec (.vcvtF16F32 o) s = execVcvtF16F32 o s := rfl
theorem exec_vl6pack (o : Vf1Op) (s : State) :
    exec (.vl6pack o) s = execVl6pack o s := rfl
theorem exec_vl6unpk (o : Vf1Op) (s : State) :
    exec (.vl6unpk o) s = execVl6unpk o s := rfl
theorem exec_vexp2 (o : Vf1Op) (s : State) :
    exec (.vexp2 o) s = execVexp2 o s := rfl
theorem exec_vlog2 (o : Vf1Op) (s : State) :
    exec (.vlog2 o) s = execVlog2 o s := rfl
theorem exec_vrcp (o : Vf1Op) (s : State) :
    exec (.vrcp o) s = execVrcp o s := rfl
theorem exec_vrsq (o : Vf1Op) (s : State) :
    exec (.vrsq o) s = execVrsq o s := rfl
theorem exec_vred (o : VredOp) (s : State) :
    exec (.vred o) s = execVred o s := rfl
theorem exec_vperm (o : VOp) (s : State) :
    exec (.vperm o) s = execVperm o s := rfl
theorem exec_vbcast (o : VbcastOp) (s : State) :
    exec (.vbcast o) s = execVbcast o s := rfl
theorem exec_vld (o : VmemOp) (s : State) :
    exec (.vld o) s = execVld o s := rfl
theorem exec_vlds (o : VmemXOp) (s : State) :
    exec (.vlds o) s = execVlds o s := rfl
theorem exec_vldx (o : VmemXOp) (s : State) :
    exec (.vldx o) s = execVldx o s := rfl
theorem exec_vst (o : VmemOp) (s : State) :
    exec (.vst o) s = execVst o s := rfl
theorem exec_vsts (o : VmemXOp) (s : State) :
    exec (.vsts o) s = execVsts o s := rfl
theorem exec_vstx (o : VmemXOp) (s : State) :
    exec (.vstx o) s = execVstx o s := rfl
theorem exec_tld (o : TmemOp) (s : State) :
    exec (.tld o) s = execTld o s := rfl
theorem exec_tst (o : TmemOp) (s : State) :
    exec (.tst o) s = execTst o s := rfl
theorem exec_tmod (o : TmodOp) (s : State) :
    exec (.tmod o) s = execTmod o s := rfl
theorem exec_mxm (o : MxmOp) (s : State) :
    exec (.mxm o) s = execMxm o s := rfl
theorem exec_mxmRb (o : MxmOp) (s : State) :
    exec (.mxmRb o) s = execMxmRb o s := rfl
theorem exec_mxz (o : MxzOp) (s : State) :
    exec (.mxz o) s = execMxz o s := rfl
theorem exec_mxd (o : MxdOp) (s : State) :
    exec (.mxd o) s = execMxd o s := rfl
theorem exec_cpy (o : CpyOp) (s : State) :
    exec (.cpy o) s = execCpy o s := rfl
theorem exec_cpyT8 (o : CpyOp) (s : State) :
    exec (.cpyT8 o) s = execCpyT8 o s := rfl
theorem exec_cpyT16 (o : CpyOp) (s : State) :
    exec (.cpyT16 o) s = execCpyT16 o s := rfl
theorem exec_gather (o : IdxOp) (s : State) :
    exec (.gather o) s = execGather o s := rfl
theorem exec_scatter (o : IdxOp) (s : State) :
    exec (.scatter o) s = execScatter o s := rfl
theorem exec_scadd (o : IdxOp) (s : State) :
    exec (.scadd o) s = execScadd o s := rfl
theorem exec_wload (o : CpyOp) (s : State) :
    exec (.wload o) s = execWload o s := rfl
theorem exec_att (o : AttOp) (s : State) :
    exec (.att o) s = execAtt o s := rfl
theorem exec_copen (o : CopenOp) (s : State) :
    exec (.copen o) s = execCopen o s := rfl
theorem exec_chold (o : HgOp) (s : State) :
    exec (.chold o) s = execChold o s := rfl
theorem exec_csend (o : HgOp) (s : State) :
    exec (.csend o) s = execCsend o s := rfl
theorem exec_csendResume (o : HgOp) (s : State) :
    exec (.csendResume o) s = execCsendResume o s := rfl
theorem exec_cshut (o : HOp) (s : State) :
    exec (.cshut o) s = execCshut o s := rfl
theorem exec_cstat (o : HgOp) (s : State) :
    exec (.cstat o) s = execCstat o s := rfl
theorem exec_tide (o : TideOp) (s : State) :
    exec (.tide o) s = execTide o s := rfl
theorem exec_ard (o : RedCollOp) (s : State) :
    exec (.ard o) s = execArd o s := rfl
theorem exec_agt (o : CollOp) (s : State) :
    exec (.agt o) s = execAgt o s := rfl
theorem exec_rsc (o : RedCollOp) (s : State) :
    exec (.rsc o) s = execRsc o s := rfl
theorem exec_bct (o : CollOp) (s : State) :
    exec (.bct o) s = execBct o s := rfl
theorem exec_tree (o : TreeOp) (s : State) :
    exec (.tree o) s = execTree o s := rfl
theorem exec_rota (o : RotaOp) (s : State) :
    exec (.rota o) s = execRota o s := rfl
theorem exec_vcAdvance (isle : Nat) (s : State) :
    exec (.vcAdvance isle) s = execVcAdvance isle s := rfl
theorem exec_timedLanding (isle : Nat) (s : State) :
    exec (.timedLanding isle) s = execTimedLanding isle s := rfl
theorem exec_landingDataArrival (isle : Nat) (id : Nat) (only : Option Nat) (answers : List (Nat × Answer)) (s : State) :
    exec (.landingDataArrival isle id only answers) s = execLandingDataArrival isle id only answers s := rfl
theorem exec_freezeEnd (isle : Nat) (s : State) :
    exec (.freezeEnd isle) s = execFreezeEnd isle s := rfl
theorem exec_watchdog (isle : Nat) (s : State) :
    exec (.watchdog isle) s = execWatchdog isle s := rfl
theorem exec_pageRefillDone (isle : Nat) (page : Nat) (s : State) :
    exec (.pageRefillDone isle page) s = execPageRefillDone isle page s := rfl
theorem exec_writeAcknowledge (id : Nat) (die : Option Nat) (answers : List (Nat × Answer)) (s : State) :
    exec (.writeAcknowledge id die answers) s = execWriteAcknowledge id die answers s := rfl
theorem exec_queueEnable (vf : Nat) (q : Nat) (value : Word) (s : State) :
    exec (.queueEnable vf q value) s = execQueueEnable vf q value s := rfl
theorem exec_queueDisable (vf : Nat) (q : Nat) (value : Word) (s : State) :
    exec (.queueDisable vf q value) s = execQueueDisable vf q value s := rfl
theorem exec_tailWrite (vf : Nat) (q : Nat) (value : Word) (s : State) :
    exec (.tailWrite vf q value) s = execTailWrite vf q value s := rfl
theorem exec_parseNop (vf : Nat) (q : Nat) (ext : List (Nat × Byte)) (s : State) :
    exec (.parseNop vf q ext) s = execParseNop vf q ext s := rfl
theorem exec_parseLaunch (vf : Nat) (q : Nat) (ext : List (Nat × Byte)) (s : State) :
    exec (.parseLaunch vf q ext) s = execParseLaunch vf q ext s := rfl
theorem exec_parseFence (vf : Nat) (q : Nat) (ext : List (Nat × Byte)) (s : State) :
    exec (.parseFence vf q ext) s = execParseFence vf q ext s := rfl
theorem exec_fenceCounterRead (vf : Nat) (q : Nat) (ext : List (Nat × Byte)) (s : State) :
    exec (.fenceCounterRead vf q ext) s = execFenceCounterRead vf q ext s := rfl
theorem exec_parseSignal (vf : Nat) (q : Nat) (ext : List (Nat × Byte)) (s : State) :
    exec (.parseSignal vf q ext) s = execParseSignal vf q ext s := rfl
theorem exec_signalAdd (vf : Nat) (q : Nat) (s : State) :
    exec (.signalAdd vf q) s = execSignalAdd vf q s := rfl
theorem exec_launchDispatch (vf : Nat) (q : Nat) (ext : List (Nat × Byte)) (s : State) :
    exec (.launchDispatch vf q ext) s = execLaunchDispatch vf q ext s := rfl
theorem exec_saveComplete (isle : Nat) (s : State) :
    exec (.saveComplete isle) s = execSaveComplete isle s := rfl
theorem exec_instanceResume (inst : Nat) (isle : Nat) (s : State) :
    exec (.instanceResume inst isle) s = execInstanceResume inst isle s := rfl
theorem exec_speculationTimeout (vf : Nat) (q : Nat) (s : State) :
    exec (.speculationTimeout vf q) s = execSpeculationTimeout vf q s := rfl
theorem exec_commitComplete (vf : Nat) (q : Nat) (s : State) :
    exec (.commitComplete vf q) s = execCommitComplete vf q s := rfl
theorem exec_ingressRequest (r : IngressReq) (s : State) :
    exec (.ingressRequest r) s = execIngressRequest r s := rfl
theorem exec_refusedAccess (id : Nat) (part : Nat) (step : BitVec 4) (s : State) :
    exec (.refusedAccess id part step) s = execRefusedAccess id part step s := rfl
theorem exec_fabricTimeout (id : Nat) (s : State) :
    exec (.fabricTimeout id) s = execFabricTimeout id s := rfl
theorem exec_granuleMoveStart (home : Option Nat) (granule : Nat) (holder : Option Nat) (s : State) :
    exec (.granuleMoveStart home granule holder) s = execGranuleMoveStart home granule holder s := rfl
theorem exec_granuleMoveEnd (home : Option Nat) (granule : Nat) (backing : Nat) (image : List (Nat × Byte)) (s : State) :
    exec (.granuleMoveEnd home granule backing image) s = execGranuleMoveEnd home granule backing image s := rfl
theorem exec_contestPinEnd (granule : Nat) (s : State) :
    exec (.contestPinEnd granule) s = execContestPinEnd granule s := rfl
theorem exec_moveRetry (req : Nat) (s : State) :
    exec (.moveRetry req) s = execMoveRetry req s := rfl
theorem exec_moveRetryLimit (req : Nat) (s : State) :
    exec (.moveRetryLimit req) s = execMoveRetryLimit req s := rfl
theorem exec_foreignPeerTimeout (part : Nat) (peer : Nat) (s : State) :
    exec (.foreignPeerTimeout part peer) s = execForeignPeerTimeout part peer s := rfl
theorem exec_turnStart (link : Nat) (s : State) :
    exec (.turnStart link) s = execTurnStart link s := rfl
theorem exec_turnEnd (link : Nat) (s : State) :
    exec (.turnEnd link) s = execTurnEnd link s := rfl
theorem exec_tideExpired (link : Nat) (region : Nat) (s : State) :
    exec (.tideExpired link region) s = execTideExpired link region s := rfl
theorem exec_windowPacketArrival (p : WindowPacket) (s : State) :
    exec (.windowPacketArrival p) s = execWindowPacketArrival p s := rfl
theorem exec_meterIdle (f : Flow) (s : State) :
    exec (.meterIdle f) s = execMeterIdle f s := rfl
theorem exec_probeArrival (p : Probe) (s : State) :
    exec (.probeArrival p) s = execProbeArrival p s := rfl
theorem exec_probeSuccess (f : Flow) (backtracks : Nat) (s : State) :
    exec (.probeSuccess f backtracks) s = execProbeSuccess f backtracks s := rfl
theorem exec_probeFail (f : Flow) (backtracks : Nat) (s : State) :
    exec (.probeFail f backtracks) s = execProbeFail f backtracks s := rfl
theorem exec_circuitDataArrival (c : CircuitSrc) (off : Nat) (data : List Byte) (s : State) :
    exec (.circuitDataArrival c off data) s = execCircuitDataArrival c off data s := rfl
theorem exec_markedPacketArrival (f : Flow) (off : Nat) (s : State) :
    exec (.markedPacketArrival f off) s = execMarkedPacketArrival f off s := rfl
theorem exec_tokenArrival (c : CircuitRef) (off : Nat) (s : State) :
    exec (.tokenArrival c off) s = execTokenArrival c off s := rfl
theorem exec_circuitIdle (f : Flow) (s : State) :
    exec (.circuitIdle f) s = execCircuitIdle f s := rfl
theorem exec_demotionMarkArrival (f : Flow) (s : State) :
    exec (.demotionMarkArrival f) s = execDemotionMarkArrival f s := rfl
theorem exec_circuitBreak (c : CircuitRef) (cause : BitVec 4) (s : State) :
    exec (.circuitBreak c cause) s = execCircuitBreak c cause s := rfl
theorem exec_teardownReported (f : Flow) (s : State) :
    exec (.teardownReported f) s = execTeardownReported f s := rfl
theorem exec_holdExpiry (f : Flow) (s : State) :
    exec (.holdExpiry f) s = execHoldExpiry f s := rfl
theorem exec_leaseExpiry (isle : Nat) (h : Nat) (s : State) :
    exec (.leaseExpiry isle h) s = execLeaseExpiry isle h s := rfl
theorem exec_fallbackDone (isle : Nat) (h : Nat) (s : State) :
    exec (.fallbackDone isle h) s = execFallbackDone isle h s := rfl
theorem exec_linkFailure (port : Nat) (s : State) :
    exec (.linkFailure port) s = execLinkFailure port s := rfl
theorem exec_linkRetrain (port : Nat) (s : State) :
    exec (.linkRetrain port) s = execLinkRetrain port s := rfl
theorem exec_multicastForward (tree : Nat) (tenant : Nat) (c : Contribution) (s : State) :
    exec (.multicastForward tree tenant c) s = execMulticastForward tree tenant c s := rfl
theorem exec_collectiveContribution (isle : Nat) (c : Contribution) (s : State) :
    exec (.collectiveContribution isle c) s = execCollectiveContribution isle c s := rfl
theorem exec_rackTokenArrival (isle : Nat) (fromPeer : Nat) (label : Nat) (s : State) :
    exec (.rackTokenArrival isle fromPeer label) s = execRackTokenArrival isle fromPeer label s := rfl
theorem exec_caskArrival (isle : Nat) (size : Nat) (n : Nat) (data : List Byte) (s : State) :
    exec (.caskArrival isle size n data) s = execCaskArrival isle size n data s := rfl
theorem exec_rotaReopen (isle : Nat) (opened : Bool) (s : State) :
    exec (.rotaReopen isle opened) s = execRotaReopen isle opened s := rfl
theorem exec_failureMarkArrival (isle : Nat) (label : Nat) (s : State) :
    exec (.failureMarkArrival isle label) s = execFailureMarkArrival isle label s := rfl
theorem exec_engineCommandStart (isle : Nat) (engine : Engine) (cmd : Nat) (s : State) :
    exec (.engineCommandStart isle engine cmd) s = execEngineCommandStart isle engine cmd s := rfl
theorem exec_engineCommandComplete (isle : Nat) (engine : Engine) (cmd : Nat) (row : Option Nat) (ext : List (Nat × Answer)) (s : State) :
    exec (.engineCommandComplete isle engine cmd row ext) s = execEngineCommandComplete isle engine cmd row ext s := rfl
theorem exec_dieReset (die : Nat) (s : State) :
    exec (.dieReset die) s = execDieReset die s := rfl
theorem exec_dieResetTimeout (die : Nat) (s : State) :
    exec (.dieResetTimeout die) s = execDieResetTimeout die s := rfl
theorem exec_linkFlitError (link : Nat) (hit : FlitHit) (s : State) :
    exec (.linkFlitError link hit) s = execLinkFlitError link hit s := rfl
theorem exec_fabricFlitError (port : Nat) (hit : FlitHit) (s : State) :
    exec (.fabricFlitError port hit) s = execFabricFlitError port hit s := rfl
theorem exec_clockThrottle (junction : Nat) (s : State) :
    exec (.clockThrottle junction) s = execClockThrottle junction s := rfl
theorem exec_shutdown (s : State) :
    exec (.shutdown) s = execShutdown s := rfl
theorem exec_deviceReset (s : State) :
    exec (.deviceReset) s = execDeviceReset s := rfl
theorem exec_firmwareLoad (image : List Byte) (signature : List Byte) (s : State) :
    exec (.firmwareLoad image signature) s = execFirmwareLoad image signature s := rfl
theorem exec_attestation (nonce : List Byte) (s : State) :
    exec (.attestation nonce) s = execAttestation nonce s := rfl
theorem exec_lifeCycleChange (target : LifeCycle) (actor : LifeCycleActor) (s : State) :
    exec (.lifeCycleChange target actor) s = execLifeCycleChange target actor s := rfl
theorem exec_abortreq (vf : Nat) (value : Word) (s : State) :
    exec (.abortreq vf value) s = execAbortreq vf value s := rfl
theorem exec_rrqctlWrite (vf : Nat) (value : Word) (s : State) :
    exec (.rrqctlWrite vf value) s = execRrqctlWrite vf value s := rfl
theorem exec_rrqctlRead (vf : Nat) (s : State) :
    exec (.rrqctlRead vf) s = execRrqctlRead vf s := rfl
theorem exec_sidebandResetRequest (s : State) :
    exec (.sidebandResetRequest) s = execSidebandResetRequest s := rfl
theorem exec_registerWrite (w : RegWrite) (s : State) :
    exec (.registerWrite w) s = execRegisterWrite w s := rfl
theorem exec_hostLinkRequest (r : HostReq) (s : State) :
    exec (.hostLinkRequest r) s = execHostLinkRequest r s := rfl
theorem exec_dieReturnsToService (die : Nat) (s : State) :
    exec (.dieReturnsToService die) s = execDieReturnsToService die s := rfl
theorem exec_caskConsumed (isle : Nat) (s : State) :
    exec (.caskConsumed isle) s = execCaskConsumed isle s := rfl

/-- Every instruction of an instruction word runs a body at its turn. -/
theorem exec_word (ins : Instr) (h : slotOf ins ≠ none) : ∃ body, ∀ s, exec ins s = runWord ins s body := by
  cases ins with
  | add o => exact ⟨_, fun s => (exec_add o s).trans (execAdd.eq_1 o s)⟩
  | sub o => exact ⟨_, fun s => (exec_sub o s).trans (execSub.eq_1 o s)⟩
  | mul o => exact ⟨_, fun s => (exec_mul o s).trans (execMul.eq_1 o s)⟩
  | mulh o => exact ⟨_, fun s => (exec_mulh o s).trans (execMulh.eq_1 o s)⟩
  | mulhu o => exact ⟨_, fun s => (exec_mulhu o s).trans (execMulhu.eq_1 o s)⟩
  | div o => exact ⟨_, fun s => (exec_div o s).trans (execDiv.eq_1 o s)⟩
  | divu o => exact ⟨_, fun s => (exec_divu o s).trans (execDivu.eq_1 o s)⟩
  | rem o => exact ⟨_, fun s => (exec_rem o s).trans (execRem.eq_1 o s)⟩
  | remu o => exact ⟨_, fun s => (exec_remu o s).trans (execRemu.eq_1 o s)⟩
  | and o => exact ⟨_, fun s => (exec_and o s).trans (execAnd.eq_1 o s)⟩
  | or o => exact ⟨_, fun s => (exec_or o s).trans (execOr.eq_1 o s)⟩
  | xor o => exact ⟨_, fun s => (exec_xor o s).trans (execXor.eq_1 o s)⟩
  | andn o => exact ⟨_, fun s => (exec_andn o s).trans (execAndn.eq_1 o s)⟩
  | shl o => exact ⟨_, fun s => (exec_shl o s).trans (execShl.eq_1 o s)⟩
  | shr o => exact ⟨_, fun s => (exec_shr o s).trans (execShr.eq_1 o s)⟩
  | sar o => exact ⟨_, fun s => (exec_sar o s).trans (execSar.eq_1 o s)⟩
  | rol o => exact ⟨_, fun s => (exec_rol o s).trans (execRol.eq_1 o s)⟩
  | min o => exact ⟨_, fun s => (exec_min o s).trans (execMin.eq_1 o s)⟩
  | max o => exact ⟨_, fun s => (exec_max o s).trans (execMax.eq_1 o s)⟩
  | minu o => exact ⟨_, fun s => (exec_minu o s).trans (execMinu.eq_1 o s)⟩
  | maxu o => exact ⟨_, fun s => (exec_maxu o s).trans (execMaxu.eq_1 o s)⟩
  | slt o => exact ⟨_, fun s => (exec_slt o s).trans (execSlt.eq_1 o s)⟩
  | sltu o => exact ⟨_, fun s => (exec_sltu o s).trans (execSltu.eq_1 o s)⟩
  | seq o => exact ⟨_, fun s => (exec_seq o s).trans (execSeq.eq_1 o s)⟩
  | clz o => exact ⟨_, fun s => (exec_clz o s).trans (execClz.eq_1 o s)⟩
  | ctz o => exact ⟨_, fun s => (exec_ctz o s).trans (execCtz.eq_1 o s)⟩
  | popc o => exact ⟨_, fun s => (exec_popc o s).trans (execPopc.eq_1 o s)⟩
  | bswap o => exact ⟨_, fun s => (exec_bswap o s).trans (execBswap.eq_1 o s)⟩
  | loc o => exact ⟨_, fun s => (exec_loc o s).trans (execLoc.eq_1 o s)⟩
  | sel o => exact ⟨_, fun s => (exec_sel o s).trans (execSel.eq_1 o s)⟩
  | lea o => exact ⟨_, fun s => (exec_lea o s).trans (execLea.eq_1 o s)⟩
  | bfx o => exact ⟨_, fun s => (exec_bfx o s).trans (execBfx.eq_1 o s)⟩
  | bfi o => exact ⟨_, fun s => (exec_bfi o s).trans (execBfi.eq_1 o s)⟩
  | addImm o => exact ⟨_, fun s => (exec_addImm o s).trans (execAddImm.eq_1 o s)⟩
  | mulImm o => exact ⟨_, fun s => (exec_mulImm o s).trans (execMulImm.eq_1 o s)⟩
  | andImm o => exact ⟨_, fun s => (exec_andImm o s).trans (execAndImm.eq_1 o s)⟩
  | orImm o => exact ⟨_, fun s => (exec_orImm o s).trans (execOrImm.eq_1 o s)⟩
  | xorImm o => exact ⟨_, fun s => (exec_xorImm o s).trans (execXorImm.eq_1 o s)⟩
  | shlImm o => exact ⟨_, fun s => (exec_shlImm o s).trans (execShlImm.eq_1 o s)⟩
  | shrImm o => exact ⟨_, fun s => (exec_shrImm o s).trans (execShrImm.eq_1 o s)⟩
  | sarImm o => exact ⟨_, fun s => (exec_sarImm o s).trans (execSarImm.eq_1 o s)⟩
  | sltImm o => exact ⟨_, fun s => (exec_sltImm o s).trans (execSltImm.eq_1 o s)⟩
  | sltuImm o => exact ⟨_, fun s => (exec_sltuImm o s).trans (execSltuImm.eq_1 o s)⟩
  | seqImm o => exact ⟨_, fun s => (exec_seqImm o s).trans (execSeqImm.eq_1 o s)⟩
  | li o => exact ⟨_, fun s => (exec_li o s).trans (execLi.eq_1 o s)⟩
  | lui o => exact ⟨_, fun s => (exec_lui o s).trans (execLui.eq_1 o s)⟩
  | fadd o => exact ⟨_, fun s => (exec_fadd o s).trans (execFadd.eq_1 o s)⟩
  | fsub o => exact ⟨_, fun s => (exec_fsub o s).trans (execFsub.eq_1 o s)⟩
  | fmul o => exact ⟨_, fun s => (exec_fmul o s).trans (execFmul.eq_1 o s)⟩
  | fmin o => exact ⟨_, fun s => (exec_fmin o s).trans (execFmin.eq_1 o s)⟩
  | fmax o => exact ⟨_, fun s => (exec_fmax o s).trans (execFmax.eq_1 o s)⟩
  | fcmp o => exact ⟨_, fun s => (exec_fcmp o s).trans (execFcmp.eq_1 o s)⟩
  | fcvtI32F32 o => exact ⟨_, fun s => (exec_fcvtI32F32 o s).trans (execFcvtI32F32.eq_1 o s)⟩
  | fcvtF32I32 o => exact ⟨_, fun s => (exec_fcvtF32I32 o s).trans (execFcvtF32I32.eq_1 o s)⟩
  | fcvtBf16F32 o => exact ⟨_, fun s => (exec_fcvtBf16F32 o s).trans (execFcvtBf16F32.eq_1 o s)⟩
  | fcvtF32Bf16 o => exact ⟨_, fun s => (exec_fcvtF32Bf16 o s).trans (execFcvtF32Bf16.eq_1 o s)⟩
  | fcvtF16F32 o => exact ⟨_, fun s => (exec_fcvtF16F32 o s).trans (execFcvtF16F32.eq_1 o s)⟩
  | fcvtF32F16 o => exact ⟨_, fun s => (exec_fcvtF32F16 o s).trans (execFcvtF32F16.eq_1 o s)⟩
  | fcvtL6F32 o => exact ⟨_, fun s => (exec_fcvtL6F32 o s).trans (execFcvtL6F32.eq_1 o s)⟩
  | fcvtF32L6 o => exact ⟨_, fun s => (exec_fcvtF32L6 o s).trans (execFcvtF32L6.eq_1 o s)⟩
  | ffma o => exact ⟨_, fun s => (exec_ffma o s).trans (execFfma.eq_1 o s)⟩
  | br o => exact ⟨_, fun s => (exec_br o s).trans (execBr.eq_1 o s)⟩
  | bc o => exact ⟨_, fun s => (exec_bc o s).trans (execBc.eq_1 o s)⟩
  | loop o => exact ⟨_, fun s => (exec_loop o s).trans (execLoop.eq_1 o s)⟩
  | call o => exact ⟨_, fun s => (exec_call o s).trans (execCall.eq_1 o s)⟩
  | jr o => exact ⟨_, fun s => (exec_jr o s).trans (execJr.eq_1 o s)⟩
  | callr o => exact ⟨_, fun s => (exec_callr o s).trans (execCallr.eq_1 o s)⟩
  | ret o => exact ⟨_, fun s => (exec_ret o s).trans (execRet.eq_1 o s)⟩
  | qpeek o => exact ⟨_, fun s => (exec_qpeek o s).trans (execQpeek.eq_1 o s)⟩
  | qcnt o => exact ⟨_, fun s => (exec_qcnt o s).trans (execQcnt.eq_1 o s)⟩
  | srd o => exact ⟨_, fun s => (exec_srd o s).trans (execSrd.eq_1 o s)⟩
  | swr o => exact ⟨_, fun s => (exec_swr o s).trans (execSwr.eq_1 o s)⟩
  | trap o => exact ⟨_, fun s => (exec_trap o s).trans (execTrap.eq_1 o s)⟩
  | exit o => exact ⟨_, fun s => (exec_exit o s).trans (execExit.eq_1 o s)⟩
  | nop o => exact ⟨_, fun s => (exec_nop o s).trans (execNop.eq_1 o s)⟩
  | hint o => exact ⟨_, fun s => (exec_hint o s).trans (execHint.eq_1 o s)⟩
  | pmark o => exact ⟨_, fun s => (exec_pmark o s).trans (execPmark.eq_1 o s)⟩
  | ld o => exact ⟨_, fun s => (exec_ld o s).trans (execLd.eq_1 o s)⟩
  | lds o => exact ⟨_, fun s => (exec_lds o s).trans (execLds.eq_1 o s)⟩
  | ldAq o => exact ⟨_, fun s => (exec_ldAq o s).trans (execLdAq.eq_1 o s)⟩
  | st o => exact ⟨_, fun s => (exec_st o s).trans (execSt.eq_1 o s)⟩
  | stRl o => exact ⟨_, fun s => (exec_stRl o s).trans (execStRl.eq_1 o s)⟩
  | amo o => exact ⟨_, fun s => (exec_amo o s).trans (execAmo.eq_1 o s)⟩
  | amoRl o => exact ⟨_, fun s => (exec_amoRl o s).trans (execAmoRl.eq_1 o s)⟩
  | cas o => exact ⟨_, fun s => (exec_cas o s).trans (execCas.eq_1 o s)⟩
  | red o => exact ⟨_, fun s => (exec_red o s).trans (execRed.eq_1 o s)⟩
  | pref o => exact ⟨_, fun s => (exec_pref o s).trans (execPref.eq_1 o s)⟩
  | cflush o => exact ⟨_, fun s => (exec_cflush o s).trans (execCflush.eq_1 o s)⟩
  | pgreq o => exact ⟨_, fun s => (exec_pgreq o s).trans (execPgreq.eq_1 o s)⟩
  | fence o => exact ⟨_, fun s => (exec_fence o s).trans (execFence.eq_1 o s)⟩
  | barArr o => exact ⟨_, fun s => (exec_barArr o s).trans (execBarArr.eq_1 o s)⟩
  | barWait o => exact ⟨_, fun s => (exec_barWait o s).trans (execBarWait.eq_1 o s)⟩
  | step o => exact ⟨_, fun s => (exec_step o s).trans (execStep.eq_1 o s)⟩
  | succ o => exact ⟨_, fun s => (exec_succ o s).trans (execSucc.eq_1 o s)⟩
  | waitvis o => exact ⟨_, fun s => (exec_waitvis o s).trans (execWaitvis.eq_1 o s)⟩
  | wait o => exact ⟨_, fun s => (exec_wait o s).trans (execWait.eq_1 o s)⟩
  | launch o => exact ⟨_, fun s => (exec_launch o s).trans (execLaunch.eq_1 o s)⟩
  | qtail o => exact ⟨_, fun s => (exec_qtail o s).trans (execQtail.eq_1 o s)⟩
  | vaddF32 o => exact ⟨_, fun s => (exec_vaddF32 o s).trans (execVaddF32.eq_1 o s)⟩
  | vsubF32 o => exact ⟨_, fun s => (exec_vsubF32 o s).trans (execVsubF32.eq_1 o s)⟩
  | vmulF32 o => exact ⟨_, fun s => (exec_vmulF32 o s).trans (execVmulF32.eq_1 o s)⟩
  | vfmaF32 o => exact ⟨_, fun s => (exec_vfmaF32 o s).trans (execVfmaF32.eq_1 o s)⟩
  | vminF32 o => exact ⟨_, fun s => (exec_vminF32 o s).trans (execVminF32.eq_1 o s)⟩
  | vmaxF32 o => exact ⟨_, fun s => (exec_vmaxF32 o s).trans (execVmaxF32.eq_1 o s)⟩
  | vabsF32 o => exact ⟨_, fun s => (exec_vabsF32 o s).trans (execVabsF32.eq_1 o s)⟩
  | vnegF32 o => exact ⟨_, fun s => (exec_vnegF32 o s).trans (execVnegF32.eq_1 o s)⟩
  | vaddBf16 o => exact ⟨_, fun s => (exec_vaddBf16 o s).trans (execVaddBf16.eq_1 o s)⟩
  | vsubBf16 o => exact ⟨_, fun s => (exec_vsubBf16 o s).trans (execVsubBf16.eq_1 o s)⟩
  | vmulBf16 o => exact ⟨_, fun s => (exec_vmulBf16 o s).trans (execVmulBf16.eq_1 o s)⟩
  | vfmaBf16 o => exact ⟨_, fun s => (exec_vfmaBf16 o s).trans (execVfmaBf16.eq_1 o s)⟩
  | vminBf16 o => exact ⟨_, fun s => (exec_vminBf16 o s).trans (execVminBf16.eq_1 o s)⟩
  | vmaxBf16 o => exact ⟨_, fun s => (exec_vmaxBf16 o s).trans (execVmaxBf16.eq_1 o s)⟩
  | vabsBf16 o => exact ⟨_, fun s => (exec_vabsBf16 o s).trans (execVabsBf16.eq_1 o s)⟩
  | vnegBf16 o => exact ⟨_, fun s => (exec_vnegBf16 o s).trans (execVnegBf16.eq_1 o s)⟩
  | vaddF16 o => exact ⟨_, fun s => (exec_vaddF16 o s).trans (execVaddF16.eq_1 o s)⟩
  | vsubF16 o => exact ⟨_, fun s => (exec_vsubF16 o s).trans (execVsubF16.eq_1 o s)⟩
  | vmulF16 o => exact ⟨_, fun s => (exec_vmulF16 o s).trans (execVmulF16.eq_1 o s)⟩
  | vfmaF16 o => exact ⟨_, fun s => (exec_vfmaF16 o s).trans (execVfmaF16.eq_1 o s)⟩
  | vminF16 o => exact ⟨_, fun s => (exec_vminF16 o s).trans (execVminF16.eq_1 o s)⟩
  | vmaxF16 o => exact ⟨_, fun s => (exec_vmaxF16 o s).trans (execVmaxF16.eq_1 o s)⟩
  | vabsF16 o => exact ⟨_, fun s => (exec_vabsF16 o s).trans (execVabsF16.eq_1 o s)⟩
  | vnegF16 o => exact ⟨_, fun s => (exec_vnegF16 o s).trans (execVnegF16.eq_1 o s)⟩
  | vaddI32 o => exact ⟨_, fun s => (exec_vaddI32 o s).trans (execVaddI32.eq_1 o s)⟩
  | vsubI32 o => exact ⟨_, fun s => (exec_vsubI32 o s).trans (execVsubI32.eq_1 o s)⟩
  | vmulI32 o => exact ⟨_, fun s => (exec_vmulI32 o s).trans (execVmulI32.eq_1 o s)⟩
  | vmulhI32 o => exact ⟨_, fun s => (exec_vmulhI32 o s).trans (execVmulhI32.eq_1 o s)⟩
  | vminI32 o => exact ⟨_, fun s => (exec_vminI32 o s).trans (execVminI32.eq_1 o s)⟩
  | vmaxI32 o => exact ⟨_, fun s => (exec_vmaxI32 o s).trans (execVmaxI32.eq_1 o s)⟩
  | vminuI32 o => exact ⟨_, fun s => (exec_vminuI32 o s).trans (execVminuI32.eq_1 o s)⟩
  | vmaxuI32 o => exact ⟨_, fun s => (exec_vmaxuI32 o s).trans (execVmaxuI32.eq_1 o s)⟩
  | vandI32 o => exact ⟨_, fun s => (exec_vandI32 o s).trans (execVandI32.eq_1 o s)⟩
  | vorI32 o => exact ⟨_, fun s => (exec_vorI32 o s).trans (execVorI32.eq_1 o s)⟩
  | vxorI32 o => exact ⟨_, fun s => (exec_vxorI32 o s).trans (execVxorI32.eq_1 o s)⟩
  | vandnI32 o => exact ⟨_, fun s => (exec_vandnI32 o s).trans (execVandnI32.eq_1 o s)⟩
  | vshlI32 o => exact ⟨_, fun s => (exec_vshlI32 o s).trans (execVshlI32.eq_1 o s)⟩
  | vshrI32 o => exact ⟨_, fun s => (exec_vshrI32 o s).trans (execVshrI32.eq_1 o s)⟩
  | vsarI32 o => exact ⟨_, fun s => (exec_vsarI32 o s).trans (execVsarI32.eq_1 o s)⟩
  | vaddI16 o => exact ⟨_, fun s => (exec_vaddI16 o s).trans (execVaddI16.eq_1 o s)⟩
  | vsubI16 o => exact ⟨_, fun s => (exec_vsubI16 o s).trans (execVsubI16.eq_1 o s)⟩
  | vmulI16 o => exact ⟨_, fun s => (exec_vmulI16 o s).trans (execVmulI16.eq_1 o s)⟩
  | vaddsI16 o => exact ⟨_, fun s => (exec_vaddsI16 o s).trans (execVaddsI16.eq_1 o s)⟩
  | vsubsI16 o => exact ⟨_, fun s => (exec_vsubsI16 o s).trans (execVsubsI16.eq_1 o s)⟩
  | vminI16 o => exact ⟨_, fun s => (exec_vminI16 o s).trans (execVminI16.eq_1 o s)⟩
  | vmaxI16 o => exact ⟨_, fun s => (exec_vmaxI16 o s).trans (execVmaxI16.eq_1 o s)⟩
  | vcmp o => exact ⟨_, fun s => (exec_vcmp o s).trans (execVcmp.eq_1 o s)⟩
  | vsel o => exact ⟨_, fun s => (exec_vsel o s).trans (execVsel.eq_1 o s)⟩
  | mand o => exact ⟨_, fun s => (exec_mand o s).trans (execMand.eq_1 o s)⟩
  | mor o => exact ⟨_, fun s => (exec_mor o s).trans (execMor.eq_1 o s)⟩
  | mxor o => exact ⟨_, fun s => (exec_mxor o s).trans (execMxor.eq_1 o s)⟩
  | mandn o => exact ⟨_, fun s => (exec_mandn o s).trans (execMandn.eq_1 o s)⟩
  | mnot o => exact ⟨_, fun s => (exec_mnot o s).trans (execMnot.eq_1 o s)⟩
  | mpop o => exact ⟨_, fun s => (exec_mpop o s).trans (execMpop.eq_1 o s)⟩
  | mtog o => exact ⟨_, fun s => (exec_mtog o s).trans (execMtog.eq_1 o s)⟩
  | mfromg o => exact ⟨_, fun s => (exec_mfromg o s).trans (execMfromg.eq_1 o s)⟩
  | vcvtF32I32 o => exact ⟨_, fun s => (exec_vcvtF32I32 o s).trans (execVcvtF32I32.eq_1 o s)⟩
  | vcvtI32F32 o => exact ⟨_, fun s => (exec_vcvtI32F32 o s).trans (execVcvtI32F32.eq_1 o s)⟩
  | vcvtF32Bf16 o => exact ⟨_, fun s => (exec_vcvtF32Bf16 o s).trans (execVcvtF32Bf16.eq_1 o s)⟩
  | vcvtBf16F32 o => exact ⟨_, fun s => (exec_vcvtBf16F32 o s).trans (execVcvtBf16F32.eq_1 o s)⟩
  | vcvtF32F16 o => exact ⟨_, fun s => (exec_vcvtF32F16 o s).trans (execVcvtF32F16.eq_1 o s)⟩
  | vcvtF16F32 o => exact ⟨_, fun s => (exec_vcvtF16F32 o s).trans (execVcvtF16F32.eq_1 o s)⟩
  | vl6pack o => exact ⟨_, fun s => (exec_vl6pack o s).trans (execVl6pack.eq_1 o s)⟩
  | vl6unpk o => exact ⟨_, fun s => (exec_vl6unpk o s).trans (execVl6unpk.eq_1 o s)⟩
  | vexp2 o => exact ⟨_, fun s => (exec_vexp2 o s).trans (execVexp2.eq_1 o s)⟩
  | vlog2 o => exact ⟨_, fun s => (exec_vlog2 o s).trans (execVlog2.eq_1 o s)⟩
  | vrcp o => exact ⟨_, fun s => (exec_vrcp o s).trans (execVrcp.eq_1 o s)⟩
  | vrsq o => exact ⟨_, fun s => (exec_vrsq o s).trans (execVrsq.eq_1 o s)⟩
  | vred o => exact ⟨_, fun s => (exec_vred o s).trans (execVred.eq_1 o s)⟩
  | vperm o => exact ⟨_, fun s => (exec_vperm o s).trans (execVperm.eq_1 o s)⟩
  | vbcast o => exact ⟨_, fun s => (exec_vbcast o s).trans (execVbcast.eq_1 o s)⟩
  | vld o => exact ⟨_, fun s => (exec_vld o s).trans (execVld.eq_1 o s)⟩
  | vlds o => exact ⟨_, fun s => (exec_vlds o s).trans (execVlds.eq_1 o s)⟩
  | vldx o => exact ⟨_, fun s => (exec_vldx o s).trans (execVldx.eq_1 o s)⟩
  | vst o => exact ⟨_, fun s => (exec_vst o s).trans (execVst.eq_1 o s)⟩
  | vsts o => exact ⟨_, fun s => (exec_vsts o s).trans (execVsts.eq_1 o s)⟩
  | vstx o => exact ⟨_, fun s => (exec_vstx o s).trans (execVstx.eq_1 o s)⟩
  | tld o => exact ⟨_, fun s => (exec_tld o s).trans (execTld.eq_1 o s)⟩
  | tst o => exact ⟨_, fun s => (exec_tst o s).trans (execTst.eq_1 o s)⟩
  | tmod o => exact ⟨_, fun s => (exec_tmod o s).trans (execTmod.eq_1 o s)⟩
  | mxm o => exact ⟨_, fun s => (exec_mxm o s).trans (execMxm.eq_1 o s)⟩
  | mxmRb o => exact ⟨_, fun s => (exec_mxmRb o s).trans (execMxmRb.eq_1 o s)⟩
  | mxz o => exact ⟨_, fun s => (exec_mxz o s).trans (execMxz.eq_1 o s)⟩
  | mxd o => exact ⟨_, fun s => (exec_mxd o s).trans (execMxd.eq_1 o s)⟩
  | cpy o => exact ⟨_, fun s => (exec_cpy o s).trans (execCpy.eq_1 o s)⟩
  | cpyT8 o => exact ⟨_, fun s => (exec_cpyT8 o s).trans (execCpyT8.eq_1 o s)⟩
  | cpyT16 o => exact ⟨_, fun s => (exec_cpyT16 o s).trans (execCpyT16.eq_1 o s)⟩
  | gather o => exact ⟨_, fun s => (exec_gather o s).trans (execGather.eq_1 o s)⟩
  | scatter o => exact ⟨_, fun s => (exec_scatter o s).trans (execScatter.eq_1 o s)⟩
  | scadd o => exact ⟨_, fun s => (exec_scadd o s).trans (execScadd.eq_1 o s)⟩
  | wload o => exact ⟨_, fun s => (exec_wload o s).trans (execWload.eq_1 o s)⟩
  | att o => exact ⟨_, fun s => (exec_att o s).trans (execAtt.eq_1 o s)⟩
  | copen o => exact ⟨_, fun s => (exec_copen o s).trans (execCopen.eq_1 o s)⟩
  | chold o => exact ⟨_, fun s => (exec_chold o s).trans (execChold.eq_1 o s)⟩
  | csend o => exact ⟨_, fun s => (exec_csend o s).trans (execCsend.eq_1 o s)⟩
  | csendResume o => exact ⟨_, fun s => (exec_csendResume o s).trans (execCsendResume.eq_1 o s)⟩
  | cshut o => exact ⟨_, fun s => (exec_cshut o s).trans (execCshut.eq_1 o s)⟩
  | cstat o => exact ⟨_, fun s => (exec_cstat o s).trans (execCstat.eq_1 o s)⟩
  | tide o => exact ⟨_, fun s => (exec_tide o s).trans (execTide.eq_1 o s)⟩
  | ard o => exact ⟨_, fun s => (exec_ard o s).trans (execArd.eq_1 o s)⟩
  | agt o => exact ⟨_, fun s => (exec_agt o s).trans (execAgt.eq_1 o s)⟩
  | rsc o => exact ⟨_, fun s => (exec_rsc o s).trans (execRsc.eq_1 o s)⟩
  | bct o => exact ⟨_, fun s => (exec_bct o s).trans (execBct.eq_1 o s)⟩
  | tree o => exact ⟨_, fun s => (exec_tree o s).trans (execTree.eq_1 o s)⟩
  | rota o => exact ⟨_, fun s => (exec_rota o s).trans (execRota.eq_1 o s)⟩
  | _ => exact absurd rfl h

end Sys2Proof.Machine
end

