-- ==== Sys2Proof/Laws/Tables.lean ====
section
/-!
SUPPORT. Laws of the keyed lists: what a table reads after an entry was put, updated or removed, and that sparse maps keep their
canonical form.
-/
namespace Sys2Proof.Sparse

theorem get_insert_self {α : Type} (d : α) (m : List (Nat × α)) (k : Nat) (v : α) : get d (insert m k v) k = v := by
  induction m with
  | nil => simp [insert, get]
  | cons p rest ih =>
    obtain ⟨k', v'⟩ := p
    unfold insert
    split
    · simp [get]
    · split
      · simp [get]
      · rename_i h; simp [get, h, ih]

theorem get_insert_other {α : Type} (d : α) (m : List (Nat × α)) (k j : Nat) (v : α) (h : j ≠ k) :
    get d (insert m k v) j = get d m j := by
  induction m with
  | nil => simp [insert, get, h.symm]
  | cons p rest ih =>
    obtain ⟨k', v'⟩ := p
    unfold insert
    split
    · simp [get, h.symm]
    · split
      · rename_i e; subst e; simp [get, h.symm]
      · simp [get, ih]

/-- Every key of the list is above b. -/
theorem wfAbove_mono {α : Type} [DecidableEq α] (d : α) (a b : Nat) (m : List (Nat × α)) (hab : a ≤ b)
    (h : wfAbove d (some b) m = true) : wfAbove d (some a) m = true := by
  cases m with
  | nil => rfl
  | cons p rest => simp [wfAbove] at h ⊢; exact ⟨⟨Nat.lt_of_le_of_lt hab h.1.1, h.1.2⟩, h.2⟩

theorem wfAbove_none {α : Type} [DecidableEq α] (d : α) (b : Nat) (m : List (Nat × α)) (h : wfAbove d (some b) m = true) :
    wfAbove d none m = true := by
  cases m with
  | nil => rfl
  | cons p rest => simp [wfAbove] at h ⊢; exact ⟨h.1.2, h.2⟩

theorem get_above {α : Type} [DecidableEq α] (d : α) (m : List (Nat × α)) (b k : Nat) (hk : k ≤ b)
    (h : wfAbove d (some b) m = true) : get d m k = d := by
  induction m generalizing b with
  | nil => rfl
  | cons p rest ih =>
    simp [wfAbove] at h
    have : p.1 ≠ k := by omega
    simp [get, this, ih p.1 (by omega) h.2]

theorem get_erase_other {α : Type} (d : α) (m : List (Nat × α)) (k j : Nat) (h : j ≠ k) : get d (erase m k) j = get d m j := by
  induction m with
  | nil => rfl
  | cons p rest ih =>
    unfold erase
    split
    · rename_i e; simp [get, e, h.symm]
    · simp [get, ih]

theorem get_erase_self {α : Type} [DecidableEq α] (d : α) (b : Option Nat) (m : List (Nat × α)) (k : Nat)
    (h : wfAbove d b m = true) : get d (erase m k) k = d := by
  induction m generalizing b with
  | nil => rfl
  | cons p rest ih =>
    simp [wfAbove] at h
    unfold erase
    split
    · rename_i e; subst e; exact get_above d rest p.1 p.1 (Nat.le_refl _) h.2
    · rename_i e; simp [get, e, ih _ h.2]

theorem wfAbove_erase {α : Type} [DecidableEq α] (d : α) (b : Option Nat) (m : List (Nat × α)) (k : Nat)
    (h : wfAbove d b m = true) : wfAbove d b (erase m k) = true := by
  induction m generalizing b with
  | nil => simp [erase, wfAbove]
  | cons p rest ih =>
    simp [wfAbove] at h
    unfold erase
    split
    · cases b with
      | none => exact wfAbove_none d p.1 rest h.2
      | some b => exact wfAbove_mono d b p.1 rest (by have := h.1.1; simp at this; omega) h.2
    · simp [wfAbove, h.1, ih _ h.2]

theorem wfAbove_insert {α : Type} [DecidableEq α] (d : α) (b : Option Nat) (m : List (Nat × α)) (k : Nat) (v : α) (hv : v ≠ d)
    (hb : ∀ x, b = some x → x < k) (h : wfAbove d b m = true) : wfAbove d b (insert m k v) = true := by
  induction m generalizing b with
  | nil => cases b with
    | none => simp [insert, wfAbove, hv]
    | some x => simp [insert, wfAbove, hv, hb x rfl]
  | cons p rest ih =>
    simp [wfAbove] at h
    unfold insert
    split
    · rename_i hk
      cases b with
      | none => simp [wfAbove, hv, hk, h.1, h.2]
      | some x => simp [wfAbove, hv, hk, h.1, h.2, hb x rfl]
    · split
      · rename_i e; subst e; simp [wfAbove, hv, h.1, h.2]
      · simp [wfAbove, h.1]
        exact ih _ (fun x hx => by cases hx; omega) h.2

/-- A write reads back. -/
theorem get_set_self {α : Type} [DecidableEq α] (d : α) (m : List (Nat × α)) (k : Nat) (v : α) (h : wf d m = true) :
    get d (set d m k v) k = v := by
  unfold set
  split
  · rename_i e; rw [get_erase_self d none m k h, e]
  · exact get_insert_self d m k v

/-- A write leaves every other key alone. -/
theorem get_set_other {α : Type} [DecidableEq α] (d : α) (m : List (Nat × α)) (k j : Nat) (v : α) (h : j ≠ k) :
    get d (set d m k v) j = get d m j := by
  unfold set
  split
  · exact get_erase_other d m k j h
  · exact get_insert_other d m k j v h

/-- A write keeps the canonical form. -/
theorem wf_set {α : Type} [DecidableEq α] (d : α) (m : List (Nat × α)) (k : Nat) (v : α) (h : wf d m = true) :
    wf d (set d m k v) = true := by
  unfold set
  split
  · exact wfAbove_erase d none m k h
  · rename_i e; exact wfAbove_insert d none m k v e (fun x hx => by cases hx) h

/-- A list of writes keeps the canonical form. -/
theorem wf_setAll {α : Type} [DecidableEq α] (d : α) (m ws : List (Nat × α)) (h : wf d m = true) :
    wf d (setAll d m ws) = true := by
  induction ws generalizing m with
  | nil => exact h
  | cons w ws ih => exact ih _ (wf_set d m w.1 w.2 h)

/-- A selection of the entries keeps the canonical form. -/
theorem wfAbove_filter {α : Type} [DecidableEq α] (d : α) (p : Nat × α → Bool) (b : Option Nat) (m : List (Nat × α))
    (h : wfAbove d b m = true) : wfAbove d b (m.filter p) = true := by
  induction m generalizing b with
  | nil => simp [wfAbove]
  | cons q rest ih =>
    simp [wfAbove] at h
    rw [List.filter_cons]
    split
    · simp [wfAbove, h.1, ih _ h.2]
    · cases b with
      | none => exact ih none (wfAbove_none d q.1 rest h.2)
      | some x => exact ih (some x) (wfAbove_mono d x q.1 rest (by have := h.1.1; simp at this; omega) h.2)

theorem wf_filter {α : Type} [DecidableEq α] (d : α) (p : Nat × α → Bool) (m : List (Nat × α)) (h : wf d m = true) :
    wf d (m.filter p) = true := wfAbove_filter d p none m h

/-- Keys that no write of the list names read as before. -/
theorem get_setAll_other {α : Type} [DecidableEq α] (d : α) (m ws : List (Nat × α)) (j : Nat) (h : ∀ w ∈ ws, w.1 ≠ j) :
    get d (setAll d m ws) j = get d m j := by
  induction ws generalizing m with
  | nil => rfl
  | cons w ws ih =>
    show get d (setAll d (set d m w.1 w.2) ws) j = _
    rw [ih _ (fun x hx => h x (List.mem_cons_of_mem _ hx))]
    exact get_set_other d m w.1 j w.2 (fun e => h w (List.mem_cons_self) e.symm)

end Sys2Proof.Sparse

namespace Sys2Proof.Assoc

@[simp] theorem find_put_self {α : Type} (t : List (Nat × α)) (k : Nat) (v : α) : find (put t k v) k = some v := by
  unfold put
  induction t with
  | nil => simp [Sparse.insert, find]
  | cons p rest ih =>
    unfold Sparse.insert
    split
    · simp [find]
    · split
      · simp [find]
      · rename_i h; simp [find, h, ih]

theorem find_put_other {α : Type} (t : List (Nat × α)) (k j : Nat) (v : α) (h : j ≠ k) : find (put t k v) j = find t j := by
  unfold put
  induction t with
  | nil => simp [Sparse.insert, find, h.symm]
  | cons p rest ih =>
    unfold Sparse.insert
    split
    · simp [find, h.symm]
    · split
      · rename_i e; subst e; simp [find, h.symm]
      · simp [find, ih]

@[simp] theorem find_upd_self {α : Type} (t : List (Nat × α)) (k : Nat) (f : α → α) : find (upd t k f) k = (find t k).map f := by
  induction t with
  | nil => rfl
  | cons p rest ih =>
    by_cases h : p.1 = k
    · simp [upd, find, h]
    · simpa [upd, find, h] using ih

theorem find_upd_other {α : Type} (t : List (Nat × α)) (k j : Nat) (f : α → α) (h : j ≠ k) : find (upd t k f) j = find t j := by
  induction t with
  | nil => rfl
  | cons p rest ih =>
    by_cases e : p.1 = k
    · simp only [upd, List.map_cons, e, if_true, find, h.symm, if_false] at ih ⊢
      have : ¬ p.1 = j := by omega
      simpa [upd, find] using ih
    · by_cases g : p.1 = j
      · subst g; simp [upd, find, h]
      · simpa [upd, find, e, g] using ih

end Sys2Proof.Assoc
end

