-- ==== Sys2Proof/Laws/Words.lean ====
section
/-!
SUPPORT. What running a word can do: one lemma for each verdict, from the verdict of the word's body to the predicates of Safety.lean;
and one lemma for reading sources and for delivering a result.
-/
namespace Sys2Proof.Machine

open Sys2Proof.Safety

/-! ## Reads after updates of the instance table -/

@[simp] theorem inst_setInst_self (s : State) (k : Nat) (i : Inst) : (s.setInst k i).inst k = some i := Assoc.find_put_self _ _ _

theorem inst_setInst_other (s : State) (k j : Nat) (i : Inst) (h : j ≠ k) : (s.setInst k i).inst j = s.inst j :=
  Assoc.find_put_other _ _ _ _ h

@[simp] theorem inst_updInst_self (s : State) (k : Nat) (f : Inst → Inst) : (s.updInst k f).inst k = (s.inst k).map f :=
  Assoc.find_upd_self _ _ _

theorem inst_updInst_other (s : State) (k j : Nat) (f : Inst → Inst) (h : j ≠ k) : (s.updInst k f).inst j = s.inst j :=
  Assoc.find_upd_other _ _ _ _ h

theorem onlyIsle_refl (k : Nat) (s : State) : OnlyIsle k s s := ⟨rfl, fun _ _ => rfl, fun _ _ => rfl⟩

theorem onlyIsle_setInst (k : Nat) (s t : State) (i : Inst) (h : OnlyIsle k s t) : OnlyIsle k s (t.setInst k i) :=
  ⟨by rw [h.rest]; rfl, fun j hj => (inst_setInst_other t k j i hj).trans (h.others j hj), fun d a => h.memory d a⟩

theorem onlyIsle_updInst (k : Nat) (s t : State) (f : Inst → Inst) (h : OnlyIsle k s t) : OnlyIsle k s (t.updInst k f) :=
  ⟨by rw [h.rest]; rfl, fun j hj => (inst_updInst_other t k j f hj).trans (h.others j hj), fun d a => h.memory d a⟩

/-! ## A word at its turn runs its body -/

/-- A word that has reached its turn runs its body, and the verdict is settled. -/
theorem runWord_reached {ins : Instr} {s : State} {k : Nat} {c : Ctx} {i : Inst} (h : Reached ins s k c i) (body : Env → Verdict) :
    runWord ins s body = .next (settleVerdict ⟨s, k, c, i⟩ (Machine.sizeOf ins) (body ⟨s, k, c, i⟩)) := by
  obtain ⟨t, sl, ht, hs, hf, hl⟩ := h.legal
  simp [runWord, h.turn, h.inst, h.acts, ht, hs, hf, h.wellFormed, hl]

section Verdicts

variable {ins : Instr} {s : State} {k : Nat} {c : Ctx} {i j : Inst} {body : Env → Verdict}

theorem completes_of_go (h : Reached ins s k c i) (he : exec ins s = runWord ins s body)
    (hb : body ⟨s, k, c, i⟩ = .go (s.setInst k j)) : Completes ins s k c j := by
  refine ⟨_, he.trans (runWord_reached h body), ?_, ?_⟩
  · rw [hb]; exact onlyIsle_updInst k s _ _ (onlyIsle_setInst k s s j (onlyIsle_refl k s))
  · rw [hb]; simp [settleVerdict]

theorem completes_of_same (h : Reached ins s k c i) (he : exec ins s = runWord ins s body)
    (hb : body ⟨s, k, c, i⟩ = .go s) : Completes ins s k c i := by
  refine ⟨_, he.trans (runWord_reached h body), ?_, ?_⟩
  · rw [hb]; exact onlyIsle_updInst k s _ _ (onlyIsle_refl k s)
  · rw [hb]; simp [settleVerdict, h.inst]

theorem waits_of_block {b : Block} (h : Reached ins s k c i) (he : exec ins s = runWord ins s body)
    (hb : body ⟨s, k, c, i⟩ = .block b) : Waits ins s k c i b := by
  refine ⟨_, he.trans (runWord_reached h body), ?_, ?_⟩
  · rw [hb]; exact onlyIsle_updInst k s _ _ (onlyIsle_refl k s)
  · rw [hb]; simp [settleVerdict, h.inst]

theorem traps_of_trap {cause detail : Nat} {addr : Word} (h : Reached ins s k c i) (he : exec ins s = runWord ins s body)
    (hb : body ⟨s, k, c, i⟩ = .trap cause detail addr) : Traps ins s k c i cause detail addr := by
  unfold Traps; rw [he, runWord_reached h body, hb]; rfl

theorem branches_of_jump {t : Word} (h : Reached ins s k c i) (he : exec ins s = runWord ins s body)
    (hb : body ⟨s, k, c, i⟩ = .jump t (s.setInst k j)) : Branches ins s k c i j t := by
  constructor <;> intro hs
  · refine ⟨_, he.trans (runWord_reached h body), ?_, ?_⟩
    · rw [hb]; simp only [settleVerdict, hs, if_true]
      exact onlyIsle_updInst k s _ _ (onlyIsle_setInst k s s j (onlyIsle_refl k s))
    · rw [hb]; simp [settleVerdict, hs]
  · refine ⟨_, he.trans (runWord_reached h body), ?_, ?_⟩
    · rw [hb]; simp only [settleVerdict, hs]
      exact onlyIsle_updInst k s _ _ (onlyIsle_refl k s)
    · rw [hb]; simp [settleVerdict, hs, h.inst]

theorem branches_of_same {t : Word} (h : Reached ins s k c i) (he : exec ins s = runWord ins s body)
    (hb : body ⟨s, k, c, i⟩ = .jump t s) : Branches ins s k c i i t := by
  constructor <;> intro hs
  · refine ⟨_, he.trans (runWord_reached h body), ?_, ?_⟩
    · rw [hb]; simp only [settleVerdict, hs, if_true]
      exact onlyIsle_updInst k s _ _ (onlyIsle_refl k s)
    · rw [hb]; simp [settleVerdict, hs, h.inst]
  · refine ⟨_, he.trans (runWord_reached h body), ?_, ?_⟩
    · rw [hb]; simp only [settleVerdict, hs]
      exact onlyIsle_updInst k s _ _ (onlyIsle_refl k s)
    · rw [hb]; simp [settleVerdict, hs, h.inst]

theorem issues_of_go {kind : AccKind} {acq : Bool} {parts : List Part} {ld : Option Landing} (h : Reached ins s k c i)
    (he : exec ins s = runWord ins s body)
    (hb : body ⟨s, k, c, i⟩ = .go (issueAccess ⟨s, k, c, i⟩ kind acq parts ld j s)) :
    Issues ins s k c i kind acq parts ld j := by
  unfold Issues; rw [he, runWord_reached h body, hb]; rfl

end Verdicts

/-! ## Operands -/

theorem overreach_none {i : Inst} {c : Ctx} {gs dst : List (BitVec 5)} {vals : List Word} {j : Inst} (h : Sources i c gs dst vals j)
    {vs : List (BitVec 5)} (hv : ∀ f ∈ vs, vOver i f = false) : overreach i (gs ++ dst) vs = none := by
  unfold overreach
  rw [if_neg, if_neg]
  · simp only [List.any_eq_true, not_exists, not_and]; intro f hf; simp [hv f hf]
  · simp only [List.any_eq_true, not_exists, not_and]; intro f hf; simp [h.declared f hf]

/-- Sources that can be read are handed on, whatever trap would have come before a wait. -/
theorem withChecked_ok {e : Env} {gs dst vs : List (BitVec 5)} {vals : List Word} {j : Inst} (h : Sources e.i e.c gs dst vals j)
    (hv : ∀ f ∈ vs, vOver e.i f = false) (chk : List (Option Word) → Option TrapOf) (k : List Word → Inst → Verdict) :
    withChecked e gs dst vs chk k = k vals j := by
  unfold withChecked
  rw [overreach_none h hv]
  have hb : (gs ++ dst).any (gFieldBusy e.i e.c) = false := by
    rw [List.any_eq_false]; intro f hf; simp [h.free f hf]
  simp [hb, h.read]

theorem withSources_ok {e : Env} {gs dst vs : List (BitVec 5)} {vals : List Word} {j : Inst} (h : Sources e.i e.c gs dst vals j)
    (hv : ∀ f ∈ vs, vOver e.i f = false) (k : List Word → Inst → Verdict) : withSources e gs dst vs k = k vals j :=
  withChecked_ok h hv _ k

theorem withVecChecked_ok {e : Env} {gs dst vs : List (BitVec 5)} {ms : List (BitVec 3)} {vals : List Word} {j : Inst}
    (h : Sources e.i e.c gs dst vals j) (hv : VFree e.i vs ms) (chk : List (Option Word) → Option TrapOf)
    (k : List Word → Inst → Verdict) : withVecChecked e gs dst vs ms chk k = k vals j := by
  unfold withVecChecked
  have h1 : vs.any (fun r => e.i.vBusy r.toNat) = false := by
    rw [List.any_eq_false]; intro f hf; simp [hv.free f hf]
  have h2 : ms.any (fun r => e.i.mBusy r.toNat) = false := by
    rw [List.any_eq_false]; intro f hf; simp [hv.masks f hf]
  simp [h1, h2, withChecked_ok h hv.declared chk k]

theorem withVec_ok {e : Env} {gs dst vs : List (BitVec 5)} {ms : List (BitVec 3)} {vals : List Word} {j : Inst}
    (h : Sources e.i e.c gs dst vals j) (hv : VFree e.i vs ms) (k : List Word → Inst → Verdict) :
    withVec e gs dst vs ms k = k vals j :=
  withVecChecked_ok h hv _ k

theorem finishG_ok {e : Env} {d : BitVec 5} {r : Res} {i : Inst} (h : pushRoom e.i i d = true) :
    finishG e d r i = .go (e.s.setInst e.k (orFlags e.c r.flags (writeG e.c e.s.nextId d r.val i))) := by
  simp [finishG, h]

/-- A scalar word over G fields with one destination completes. -/
theorem completes_scalarOp {ins : Instr} {s : State} {k : Nat} {c : Ctx} {i j : Inst} {gs : List (BitVec 5)} {d : BitVec 5}
    {f : List Word → Res} {vals : List Word} (h : Reached ins s k c i) (he : exec ins s = runWord ins s (scalarOp gs d f))
    (hs : Sources i c gs [d] vals j) (hr : pushRoom i j d = true) :
    Completes ins s k c (orFlags c (f vals).flags (writeG c s.nextId d (f vals).val j)) := by
  refine completes_of_go h he ?_
  unfold scalarOp
  rw [withSources_ok (e := ⟨s, k, c, i⟩) hs (by simp)]
  exact finishG_ok hr

@[simp] theorem orFlags_zero (c : Ctx) (i : Inst) : orFlags c 0 i = i := rfl

end Sys2Proof.Machine
end

