-- ==== Sys2Proof/Laws/Scalar.lean ====
section
/-!
SUPPORT. Scalar words: from the shared operation a word runs to the predicate of Safety.lean that states its result.
-/
namespace Sys2Proof.Machine

open Sys2Proof.Safety

@[simp] theorem src_zero (x : Word) (l : List Word) : src (x :: l) 0 = x := rfl
@[simp] theorem src_one (x y : Word) (l : List Word) : src (x :: y :: l) 1 = y := rfl
@[simp] theorem src_two (x y z : Word) (l : List Word) : src (x :: y :: z :: l) 2 = z := rfl

theorem writesG_scalar {ins : Instr} {gs : List (BitVec 5)} {d : BitVec 5} {f : List Word → Res} {R : List Word → Word → BitVec 5 → Prop}
    (he : ∀ s, exec ins s = runWord ins s (scalarOp gs d f))
    (hR : ∀ v r fl, ins.wellFormed = true → R v r fl → r = (f v).val ∧ fl = (f v).flags) : WritesG ins gs d R := by
  intro s k c i vals j r fl h hs hr hR'
  obtain ⟨rfl, rfl⟩ := hR _ _ _ h.wellFormed hR'
  exact completes_scalarOp h (he s) hs hr

theorem sets2_bin {ins : Instr} {o : RRR} {f : Word → Word → Word} {g : Word → Word → Res}
    (he : ∀ s, exec ins s = runWord ins s (binOp g o))
    (hR : ∀ x y, ins.wellFormed = true → f x y = (g x y).val ∧ (g x y).flags = 0) : Sets2 ins o.a o.b o.d f := by
  apply writesG_scalar he
  rintro v r fl hw ⟨x, y, rfl, rfl, rfl⟩
  exact ⟨(hR x y hw).1, (hR x y hw).2.symm⟩

theorem sets1_un {ins : Instr} {o : RR} {f : Word → Word} {g : Word → Res}
    (he : ∀ s, exec ins s = runWord ins s (unOp g o))
    (hR : ∀ x, ins.wellFormed = true → f x = (g x).val ∧ (g x).flags = 0) : Sets1 ins o.a o.d f := by
  apply writesG_scalar he
  rintro v r fl hw ⟨x, rfl, rfl, rfl⟩
  exact ⟨(hR x hw).1, (hR x hw).2.symm⟩

theorem sets1_imm {ins : Instr} {o : ImmOp} {f : Word → Word} {g : Word → Word → Res}
    (he : ∀ s, exec ins s = runWord ins s (immOp g o))
    (hR : ∀ x, ins.wellFormed = true → f x = (g x (immVal o.i)).val ∧ (g x (immVal o.i)).flags = 0) : Sets1 ins o.a o.d f := by
  apply writesG_scalar he
  rintro v r fl hw ⟨x, rfl, rfl, rfl⟩
  exact ⟨(hR x hw).1, (hR x hw).2.symm⟩

theorem sets1_shift {ins : Instr} {o : ShiftOp} {f : Word → Word} {g : Word → Word → Res}
    (he : ∀ s, exec ins s = runWord ins s (shiftOp g o))
    (hR : ∀ x, ins.wellFormed = true → f x = (g x (o.n.setWidth 64)).val ∧ (g x (o.n.setWidth 64)).flags = 0) :
    Sets1 ins o.a o.d f := by
  apply writesG_scalar he
  rintro v r fl hw ⟨x, rfl, rfl, rfl⟩
  exact ⟨(hR x hw).1, (hR x hw).2.symm⟩

theorem floats2_bin {ins : Instr} {o : RRR} {f : Nat → Nat → Nat × BitVec 5} {g : Word → Word → Res}
    (he : ∀ s, exec ins s = runWord ins s (binOp g o))
    (hR : ∀ x y : Word, g x y = ⟨BitVec.ofNat 64 (f (lo32 x) (lo32 y)).1, (f (lo32 x) (lo32 y)).2⟩) : Floats2 ins o.a o.b o.d f := by
  apply writesG_scalar he
  rintro v r fl hw ⟨x, y, rfl, rfl, rfl⟩
  simp only [src_zero, src_one, hR]; exact ⟨rfl, rfl⟩

theorem floats1_un {ins : Instr} {o : RR} {f : Nat → Nat × BitVec 5} {g : Word → Res}
    (he : ∀ s, exec ins s = runWord ins s (unOp g o))
    (hR : ∀ x : Word, g x = ⟨BitVec.ofNat 64 (f (lo32 x)).1, (f (lo32 x)).2⟩) : Floats1 ins o.a o.d f := by
  apply writesG_scalar he
  rintro v r fl hw ⟨x, rfl, rfl, rfl⟩
  simp only [src_zero, hR]; exact ⟨rfl, rfl⟩

theorem immVal_eq (i : Imm) : BitVec.ofInt 64 (immInt i) = immVal i := by
  cases i <;> rfl

theorem branchTo_eq (i : Inst) (c : Ctx) (o : Off) : branchTarget (i.ctx c).pc o = branchTo i c o := by
  unfold branchTarget branchTo
  congr 1
  rw [BitVec.ofInt_mul]; cases o <;> rfl

/-- SRD of a register that is no firmware register writes what sysRead gives. -/
theorem readsSys_of {n : Nat} {f : State → Nat → Inst → Launch → Word} (hf : sysFirmware n = false) (hn : n < 4096)
    (h : ∀ s k i l, sysRead s k i (some l) n = f s k i l) : ReadsSys n f := by
  intro o s k c i l ho hr hl hs hp
  refine completes_of_go hr (body := fun e =>
    if sysFirmware o.sys.toNat then .trap cPRIV 1 0
    else withSources e [] [o.d] [] (fun _ i => finishG e o.d (.pure (sysRead e.s e.k e.i e.launch o.sys.toNat)) i))
    ((exec_srd o s).trans (execSrd.eq_1 o s)) ?_
  have : o.sys.toNat = n := by rw [ho]; simp [Nat.mod_eq_of_lt hn]
  simp only [this, hf]
  rw [if_neg (by simp), withSources_ok (e := ⟨s, k, c, i⟩) hs (by simp), finishG_ok (e := ⟨s, k, c, i⟩) hp]
  simp [Res.pure, Env.launch, hl, h]
  rfl

end Sys2Proof.Machine
end

