-- ==== Sys2Proof/Laws/Commands.lean ====
section
/-!
SUPPORT. Engine words: a word over descriptors whose checks pass queues its command.
-/
namespace Sys2Proof.Machine

open Sys2Proof.Safety

theorem unlatch_frame (i : Inst) (sp lo hi : Nat) :
    i.unlatch sp lo hi = { i with latch := (i.unlatch sp lo hi).latch } ∧
      ((i.unlatch sp lo hi).latch = i.latch ∨ (i.unlatch sp lo hi).latch = none) := by
  unfold Inst.unlatch
  split
  · exact ⟨rfl, .inl rfl⟩
  · split
    · exact ⟨rfl, .inr rfl⟩
    · exact ⟨rfl, .inl rfl⟩

theorem foldl_unlatch_frame (ops : List Opnd) (f : Opnd → Nat × Nat × Nat) (i : Inst) :
    let j := ops.foldl (fun i o => i.unlatch (f o).1 (f o).2.1 (f o).2.2) i
    j = { i with latch := j.latch } ∧ (j.latch = i.latch ∨ j.latch = none) := by
  induction ops generalizing i with
  | nil => exact ⟨rfl, .inl rfl⟩
  | cons o os ih =>
    obtain ⟨h1, h2⟩ := ih (i.unlatch (f o).1 (f o).2.1 (f o).2.2)
    obtain ⟨g1, g2⟩ := unlatch_frame i (f o).1 (f o).2.1 (f o).2.2
    simp only [List.foldl_cons]
    refine ⟨?_, ?_⟩
    · rw [h1, g1]
    · rcases h2 with h2 | h2
      · rcases g2 with g2 | g2
        · exact .inl (h2.trans g2)
        · exact .inr (h2.trans g2)
      · exact .inr h2

/-- Issuing a command changes nothing of the instance but its latch, which it may clear (R336). -/
theorem issueUnlatch_frame (word : Instr) (ops : List Opnd) (i : Inst) :
    issueUnlatch word ops i = { i with latch := (issueUnlatch word ops i).latch } ∧
      ((issueUnlatch word ops i).latch = i.latch ∨ (issueUnlatch word ops i).latch = none) := by
  unfold issueUnlatch
  split
  · exact foldl_unlatch_frame _ (fun o => (o.d.space, (o.d.span o.scales).1.toNat, (o.d.span o.scales).2.toNat)) i
  · exact foldl_unlatch_frame _ (fun o => (o.d.space, (o.d.span o.scales).1.toNat, (o.d.span o.scales).2.toNat)) i
  · exact foldl_unlatch_frame _ (fun o => (o.d.space, (o.d.span o.scales).1.toNat, (o.d.span o.scales).2.toNat)) i
  · exact foldl_unlatch_frame _ (fun o => (o.d.space, (o.d.span o.scales).1.toNat, (o.d.span o.scales).2.toNat)) i
  · exact ⟨rfl, .inl rfl⟩

/-- A word whose body queues a command has queued it. -/
theorem queues_of_queueCmd {ins : Instr} {s : State} {k : Nat} {c : Ctx} {i j : Inst} {en : Engine} {ds : List (BitVec 256)} {gx gy : Word}
    {block : List Byte} {ops : List Opnd} {reads writes : List (Nat × Nat)} {body : Env → Verdict} (h : Reached ins s k c i)
    (he : exec ins s = runWord ins s body) (hn : engineOf ins = some en) (hr : RoomFor i en)
    (hb : body ⟨s, k, c, i⟩ = queueCmd ⟨s, k, c, i⟩ ins ds gx gy block ops reads writes j) :
    Queues ins s k c i ds gx gy block reads writes j := by
  have hf : engineFull i en = false := by unfold engineFull; simp; exact hr
  have hg : body ⟨s, k, c, i⟩ = .go { s.setInst k (issueUnlatch ins ops
      { j with cmds := j.cmds ++ [mkCmd ⟨s, k, c, i⟩ ins ds gx gy block reads writes] }) with nextId := s.nextId + 1 } := by
    rw [hb]; simp only [queueCmd, hn, hf]; rfl
  obtain ⟨f1, f2⟩ := issueUnlatch_frame ins ops { j with cmds := j.cmds ++ [mkCmd ⟨s, k, c, i⟩ ins ds gx gy block reads writes] }
  have hx := he.trans (runWord_reached h body)
  rw [hg] at hx
  refine ⟨_, _, hx, rfl, ?_, fun _ _ => rfl, ?_, f1, f2⟩
  · intro n hne
    exact (inst_updInst_other _ k n _ hne).trans (inst_setInst_other s k n _ hne)
  · exact (inst_updInst_self _ k _).trans (congrArg _ (inst_setInst_self s k _))

/-- Nothing illegal is shown by descriptors that are legal under a rule that holds. -/
theorem shownIllegal_none {i : Inst} {ts : List (BitVec 6)} {rule : List Clause} {ops : List Opnd}
    (hr : rule.all (fun c => c.2) = true) (ho : ∀ o ∈ ops, o.d.legal o.scales = true) : shownIllegal i ts rule ops = false := by
  have h1 : ∀ c ∈ rule, c.2 = true := by simpa using hr
  unfold shownIllegal
  rw [Bool.or_eq_false_iff]
  constructor
  · rw [List.any_eq_false]; intro c hc; simp [h1 c hc]
  · rw [List.any_eq_false]; intro o hc; simp [ho o hc]

/-- An engine word over descriptors queues its command where its checks pass. -/
theorem engineWord_of {ins : Instr} {mx stops : Bool} {en : Engine} {ts : List (BitVec 6)} {gs : List (BitVec 5)}
    {mk : List Desc → List Clause × List Opnd} (he : ∀ s, exec ins s = runWord ins s (engineOp ins mx stops ts gs mk))
    (hn : engineOf ins = some en) : EngineWord ins mx en ts gs (fun ds => ruleHolds (mk ds)) := by
  intro s k c i l vals j h hp hm ds hops ht hs hr
  have h1 : (mx && !hasMx s k) = false := by cases mx <;> simp_all [hasMx]
  have h2 : (Env.spec ⟨s, k, c, i⟩) = false := by simp [Env.spec, Env.launch, hp.1, hp.2]
  have h3 : ts.any (tOver i) = false := by rw [List.any_eq_false]; intro f hf; simp [hops.declared f hf]
  have h4 : ts.any (fun t => i.tBusy t.toNat) = false := by rw [List.any_eq_false]; intro f hf; simp [hops.free f hf]
  have h5 : shownIllegal i ts (mk (ds.map descOf)).1 (mk (ds.map descOf)).2 = false := shownIllegal_none hops.rule hops.legal
  have h6 : overreach i gs [] = none := by have := overreach_none hs (vs := []) (by simp); simpa using this
  refine queues_of_queueCmd (ops := (mk (ds.map descOf)).2) h (he s) hn hr ?_
  unfold engineOp
  simp only [ruleHolds, ds] at h5 ht ⊢
  simp only [h1, h2, h3, h4, h5, Env.withLaunch, Env.launch, hp.1, h6, ht]
  simp only [Bool.false_and, if_false, Bool.false_eq_true]
  rw [withSources_ok (e := ⟨s, k, c, i⟩) hs (by simp)]
  simp only [hp.2, Bool.false_and]
  rfl

/-- Every value that a word reads stands ready. -/
theorem peekG_ok {c : Ctx} {i j : Inst} {gs : List (BitVec 5)} {vals : List Word} (h : readG c i gs = .ok vals j) :
    peekG c i gs = vals.map some := by
  induction gs generalizing i vals with
  | nil => simp only [readG, Fetched.ok.injEq] at h; simp [peekG, ← h.1]
  | cons f fs ih =>
    simp only [readG] at h
    unfold peekG readG
    by_cases hf : 24 ≤ f.toNat
    · simp only [hf, if_true] at h ⊢
      split at h
      · exact absurd h (by simp)
      · rename_i e rest he
        split at h
        · exact absurd h (by simp)
        · rename_i v hv
          split at h
          · exact absurd h (by simp)
          · rename_i vs j' hr
            simp only [Fetched.ok.injEq] at h
            obtain ⟨h1, rfl⟩ := h
            simp only [readG]
            rw [ih hr, ← h1]
            rfl
    · simp only [hf, if_false] at h ⊢
      split at h
      · exact absurd h (by simp)
      · rename_i vs j' hr
        simp only [Fetched.ok.injEq] at h
        simp only [readG]
        obtain ⟨h1, rfl⟩ := h
        rw [ih hr, ← h1]
        rfl

/-- A word reads as many values as it names G fields. -/
theorem readG_length {c : Ctx} {i j : Inst} {gs : List (BitVec 5)} {vals : List Word} (h : readG c i gs = .ok vals j) :
    vals.length = gs.length := by
  have h1 := congrArg List.length (peekG_ok h)
  rw [List.length_map] at h1
  rw [← h1]
  clear h1 h
  induction gs generalizing i with
  | nil => rfl
  | cons f fs ih => unfold peekG; split <;> simp [ih]

/-- Operands that are declared and free are all shown. -/
theorem shownOf_ok {e : Env} {ts : List (BitVec 6)} {gs : List (BitVec 5)} {vals : List Word} {j : Inst}
    (ht : ∀ t ∈ ts, tOver e.i t = false) (hb : ∀ t ∈ ts, e.i.tBusy t.toNat = false) (hs : Sources e.i e.c gs [] vals j) :
    shownOf e ts gs = ⟨(ts.map (fun t => descOf (e.i.tGet t.toNat))).map some, vals.map some⟩ := by
  have h1 : ts.map (fun t => if tReady e.i t then some (descOf (e.i.tGet t.toNat)) else none) =
      (ts.map (fun t => descOf (e.i.tGet t.toNat))).map some := by
    rw [List.map_map]; apply List.map_congr_left; intro t h; simp [tReady, ht t h, hb t h]
  have h2 : ∀ (xs : List (BitVec 5)) (ys : List (Option Word)), xs.length = ys.length → (∀ f ∈ xs, gOver e.i f = false) →
      (∀ f ∈ xs, gFieldBusy e.i e.c f = false) →
      (xs.zip ys).map (fun p => if gOver e.i p.1 || gFieldBusy e.i e.c p.1 then none else p.2) = ys := by
    intro xs
    induction xs with
    | nil => intro ys h _ _; cases ys <;> simp_all
    | cons x xs ih =>
      intro ys h g b
      cases ys with
      | nil => simp at h
      | cons y ys =>
        simp only [List.zip_cons_cons, List.map_cons, g x (by simp), b x (by simp)]
        rw [ih ys (by simpa using h) (fun f hf => g f (by simp [hf])) (fun f hf => b f (by simp [hf]))]
        rfl
  unfold shownOf
  rw [h1, peekG_ok hs.read, h2 gs _ (by rw [List.length_map, readG_length hs.read])
    (fun f hf => hs.declared f (by simp [hf])) (fun f hf => hs.free f (by simp [hf]))]

/-- A fabric word queues its command where nothing stands against it; J is its judgement of operands that are all shown. -/
theorem fabricWord_of {ins : Instr} {mx : Bool} {en : Engine} {ts : List (BitVec 6)} {gs : List (BitVec 5)} {hf : List (BitVec 3)}
    {judge : Env → Launch → Shown → Judged} {J : Env → Launch → List Desc → List Word → Judged}
    (he : ∀ s, exec ins s = runWord ins s (fabricOp ins mx ts gs hf judge)) (hn : engineOf ins = some en)
    (hJ : ∀ e l ds v, v.length = gs.length → judge e l ⟨ds.map some, v.map some⟩ = J e l ds v) : FabricWord ins mx en ts gs hf J := by
  intro s k c i l vals j h hp hm ht hb hh hs hr q hq
  have h1 : (mx && !hasMx s k) = false := by cases mx <;> simp_all [hasMx]
  have h2 : (Env.spec ⟨s, k, c, i⟩) = false := by simp [Env.spec, Env.launch, hp.1, hp.2]
  have h3 : gs.any (gOver i) = false := by rw [List.any_eq_false]; intro f hf; simp [hs.declared f (by simp [hf])]
  have h4 : ts.any (tOver i) = false := by rw [List.any_eq_false]; intro f hf; simp [ht f hf]
  have h5 : hf.any (hOver i) = false := by rw [List.any_eq_false]; intro f h; simp [hh f h]
  have h6 : ts.any (fun t => i.tBusy t.toNat) = false := by rw [List.any_eq_false]; intro f hf; simp [hb f hf]
  have h7 : judge ⟨s, k, c, i⟩ l (shownOf ⟨s, k, c, i⟩ ts gs) = q := by
    rw [shownOf_ok (e := ⟨s, k, c, i⟩) ht hb hs]; exact hJ _ _ _ _ (readG_length hs.read)
  have h8 : q.illegal = false := by
    cases hi : q.illegal
    · rfl
    · simp [Judged.trap, hi] at hq
  refine queues_of_queueCmd (ops := []) h (he s) hn hr ?_
  unfold fabricOp
  simp only [h1, h2, h3, h4, h5, h6, Env.withLaunch, Env.launch, hp.1, h7, h8, hq, if_false, Bool.false_eq_true]
  rw [withChecked_ok (e := ⟨s, k, c, i⟩) hs (by simp)]
  rfl

end Sys2Proof.Machine
end

