-- ==== Sys2Proof/Laws/Encoding.lean ====
section
/-!
SUPPORT. Bit fields of the encoder's words, and what remains to show for decoding an encoded instruction.
-/
namespace Sys2Proof.Laws

/-! ## Fields of a sum of shifted fields -/

theorem field_below {x r k lo n : Nat} (_hr : r < 2 ^ k) (h : lo + n ≤ k) : field (x * 2 ^ k + r) lo n = field r lo n := by
  unfold field
  have h1 : x * 2 ^ k + r = r + 2 ^ lo * (2 ^ n * (x * 2 ^ (k - lo - n))) := by
    have : k = lo + (n + (k - lo - n)) := by omega
    calc x * 2 ^ k + r = x * 2 ^ (lo + (n + (k - lo - n))) + r := by rw [← this]
      _ = _ := by rw [Nat.pow_add, Nat.pow_add]; ring
  rw [h1, Nat.add_mul_div_left _ _ (by positivity), Nat.add_mul_mod_self_left]

theorem field_at {x r k n : Nat} (hr : r < 2 ^ k) (hx : x < 2 ^ n) : field (x * 2 ^ k + r) k n = x := by
  unfold field
  rw [Nat.mul_comm, Nat.mul_add_div (by positivity), Nat.div_eq_of_lt hr, Nat.add_zero, Nat.mod_eq_of_lt hx]

theorem field_above {x r k lo n : Nat} (hr : r < 2 ^ k) (h : k ≤ lo) : field (x * 2 ^ k + r) lo n = field x (lo - k) n := by
  unfold field
  have : (2 : Nat) ^ lo = 2 ^ k * 2 ^ (lo - k) := by rw [← Nat.pow_add]; congr 1; omega
  rw [this, ← Nat.div_div_eq_div_mul, Nat.mul_comm x, Nat.mul_add_div (by positivity), Nat.div_eq_of_lt hr, Nat.add_zero]

theorem field_zero_lo {x n : Nat} (hx : x < 2 ^ n) : field x 0 n = x := by
  unfold field
  rw [Nat.pow_zero, Nat.div_one, Nat.mod_eq_of_lt hx]

theorem field_small {x lo n : Nat} (hx : x < 2 ^ lo) : field x lo n = 0 := by
  unfold field
  rw [Nat.div_eq_of_lt hx, Nat.zero_mod]

theorem bitAt_field (x k : Nat) : bitAt x k = (field x k 1 == 1) := rfl

theorem field_top {x r lo n : Nat} (hr : r < 2 ^ lo) (hx : x < 2 ^ n) : field (x * 2 ^ lo + r) lo n = x := field_at hr hx

/-! ## The word frame {CT, XW, OP, body} (R205) -/

theorem tagBits_lt (t : Tag) : tagBits t < 4 := by cases t <;> decide
theorem b2n_lt (b : Bool) : b2n b < 2 := by cases b <;> decide

theorem field_body {ct xw op body lo n} (hb : body < 2 ^ 22) (h : lo + n ≤ 22) :
    field (encWord ct xw op body) lo n = field body lo n := by
  unfold encWord
  have : tagBits ct * 2 ^ 30 + b2n xw * 2 ^ 29 + op * 2 ^ 22 + body
      = (tagBits ct * 2 ^ 8 + b2n xw * 2 ^ 7 + op) * 2 ^ 22 + body := by ring
  rw [this, field_below hb h]

theorem field_op {ct xw op body} (hb : body < 2 ^ 22) (ho : op < 128) : field (encWord ct xw op body) 22 7 = op := by
  unfold field encWord
  have := b2n_lt xw
  have := tagBits_lt ct
  omega

theorem bit_xw {ct xw op body} (hb : body < 2 ^ 22) (ho : op < 128) : bitAt (encWord ct xw op body) 29 = xw := by
  unfold bitAt encWord
  have := tagBits_lt ct
  have h : (tagBits ct * 2 ^ 30 + b2n xw * 2 ^ 29 + op * 2 ^ 22 + body) / 2 ^ 29 % 2 = b2n xw := by
    have := b2n_lt xw
    omega
  rw [h]
  cases xw <;> rfl

theorem tagOf_encWord {ct xw op body} (hb : body < 2 ^ 22) (ho : op < 128) : tagOf (encWord ct xw op body) = ct := by
  have h : field (encWord ct xw op body) 30 2 = tagBits ct := by
    unfold field encWord
    have := b2n_lt xw
    have := tagBits_lt ct
    omega
  unfold tagOf
  rw [h]
  cases ct <;> rfl

theorem encWord_lt {ct xw op body} (hb : body < 2 ^ 22) (ho : op < 128) : encWord ct xw op body < 2 ^ 32 := by
  unfold encWord
  have := b2n_lt xw
  have := tagBits_lt ct
  omega

/-! ## Enumerations -/

@[simp] theorem rndOf_rndBits (r : Rnd) : rndOf (rndBits r) = r := by cases r <;> rfl
theorem rndBits_lt (r : Rnd) : rndBits r < 4 := by cases r <;> decide
theorem szBits_lt (r : Sz) : szBits r < 4 := by cases r <;> decide
theorem amoBits_lt (r : AmoFn) : amoBits r < 8 := by cases r <;> decide
theorem scopeBits_lt (r : Scope) : scopeBits r < 4 := by cases r <;> decide
theorem engBits_lt (r : Engine) : engBits r < 6 := by cases r <;> decide
theorem condBits_lt (r : Cond) : condBits r < 7 := by cases r <;> decide
theorem tmodBits_lt (r : TmodField) : tmodBits r < 14 := by cases r <;> decide
theorem collBits_lt (r : CollFn) : collBits r < 3 := by cases r <;> decide
@[simp] theorem scopeOf_scopeBits (r : Scope) : scopeOf (scopeBits r) = r := by cases r <;> rfl

/-! ## Bytes of words -/

@[simp] theorem leBytes_length (n x : Nat) : (leBytes n x).length = n := by
  induction n generalizing x with
  | zero => rfl
  | succ n ih => simp [leBytes, ih]

theorem leNat_leBytes4 {w : Nat} (h : w < 2 ^ 32) : leNat (leBytes 4 w) = w := by
  simp [leBytes, leNat, BitVec.toNat_ofNat]
  omega

/-- Decoding the bytes of an encoded instruction comes down to its major. -/
theorem decode_of_major {i : Instr} {w : Nat} {x : Option Nat} (he : encodeWord i = some (w, x)) (hw : w < 2 ^ 32)
    (hx : ∀ l, x = some l → l < 2 ^ 32) (hb : bitAt w 29 = x.isSome) (hd : decodeMajor (field w 22 7) w x = .ok i)
    (rest : List Byte) : decode (encodeBytes i ++ rest) = .ok (i, rest) := by
  cases x with
  | none =>
    have h4 : (leBytes 4 w).length = 4 := leBytes_length 4 w
    have hlen : ¬ ((leBytes 4 w ++ rest).length < 4) := by rw [List.length_append, h4]; omega
    simp only [encodeBytes, encode, he, List.flatMap_cons, List.flatMap_nil, List.append_nil, decode, hlen, if_false]
    rw [List.take_left' h4, leNat_leBytes4 hw, List.drop_left' h4]
    simp only [hasXw, hb, Option.isSome_none, Bool.false_eq_true, if_false, decodeWord, hd]
  | some l =>
    have h4 : (leBytes 4 w).length = 4 := leBytes_length 4 w
    have h4' : (leBytes 4 l).length = 4 := leBytes_length 4 l
    have hl : l < 2 ^ 32 := hx l rfl
    have hlen : ¬ ((leBytes 4 w ++ leBytes 4 l ++ rest).length < 4) := by simp only [List.length_append, h4, h4']; omega
    have hlen' : ¬ ((leBytes 4 w ++ leBytes 4 l ++ rest).length < 8) := by simp only [List.length_append, h4, h4']; omega
    simp only [encodeBytes, encode, he, List.flatMap_cons, List.flatMap_nil, List.append_nil, decode, hlen, hlen', if_false]
    have hd8 : List.drop 8 (leBytes 4 w ++ leBytes 4 l ++ rest) = rest :=
      List.drop_left' (by simp only [List.length_append, h4, h4'])
    rw [hd8, List.append_assoc, List.take_left' h4, leNat_leBytes4 hw, List.drop_left' h4, List.take_left' h4',
      leNat_leBytes4 hl]
    simp only [hasXw, hb, Option.isSome_some, if_true, decodeWord, Nat.mod_eq_of_lt hl, hd]

/-! ## The seven formats (R207, R208) -/

/-! ### encR -/

theorem encR_body {d a b fn : Nat} (h0 : d < 32) (h1 : a < 32) (h2 : b < 32) (h3 : fn < 128) :
    d * 2 ^ 17 + a * 2 ^ 12 + b * 2 ^ 7 + fn < 2 ^ 22 := by
  omega

theorem encR_lt {ct : Tag} {op : Nat} {d a b fn : Nat} (h0 : d < 32) (h1 : a < 32) (h2 : b < 32) (h3 : fn < 128) (ho : op < 128) :
    encR ct op d a b fn < 2 ^ 32 := encWord_lt (encR_body h0 h1 h2 h3) ho

theorem encR_op {ct : Tag} {op : Nat} {d a b fn : Nat} (h0 : d < 32) (h1 : a < 32) (h2 : b < 32) (h3 : fn < 128) (ho : op < 128) :
    field (encR ct op d a b fn) 22 7 = op := field_op (encR_body h0 h1 h2 h3) ho

theorem encR_xw {ct : Tag} {op : Nat} {d a b fn : Nat} (h0 : d < 32) (h1 : a < 32) (h2 : b < 32) (h3 : fn < 128) (ho : op < 128) :
    bitAt (encR ct op d a b fn) 29 = false := bit_xw (encR_body h0 h1 h2 h3) ho

theorem encR_tag {ct : Tag} {op : Nat} {d a b fn : Nat} (h0 : d < 32) (h1 : a < 32) (h2 : b < 32) (h3 : fn < 128) (ho : op < 128) :
    tagOf (encR ct op d a b fn) = ct := tagOf_encWord (encR_body h0 h1 h2 h3) ho

theorem encR_d {ct : Tag} {op : Nat} {d a b fn : Nat} (h0 : d < 32) (h1 : a < 32) (h2 : b < 32) (h3 : fn < 128) :
    field (encR ct op d a b fn) 17 5 = d := by
  rw [encR, field_body (encR_body h0 h1 h2 h3) (by omega)]
  unfold field
  omega

theorem encR_a {ct : Tag} {op : Nat} {d a b fn : Nat} (h0 : d < 32) (h1 : a < 32) (h2 : b < 32) (h3 : fn < 128) :
    field (encR ct op d a b fn) 12 5 = a := by
  rw [encR, field_body (encR_body h0 h1 h2 h3) (by omega)]
  unfold field
  omega

theorem encR_b {ct : Tag} {op : Nat} {d a b fn : Nat} (h0 : d < 32) (h1 : a < 32) (h2 : b < 32) (h3 : fn < 128) :
    field (encR ct op d a b fn) 7 5 = b := by
  rw [encR, field_body (encR_body h0 h1 h2 h3) (by omega)]
  unfold field
  omega

theorem encR_low {ct : Tag} {op : Nat} {d a b fn : Nat} (h0 : d < 32) (h1 : a < 32) (h2 : b < 32) (h3 : fn < 128) {lo n : Nat} (h : lo + n ≤ 7) :
    field (encR ct op d a b fn) lo n = field fn lo n := by
  rw [encR, field_body (encR_body h0 h1 h2 h3) (by omega)]
  have e : d * 2 ^ 17 + a * 2 ^ 12 + b * 2 ^ 7 + fn = (d * 2 ^ 17 + a * 2 ^ 12 + b * 2 ^ 7) / 2 ^ 7 * 2 ^ 7 + fn := by omega
  rw [e, field_below (by omega) h]

/-! ### encI -/

theorem encI_body {d a imm : Nat} (h0 : d < 32) (h1 : a < 32) (h2 : imm < 4096) :
    d * 2 ^ 17 + a * 2 ^ 12 + imm < 2 ^ 22 := by
  omega

theorem encI_lt {ct : Tag} {op : Nat} {d a imm : Nat} {xw : Bool} (h0 : d < 32) (h1 : a < 32) (h2 : imm < 4096) (ho : op < 128) :
    encI ct op d a imm xw < 2 ^ 32 := encWord_lt (encI_body h0 h1 h2) ho

theorem encI_op {ct : Tag} {op : Nat} {d a imm : Nat} {xw : Bool} (h0 : d < 32) (h1 : a < 32) (h2 : imm < 4096) (ho : op < 128) :
    field (encI ct op d a imm xw) 22 7 = op := field_op (encI_body h0 h1 h2) ho

theorem encI_xw {ct : Tag} {op : Nat} {d a imm : Nat} {xw : Bool} (h0 : d < 32) (h1 : a < 32) (h2 : imm < 4096) (ho : op < 128) :
    bitAt (encI ct op d a imm xw) 29 = xw := bit_xw (encI_body h0 h1 h2) ho

theorem encI_tag {ct : Tag} {op : Nat} {d a imm : Nat} {xw : Bool} (h0 : d < 32) (h1 : a < 32) (h2 : imm < 4096) (ho : op < 128) :
    tagOf (encI ct op d a imm xw) = ct := tagOf_encWord (encI_body h0 h1 h2) ho

theorem encI_d {ct : Tag} {op : Nat} {d a imm : Nat} {xw : Bool} (h0 : d < 32) (h1 : a < 32) (h2 : imm < 4096) :
    field (encI ct op d a imm xw) 17 5 = d := by
  rw [encI, field_body (encI_body h0 h1 h2) (by omega)]
  unfold field
  omega

theorem encI_a {ct : Tag} {op : Nat} {d a imm : Nat} {xw : Bool} (h0 : d < 32) (h1 : a < 32) (h2 : imm < 4096) :
    field (encI ct op d a imm xw) 12 5 = a := by
  rw [encI, field_body (encI_body h0 h1 h2) (by omega)]
  unfold field
  omega

theorem encI_low {ct : Tag} {op : Nat} {d a imm : Nat} {xw : Bool} (h0 : d < 32) (h1 : a < 32) (h2 : imm < 4096) {lo n : Nat} (h : lo + n ≤ 12) :
    field (encI ct op d a imm xw) lo n = field imm lo n := by
  rw [encI, field_body (encI_body h0 h1 h2) (by omega)]
  have e : d * 2 ^ 17 + a * 2 ^ 12 + imm = (d * 2 ^ 17 + a * 2 ^ 12) / 2 ^ 12 * 2 ^ 12 + imm := by omega
  rw [e, field_below (by omega) h]

/-! ### encM -/

theorem encM_body {d a land sz mod : Nat} (h0 : d < 32) (h1 : a < 32) (h2 : land < 64) (h3 : sz < 4) (h4 : mod < 16) :
    d * 2 ^ 17 + a * 2 ^ 12 + land * 2 ^ 6 + sz * 2 ^ 4 + mod < 2 ^ 22 := by
  omega

theorem encM_lt {ct : Tag} {op : Nat} {d a land sz mod : Nat} {xw : Bool} (h0 : d < 32) (h1 : a < 32) (h2 : land < 64) (h3 : sz < 4) (h4 : mod < 16) (ho : op < 128) :
    encM ct op d a land sz mod xw < 2 ^ 32 := encWord_lt (encM_body h0 h1 h2 h3 h4) ho

theorem encM_op {ct : Tag} {op : Nat} {d a land sz mod : Nat} {xw : Bool} (h0 : d < 32) (h1 : a < 32) (h2 : land < 64) (h3 : sz < 4) (h4 : mod < 16) (ho : op < 128) :
    field (encM ct op d a land sz mod xw) 22 7 = op := field_op (encM_body h0 h1 h2 h3 h4) ho

theorem encM_xw {ct : Tag} {op : Nat} {d a land sz mod : Nat} {xw : Bool} (h0 : d < 32) (h1 : a < 32) (h2 : land < 64) (h3 : sz < 4) (h4 : mod < 16) (ho : op < 128) :
    bitAt (encM ct op d a land sz mod xw) 29 = xw := bit_xw (encM_body h0 h1 h2 h3 h4) ho

theorem encM_tag {ct : Tag} {op : Nat} {d a land sz mod : Nat} {xw : Bool} (h0 : d < 32) (h1 : a < 32) (h2 : land < 64) (h3 : sz < 4) (h4 : mod < 16) (ho : op < 128) :
    tagOf (encM ct op d a land sz mod xw) = ct := tagOf_encWord (encM_body h0 h1 h2 h3 h4) ho

theorem encM_d {ct : Tag} {op : Nat} {d a land sz mod : Nat} {xw : Bool} (h0 : d < 32) (h1 : a < 32) (h2 : land < 64) (h3 : sz < 4) (h4 : mod < 16) :
    field (encM ct op d a land sz mod xw) 17 5 = d := by
  rw [encM, field_body (encM_body h0 h1 h2 h3 h4) (by omega)]
  unfold field
  omega

theorem encM_a {ct : Tag} {op : Nat} {d a land sz mod : Nat} {xw : Bool} (h0 : d < 32) (h1 : a < 32) (h2 : land < 64) (h3 : sz < 4) (h4 : mod < 16) :
    field (encM ct op d a land sz mod xw) 12 5 = a := by
  rw [encM, field_body (encM_body h0 h1 h2 h3 h4) (by omega)]
  unfold field
  omega

theorem encM_land {ct : Tag} {op : Nat} {d a land sz mod : Nat} {xw : Bool} (h0 : d < 32) (h1 : a < 32) (h2 : land < 64) (h3 : sz < 4) (h4 : mod < 16) :
    field (encM ct op d a land sz mod xw) 6 6 = land := by
  rw [encM, field_body (encM_body h0 h1 h2 h3 h4) (by omega)]
  unfold field
  omega

theorem encM_sz {ct : Tag} {op : Nat} {d a land sz mod : Nat} {xw : Bool} (h0 : d < 32) (h1 : a < 32) (h2 : land < 64) (h3 : sz < 4) (h4 : mod < 16) :
    field (encM ct op d a land sz mod xw) 4 2 = sz := by
  rw [encM, field_body (encM_body h0 h1 h2 h3 h4) (by omega)]
  unfold field
  omega

theorem encM_low {ct : Tag} {op : Nat} {d a land sz mod : Nat} {xw : Bool} (h0 : d < 32) (h1 : a < 32) (h2 : land < 64) (h3 : sz < 4) (h4 : mod < 16) {lo n : Nat} (h : lo + n ≤ 4) :
    field (encM ct op d a land sz mod xw) lo n = field mod lo n := by
  rw [encM, field_body (encM_body h0 h1 h2 h3 h4) (by omega)]
  have e : d * 2 ^ 17 + a * 2 ^ 12 + land * 2 ^ 6 + sz * 2 ^ 4 + mod = (d * 2 ^ 17 + a * 2 ^ 12 + land * 2 ^ 6 + sz * 2 ^ 4) / 2 ^ 4 * 2 ^ 4 + mod := by omega
  rw [e, field_below (by omega) h]

/-! ### encB -/

theorem encB_body {a cnd off : Nat} (h0 : a < 32) (h1 : cnd < 8) (h2 : off < 16384) :
    a * 2 ^ 17 + cnd * 2 ^ 14 + off < 2 ^ 22 := by
  omega

theorem encB_lt {ct : Tag} {op : Nat} {a cnd off : Nat} {xw : Bool} (h0 : a < 32) (h1 : cnd < 8) (h2 : off < 16384) (ho : op < 128) :
    encB ct op a cnd off xw < 2 ^ 32 := encWord_lt (encB_body h0 h1 h2) ho

theorem encB_op {ct : Tag} {op : Nat} {a cnd off : Nat} {xw : Bool} (h0 : a < 32) (h1 : cnd < 8) (h2 : off < 16384) (ho : op < 128) :
    field (encB ct op a cnd off xw) 22 7 = op := field_op (encB_body h0 h1 h2) ho

theorem encB_xw {ct : Tag} {op : Nat} {a cnd off : Nat} {xw : Bool} (h0 : a < 32) (h1 : cnd < 8) (h2 : off < 16384) (ho : op < 128) :
    bitAt (encB ct op a cnd off xw) 29 = xw := bit_xw (encB_body h0 h1 h2) ho

theorem encB_tag {ct : Tag} {op : Nat} {a cnd off : Nat} {xw : Bool} (h0 : a < 32) (h1 : cnd < 8) (h2 : off < 16384) (ho : op < 128) :
    tagOf (encB ct op a cnd off xw) = ct := tagOf_encWord (encB_body h0 h1 h2) ho

theorem encB_a {ct : Tag} {op : Nat} {a cnd off : Nat} {xw : Bool} (h0 : a < 32) (h1 : cnd < 8) (h2 : off < 16384) :
    field (encB ct op a cnd off xw) 17 5 = a := by
  rw [encB, field_body (encB_body h0 h1 h2) (by omega)]
  unfold field
  omega

theorem encB_cnd {ct : Tag} {op : Nat} {a cnd off : Nat} {xw : Bool} (h0 : a < 32) (h1 : cnd < 8) (h2 : off < 16384) :
    field (encB ct op a cnd off xw) 14 3 = cnd := by
  rw [encB, field_body (encB_body h0 h1 h2) (by omega)]
  unfold field
  omega

theorem encB_low {ct : Tag} {op : Nat} {a cnd off : Nat} {xw : Bool} (h0 : a < 32) (h1 : cnd < 8) (h2 : off < 16384) {lo n : Nat} (h : lo + n ≤ 14) :
    field (encB ct op a cnd off xw) lo n = field off lo n := by
  rw [encB, field_body (encB_body h0 h1 h2) (by omega)]
  have e : a * 2 ^ 17 + cnd * 2 ^ 14 + off = (a * 2 ^ 17 + cnd * 2 ^ 14) / 2 ^ 14 * 2 ^ 14 + off := by omega
  rw [e, field_below (by omega) h]

/-! ### encV -/

theorem encV_body {v a b : Nat} {m : BitVec 3} {fn : Nat} (h0 : v < 32) (h1 : a < 32) (h2 : b < 32) (h4 : fn < 16) :
    v * 2 ^ 17 + a * 2 ^ 12 + b * 2 ^ 7 + m.toNat * 2 ^ 4 + fn < 2 ^ 22 := by
  have := m.isLt
  omega

theorem encV_lt {ct : Tag} {op : Nat} {v a b : Nat} {m : BitVec 3} {fn : Nat} {xw : Bool} (h0 : v < 32) (h1 : a < 32) (h2 : b < 32) (h4 : fn < 16) (ho : op < 128) :
    encV ct op v a b m fn xw < 2 ^ 32 := encWord_lt (encV_body h0 h1 h2 h4) ho

theorem encV_op {ct : Tag} {op : Nat} {v a b : Nat} {m : BitVec 3} {fn : Nat} {xw : Bool} (h0 : v < 32) (h1 : a < 32) (h2 : b < 32) (h4 : fn < 16) (ho : op < 128) :
    field (encV ct op v a b m fn xw) 22 7 = op := field_op (encV_body h0 h1 h2 h4) ho

theorem encV_xw {ct : Tag} {op : Nat} {v a b : Nat} {m : BitVec 3} {fn : Nat} {xw : Bool} (h0 : v < 32) (h1 : a < 32) (h2 : b < 32) (h4 : fn < 16) (ho : op < 128) :
    bitAt (encV ct op v a b m fn xw) 29 = xw := bit_xw (encV_body h0 h1 h2 h4) ho

theorem encV_tag {ct : Tag} {op : Nat} {v a b : Nat} {m : BitVec 3} {fn : Nat} {xw : Bool} (h0 : v < 32) (h1 : a < 32) (h2 : b < 32) (h4 : fn < 16) (ho : op < 128) :
    tagOf (encV ct op v a b m fn xw) = ct := tagOf_encWord (encV_body h0 h1 h2 h4) ho

theorem encV_v {ct : Tag} {op : Nat} {v a b : Nat} {m : BitVec 3} {fn : Nat} {xw : Bool} (h0 : v < 32) (h1 : a < 32) (h2 : b < 32) (h4 : fn < 16) :
    field (encV ct op v a b m fn xw) 17 5 = v := by
  have := m.isLt
  rw [encV, field_body (encV_body h0 h1 h2 h4) (by omega)]
  unfold field
  omega

theorem encV_a {ct : Tag} {op : Nat} {v a b : Nat} {m : BitVec 3} {fn : Nat} {xw : Bool} (h0 : v < 32) (h1 : a < 32) (h2 : b < 32) (h4 : fn < 16) :
    field (encV ct op v a b m fn xw) 12 5 = a := by
  have := m.isLt
  rw [encV, field_body (encV_body h0 h1 h2 h4) (by omega)]
  unfold field
  omega

theorem encV_b {ct : Tag} {op : Nat} {v a b : Nat} {m : BitVec 3} {fn : Nat} {xw : Bool} (h0 : v < 32) (h1 : a < 32) (h2 : b < 32) (h4 : fn < 16) :
    field (encV ct op v a b m fn xw) 7 5 = b := by
  have := m.isLt
  rw [encV, field_body (encV_body h0 h1 h2 h4) (by omega)]
  unfold field
  omega

theorem encV_m {ct : Tag} {op : Nat} {v a b : Nat} {m : BitVec 3} {fn : Nat} {xw : Bool} (h0 : v < 32) (h1 : a < 32) (h2 : b < 32) (h4 : fn < 16) :
    field (encV ct op v a b m fn xw) 4 3 = m.toNat := by
  have := m.isLt
  rw [encV, field_body (encV_body h0 h1 h2 h4) (by omega)]
  unfold field
  omega

theorem encV_low {ct : Tag} {op : Nat} {v a b : Nat} {m : BitVec 3} {fn : Nat} {xw : Bool} (h0 : v < 32) (h1 : a < 32) (h2 : b < 32) (h4 : fn < 16) {lo n : Nat} (h : lo + n ≤ 4) :
    field (encV ct op v a b m fn xw) lo n = field fn lo n := by
  rw [encV, field_body (encV_body h0 h1 h2 h4) (by omega)]
  have e : v * 2 ^ 17 + a * 2 ^ 12 + b * 2 ^ 7 + m.toNat * 2 ^ 4 + fn = (v * 2 ^ 17 + a * 2 ^ 12 + b * 2 ^ 7 + m.toNat * 2 ^ 4) / 2 ^ 4 * 2 ^ 4 + fn := by omega
  rw [e, field_below (by omega) h]

/-! ### encE -/

theorem encE_body {ta tb tc fn : Nat} (h0 : ta < 64) (h1 : tb < 64) (h2 : tc < 64) (h3 : fn < 16) :
    ta * 2 ^ 16 + tb * 2 ^ 10 + tc * 2 ^ 4 + fn < 2 ^ 22 := by
  omega

theorem encE_lt {ct : Tag} {op : Nat} {ta tb tc fn : Nat} (h0 : ta < 64) (h1 : tb < 64) (h2 : tc < 64) (h3 : fn < 16) (ho : op < 128) :
    encE ct op ta tb tc fn < 2 ^ 32 := encWord_lt (encE_body h0 h1 h2 h3) ho

theorem encE_op {ct : Tag} {op : Nat} {ta tb tc fn : Nat} (h0 : ta < 64) (h1 : tb < 64) (h2 : tc < 64) (h3 : fn < 16) (ho : op < 128) :
    field (encE ct op ta tb tc fn) 22 7 = op := field_op (encE_body h0 h1 h2 h3) ho

theorem encE_xw {ct : Tag} {op : Nat} {ta tb tc fn : Nat} (h0 : ta < 64) (h1 : tb < 64) (h2 : tc < 64) (h3 : fn < 16) (ho : op < 128) :
    bitAt (encE ct op ta tb tc fn) 29 = true := bit_xw (encE_body h0 h1 h2 h3) ho

theorem encE_tag {ct : Tag} {op : Nat} {ta tb tc fn : Nat} (h0 : ta < 64) (h1 : tb < 64) (h2 : tc < 64) (h3 : fn < 16) (ho : op < 128) :
    tagOf (encE ct op ta tb tc fn) = ct := tagOf_encWord (encE_body h0 h1 h2 h3) ho

theorem encE_ta {ct : Tag} {op : Nat} {ta tb tc fn : Nat} (h0 : ta < 64) (h1 : tb < 64) (h2 : tc < 64) (h3 : fn < 16) :
    field (encE ct op ta tb tc fn) 16 6 = ta := by
  rw [encE, field_body (encE_body h0 h1 h2 h3) (by omega)]
  unfold field
  omega

theorem encE_tb {ct : Tag} {op : Nat} {ta tb tc fn : Nat} (h0 : ta < 64) (h1 : tb < 64) (h2 : tc < 64) (h3 : fn < 16) :
    field (encE ct op ta tb tc fn) 10 6 = tb := by
  rw [encE, field_body (encE_body h0 h1 h2 h3) (by omega)]
  unfold field
  omega

theorem encE_tc {ct : Tag} {op : Nat} {ta tb tc fn : Nat} (h0 : ta < 64) (h1 : tb < 64) (h2 : tc < 64) (h3 : fn < 16) :
    field (encE ct op ta tb tc fn) 4 6 = tc := by
  rw [encE, field_body (encE_body h0 h1 h2 h3) (by omega)]
  unfold field
  omega

theorem encE_low {ct : Tag} {op : Nat} {ta tb tc fn : Nat} (h0 : ta < 64) (h1 : tb < 64) (h2 : tc < 64) (h3 : fn < 16) {lo n : Nat} (h : lo + n ≤ 4) :
    field (encE ct op ta tb tc fn) lo n = field fn lo n := by
  rw [encE, field_body (encE_body h0 h1 h2 h3) (by omega)]
  have e : ta * 2 ^ 16 + tb * 2 ^ 10 + tc * 2 ^ 4 + fn = (ta * 2 ^ 16 + tb * 2 ^ 10 + tc * 2 ^ 4) / 2 ^ 4 * 2 ^ 4 + fn := by omega
  rw [e, field_below (by omega) h]

/-! ### encS -/

theorem encS_body {d sys fn : Nat} (h0 : d < 32) (h1 : sys < 4096) (h2 : fn < 32) :
    d * 2 ^ 17 + sys * 2 ^ 5 + fn < 2 ^ 22 := by
  omega

theorem encS_lt {ct : Tag} {op : Nat} {d sys fn : Nat} (h0 : d < 32) (h1 : sys < 4096) (h2 : fn < 32) (ho : op < 128) :
    encS ct op d sys fn < 2 ^ 32 := encWord_lt (encS_body h0 h1 h2) ho

theorem encS_op {ct : Tag} {op : Nat} {d sys fn : Nat} (h0 : d < 32) (h1 : sys < 4096) (h2 : fn < 32) (ho : op < 128) :
    field (encS ct op d sys fn) 22 7 = op := field_op (encS_body h0 h1 h2) ho

theorem encS_xw {ct : Tag} {op : Nat} {d sys fn : Nat} (h0 : d < 32) (h1 : sys < 4096) (h2 : fn < 32) (ho : op < 128) :
    bitAt (encS ct op d sys fn) 29 = false := bit_xw (encS_body h0 h1 h2) ho

theorem encS_tag {ct : Tag} {op : Nat} {d sys fn : Nat} (h0 : d < 32) (h1 : sys < 4096) (h2 : fn < 32) (ho : op < 128) :
    tagOf (encS ct op d sys fn) = ct := tagOf_encWord (encS_body h0 h1 h2) ho

theorem encS_d {ct : Tag} {op : Nat} {d sys fn : Nat} (h0 : d < 32) (h1 : sys < 4096) (h2 : fn < 32) :
    field (encS ct op d sys fn) 17 5 = d := by
  rw [encS, field_body (encS_body h0 h1 h2) (by omega)]
  unfold field
  omega

theorem encS_sys {ct : Tag} {op : Nat} {d sys fn : Nat} (h0 : d < 32) (h1 : sys < 4096) (h2 : fn < 32) :
    field (encS ct op d sys fn) 5 12 = sys := by
  rw [encS, field_body (encS_body h0 h1 h2) (by omega)]
  unfold field
  omega

theorem encS_low {ct : Tag} {op : Nat} {d sys fn : Nat} (h0 : d < 32) (h1 : sys < 4096) (h2 : fn < 32) {lo n : Nat} (h : lo + n ≤ 5) :
    field (encS ct op d sys fn) lo n = field fn lo n := by
  rw [encS, field_body (encS_body h0 h1 h2) (by omega)]
  have e : d * 2 ^ 17 + sys * 2 ^ 5 + fn = (d * 2 ^ 17 + sys * 2 ^ 5) / 2 ^ 5 * 2 ^ 5 + fn := by omega
  rw [e, field_below (by omega) h]

end Sys2Proof.Laws
end

