-- ==== Sys2Proof/Laws/Memory.lean ====
section
/-!
SUPPORT. Memory: every operation that writes it keeps its canonical form, a byte that no cell names reads as before, and a byte that a
cell names reads as its last cell says, at home and on every die.
-/
namespace Sys2Proof.Machine

theorem memWf_reset : MemWf State.reset.mem := rfl

/-! ## What doom, poison and marks leave alone -/

theorem discardSpec_mem (why : SpecEnd) (id : Nat) (s : State) :
    (discardSpec why id s).mem = s.mem ∧ (discardSpec why id s).versions = s.versions := by
  unfold discardSpec; split
  · exact ⟨rfl, rfl⟩
  · cases why <;> exact ⟨rfl, rfl⟩

theorem foldl_discardSpec_mem (ids : List Nat) (s : State) :
    (ids.foldl (fun s id => discardSpec .doom id s) s).mem = s.mem ∧
    (ids.foldl (fun s id => discardSpec .doom id s) s).versions = s.versions := by
  induction ids generalizing s with
  | nil => exact ⟨rfl, rfl⟩
  | cons x xs ih => exact ⟨(ih _).1.trans (discardSpec_mem .doom x s).1, (ih _).2.trans (discardSpec_mem .doom x s).2⟩

theorem doomWritten_mem (w : Writer) (cells : List (Nat × Byte)) (s : State) :
    (doomWritten w cells s).mem = s.mem ∧ (doomWritten w cells s).versions = s.versions :=
  foldl_discardSpec_mem _ s

theorem writeCells_mem (w : Writer) (code : Nat) (cells : List (Nat × Byte)) (s : State) (h : cells ≠ []) :
    (writeCells w code cells s).mem = (putCells cells s).mem ∧ (writeCells w code cells s).versions = (putCells cells s).versions := by
  unfold writeCells; rw [if_neg h]; exact doomWritten_mem _ _ _

/-! ## The canonical form -/

theorem memWf_putCells (cells : List (Nat × Byte)) (s : State) (h : MemWf s.mem) : MemWf (putCells cells s).mem :=
  Sparse.wf_setAll _ _ _ h

theorem memWf_writeCells (w : Writer) (code : Nat) (cells : List (Nat × Byte)) (s : State) (h : MemWf s.mem) :
    MemWf (writeCells w code cells s).mem := by
  by_cases hc : cells = []
  · unfold writeCells; rw [if_pos hc]; exact h
  · rw [(writeCells_mem w code cells s hc).1]; exact memWf_putCells cells s h

theorem memWf_foldVersion (acc : Nat) (s : State) (h : MemWf s.mem) : MemWf (foldVersion acc s).mem := by
  unfold foldVersion; split
  · exact h
  · exact Sparse.wf_setAll _ _ _ h

theorem memWf_clearDie (d : Nat) (s : State) (h : MemWf s.mem) : MemWf (clearDie d s).mem := Sparse.wf_filter _ _ _ h

theorem performHome_mem (acc : Nat) (w : Writer) (code : Nat) (vis : BitVec 8) (cells : List (Nat × Byte)) (s : State) :
    (performHome acc w code vis cells s).mem = s.mem := by
  unfold performHome; split
  · rfl
  · exact (doomWritten_mem _ _ _).1

theorem showVersion_mem (acc d : Nat) (s : State) : (showVersion acc d s).mem = s.mem := rfl

/-! ## Reads after a write -/

theorem find_filter_kept (cells : List (Nat × Byte)) (p : Nat × Byte → Bool) (a : Nat) (h : ∀ c ∈ cells, c.1 = a → p c = true) :
    Assoc.find (cells.filter p) a = Assoc.find cells a := by
  induction cells with
  | nil => rfl
  | cons c rest ih =>
    rw [List.filter_cons]
    by_cases e : c.1 = a
    · rw [if_pos (h c (by simp) e)]; simp [Assoc.find, e]
    · split
      · simp [Assoc.find, e, ih (fun x hx => h x (by simp [hx]))]
      · rw [ih (fun x hx => h x (by simp [hx]))]; simp [Assoc.find, e]

theorem find_filter_gone (cells : List (Nat × Byte)) (p : Nat × Byte → Bool) (a : Nat) (h : ∀ c ∈ cells, c.1 = a → p c = false) :
    Assoc.find (cells.filter p) a = none := by
  induction cells with
  | nil => rfl
  | cons c rest ih =>
    rw [List.filter_cons]
    by_cases e : c.1 = a
    · rw [if_neg (by simp [h c (by simp) e])]; exact ih (fun x hx => h x (by simp [hx]))
    · split
      · simp [Assoc.find, e, ih (fun x hx => h x (by simp [hx]))]
      · exact ih (fun x hx => h x (by simp [hx]))

/-- The versions after cells are stripped from them. -/
def stripped (cells : List (Nat × Byte)) (vs : List Version) : List Version :=
  vs.map (fun v => { v with cells := v.cells.filter (fun c => !cells.any (fun d => d.1 = c.1)) })

theorem versionByte_stripped (cells : List (Nat × Byte)) (d a : Nat) (vs : List Version) :
    versionByte d (stripped cells vs) a = if cells.any (fun c => c.1 = a) then none else versionByte d vs a := by
  induction vs with
  | nil => simp [stripped, versionByte]
  | cons v rest ih =>
    unfold stripped at ih ⊢
    simp only [List.map_cons, versionByte, ih]
    by_cases h : cells.any (fun c => c.1 = a) = true
    · simp only [h, if_true]
      rw [find_filter_gone _ _ a (by rintro c _ rfl; simpa using h)]
      simp
    · simp only [h]
      rw [find_filter_kept _ _ a (by rintro c _ rfl; rw [Bool.not_eq_true] at h; rw [h]; rfl)]
      rfl

theorem newestByte_stripped (cells : List (Nat × Byte)) (a : Nat) (vs : List Version) :
    newestByte (stripped cells vs) a = if cells.any (fun c => c.1 = a) then none else newestByte vs a := by
  induction vs with
  | nil => simp [stripped, newestByte]
  | cons v rest ih =>
    unfold stripped at ih ⊢
    simp only [List.map_cons, newestByte, ih]
    by_cases h : cells.any (fun c => c.1 = a) = true
    · simp only [h, if_true]
      rw [find_filter_gone _ _ a (by rintro c _ rfl; simpa using h)]
    · simp only [h]
      rw [find_filter_kept _ _ a (by rintro c _ rfl; rw [Bool.not_eq_true] at h; rw [h]; rfl)]
      rfl

/-- A byte that no cell names reads as before, on every die. -/
theorem dieByte_writeCells_other (w : Writer) (code : Nat) (cells : List (Nat × Byte)) (s : State) (d a : Nat)
    (h : ∀ c ∈ cells, c.1 ≠ a) : dieByte (writeCells w code cells s) d a = dieByte s d a := by
  by_cases hc : cells = []
  · unfold writeCells; rw [if_pos hc]
  · unfold dieByte memByte
    rw [(writeCells_mem w code cells s hc).1, (writeCells_mem w code cells s hc).2]
    show (versionByte d (stripped cells s.versions) a).getD (Sparse.get memDefault (Sparse.setAll memDefault s.mem cells) a) = _
    rw [versionByte_stripped, Sparse.get_setAll_other _ _ _ _ h, if_neg (by rw [List.any_eq_true]; rintro ⟨c, hc, e⟩; exact h c hc (by simpa using e))]

/-- A byte that no cell names reads as before at its home. -/
theorem homeByte_writeCells_other (w : Writer) (code : Nat) (cells : List (Nat × Byte)) (s : State) (a : Nat)
    (h : ∀ c ∈ cells, c.1 ≠ a) : homeByte (writeCells w code cells s) a = homeByte s a := by
  by_cases hc : cells = []
  · unfold writeCells; rw [if_pos hc]
  · unfold homeByte memByte
    rw [(writeCells_mem w code cells s hc).1, (writeCells_mem w code cells s hc).2]
    show (newestByte (stripped cells s.versions) a).getD (Sparse.get memDefault (Sparse.setAll memDefault s.mem cells) a) = _
    rw [newestByte_stripped, Sparse.get_setAll_other _ _ _ _ h, if_neg (by rw [List.any_eq_true]; rintro ⟨c, hc, e⟩; exact h c hc (by simpa using e))]

/-- A byte of a memory after a list of writes whose later cells do not name it again. -/
theorem get_setAll_cell (m pre post : List (Nat × Byte)) (a : Nat) (b : Byte) (hm : MemWf m) (h : ∀ c ∈ post, c.1 ≠ a) :
    Sparse.get memDefault (Sparse.setAll memDefault m (pre ++ (a, b) :: post)) a = b := by
  induction pre generalizing m with
  | nil =>
    show Sparse.get memDefault (Sparse.setAll memDefault (Sparse.set memDefault m a b) post) a = b
    rw [Sparse.get_setAll_other _ _ _ _ h]; exact Sparse.get_set_self _ _ _ _ hm
  | cons x xs ih => exact ih _ (Sparse.wf_set _ _ _ _ hm)

/-- A byte whose last cell is b reads b, at its home and on every die. -/
theorem byte_writeCells_self (w : Writer) (code : Nat) (pre post : List (Nat × Byte)) (s : State) (a : Nat) (b : Byte) (hm : MemWf s.mem)
    (h : ∀ c ∈ post, c.1 ≠ a) :
    homeByte (writeCells w code (pre ++ (a, b) :: post) s) a = b ∧ ∀ d, dieByte (writeCells w code (pre ++ (a, b) :: post) s) d a = b := by
  have hc : pre ++ (a, b) :: post ≠ [] := by simp
  have hany : (pre ++ (a, b) :: post).any (fun c => c.1 = a) = true := by simp
  constructor
  · unfold homeByte memByte
    rw [(writeCells_mem w code _ s hc).1, (writeCells_mem w code _ s hc).2]
    show (newestByte (stripped (pre ++ (a, b) :: post) s.versions) a).getD
      (Sparse.get memDefault (Sparse.setAll memDefault s.mem (pre ++ (a, b) :: post)) a) = b
    rw [newestByte_stripped, hany, get_setAll_cell _ _ _ _ _ hm h]; rfl
  · intro d
    unfold dieByte memByte
    rw [(writeCells_mem w code _ s hc).1, (writeCells_mem w code _ s hc).2]
    show (versionByte d (stripped (pre ++ (a, b) :: post) s.versions) a).getD
      (Sparse.get memDefault (Sparse.setAll memDefault s.mem (pre ++ (a, b) :: post)) a) = b
    rw [versionByte_stripped, hany, get_setAll_cell _ _ _ _ _ hm h]; rfl

end Sys2Proof.Machine
end

