-- ==== Sys2Proof/Laws/Operands.lean ====
section
/-!
SUPPORT. The operand structures read back from the words that the encoder builds of them.
-/
namespace Sys2Proof.Laws

theorem gn_zero : gn 0 = 0 := rfl

theorem gn_lt (g : BitVec 5) : gn g < 32 := g.isLt

@[simp] theorem ofNat_gn (g : BitVec 5) : BitVec.ofNat 5 (gn g) = g := by simp [gn]

theorem checked_ok {i : Instr} {e : DecodeError} (h : i.wellFormed = true) : checked i e = .ok i := by
  simp [checked, h]

theorem need_true {b : Bool} {e : DecodeError} {r : Except DecodeError Instr} (h : b = true) : need b e r = r := by
  simp [need, h]

/-- The low bits of a number below 2^5 in a field, as a BitVec. -/
theorem bv_eq {w lo n : Nat} {b : BitVec n} (h : field w lo n = b.toNat) : bv w lo n = b := by
  simp only [bv, h, BitVec.ofNat_toNat, BitVec.setWidth_eq]

theorem bit_b2n {w k : Nat} {b : Bool} (h : field w k 1 = b2n b) : bitAt w k = b := by
  rw [bitAt_field, h]
  cases b <;> rfl

/-! ## The fields of a word of each format (R207, R208) -/

/-- The fields of an F-R word. -/
structure IsR (w : Nat) (ct : Tag) (d a b : BitVec 5) (fn : Nat) : Prop where
  a' : field w 12 5 = gn a
  tag : tagOf w = ct
  d : dOf w = d
  a : aOf w = a
  b : bOf w = b
  fn : ∀ lo n, lo + n ≤ 7 → field w lo n = field fn lo n

theorem isR {ct : Tag} {op : Nat} {d a b : BitVec 5} {fn : Nat} (hf : fn < 128) (ho : op < 128) :
    IsR (encR ct op (gn d) (gn a) (gn b) fn) ct d a b fn :=
  ⟨encR_a (gn_lt d) (gn_lt a) (gn_lt b) hf, encR_tag (gn_lt d) (gn_lt a) (gn_lt b) hf ho, bv_eq (encR_d (gn_lt d) (gn_lt a) (gn_lt b) hf),
   bv_eq (encR_a (gn_lt d) (gn_lt a) (gn_lt b) hf), bv_eq (encR_b (gn_lt d) (gn_lt a) (gn_lt b) hf),
   fun _ _ h => encR_low (gn_lt d) (gn_lt a) (gn_lt b) hf h⟩

/-- The fields of an F-I word. -/
structure IsI (w : Nat) (ct : Tag) (d a : BitVec 5) (imm : Nat) : Prop where
  tag : tagOf w = ct
  d : dOf w = d
  a : aOf w = a
  imm : ∀ lo n, lo + n ≤ 12 → field w lo n = field imm lo n

theorem isI {ct : Tag} {op : Nat} {d a : BitVec 5} {imm : Nat} {xw : Bool} (hi : imm < 4096) (ho : op < 128) :
    IsI (encI ct op (gn d) (gn a) imm xw) ct d a imm :=
  ⟨encI_tag (gn_lt d) (gn_lt a) hi ho, bv_eq (encI_d (gn_lt d) (gn_lt a) hi), bv_eq (encI_a (gn_lt d) (gn_lt a) hi),
   fun _ _ h => encI_low (gn_lt d) (gn_lt a) hi h⟩

/-- The fields of an F-B word. -/
structure IsB (w : Nat) (ct : Tag) (a : BitVec 5) (cnd off : Nat) : Prop where
  tag : tagOf w = ct
  a' : field w 17 5 = gn a
  a : dOf w = a
  cnd : field w 14 3 = cnd
  off : field w 0 14 = off

theorem isB {ct : Tag} {op : Nat} {a : BitVec 5} {cnd off : Nat} {xw : Bool} (hc : cnd < 8) (hb : off < 16384) (ho : op < 128) :
    IsB (encB ct op (gn a) cnd off xw) ct a cnd off :=
  ⟨encB_tag (gn_lt a) hc hb ho, encB_a (gn_lt a) hc hb, bv_eq (encB_a (gn_lt a) hc hb), encB_cnd (gn_lt a) hc hb,
   (encB_low (gn_lt a) hc hb (by omega)).trans (field_zero_lo hb)⟩

/-- The fields of an F-M word. -/
structure IsM (w : Nat) (ct : Tag) (d a : BitVec 5) (land : BitVec 6) (sz mod : Nat) : Prop where
  tag : tagOf w = ct
  d : dOf w = d
  a : aOf w = a
  land' : field w 6 6 = land.toNat
  land : bv w 6 6 = land
  vec : sz = 2 → mod < 8 → field w 3 3 = 4
  sz : field w 4 2 = sz
  mod : ∀ lo n, lo + n ≤ 4 → field w lo n = field mod lo n

theorem isM {ct : Tag} {op : Nat} {d a : BitVec 5} {land : BitVec 6} {sz mod : Nat} {xw : Bool} (hz : sz < 4) (hm : mod < 16)
    (ho : op < 128) : IsM (encM ct op (gn d) (gn a) land.toNat sz mod xw) ct d a land sz mod :=
  ⟨encM_tag (gn_lt d) (gn_lt a) land.isLt hz hm ho, bv_eq (encM_d (gn_lt d) (gn_lt a) land.isLt hz hm),
   bv_eq (encM_a (gn_lt d) (gn_lt a) land.isLt hz hm), encM_land (gn_lt d) (gn_lt a) land.isLt hz hm,
   bv_eq (encM_land (gn_lt d) (gn_lt a) land.isLt hz hm), by
    rintro rfl h8
    have hb := encM_body (gn_lt d) (gn_lt a) land.isLt hz hm
    rw [encM, field_body hb (by omega)]
    unfold field
    omega, encM_sz (gn_lt d) (gn_lt a) land.isLt hz hm, fun _ _ h => encM_low (gn_lt d) (gn_lt a) land.isLt hz hm h⟩

/-- The fields of an F-V word. -/
structure IsV (w : Nat) (ct : Tag) (v a b : Nat) (m : BitVec 3) (fn : Nat) : Prop where
  tag : tagOf w = ct
  v : field w 17 5 = v
  a : field w 12 5 = a
  b : field w 7 5 = b
  m : bv w 4 3 = m
  fn : ∀ lo n, lo + n ≤ 4 → field w lo n = field fn lo n

theorem isV {ct : Tag} {op v a b : Nat} {m : BitVec 3} {fn : Nat} {xw : Bool} (h0 : v < 32) (h1 : a < 32) (h2 : b < 32)
    (hf : fn < 16) (ho : op < 128) : IsV (encV ct op v a b m fn xw) ct v a b m fn :=
  ⟨encV_tag h0 h1 h2 hf ho, encV_v h0 h1 h2 hf, encV_a h0 h1 h2 hf, encV_b h0 h1 h2 hf, bv_eq (encV_m h0 h1 h2 hf),
   fun _ _ h => encV_low h0 h1 h2 hf h⟩

/-- The fields of an F-E word. -/
structure IsE (w : Nat) (ct : Tag) (ta tb tc fn : Nat) : Prop where
  tag : tagOf w = ct
  fA : field w 16 6 = ta
  fB : field w 10 6 = tb
  fC : field w 4 6 = tc
  fn : field w 0 4 = fn
  fBC : field w 4 12 = tb * 2 ^ 6 + tc
  fABC : field w 4 18 = ta * 2 ^ 12 + tb * 2 ^ 6 + tc
  fA3 : field w 16 3 = ta % 8
  fC3 : field w 4 3 = tc % 8
  fAB : field w 10 12 = ta * 2 ^ 6 + tb

theorem isE {ct : Tag} {op ta tb tc fn : Nat} (h0 : ta < 64) (h1 : tb < 64) (h2 : tc < 64) (h3 : fn < 16) (ho : op < 128) :
    IsE (encE ct op ta tb tc fn) ct ta tb tc fn := by
  refine ⟨encE_tag h0 h1 h2 h3 ho, encE_ta h0 h1 h2 h3, encE_tb h0 h1 h2 h3, encE_tc h0 h1 h2 h3,
    (encE_low h0 h1 h2 h3 (by omega)).trans (field_zero_lo h3), ?_, ?_, ?_, ?_, ?_⟩ <;>
  · rw [encE, field_body (encE_body h0 h1 h2 h3) (by omega)]
    unfold field
    omega

/-- The fields of an F-S word. -/
structure IsS (w : Nat) (ct : Tag) (d : BitVec 5) (sys fn : Nat) : Prop where
  tag : tagOf w = ct
  d : dOf w = d
  sys : ∀ lo n, lo + n ≤ 12 → field w (5 + lo) n = field sys lo n
  fn : field w 0 5 = fn

theorem isS {ct : Tag} {op : Nat} {d : BitVec 5} {sys fn : Nat} (h1 : sys < 4096) (h2 : fn < 32) (ho : op < 128) :
    IsS (encS ct op (gn d) sys fn) ct d sys fn := by
  refine ⟨encS_tag (gn_lt d) h1 h2 ho, bv_eq (encS_d (gn_lt d) h1 h2), fun lo n h => ?_,
    (encS_low (gn_lt d) h1 h2 (by omega)).trans (field_zero_lo h2)⟩
  rw [encS, field_body (encS_body (gn_lt d) h1 h2) (by omega)]
  have e : gn d * 2 ^ 17 + sys * 2 ^ 5 + fn = (gn d * 2 ^ 12 + sys) * 2 ^ 5 + fn := by omega
  rw [e, field_above (by omega) (by omega), field_below (by omega) (by omega)]
  congr 1
  omega

/-! ## Immediates, offsets and literals -/

theorem imm_bits_lt (i : Imm) : i.bits < 4096 := by
  cases i with
  | short i => exact i.isLt
  | long l => exact Nat.zero_lt_succ _

theorem imm_lit_lt (i : Imm) (l : Nat) (h : i.lit = some l) : l < 2 ^ 32 := by
  cases i with
  | short i => cases h
  | long l => cases h; exact l.isLt

theorem imm_xw (i : Imm) : i.isLong = i.lit.isSome := by cases i <;> rfl

theorem withImm_lit {w : Nat} (i : Imm) (h : field w 0 12 = i.bits) (k : Imm → Instr) : withImm w i.lit k = .ok (k i) := by
  cases i with
  | short i => rw [Imm.lit, withImm, bv_eq h]
  | long l =>
    have : field w 0 12 = 0 := h
    simp only [Imm.lit, withImm, need, this, decide_true, if_true, BitVec.ofNat_toNat, BitVec.setWidth_eq]

theorem IsI.twelve {w : Nat} {ct : Tag} {d a : BitVec 5} {imm : Nat} (h : IsI w ct d a imm) (hi : imm < 4096) :
    field w 0 12 = imm := (h.imm 0 12 (by decide)).trans (field_zero_lo hi)

theorem decodeImm_enc {w : Nat} (o : ImmOp) (h : IsI w o.ct o.d o.a o.i.bits) (k : ImmOp → Instr) :
    decodeImm w o.i.lit k = .ok (k o) := by
  rw [decodeImm, withImm_lit o.i (h.twelve (imm_bits_lt _)), h.tag, h.d, h.a]

/-- The immediate of an immediate shift as the encoder lays it. -/
def shiftImm (o : ShiftOp) : Nat := if o.xw then 0 else o.n.toNat
/-- The literal of an immediate shift as the encoder lays it. -/
def shiftLit (o : ShiftOp) : Option Nat := if o.xw then some o.n.toNat else none

theorem shiftImm_lt (o : ShiftOp) : shiftImm o < 4096 := by
  have := o.n.isLt
  unfold shiftImm
  split <;> omega

theorem shiftLit_lt (o : ShiftOp) (l : Nat) (h : shiftLit o = some l) : l < 2 ^ 32 := by
  have := o.n.isLt
  unfold shiftLit at h
  split at h
  · cases h; omega
  · cases h

theorem shift_xw (o : ShiftOp) : o.xw = (shiftLit o).isSome := by
  unfold shiftLit
  cases o.xw <;> rfl

theorem decodeShift_enc {w : Nat} (o : ShiftOp) (h : IsI w o.ct o.d o.a (shiftImm o)) (k : ShiftOp → Instr) :
    decodeShift w (shiftLit o) k = .ok (k o) := by
  obtain ⟨ct, d, a, n, xw⟩ := o
  have ht : tagOf w = ct := h.tag
  have hd : dOf w = d := h.d
  have ha : aOf w = a := h.a
  cases xw with
  | false =>
    have h6 : field w 6 6 = 0 := (h.imm 6 6 (by decide)).trans (field_small n.isLt)
    have h0 : bv w 0 6 = n := bv_eq ((h.imm 0 6 (by decide)).trans (field_zero_lo n.isLt))
    show need (decide (field w 6 6 = 0)) _ _ = _
    rw [h6, need_true (by rfl), ht, hd, ha, h0]
  | true =>
    have h0 : field w 0 12 = 0 := (h.imm 0 12 (by decide)).trans (show field 0 0 12 = 0 by decide)
    have hn : n.toNat < 64 := n.isLt
    show need (decide (field w 0 12 = 0) && decide (n.toNat < 64)) _ _ = _
    rw [h0, need_true (by simp [hn]), ht, hd, ha, BitVec.ofNat_toNat, BitVec.setWidth_eq]

theorem off_bits_lt (i : Off) : i.bits < 16384 := by
  cases i with
  | short i => exact i.isLt
  | long l => exact Nat.zero_lt_succ _

theorem off_lit_lt (i : Off) (l : Nat) (h : i.lit = some l) : l < 2 ^ 32 := by
  cases i with
  | short i => cases h
  | long l => cases h; exact l.isLt

theorem off_xw (i : Off) : i.isLong = i.lit.isSome := by cases i <;> rfl

theorem withOff_enc {w : Nat} {ct : Tag} {a : BitVec 5} {cnd : Nat} (i : Off) (h : IsB w ct a cnd i.bits) (k : Off → Instr) :
    withOff w i.lit k = .ok (k i) := by
  cases i with
  | short i => rw [Off.lit, withOff, bv_eq h.off]
  | long l =>
    have : field w 0 14 = 0 := h.off
    simp only [Off.lit, withOff, need, this, decide_true, if_true, BitVec.ofNat_toNat, BitVec.setWidth_eq]

/-! ## Memory operands -/

theorem offLit_lt (x : Option (BitVec 32)) (l : Nat) (h : offLit x = some l) : l < 2 ^ 32 := by
  cases x with
  | none => cases h
  | some v => cases h; exact v.isLt

theorem offLit_isSome (x : Option (BitVec 32)) : x.isSome = (offLit x).isSome := by cases x <;> rfl

@[simp] theorem offOf_offLit (x : Option (BitVec 32)) : offOf (offLit x) = x := by cases x <;> simp [offOf, offLit]

theorem szOf_eq {w : Nat} {z : Sz} (h : field w 4 2 = szBits z) : szOf w = z := by
  unfold szOf
  rw [h]
  cases z <;> rfl

theorem amoFnOf_eq {w : Nat} {f : AmoFn} (h : field w 0 3 = amoBits f) : amoFnOf w = f := by
  unfold amoFnOf
  rw [h]
  cases f <;> rfl

theorem decodeLoad_enc {w : Nat} (o : LoadOp) (h : IsM w o.ct o.d o.a o.land (szBits o.sz) o.m.toNat) (k : LoadOp → Instr)
    (hw : (k o).wellFormed = true) : decodeLoad w (offLit o.off) k = .ok (k o) := by
  have h3 : field w 3 1 = 0 := (h.mod 3 1 (by decide)).trans (field_small o.m.isLt)
  have h0 : bv w 0 3 = o.m := bv_eq ((h.mod 0 3 (by decide)).trans (field_zero_lo o.m.isLt))
  rw [decodeLoad, h3, need_true (by rfl), h.tag, h.d, h.a, h.land, szOf_eq h.sz, h0, offOf_offLit, checked_ok hw]

theorem decodeStore_enc {w : Nat} (o : StoreOp) (h : IsM w o.ct o.s o.a 0 (szBits o.sz) 0) (k : StoreOp → Instr) :
    decodeStore w (offLit o.off) k = .ok (k o) := by
  have h0 : field w 0 4 = 0 := h.mod 0 4 (by decide)
  have h6 : field w 6 6 = 0 := h.land'
  rw [decodeStore, h0, need_true (by rfl), h6, need_true (by rfl), h.tag, h.d, h.a, szOf_eq h.sz, offOf_offLit]

theorem amoMod_fn (f : AmoFn) (q : Bool) : field (amoBits f + 8 * b2n q) 0 3 = amoBits f := by
  cases f <;> cases q <;> rfl
theorem amoMod_q (f : AmoFn) (q : Bool) : field (amoBits f + 8 * b2n q) 3 1 = b2n q := by
  cases f <;> cases q <;> rfl
theorem amoMod_lt (f : AmoFn) (q : Bool) : amoBits f + 8 * b2n q < 16 := by
  cases f <;> cases q <;> decide

theorem decodeAmo_enc {w : Nat} (o : AmoOp) (h : IsM w o.ct o.d o.a o.land (szBits o.sz) (amoBits o.fn + 8 * b2n o.q))
    (k : AmoOp → Instr) (hw : (k o).wellFormed = true) : decodeAmo w (offLit o.off) k = .ok (k o) := by
  have hf := amoFnOf_eq ((h.mod 0 3 (by decide)).trans (amoMod_fn o.fn o.q))
  have hq := bit_b2n ((h.mod 3 1 (by decide)).trans (amoMod_q o.fn o.q))
  rw [decodeAmo, hf, hq, h.tag, h.d, h.a, h.land, szOf_eq h.sz, offOf_offLit, checked_ok hw]

theorem decodeRed_enc {w : Nat} (o : RedOp) (h : IsM w o.ct o.s o.a 0 (szBits o.sz) (amoBits o.fn + 8 * b2n o.rl))
    (hw : (Instr.red o).wellFormed = true) : decodeRed w (offLit o.off) = .ok (.red o) := by
  have hf := amoFnOf_eq ((h.mod 0 3 (by decide)).trans (amoMod_fn o.fn o.rl))
  have hq := bit_b2n ((h.mod 3 1 (by decide)).trans (amoMod_q o.fn o.rl))
  have h6 : field w 6 6 = 0 := h.land'
  rw [decodeRed, h6, need_true (by rfl), hf, hq, h.tag, h.d, h.a, szOf_eq h.sz, offOf_offLit, checked_ok hw]

theorem casMod (rl aq : Bool) : field (2 * b2n rl + b2n aq) 2 2 = 0 ∧ field (2 * b2n rl + b2n aq) 1 1 = b2n rl ∧
    field (2 * b2n rl + b2n aq) 0 1 = b2n aq ∧ 2 * b2n rl + b2n aq < 16 := by
  cases rl <;> cases aq <;> decide

theorem decodeCas_enc {w : Nat} (o : CasOp) (h : IsM w o.ct o.d o.a o.land (szBits o.sz) (2 * b2n o.rl + b2n o.aq))
    (hw : (Instr.cas o).wellFormed = true) : decodeCas w (offLit o.off) = .ok (.cas o) := by
  have hc := casMod o.rl o.aq
  have h2 := (h.mod 2 2 (by decide)).trans hc.1
  have h1 := bit_b2n ((h.mod 1 1 (by decide)).trans hc.2.1)
  have h0 := bit_b2n ((h.mod 0 1 (by decide)).trans hc.2.2.1)
  rw [decodeCas, h2, need_true (by rfl), h1, h0, h.tag, h.d, h.a, h.land, szOf_eq h.sz, offOf_offLit, checked_ok hw]

theorem decodeAddr_enc {w : Nat} (o : AddrOp) (h : IsM w o.ct 0 o.a 0 0 0) (k : AddrOp → Instr) :
    decodeAddr w (offLit o.off) k = .ok (k o) := by
  have h0 : field w 0 4 = 0 := h.mod 0 4 (by decide)
  have h6 : field w 6 6 = 0 := h.land'
  rw [decodeAddr, h0, need_true (by rfl), h6, need_true (by rfl), h.tag, h.a, offOf_offLit]

theorem decodeVmem_enc {w : Nat} (o : VmemOp) (h : IsM w o.ct o.v o.a o.land 2 o.m.toNat) (k : VmemOp → Instr)
    (hw : (k o).wellFormed = true) : decodeVmem w (offLit o.off) k = .ok (k o) := by
  have h0 : bv w 0 3 = o.m := bv_eq ((h.mod 0 3 (by decide)).trans (field_zero_lo o.m.isLt))
  rw [decodeVmem, h.vec rfl o.m.isLt, need_true (by rfl), h.tag, h.d, h.a, h.land, h0, offOf_offLit, checked_ok hw]

/-- The literal of a strided or indexed access. -/
def vmemLit (o : VmemXOp) : Nat := gn o.x * 2 ^ 27 + o.off.toNat

theorem vmemLit_lt (o : VmemXOp) : vmemLit o < 2 ^ 32 := by
  have := gn_lt o.x
  have := o.off.isLt
  unfold vmemLit
  omega

theorem decodeVmemX_enc {w : Nat} (o : VmemXOp) (h : IsM w o.ct o.v o.a o.land 2 o.m.toNat) (k : VmemXOp → Instr)
    (hw : (k o).wellFormed = true) : decodeVmemX w (some (vmemLit o)) k = .ok (k o) := by
  have h0 : bv w 0 3 = o.m := bv_eq ((h.mod 0 3 (by decide)).trans (field_zero_lo o.m.isLt))
  have hx : bv (vmemLit o) 27 5 = o.x := bv_eq (field_at o.off.isLt (gn_lt _))
  have hf : bv (vmemLit o) 0 27 = o.off := bv_eq ((field_below o.off.isLt (by decide)).trans (field_zero_lo o.off.isLt))
  show need (decide (field w 3 3 = 4)) _ _ = _
  rw [h.vec rfl o.m.isLt, need_true (by rfl), h.tag, h.d, h.a, h.land, h0, hx, hf, checked_ok hw]

/-! ## The F-E literal -/

theorem lit_gx {gy fields : Nat} (g : BitVec 5) (h1 : gy < 32) (h2 : fields < 2 ^ 22) : gxOf (feLit (gn g) gy fields) = g := by
  have := gn_lt g
  refine bv_eq ?_
  show _ = gn g
  unfold field feLit
  omega
theorem lit_gy0 {gx fields : Nat} (h2 : fields < 2 ^ 22) : field (feLit gx 0 fields) 22 5 = 0 := by
  unfold field feLit
  omega
theorem lit_gy {gx fields : Nat} (g : BitVec 5) (h2 : fields < 2 ^ 22) : gyOf (feLit gx (gn g) fields) = g := by
  have := gn_lt g
  refine bv_eq ?_
  show _ = gn g
  unfold field feLit
  omega
theorem lit_low {gx gy fields lo n : Nat} (h2 : fields < 2 ^ 22) (h : lo + n ≤ 22) :
    field (feLit gx gy fields) lo n = field fields lo n := by
  have e : feLit gx gy fields = (gx * 2 ^ 5 + gy) * 2 ^ 22 + fields := by unfold feLit; omega
  rw [e, field_below h2 h]
theorem lit_27 {gx fields lo n : Nat} (h2 : fields < 2 ^ 22) (h : lo + n ≤ 27) :
    field (feLit gx 0 fields) lo n = field fields lo n := by
  have e : feLit gx 0 fields = gx * 2 ^ 27 + fields := by unfold feLit; omega
  rw [e, field_below (by omega) h]
theorem lit_lt {gx gy fields : Nat} (h0 : gx < 32) (h1 : gy < 32) (h2 : fields < 2 ^ 22) : feLit gx gy fields < 2 ^ 32 := by
  unfold feLit
  omega

/-! ## Rounding literals -/

theorem withRnd_lit (x : Option Rnd) (k : Option Rnd → Except DecodeError Instr) : withRnd (rndLit x) k = k x := by
  cases x with
  | none => rfl
  | some r => cases r <;> rfl

theorem rndLit_lt (x : Option Rnd) (l : Nat) (h : rndLit x = some l) : l < 2 ^ 32 := by
  cases x with
  | none => cases h
  | some r => cases r <;> cases h <;> decide

theorem rndLit_isSome (x : Option Rnd) : x.isSome = (rndLit x).isSome := by cases x <;> rfl

end Sys2Proof.Laws
end

