-- ==== Sys2Proof/Laws/PerInstr.lean ====
section
/-!
SUPPORT. Family RoundTrip: for every constructor of Instr, decoding the bytes of the encoded instruction, whatever follows them,
gives the instruction and what follows. An event has no words.
-/
namespace Sys2Proof.Laws.RoundTrip

set_option Elab.async false

/-- Decoding the encoded instruction gives it back, with the bytes behind it. -/
def Statement (i : Instr) : Prop :=
  i.wellFormed = true → (encodeWord i).isSome = true → ∀ rest, decode (encodeBytes i ++ rest) = .ok (i, rest)

theorem no_words {i : Instr} (h : encodeWord i = none) : Statement i := by
  intro _ hs
  simp [h] at hs

/-! ## One word format each -/

theorem of_encR {i : Instr} {ct : Tag} {op fn : Nat} {d a b : BitVec 5}
    (he : encodeWord i = some (encR ct op (gn d) (gn a) (gn b) fn, none))
    (hd : ∀ w, IsR w ct d a b fn → decodeMajor op w none = .ok i) (hf : fn < 128 := by decide) (ho : op < 128 := by decide) :
    Statement i :=
  fun _ _ rest => decode_of_major he (encR_lt (gn_lt d) (gn_lt a) (gn_lt b) hf ho) (fun _ h => by cases h)
    (encR_xw (gn_lt d) (gn_lt a) (gn_lt b) hf ho)
    (by rw [encR_op (gn_lt d) (gn_lt a) (gn_lt b) hf ho]; exact hd _ (isR hf ho)) rest

theorem of_encI {i : Instr} {ct : Tag} {op imm : Nat} {d a : BitVec 5} {xw : Bool} {x : Option Nat}
    (he : encodeWord i = some (encI ct op (gn d) (gn a) imm xw, x))
    (hd : ∀ w, IsI w ct d a imm → decodeMajor op w x = .ok i) (hx : ∀ l, x = some l → l < 2 ^ 32) (hb : xw = x.isSome)
    (hi : imm < 4096) (ho : op < 128 := by decide) : Statement i :=
  fun _ _ rest => decode_of_major he (encI_lt (gn_lt d) (gn_lt a) hi ho) hx ((encI_xw (gn_lt d) (gn_lt a) hi ho).trans hb)
    (by rw [encI_op (gn_lt d) (gn_lt a) hi ho]; exact hd _ (isI hi ho)) rest

theorem of_imm {i : Instr} {o : ImmOp} {op : Nat} {k : ImmOp → Instr}
    (he : encodeWord (k o) = some (encI o.ct op (gn o.d) (gn o.a) o.i.bits o.i.isLong, o.i.lit)) (hk : k o = i)
    (hm : ∀ w x, decodeMajor op w x = decodeImm w x k) (ho : op < 128 := by decide) : Statement i :=
  hk ▸ of_encI he (fun w h => by rw [hm, decodeImm_enc o h]) (imm_lit_lt _) (imm_xw _) (imm_bits_lt _) ho

theorem of_shift {i : Instr} {o : ShiftOp} {op : Nat} {k : ShiftOp → Instr}
    (he : encodeWord (k o) = some (encI o.ct op (gn o.d) (gn o.a) (shiftImm o) o.xw, shiftLit o)) (hk : k o = i)
    (hm : ∀ w x, decodeMajor op w x = decodeShift w x k) (ho : op < 128 := by decide) : Statement i :=
  hk ▸ of_encI he (fun w h => by rw [hm, decodeShift_enc o h]) (shiftLit_lt o) (shift_xw o) (shiftImm_lt o) ho

theorem of_encB {i : Instr} {ct : Tag} {op cnd : Nat} {a : BitVec 5} {o : Off}
    (he : encodeWord i = some (encB ct op (gn a) cnd o.bits o.isLong, o.lit))
    (hd : ∀ w, IsB w ct a cnd o.bits → decodeMajor op w o.lit = .ok i) (hc : cnd < 8 := by decide) (ho : op < 128 := by decide) :
    Statement i :=
  fun _ _ rest => decode_of_major he (encB_lt (gn_lt a) hc (off_bits_lt o) ho) (off_lit_lt o)
    ((encB_xw (gn_lt a) hc (off_bits_lt o) ho).trans (off_xw o))
    (by rw [encB_op (gn_lt a) hc (off_bits_lt o) ho]; exact hd _ (isB hc (off_bits_lt o) ho)) rest

theorem of_encM {i : Instr} {ct : Tag} {op sz mod : Nat} {d a : BitVec 5} {land : BitVec 6} {xw : Bool} {x : Option Nat}
    (he : encodeWord i = some (encM ct op (gn d) (gn a) land.toNat sz mod xw, x))
    (hd : ∀ w, IsM w ct d a land sz mod → decodeMajor op w x = .ok i) (hx : ∀ l, x = some l → l < 2 ^ 32) (hb : xw = x.isSome)
    (hz : sz < 4) (hm : mod < 16) (ho : op < 128 := by decide) : Statement i :=
  fun _ _ rest => decode_of_major he (encM_lt (gn_lt d) (gn_lt a) land.isLt hz hm ho) hx
    ((encM_xw (gn_lt d) (gn_lt a) land.isLt hz hm ho).trans hb)
    (by rw [encM_op (gn_lt d) (gn_lt a) land.isLt hz hm ho]; exact hd _ (isM hz hm ho)) rest

theorem mask_lt16 (m : BitVec 3) : m.toNat < 16 := by have := m.isLt; omega

theorem of_load {i : Instr} {o : LoadOp} {op : Nat} {k : LoadOp → Instr} (he : encodeWord (k o) = some (encLoad op o))
    (hk : k o = i) (hm : ∀ w x, decodeMajor op w x = decodeLoad w x k) (ho : op < 128 := by decide) : Statement i :=
  hk ▸ fun hw => of_encM he (fun w h => by rw [hm, decodeLoad_enc o h k hw]) (offLit_lt _) (offLit_isSome _) (szBits_lt _)
    (mask_lt16 _) ho hw

theorem of_store {i : Instr} {o : StoreOp} {op : Nat} {k : StoreOp → Instr} (he : encodeWord (k o) = some (encStore op o))
    (hk : k o = i) (hm : ∀ w x, decodeMajor op w x = decodeStore w x k) (ho : op < 128 := by decide) : Statement i :=
  hk ▸ of_encM (land := 0) he (fun w h => by rw [hm, decodeStore_enc o h k]) (offLit_lt _) (offLit_isSome _) (szBits_lt _)
    (by decide) ho

theorem of_amo {i : Instr} {o : AmoOp} {op : Nat} {k : AmoOp → Instr} (he : encodeWord (k o) = some (encAmo op o))
    (hk : k o = i) (hm : ∀ w x, decodeMajor op w x = decodeAmo w x k) (ho : op < 128 := by decide) : Statement i :=
  hk ▸ fun hw => of_encM he (fun w h => by rw [hm, decodeAmo_enc o h k hw]) (offLit_lt _) (offLit_isSome _) (szBits_lt _)
    (amoMod_lt _ _) ho hw

theorem of_addr {i : Instr} {o : AddrOp} {op : Nat} {k : AddrOp → Instr} (he : encodeWord (k o) = some (encAddr op o))
    (hk : k o = i) (hm : ∀ w x, decodeMajor op w x = decodeAddr w x k) (ho : op < 128 := by decide) : Statement i :=
  hk ▸ of_encM (d := 0) (land := 0) he (fun w h => by rw [hm, decodeAddr_enc o h k]) (offLit_lt _) (offLit_isSome _) (by decide)
    (by decide) ho

theorem of_vmem {i : Instr} {o : VmemOp} {op : Nat} {k : VmemOp → Instr} (he : encodeWord (k o) = some (encVmem op o))
    (hk : k o = i) (hm : ∀ w x, decodeMajor op w x = decodeVmem w x k) (ho : op < 128 := by decide) : Statement i :=
  hk ▸ fun hw => of_encM he (fun w h => by rw [hm, decodeVmem_enc o h k hw]) (offLit_lt _) (offLit_isSome _) (by decide)
    (mask_lt16 _) ho hw

theorem of_vmemX {i : Instr} {o : VmemXOp} {op : Nat} {k : VmemXOp → Instr} (he : encodeWord (k o) = some (encVmemX op o))
    (hk : k o = i) (hm : ∀ w x, decodeMajor op w x = decodeVmemX w x k) (ho : op < 128 := by decide) : Statement i :=
  hk ▸ fun hw => of_encM (x := some (vmemLit o)) he (fun w h => by rw [hm, decodeVmemX_enc o h k hw])
    (fun _ h => by cases h; exact vmemLit_lt o) rfl (by decide) (mask_lt16 _) ho hw

theorem of_encV {i : Instr} {ct : Tag} {op v a b : Nat} {m : BitVec 3} {fn : Nat} {xw : Bool} {x : Option Nat}
    (he : encodeWord i = some (encV ct op v a b m fn xw, x))
    (hd : ∀ w, IsV w ct v a b m fn → decodeMajor op w x = .ok i)
    (hx : ∀ l, x = some l → l < 2 ^ 32) (hb : xw = x.isSome) (h0 : v < 32) (h1 : a < 32) (h2 : b < 32)
    (hf : fn < 16) (ho : op < 128 := by decide) : Statement i :=
  fun _ _ rest => decode_of_major he (encV_lt h0 h1 h2 hf ho) hx ((encV_xw h0 h1 h2 hf ho).trans hb)
    (by rw [encV_op h0 h1 h2 hf ho]; exact hd _ (isV h0 h1 h2 hf ho)) rest

theorem of_encE {i : Instr} {ct : Tag} {op ta tb tc fn l : Nat} (he : encodeWord i = some (encE ct op ta tb tc fn, some l))
    (hd : ∀ w, IsE w ct ta tb tc fn → decodeMajor op w (some l) = .ok i) (hl : l < 2 ^ 32)
    (h0 : ta < 64) (h1 : tb < 64) (h2 : tc < 64) (h3 : fn < 16 := by decide)
    (ho : op < 128 := by decide) : Statement i :=
  fun _ _ rest => decode_of_major he (encE_lt h0 h1 h2 h3 ho) (fun _ h => by cases h; exact hl) (encE_xw h0 h1 h2 h3 ho)
    (by rw [encE_op h0 h1 h2 h3 ho]; exact hd _ (isE h0 h1 h2 h3 ho)) rest

theorem of_encS {i : Instr} {ct : Tag} {op sys fn : Nat} {d : BitVec 5} (he : encodeWord i = some (encS ct op (gn d) sys fn, none))
    (hd : ∀ w, IsS w ct d sys fn → decodeMajor op w none = .ok i) (h1 : sys < 4096) (h2 : fn < 32 := by decide)
    (ho : op < 128 := by decide) : Statement i :=
  fun _ _ rest => decode_of_major he (encS_lt (gn_lt d) h1 h2 ho) (fun _ h => by cases h) (encS_xw (gn_lt d) h1 h2 ho)
    (by rw [encS_op (gn_lt d) h1 h2 ho]; exact hd _ (isS h1 h2 ho)) rest

/-! ## Shapes that several constructors share -/

theorem of_alu {i : Instr} {o : RRR} {fn : Nat} (he : encodeWord i = some (encR o.ct 0x00 (gn o.d) (gn o.a) (gn o.b) fn, none))
    (hd : ∀ w, field w 0 7 = fn → rrrOf w = o → decodeAlu w = .ok i) (hf : fn < 128 := by decide) : Statement i :=
  of_encR he (fun w h => hd w ((h.fn 0 7 (by decide)).trans (field_zero_lo hf)) (by rw [rrrOf, h.tag, h.d, h.a, h.b])) hf

theorem of_alu1 {i : Instr} {o : RR} {fn : Nat} (he : encodeWord i = some (encR o.ct 0x00 (gn o.d) (gn o.a) 0 fn, none))
    (hd : ∀ w, field w 0 7 = fn → rrOf w = o → decodeAlu w = .ok i) (hf : fn < 128 := by decide) : Statement i :=
  of_encR (b := 0) he (fun w h => hd w ((h.fn 0 7 (by decide)).trans (field_zero_lo hf)) (by rw [rrOf, h.tag, h.d, h.a])) hf

theorem fpFields {w k : Nat} {ct : Tag} {d a b : BitVec 5} {r : Rnd} (h : IsR w ct d a b (rndBits r * 2 ^ 5 + k)) (hk : k < 32) :
    field w 0 5 = k ∧ rndOf (field w 5 2) = r := by
  rw [h.fn 0 5 (by omega), h.fn 5 2 (by omega)]
  refine ⟨?_, ?_⟩
  · rw [field_below (by omega) (by omega), field_zero_lo (by omega)]
  · rw [field_at (by omega) (rndBits_lt r), rndOf_rndBits]

theorem of_fp3 {i : Instr} {o : FpRRR} {k : Nat}
    (he : encodeWord i = some (encR o.ct 0x12 (gn o.d) (gn o.a) (gn o.b) (rndBits o.r * 2 ^ 5 + k), none))
    (hd : ∀ w, field w 0 5 = k → (⟨tagOf w, dOf w, aOf w, bOf w, rndOf (field w 5 2)⟩ : FpRRR) = o → decodeFp w = .ok i)
    (hk : k < 32 := by decide) : Statement i :=
  of_encR he (fun w h => hd w (fpFields h hk).1 (by rw [h.tag, h.d, h.a, h.b, (fpFields h hk).2]))
    (by have := rndBits_lt o.r; omega)

theorem of_fp2 {i : Instr} {o : FpRR} {k : Nat}
    (he : encodeWord i = some (encR o.ct 0x12 (gn o.d) (gn o.a) 0 (rndBits o.r * 2 ^ 5 + k), none))
    (hd : ∀ w, field w 0 5 = k → (⟨tagOf w, dOf w, aOf w, rndOf (field w 5 2)⟩ : FpRR) = o → decodeFp w = .ok i)
    (hk : k < 32 := by decide) : Statement i :=
  of_encR (b := 0) he (fun w h => hd w (fpFields h hk).1 (by rw [h.tag, h.d, h.a, (fpFields h hk).2]))
    (by have := rndBits_lt o.r; omega)

theorem of_fpRne3 {i : Instr} {o : RRR} {k : Nat} (he : encodeWord i = some (encR o.ct 0x12 (gn o.d) (gn o.a) (gn o.b) k, none))
    (hd : ∀ w, field w 0 5 = k → field w 5 2 = 0 → rrrOf w = o → decodeFp w = .ok i) (hk : k < 32 := by decide) : Statement i :=
  of_encR he (fun w h => hd w ((h.fn 0 5 (by decide)).trans (field_zero_lo hk)) ((h.fn 5 2 (by decide)).trans (field_small hk))
    (by rw [rrrOf, h.tag, h.d, h.a, h.b])) (by omega)

theorem of_fpRne2 {i : Instr} {o : RR} {k : Nat} (he : encodeWord i = some (encR o.ct 0x12 (gn o.d) (gn o.a) 0 k, none))
    (hd : ∀ w, field w 0 5 = k → field w 5 2 = 0 → rrOf w = o → decodeFp w = .ok i) (hk : k < 32 := by decide) : Statement i :=
  of_encR (b := 0) he (fun w h => hd w ((h.fn 0 5 (by decide)).trans (field_zero_lo hk))
    ((h.fn 5 2 (by decide)).trans (field_small hk)) (by rw [rrOf, h.tag, h.d, h.a])) (by omega)

theorem fcondBits_lt (k : FCond) : fcondBits k < 2 ^ 5 := by cases k <;> decide

theorem of_vf {i : Instr} {o : VfOp} {op fn : Nat}
    (he : encodeWord i = some (encV o.ct op (gn o.v) (gn o.a) (gn o.b) o.m fn o.x.isSome, rndLit o.x))
    (hd : ∀ w, field w 0 4 = fn → vfOf w o.x = o → decodeMajor op w (rndLit o.x) = .ok i) (hf : fn < 16 := by decide)
    (ho : op < 128 := by decide) : Statement i :=
  of_encV he (fun w h => hd w ((h.fn 0 4 (by decide)).trans (field_zero_lo hf))
    (by rw [vfOf, h.tag, dOf, bv_eq h.v, aOf, bv_eq h.a, bOf, bv_eq h.b, h.m]))
    (rndLit_lt _) (rndLit_isSome _) (gn_lt _) (gn_lt _) (gn_lt _) hf ho

theorem of_vf1 {i : Instr} {o : Vf1Op} {op fn : Nat}
    (he : encodeWord i = some (encV o.ct op (gn o.v) (gn o.a) 0 o.m fn o.x.isSome, rndLit o.x))
    (hd : ∀ w, field w 0 4 = fn → vf1Of w o.x = o → decodeMajor op w (rndLit o.x) = .ok i) (hf : fn < 16 := by decide)
    (ho : op < 128 := by decide) : Statement i :=
  of_encV he (fun w h => hd w ((h.fn 0 4 (by decide)).trans (field_zero_lo hf))
    (by rw [vf1Of, h.tag, dOf, bv_eq h.v, aOf, bv_eq h.a, h.m]))
    (rndLit_lt _) (rndLit_isSome _) (gn_lt _) (gn_lt _) (by decide) hf ho

theorem of_v {i : Instr} {o : VOp} {op fn : Nat}
    (he : encodeWord i = some (encV o.ct op (gn o.v) (gn o.a) (gn o.b) o.m fn false, none))
    (hd : ∀ w, field w 0 4 = fn → vOf w = o → decodeMajor op w none = .ok i) (hf : fn < 16 := by decide)
    (ho : op < 128 := by decide) : Statement i :=
  of_encV he (fun w h => hd w ((h.fn 0 4 (by decide)).trans (field_zero_lo hf))
    (by rw [vOf, h.tag, dOf, bv_eq h.v, aOf, bv_eq h.a, bOf, bv_eq h.b, h.m]))
    (fun _ h => by cases h) rfl (gn_lt _) (gn_lt _) (gn_lt _) hf ho

/-- A 5-bit field that holds a mask number. -/
theorem mask_low {w k : Nat} {m : BitVec 3} (h : field w k 5 = m.toNat) : bv w k 3 = m ∧ decide (field w k 5 < 8) = true := by
  have := m.isLt
  refine ⟨bv_eq ?_, by rw [h]; exact decide_eq_true m.isLt⟩
  unfold field at *
  omega

theorem toNat3_lt (m : BitVec 3) : m.toNat < 32 := by have := m.isLt; omega

theorem of_mask {i : Instr} {ct : Tag} {v a b fn : Nat} (he : encodeWord i = some (encV ct 0x47 v a b 0 fn false, none))
    (hd : ∀ w, IsV w ct v a b 0 fn → field w 0 4 = fn → decodeMask w = .ok i) (h0 : v < 32) (h1 : a < 32)
    (h2 : b < 32) (hf : fn < 16 := by decide) : Statement i :=
  of_encV he (fun w h => hd w h ((h.fn 0 4 (by decide)).trans (field_zero_lo hf))) (fun _ h => by cases h) rfl h0 h1 h2 hf

theorem bf_lt (o : BfOp) : o.wm1.toNat * 2 ^ 6 + o.pos.toNat < 4096 := by
  have := o.wm1.isLt
  have := o.pos.isLt
  omega

theorem bfOf_enc {w : Nat} (o : BfOp) (h : IsI w o.ct o.d o.a (o.wm1.toNat * 2 ^ 6 + o.pos.toNat)) : bfOf w = o := by
  have h6 : bv w 6 6 = o.wm1 := bv_eq ((h.imm 6 6 (by decide)).trans (field_at o.pos.isLt o.wm1.isLt))
  have h0 : bv w 0 6 = o.pos :=
    bv_eq ((h.imm 0 6 (by decide)).trans ((field_below o.pos.isLt (by decide)).trans (field_zero_lo o.pos.isLt)))
  rw [bfOf, h.tag, h.d, h.a, h6, h0]

theorem of_bf {i : Instr} {o : BfOp} {op : Nat}
    (he : encodeWord i = some (encI o.ct op (gn o.d) (gn o.a) (o.wm1.toNat * 2 ^ 6 + o.pos.toNat) false, none))
    (hd : ∀ w, bfOf w = o → decodeMajor op w none = .ok i) (ho : op < 128 := by decide) : Statement i :=
  of_encI he (fun w h => hd w (bfOf_enc o h)) (fun _ h => by cases h) rfl (bf_lt o) ho

theorem of_bar {i : Instr} {o : BarOp} {fn : Nat} {k : BarOp → Instr} (he : encodeWord (k o) = some (encS o.ct 0x30 0 (gn o.b) fn, none))
    (hk : k o = i) (hm : ∀ w, field w 0 5 = fn → decodeMajor 0x30 w none = decodeBar w k) (h2 : fn < 32 := by decide) :
    Statement i :=
  hk ▸ of_encS (d := 0) he (fun w h => by
    have h10 : field w 10 7 = 0 := (h.sys 5 7 (by decide)).trans (field_small (gn_lt _))
    have h5 : bv w 5 5 = o.b := bv_eq ((h.sys 0 5 (by decide)).trans (field_zero_lo (gn_lt _)))
    rw [hm w h.fn, decodeBar, h10, need_true (by rfl), h.tag, h5]) (by have := gn_lt o.b; omega) h2

theorem of_code {i : Instr} {o : CodeOp} {fn : Nat} (he : encodeWord i = some (encS o.ct 0x19 0 o.code.toNat fn, none))
    (hd : ∀ w, field w 0 5 = fn → (⟨tagOf w, bv w 5 12⟩ : CodeOp) = o → decodeSys w = .ok i) (h2 : fn < 32 := by decide) :
    Statement i :=
  of_encS (d := 0) he (fun w h => hd w h.fn (by
    rw [h.tag, bv_eq ((h.sys 0 12 (by decide)).trans (field_zero_lo o.code.isLt))])) o.code.isLt h2

theorem of_sys {i : Instr} {o : SysOp} {fn : Nat} (he : encodeWord i = some (encS o.ct 0x19 (gn o.d) o.sys.toNat fn, none))
    (hd : ∀ w, field w 0 5 = fn → (⟨tagOf w, dOf w, bv w 5 12⟩ : SysOp) = o → decodeSys w = .ok i) (h2 : fn < 32 := by decide) :
    Statement i :=
  of_encS he (fun w h => hd w h.fn (by
    rw [h.tag, h.d, bv_eq ((h.sys 0 12 (by decide)).trans (field_zero_lo o.sys.isLt))])) o.sys.isLt h2

theorem of_tag {i : Instr} {o : TagOp} {op fn : Nat} (he : encodeWord i = some (encS o.ct op 0 0 fn, none))
    (hd : ∀ w, field w 0 5 = fn → field w 5 12 = 0 → (⟨tagOf w⟩ : TagOp) = o → decodeMajor op w none = .ok i)
    (h2 : fn < 32 := by decide) (ho : op < 128 := by decide) : Statement i :=
  of_encS (d := 0) he (fun w h => hd w h.fn ((h.sys 0 12 (by decide)).trans (show field 0 0 12 = 0 by decide)) (by rw [h.tag]))
    (by decide) h2 ho

theorem of_circ {i : Instr} {ct : Tag} {h : BitVec 3} {fn l : Nat} (he : encodeWord i = some (encE ct 0x70 h.toNat 0 0 fn, some l))
    (hd : ∀ w, tagOf w = ct → field w 0 4 = fn → field w 4 12 = 0 → decide (field w 16 6 < 8) = true → bv w 16 3 = h →
      decodeCirc w l = .ok i) (hl : l < 2 ^ 32) (h3 : fn < 16 := by decide) : Statement i :=
  of_encE he (fun w hw => hd w hw.tag hw.fn hw.fBC (by rw [hw.fA]; exact decide_eq_true h.isLt)
    (bv_eq (hw.fA3.trans (Nat.mod_eq_of_lt h.isLt)))) hl (by have := h.isLt; omega) (by decide) (by decide) h3

theorem of_hg {i : Instr} {o : HgOp} {fn : Nat} (he : encodeWord i = some (encHg fn o))
    (hd : ∀ w l, field w 0 4 = fn → field w 4 12 = 0 → decide (field w 16 6 < 8) = true → field l 0 27 = 0 →
      (⟨tagOf w, bv w 16 3, gxOf l⟩ : HgOp) = o → decodeCirc w l = .ok i) (h3 : fn < 16 := by decide) : Statement i :=
  of_circ (l := feLit (gn o.gx) 0 0) he (fun w ht hf h4 h16 hb => hd w _ hf h4 h16
    ((lit_27 (by decide) (by decide)).trans (show field 0 0 27 = 0 by decide))
    (by rw [ht, hb, lit_gx o.gx (by decide) (by decide)])) (lit_lt (gn_lt _) (by decide) (by decide)) h3

theorem of_cpy {i : Instr} {o : CpyOp} {fn : Nat} (he : encodeWord i = some (encCpy fn o))
    (hd : ∀ w, field w 0 4 = fn → (⟨tagOf w, taOf w, tbOf w⟩ : CpyOp) = o → decodeCp w 0 = .ok i) (h3 : fn < 16 := by decide) :
    Statement i :=
  of_encE he (fun w h => hd w h.fn (by rw [h.tag, taOf, bv_eq h.fA, tbOf, bv_eq h.fB])) (by decide) o.td.isLt o.ts.isLt
    (by decide) h3

theorem of_idx {i : Instr} {o : IdxOp} {fn : Nat} (he : encodeWord i = some (encIdx fn o))
    (hd : ∀ w, field w 0 4 = fn → (⟨tagOf w, taOf w, tbOf w, tcOf w⟩ : IdxOp) = o → decodeCp w 0 = .ok i)
    (h3 : fn < 16 := by decide) : Statement i :=
  of_encE he (fun w h => hd w h.fn (by rw [h.tag, taOf, bv_eq h.fA, tbOf, bv_eq h.fB, tcOf, bv_eq h.fC])) (by decide) o.td.isLt
    o.ts.isLt o.ti.isLt h3

/-- An accumulator in TC. -/
theorem acc_low {w : Nat} {ct : Tag} {ta tb fn : Nat} {acc : BitVec 3} (h : IsE w ct ta tb acc.toNat fn) :
    bv w 4 3 = acc ∧ decide (field w 4 6 < 8) = true :=
  ⟨bv_eq (h.fC3.trans (Nat.mod_eq_of_lt acc.isLt)), by rw [h.fC]; exact decide_eq_true acc.isLt⟩

theorem acc_lt (a : BitVec 3) : a.toNat < 64 := by have := a.isLt; omega

theorem of_mxm {i : Instr} {o : MxmOp} {fn : Nat} (he : encodeWord i = some (encE o.ct 0x61 o.ta.toNat o.tb.toNat o.acc.toNat fn, some 0))
    (hd : ∀ w, field w 0 4 = fn → decide (field w 4 6 < 8) = true → (⟨tagOf w, taOf w, tbOf w, bv w 4 3⟩ : MxmOp) = o →
      decodeMx w 0 = .ok i) (h3 : fn < 16 := by decide) : Statement i :=
  of_encE he (fun w h => hd w h.fn (acc_low h).2 (by rw [h.tag, taOf, bv_eq h.fA, tbOf, bv_eq h.fB, (acc_low h).1])) (by decide)
    o.ta.isLt o.tb.isLt (acc_lt _) h3

/-- The fields of a literal with GY 0. -/
theorem lit_off {gx : Nat} (f : BitVec 22) : bv (feLit gx 0 f.toNat) 0 22 = f :=
  bv_eq ((lit_low f.isLt (Nat.le_refl 22)).trans (field_zero_lo f.isLt))

theorem of_tmemLit {i : Instr} {o : TmemOp} {fn l : Nat} (he : encodeWord i = some (encE o.ct 0x60 o.t.toNat 0 0 fn, some l))
    (h22 : field l 22 5 = 0) (hl : l < 2 ^ 32) (hx : gxOf l = o.gx) (ho : bv l 0 22 = o.off)
    (hd : ∀ w l, field w 0 4 = fn → field l 22 5 = 0 → (⟨tagOf w, taOf w, gxOf l, bv l 0 22⟩ : TmemOp) = o →
      decodeTens w l = .ok i) (h3 : fn < 16) : Statement i :=
  of_encE he (fun w h => hd w l h.fn h22 (by rw [h.tag, taOf, bv_eq h.fA, hx, ho])) hl o.t.isLt (by decide) (by decide) h3

theorem of_tmem {i : Instr} {o : TmemOp} {fn : Nat}
    (he : encodeWord i = some (encE o.ct 0x60 o.t.toNat 0 0 fn, some (feLit (gn o.gx) 0 o.off.toNat)))
    (hd : ∀ w l, field w 0 4 = fn → field l 22 5 = 0 → (⟨tagOf w, taOf w, gxOf l, bv l 0 22⟩ : TmemOp) = o →
      decodeTens w l = .ok i) (h3 : fn < 16 := by decide) : Statement i :=
  of_tmemLit he (lit_gy0 o.off.isLt) (lit_lt (gn_lt o.gx) (by decide) o.off.isLt) (lit_gx o.gx (by decide) o.off.isLt)
    (lit_off o.off) hd h3

/-- The literal of ARD and RSC. -/
theorem collFn_dec (l : Nat) (f : CollFn) (h : field l 0 2 = collBits f) (k : CollFn → Instr) : decodeCollFn l k = .ok (k f) := by
  unfold decodeCollFn
  rw [h]
  cases f <;> rfl

theorem collBits_small (f : CollFn) : collBits f < 2 ^ 22 ∧ field (collBits f) 2 20 = 0 ∧ field (collBits f) 0 2 = collBits f := by
  cases f <;> decide

theorem of_redColl {i : Instr} {o : RedCollOp} {fn : Nat} (he : encodeWord i = some (encRedColl fn o))
    (hd : ∀ w l, field w 0 4 = fn → field w 4 6 = 0 → field l 2 20 = 0 → field l 0 2 = collBits o.op →
      (⟨tagOf w, taOf w, tbOf w, gxOf l, gyOf l, o.op⟩ : RedCollOp) = o → decodeColl w l = .ok i) (h3 : fn < 16 := by decide) :
    Statement i :=
  have hc := collBits_small o.op
  of_encE (l := feLit (gn o.gx) (gn o.gy) (collBits o.op)) he (fun w h => hd w _ h.fn h.fC
    ((lit_low hc.1 (by decide)).trans hc.2.1) ((lit_low hc.1 (by decide)).trans hc.2.2) (by
      rw [h.tag, taOf, bv_eq h.fA, tbOf, bv_eq h.fB, lit_gx o.gx (gn_lt _) hc.1, lit_gy o.gy hc.1]))
    (lit_lt (gn_lt _) (gn_lt _) hc.1) o.td.isLt o.ts.isLt (by decide) h3

theorem of_coll {i : Instr} {o : CollOp} {fn : Nat} (he : encodeWord i = some (encColl fn o))
    (hd : ∀ w l, field w 0 4 = fn → field w 4 6 = 0 → field l 0 22 = 0 →
      (⟨tagOf w, taOf w, tbOf w, gxOf l, gyOf l⟩ : CollOp) = o → decodeColl w l = .ok i) (h3 : fn < 16 := by decide) :
    Statement i :=
  of_encE (l := feLit (gn o.gx) (gn o.gy) 0) he (fun w h => hd w _ h.fn h.fC
    ((lit_low (by decide) (by decide)).trans (show field 0 0 22 = 0 by decide)) (by
      rw [h.tag, taOf, bv_eq h.fA, tbOf, bv_eq h.fB, lit_gx o.gx (gn_lt _) (by decide), lit_gy o.gy (by decide)]))
    (lit_lt (gn_lt _) (gn_lt _) (by decide)) o.td.isLt o.ts.isLt (by decide) h3

theorem of_q {i : Instr} {o : QOp} {fn : Nat} (he : encodeWord i = some (encR o.ct 0x18 (gn o.d) (24 + o.q.toNat) 0 fn, none))
    (hd : ∀ w, field w 0 7 = fn → decide (24 ≤ field w 12 5) = true →
      (⟨tagOf w, dOf w, BitVec.ofNat 3 (field w 12 5 - 24)⟩ : QOp) = o → decodeMajor 0x18 w none = .ok i) (hf : fn < 128 := by decide) :
    Statement i :=
  have hq : 24 + o.q.toNat < 32 := by have := o.q.isLt; omega
  have ⟨g, hg⟩ : ∃ g : BitVec 5, gn g = 24 + o.q.toNat := ⟨BitVec.ofNat 5 (24 + o.q.toNat), by
    rw [gn, BitVec.toNat_ofNat, Nat.mod_eq_of_lt hq]⟩
  of_encR (ct := o.ct) (d := o.d) (a := g) (b := 0) (he.trans (by rw [hg, gn_zero])) (fun w h => by
    have ha : field w 12 5 = 24 + o.q.toNat := h.a'.trans hg
    exact hd w ((h.fn 0 7 (by decide)).trans (field_zero_lo hf)) (by rw [ha]; exact decide_eq_true (Nat.le_add_right _ _)) (by
      rw [h.tag, h.d, ha, Nat.add_sub_cancel_left, BitVec.ofNat_toNat, BitVec.setWidth_eq])) hf

theorem of_mmm {i : Instr} {o : MmmOp} {fn : Nat}
    (he : encodeWord i = some (encV o.ct 0x47 o.md.toNat o.ma.toNat o.mb.toNat 0 fn false, none))
    (hd : ∀ w, field w 0 4 = fn →
      (decide (field w 17 5 < 8) && decide (field w 12 5 < 8) && decide (field w 7 5 < 8)) = true →
      (⟨tagOf w, bv w 17 3, bv w 12 3, bv w 7 3⟩ : MmmOp) = o → decodeMask w = .ok i) (hf : fn < 16 := by decide) : Statement i :=
  of_mask he (fun w h h0 => hd w h0 (by rw [(mask_low h.v).2, (mask_low h.a).2, (mask_low h.b).2]; rfl)
    (by rw [h.tag, (mask_low h.v).1, (mask_low h.a).1, (mask_low h.b).1])) (toNat3_lt _) (toNat3_lt _) (toNat3_lt _) hf

theorem fenceBits (sc : Bool) (p : Scope) : 4 * b2n sc + scopeBits p < 2 ^ 3 ∧ field (4 * b2n sc + scopeBits p) 2 1 = b2n sc ∧
    field (4 * b2n sc + scopeBits p) 0 2 = scopeBits p := by
  cases sc <;> cases p <;> decide

theorem engFields (e : Engine) : field (engBits e) 3 9 = 0 ∧ field (engBits e) 0 3 = engBits e := by cases e <;> decide

theorem vcmpBits (t : VcmpTy) (k : VcmpCond) : 4 * vcmpTyBits t + vcmpCondBits k < 16 ∧
    field (4 * vcmpTyBits t + vcmpCondBits k) 2 2 = vcmpTyBits t ∧ field (4 * vcmpTyBits t + vcmpCondBits k) 0 2 = vcmpCondBits k := by
  cases t <;> cases k <;> decide

theorem vredFields (f : VredFn) : vredBits f < 2 ^ 4 := by cases f <;> decide

theorem tmodFields (f : TmodField) (a : Bool) : tmodBits f + 16 * b2n a < 2 ^ 22 ∧ field (tmodBits f + 16 * b2n a) 5 17 = 0 ∧
    field (tmodBits f + 16 * b2n a) 4 1 = b2n a ∧ field (tmodBits f + 16 * b2n a) 0 4 = tmodBits f ∧
    tmodFieldOf (tmodBits f) = some f := by
  cases f <;> cases a <;> decide

theorem mxdFields (i z : Bool) : b2n i + 2 * b2n z < 4 ∧ bitAt (b2n i + 2 * b2n z) 0 = i ∧ bitAt (b2n i + 2 * b2n z) 1 = z := by
  cases i <;> cases z <;> decide

theorem attFields (o s : BitVec 3) (f l : Bool) :
    o.toNat + 8 * s.toNat + 64 * b2n f + 128 * b2n l < 2 ^ 22 ∧
    field (o.toNat + 8 * s.toNat + 64 * b2n f + 128 * b2n l) 8 19 = 0 ∧
    field (o.toNat + 8 * s.toNat + 64 * b2n f + 128 * b2n l) 0 3 = o.toNat ∧
    field (o.toNat + 8 * s.toNat + 64 * b2n f + 128 * b2n l) 3 3 = s.toNat ∧
    field (o.toNat + 8 * s.toNat + 64 * b2n f + 128 * b2n l) 6 1 = b2n f ∧
    field (o.toNat + 8 * s.toNat + 64 * b2n f + 128 * b2n l) 7 1 = b2n l := by
  have := o.isLt; have := s.isLt; have := b2n_lt f; have := b2n_lt l
  unfold field
  omega

theorem rotaFields (o s : BitVec 3) (f : Bool) :
    o.toNat + 8 * s.toNat + 64 * b2n f < 2 ^ 22 ∧ field (o.toNat + 8 * s.toNat + 64 * b2n f) 7 20 = 0 ∧
    field (o.toNat + 8 * s.toNat + 64 * b2n f) 0 3 = o.toNat ∧ field (o.toNat + 8 * s.toNat + 64 * b2n f) 3 3 = s.toNat ∧
    field (o.toNat + 8 * s.toNat + 64 * b2n f) 6 1 = b2n f := by
  have := o.isLt; have := s.isLt; have := b2n_lt f
  unfold field
  omega

/-! ## Constructors whose literal is taken as opaque -/

theorem of_tmodLit {o : TmodOp} {l : Nat} (he : encodeWord (.tmod o) = some (encE o.ct 0x60 o.t.toNat 0 0 2, some l))
    (h22 : field l 22 5 = 0) (hl : l < 2 ^ 32) (hx : gxOf l = o.gx) (h5 : field l 5 17 = 0) (h4 : bitAt l 4 = o.add)
    (h0 : tmodFieldOf (field l 0 4) = some o.f) : Statement (.tmod o) :=
  of_encE he (fun w h => by
    show decodeTens w l = _
    rw [decodeTens, h22, need_true (by rfl), h.fn]
    show need (decide (field l 5 17 = 0)) _ _ = _
    rw [h5, need_true (by rfl), h0, h4, h.tag, taOf, bv_eq h.fA, hx]) hl o.t.isLt (by decide) (by decide)

theorem of_copenLit {o : CopenOp} {l : Nat} (he : encodeWord (.copen o) = some (encE o.ct 0x70 o.h.toNat 0 0 0, some l))
    (h0 : field l 0 22 = 0) (hl : l < 2 ^ 32) (hx : gxOf l = o.gx) (hy : gyOf l = o.gy) : Statement (.copen o) :=
  of_circ he (fun w ht hf h4 h16 h3 => by
    rw [decodeCirc, h4, need_true (by rfl), need_true h16, hf]
    show need (decide (field l 0 22 = 0)) _ (.ok (.copen ⟨tagOf w, bv w 16 3, _, _⟩)) = _
    rw [h0, need_true (by rfl), ht, h3, hx, hy]) hl

theorem of_treeLit {o : TreeOp} {l : Nat} (he : encodeWord (.tree o) = some (encE o.ct 0x72 0 0 0 4, some l))
    (h0 : field l 0 22 = 0) (hl : l < 2 ^ 32) (hx : gxOf l = o.gx) (hy : gyOf l = o.gy) : Statement (.tree o) :=
  of_encE he (fun w h => by
    show decodeColl w l = _
    rw [decodeColl, h.fC, need_true (by rfl), h.fn]
    show need (decide (field l 0 22 = 0) && decide (field w 10 12 = 0)) _ _ = _
    rw [h0, h.fAB, need_true (by rfl), h.tag, hx, hy]) hl (by decide) (by decide) (by decide)

/-! ## The constructors -/

theorem add (o : RRR) : Statement (.add o) :=
  of_alu rfl (fun w h e => by rw [decodeAlu, h, e]; rfl)

theorem sub (o : RRR) : Statement (.sub o) :=
  of_alu rfl (fun w h e => by rw [decodeAlu, h, e]; rfl)

theorem mul (o : RRR) : Statement (.mul o) :=
  of_alu rfl (fun w h e => by rw [decodeAlu, h, e]; rfl)

theorem mulh (o : RRR) : Statement (.mulh o) :=
  of_alu rfl (fun w h e => by rw [decodeAlu, h, e]; rfl)

theorem mulhu (o : RRR) : Statement (.mulhu o) :=
  of_alu rfl (fun w h e => by rw [decodeAlu, h, e]; rfl)

theorem div (o : RRR) : Statement (.div o) :=
  of_alu rfl (fun w h e => by rw [decodeAlu, h, e]; rfl)

theorem divu (o : RRR) : Statement (.divu o) :=
  of_alu rfl (fun w h e => by rw [decodeAlu, h, e]; rfl)

theorem rem (o : RRR) : Statement (.rem o) :=
  of_alu rfl (fun w h e => by rw [decodeAlu, h, e]; rfl)

theorem remu (o : RRR) : Statement (.remu o) :=
  of_alu rfl (fun w h e => by rw [decodeAlu, h, e]; rfl)

theorem and (o : RRR) : Statement (.and o) :=
  of_alu rfl (fun w h e => by rw [decodeAlu, h, e]; rfl)

theorem or (o : RRR) : Statement (.or o) :=
  of_alu rfl (fun w h e => by rw [decodeAlu, h, e]; rfl)

theorem xor (o : RRR) : Statement (.xor o) :=
  of_alu rfl (fun w h e => by rw [decodeAlu, h, e]; rfl)

theorem andn (o : RRR) : Statement (.andn o) :=
  of_alu rfl (fun w h e => by rw [decodeAlu, h, e]; rfl)

theorem shl (o : RRR) : Statement (.shl o) :=
  of_alu rfl (fun w h e => by rw [decodeAlu, h, e]; rfl)

theorem shr (o : RRR) : Statement (.shr o) :=
  of_alu rfl (fun w h e => by rw [decodeAlu, h, e]; rfl)

theorem sar (o : RRR) : Statement (.sar o) :=
  of_alu rfl (fun w h e => by rw [decodeAlu, h, e]; rfl)

theorem rol (o : RRR) : Statement (.rol o) :=
  of_alu rfl (fun w h e => by rw [decodeAlu, h, e]; rfl)

theorem min (o : RRR) : Statement (.min o) :=
  of_alu rfl (fun w h e => by rw [decodeAlu, h, e]; rfl)

theorem max (o : RRR) : Statement (.max o) :=
  of_alu rfl (fun w h e => by rw [decodeAlu, h, e]; rfl)

theorem minu (o : RRR) : Statement (.minu o) :=
  of_alu rfl (fun w h e => by rw [decodeAlu, h, e]; rfl)

theorem maxu (o : RRR) : Statement (.maxu o) :=
  of_alu rfl (fun w h e => by rw [decodeAlu, h, e]; rfl)

theorem slt (o : RRR) : Statement (.slt o) :=
  of_alu rfl (fun w h e => by rw [decodeAlu, h, e]; rfl)

theorem sltu (o : RRR) : Statement (.sltu o) :=
  of_alu rfl (fun w h e => by rw [decodeAlu, h, e]; rfl)

theorem seq (o : RRR) : Statement (.seq o) :=
  of_alu rfl (fun w h e => by rw [decodeAlu, h, e]; rfl)

theorem clz (o : RR) : Statement (.clz o) :=
  of_alu1 rfl (fun w h e => by rw [decodeAlu, h, e]; rfl)

theorem ctz (o : RR) : Statement (.ctz o) :=
  of_alu1 rfl (fun w h e => by rw [decodeAlu, h, e]; rfl)

theorem popc (o : RR) : Statement (.popc o) :=
  of_alu1 rfl (fun w h e => by rw [decodeAlu, h, e]; rfl)

theorem bswap (o : RR) : Statement (.bswap o) :=
  of_alu1 rfl (fun w h e => by rw [decodeAlu, h, e]; rfl)

theorem loc (o : RR) : Statement (.loc o) :=
  of_alu1 rfl (fun w h e => by rw [decodeAlu, h, e]; rfl)

theorem sel (o : SelOp) : Statement (.sel o) :=
  of_encR rfl (fun w h => by
    have h0 : bv w 0 5 = o.e := bv_eq ((h.fn 0 5 (by decide)).trans (field_zero_lo (gn_lt _)))
    have h5 : field w 5 2 = 0 := (h.fn 5 2 (by decide)).trans (field_small (gn_lt _))
    show decodeSel w = _
    rw [decodeSel, h5, need_true (by rfl), h.tag, h.d, h.a, h.b, h0]) (by have := gn_lt o.e; omega)

theorem lea (o : LeaOp) : Statement (.lea o) :=
  of_encR rfl (fun w h => by
    have h0 : bv w 0 3 = o.s := bv_eq ((h.fn 0 3 (by decide)).trans (field_zero_lo o.s.isLt))
    have h5 : field w 3 4 = 0 := (h.fn 3 4 (by decide)).trans (field_small o.s.isLt)
    show decodeLea w = _
    rw [decodeLea, h5, need_true (by rfl), h.tag, h.d, h.a, h.b, h0]) (by have := o.s.isLt; omega)

theorem bfx (o : BfOp) : Statement (.bfx o) :=
  fun hw => of_bf rfl (fun w e => by
    show checked (.bfx (bfOf w)) .badRegister = _
    rw [e, checked_ok hw]) (by decide) hw

theorem bfi (o : BfOp) : Statement (.bfi o) :=
  fun hw => of_bf rfl (fun w e => by
    show checked (.bfi (bfOf w)) .badRegister = _
    rw [e, checked_ok hw]) (by decide) hw

theorem addImm (o : ImmOp) : Statement (.addImm o) :=
  of_imm (k := .addImm) rfl rfl (fun _ _ => rfl)

theorem mulImm (o : ImmOp) : Statement (.mulImm o) :=
  of_imm (k := .mulImm) rfl rfl (fun _ _ => rfl)

theorem andImm (o : ImmOp) : Statement (.andImm o) :=
  of_imm (k := .andImm) rfl rfl (fun _ _ => rfl)

theorem orImm (o : ImmOp) : Statement (.orImm o) :=
  of_imm (k := .orImm) rfl rfl (fun _ _ => rfl)

theorem xorImm (o : ImmOp) : Statement (.xorImm o) :=
  of_imm (k := .xorImm) rfl rfl (fun _ _ => rfl)

theorem shlImm (o : ShiftOp) : Statement (.shlImm o) :=
  of_shift (k := .shlImm) rfl rfl (fun _ _ => rfl)

theorem shrImm (o : ShiftOp) : Statement (.shrImm o) :=
  of_shift (k := .shrImm) rfl rfl (fun _ _ => rfl)

theorem sarImm (o : ShiftOp) : Statement (.sarImm o) :=
  of_shift (k := .sarImm) rfl rfl (fun _ _ => rfl)

theorem sltImm (o : ImmOp) : Statement (.sltImm o) :=
  of_imm (k := .sltImm) rfl rfl (fun _ _ => rfl)

theorem sltuImm (o : ImmOp) : Statement (.sltuImm o) :=
  of_imm (k := .sltuImm) rfl rfl (fun _ _ => rfl)

theorem seqImm (o : ImmOp) : Statement (.seqImm o) :=
  of_imm (k := .seqImm) rfl rfl (fun _ _ => rfl)

theorem li (o : LiOp) : Statement (.li o) :=
  of_encI (a := 0) rfl (fun w h => by
    show withImm w o.i.lit (fun i => .li ⟨tagOf w, dOf w, i⟩) = _
    rw [withImm_lit o.i (h.twelve (imm_bits_lt _)), h.tag, h.d]) (imm_lit_lt _) (imm_xw _) (imm_bits_lt _)

theorem lui (o : ImmOp) : Statement (.lui o) :=
  of_imm (k := .lui) rfl rfl (fun _ _ => rfl)

theorem fadd (o : FpRRR) : Statement (.fadd o) :=
  of_fp3 rfl (fun w h e => by rw [decodeFp, h]; exact congrArg (fun o => Except.ok (Instr.fadd o)) e)

theorem fsub (o : FpRRR) : Statement (.fsub o) :=
  of_fp3 rfl (fun w h e => by rw [decodeFp, h]; exact congrArg (fun o => Except.ok (Instr.fsub o)) e)

theorem fmul (o : FpRRR) : Statement (.fmul o) :=
  of_fp3 rfl (fun w h e => by rw [decodeFp, h]; exact congrArg (fun o => Except.ok (Instr.fmul o)) e)

theorem fmin (o : RRR) : Statement (.fmin o) :=
  of_fpRne3 rfl (fun w h h0 e => by rw [decodeFp, h, h0, e]; rfl)

theorem fmax (o : RRR) : Statement (.fmax o) :=
  of_fpRne3 rfl (fun w h h0 e => by rw [decodeFp, h, h0, e]; rfl)

theorem fcmp (o : FcmpOp) : Statement (.fcmp o) :=
  of_encR rfl (fun w h => by
    have h0 : field w 0 5 = fcondBits o.k := (h.fn 0 5 (by decide)).trans (field_zero_lo (fcondBits_lt o.k))
    have h5 : field w 5 2 = 0 := (h.fn 5 2 (by decide)).trans (field_small (fcondBits_lt o.k))
    obtain ⟨ct, d, a, b, k⟩ := o
    show decodeFp w = _
    rw [decodeFp, h0, h5, h.tag, h.d, h.a, h.b]
    cases k <;> rfl) (by have := fcondBits_lt o.k; omega)

theorem fcvtI32F32 (o : FpRR) : Statement (.fcvtI32F32 o) :=
  of_fp2 rfl (fun w h e => by rw [decodeFp, h]; exact congrArg (fun o => Except.ok (Instr.fcvtI32F32 o)) e)

theorem fcvtF32I32 (o : FpRR) : Statement (.fcvtF32I32 o) :=
  of_fp2 rfl (fun w h e => by rw [decodeFp, h]; exact congrArg (fun o => Except.ok (Instr.fcvtF32I32 o)) e)

theorem fcvtBf16F32 (o : FpRR) : Statement (.fcvtBf16F32 o) :=
  of_fp2 rfl (fun w h e => by rw [decodeFp, h]; exact congrArg (fun o => Except.ok (Instr.fcvtBf16F32 o)) e)

theorem fcvtF32Bf16 (o : RR) : Statement (.fcvtF32Bf16 o) :=
  of_fpRne2 rfl (fun w h h0 e => by rw [decodeFp, h, h0, e]; rfl)

theorem fcvtF16F32 (o : FpRR) : Statement (.fcvtF16F32 o) :=
  of_fp2 rfl (fun w h e => by rw [decodeFp, h]; exact congrArg (fun o => Except.ok (Instr.fcvtF16F32 o)) e)

theorem fcvtF32F16 (o : RR) : Statement (.fcvtF32F16 o) :=
  of_fpRne2 rfl (fun w h h0 e => by rw [decodeFp, h, h0, e]; rfl)

theorem fcvtL6F32 (o : RR) : Statement (.fcvtL6F32 o) :=
  of_fpRne2 rfl (fun w h h0 e => by rw [decodeFp, h, h0, e]; rfl)

theorem fcvtF32L6 (o : RR) : Statement (.fcvtF32L6 o) :=
  of_fpRne2 rfl (fun w h h0 e => by rw [decodeFp, h, h0, e]; rfl)

theorem ffma (o : FfmaOp) : Statement (.ffma o) :=
  of_encR rfl (fun w h => by
    have h0 : bv w 0 5 = o.e :=
      bv_eq ((h.fn 0 5 (by decide)).trans ((field_below (gn_lt _) (by decide)).trans (field_zero_lo (gn_lt _))))
    have h5 : field w 5 2 = rndBits o.r := (h.fn 5 2 (by decide)).trans (field_at (gn_lt _) (rndBits_lt _))
    show Except.ok (Instr.ffma ⟨tagOf w, dOf w, aOf w, bOf w, bv w 0 5, rndOf (field w 5 2)⟩) = _
    rw [h0, h5, rndOf_rndBits, h.tag, h.d, h.a, h.b]) (by have := gn_lt o.e; have := rndBits_lt o.r; omega)

theorem br (o : BrOp) : Statement (.br o) :=
  of_encB (a := 0) rfl (fun w h => by
    show decodeBr w _ = _
    rw [decodeBr, h.cnd]
    show withOff w o.o.lit (fun i => .br ⟨tagOf w, i⟩) = _
    rw [withOff_enc o.o h, h.tag])

theorem bc (o : BcOp) : Statement (.bc o) :=
  of_encB rfl (fun w h => by
    have hk := withOff_enc o.o h (fun x => .bc ⟨o.ct, o.a, o.k, x⟩)
    obtain ⟨ct, a, k, x⟩ := o
    show decodeBr w _ = _
    rw [decodeBr, h.cnd, h.tag, h.a]
    cases k <;> exact hk) (by have := condBits_lt o.k; omega)

theorem loop (o : LoopOp) : Statement (.loop o) := by
  intro hw
  refine of_encB rfl (fun w h => ?_) (by decide) (by decide) hw
  have hr : (decide (1 ≤ gn o.a) && decide (gn o.a ≤ 23)) = true := hw
  show decodeLoop w _ = _
  rw [decodeLoop, h.cnd, need_true (by rfl), h.a', need_true hr, withOff_enc o.o h, h.tag, h.a]

theorem call (o : BrOp) : Statement (.call o) :=
  of_encB (a := 0) rfl (fun w h => by
    show decodeCall w _ = _
    rw [decodeCall, h.cnd, need_true (by rfl), withOff_enc o.o h, h.tag])

theorem jr (o : ROp) : Statement (.jr o) :=
  of_encR (d := 0) (b := 0) rfl (fun w h => by
    show decodeJump w = _
    rw [decodeJump, (h.fn 0 7 (by decide)).trans (show field 0 0 7 = 0 by decide), h.tag, h.a]; rfl)

theorem callr (o : ROp) : Statement (.callr o) :=
  of_encR (d := 0) (b := 0) rfl (fun w h => by
    show decodeJump w = _
    rw [decodeJump, (h.fn 0 7 (by decide)).trans (show field 1 0 7 = 1 by decide), h.tag, h.a]; rfl)

theorem ret (o : TagOp) : Statement (.ret o) :=
  of_encR (d := 0) (a := 0) (b := 0) rfl (fun w h => by
    show decodeJump w = _
    rw [decodeJump, (h.fn 0 7 (by decide)).trans (show field 2 0 7 = 2 by decide), h.tag]; rfl)

theorem qpeek (o : QOp) : Statement (.qpeek o) :=
  of_q rfl (fun w h0 h24 e => by
    show decodeQueue w = _
    rw [decodeQueue, h0]
    exact (need_true h24).trans (congrArg (fun o => Except.ok (Instr.qpeek o)) e))

theorem qcnt (o : QOp) : Statement (.qcnt o) :=
  of_q rfl (fun w h0 h24 e => by
    show decodeQueue w = _
    rw [decodeQueue, h0]
    exact (need_true h24).trans (congrArg (fun o => Except.ok (Instr.qcnt o)) e))

theorem srd (o : SysOp) : Statement (.srd o) :=
  fun hw => of_sys rfl (fun w h e => by
    rw [decodeSys, h]
    show checked (.srd ⟨tagOf w, dOf w, bv w 5 12⟩) _ = _
    rw [e, checked_ok hw]) (by decide) hw

theorem swr (o : SysOp) : Statement (.swr o) :=
  fun hw => of_sys rfl (fun w h e => by
    rw [decodeSys, h]
    show checked (.swr ⟨tagOf w, dOf w, bv w 5 12⟩) _ = _
    rw [e, checked_ok hw]) (by decide) hw

theorem trap (o : CodeOp) : Statement (.trap o) :=
  of_code rfl (fun w h e => by rw [decodeSys, h]; exact congrArg (fun o => Except.ok (Instr.trap o)) e)

theorem exit (o : TagOp) : Statement (.exit o) :=
  of_tag rfl (fun w h h0 e => by
    show decodeSys w = _
    rw [decodeSys, h]
    show need (decide (bv w 5 12 = 0)) _ (.ok (.exit ⟨tagOf w⟩)) = _
    rw [bv, h0, e]; rfl)

theorem nop (o : TagOp) : Statement (.nop o) :=
  of_tag rfl (fun w h h0 e => by
    show decodeSys w = _
    rw [decodeSys, h]
    show need (decide (bv w 5 12 = 0)) _ (.ok (.nop ⟨tagOf w⟩)) = _
    rw [bv, h0, e]; rfl)

theorem hint (o : CodeOp) : Statement (.hint o) :=
  of_code rfl (fun w h e => by rw [decodeSys, h]; exact congrArg (fun o => Except.ok (Instr.hint o)) e)

theorem pmark (o : CodeOp) : Statement (.pmark o) :=
  of_code rfl (fun w h e => by rw [decodeSys, h]; exact congrArg (fun o => Except.ok (Instr.pmark o)) e)

theorem ld (o : LoadOp) : Statement (.ld o) :=
  of_load (k := .ld) rfl rfl (fun _ _ => rfl)

theorem lds (o : LoadOp) : Statement (.lds o) :=
  of_load (k := .lds) rfl rfl (fun _ _ => rfl)

theorem ldAq (o : LoadOp) : Statement (.ldAq o) :=
  of_load (k := .ldAq) rfl rfl (fun _ _ => rfl)

theorem st (o : StoreOp) : Statement (.st o) :=
  of_store (k := .st) rfl rfl (fun _ _ => rfl)

theorem stRl (o : StoreOp) : Statement (.stRl o) :=
  of_store (k := .stRl) rfl rfl (fun _ _ => rfl)

theorem amo (o : AmoOp) : Statement (.amo o) :=
  of_amo (k := .amo) rfl rfl (fun _ _ => rfl)

theorem amoRl (o : AmoOp) : Statement (.amoRl o) :=
  of_amo (k := .amoRl) rfl rfl (fun _ _ => rfl)

theorem cas (o : CasOp) : Statement (.cas o) :=
  fun hw => of_encM rfl (fun w h => decodeCas_enc o h hw) (offLit_lt _) (offLit_isSome _) (szBits_lt _) (casMod _ _).2.2.2
    (by decide) hw

theorem red (o : RedOp) : Statement (.red o) :=
  fun hw => of_encM (land := 0) rfl (fun w h => decodeRed_enc o h hw) (offLit_lt _) (offLit_isSome _) (szBits_lt _)
    (amoMod_lt _ _) (by decide) hw

theorem pref (o : AddrOp) : Statement (.pref o) :=
  of_addr (k := .pref) rfl rfl (fun _ _ => rfl)

theorem cflush (o : AddrOp) : Statement (.cflush o) :=
  of_addr (k := .cflush) rfl rfl (fun _ _ => rfl)

theorem pgreq (o : AddrOp) : Statement (.pgreq o) :=
  of_addr (k := .pgreq) rfl rfl (fun _ _ => rfl)

theorem fence (o : FenceOp) : Statement (.fence o) :=
  of_encS (d := 0) rfl (fun w h => by
    have hb := fenceBits o.sc o.scope
    have h8 : field w 8 9 = 0 := (h.sys 3 9 (by decide)).trans (field_small hb.1)
    have h7 : bitAt w 7 = o.sc := bit_b2n ((h.sys 2 1 (by decide)).trans hb.2.1)
    have h5 : field w 5 2 = scopeBits o.scope := (h.sys 0 2 (by decide)).trans hb.2.2
    show decodeSync w = _
    rw [decodeSync, h.fn, h8, h7, h5, scopeOf_scopeBits, h.tag]; rfl) (by have := (fenceBits o.sc o.scope).1; omega)

theorem barArr (o : BarOp) : Statement (.barArr o) :=
  of_bar (k := .barArr) rfl rfl (fun w h => by show decodeSync w = _; rw [decodeSync, h]; rfl)

theorem barWait (o : BarOp) : Statement (.barWait o) :=
  of_bar (k := .barWait) rfl rfl (fun w h => by show decodeSync w = _; rw [decodeSync, h]; rfl)

theorem step (o : BarOp) : Statement (.step o) :=
  of_bar (k := .step) rfl rfl (fun w h => by show decodeSync w = _; rw [decodeSync, h]; rfl)

theorem succ (o : TagOp) : Statement (.succ o) :=
  of_tag rfl (fun w h h0 e => by
    show decodeSync w = _
    rw [decodeSync, h, h0, e]; rfl)

theorem waitvis (o : TagOp) : Statement (.waitvis o) :=
  of_tag rfl (fun w h h0 e => by
    show decodeSync w = _
    rw [decodeSync, h, h0, e]; rfl)

theorem wait (o : WaitOp) : Statement (.wait o) :=
  of_encS rfl (fun w h => by
    have hb := engFields o.eng
    have h8 : field w 8 9 = 0 := (h.sys 3 9 (by decide)).trans hb.1
    have h5 : field w 5 3 = engBits o.eng := (h.sys 0 3 (by decide)).trans hb.2
    obtain ⟨ct, d, eng⟩ := o
    show decodeSync w = _
    rw [decodeSync, h.fn]
    show decodeWait w = _
    rw [decodeWait, h8, need_true (by rfl), h5, h.tag, h.d]
    cases eng <;> rfl) (by have := engBits_lt o.eng; omega)

theorem launch (o : AbOp) : Statement (.launch o) :=
  of_encR (d := 0) rfl (fun w h => by
    show decodeMsg w = _
    rw [decodeMsg, (h.fn 0 7 (by decide)).trans (show field 0 0 7 = 0 by decide), h.tag, h.a, h.b]; rfl)

theorem qtail (o : AbOp) : Statement (.qtail o) :=
  of_encR (d := 0) rfl (fun w h => by
    show decodeMsg w = _
    rw [decodeMsg, (h.fn 0 7 (by decide)).trans (show field 1 0 7 = 1 by decide), h.tag, h.a, h.b]; rfl)

theorem vaddF32 (o : VfOp) : Statement (.vaddF32 o) :=
  of_vf rfl (fun w h e => by show withRnd _ (decodeVfF32 w) = _; rw [withRnd_lit, decodeVfF32, h, e]; rfl)

theorem vsubF32 (o : VfOp) : Statement (.vsubF32 o) :=
  of_vf rfl (fun w h e => by show withRnd _ (decodeVfF32 w) = _; rw [withRnd_lit, decodeVfF32, h, e]; rfl)

theorem vmulF32 (o : VfOp) : Statement (.vmulF32 o) :=
  of_vf rfl (fun w h e => by show withRnd _ (decodeVfF32 w) = _; rw [withRnd_lit, decodeVfF32, h, e]; rfl)

theorem vfmaF32 (o : VfOp) : Statement (.vfmaF32 o) :=
  of_vf rfl (fun w h e => by show withRnd _ (decodeVfF32 w) = _; rw [withRnd_lit, decodeVfF32, h, e]; rfl)

theorem vminF32 (o : VfOp) : Statement (.vminF32 o) :=
  of_vf rfl (fun w h e => by show withRnd _ (decodeVfF32 w) = _; rw [withRnd_lit, decodeVfF32, h, e]; rfl)

theorem vmaxF32 (o : VfOp) : Statement (.vmaxF32 o) :=
  of_vf rfl (fun w h e => by show withRnd _ (decodeVfF32 w) = _; rw [withRnd_lit, decodeVfF32, h, e]; rfl)

theorem vabsF32 (o : Vf1Op) : Statement (.vabsF32 o) :=
  of_vf1 rfl (fun w h e => by show withRnd _ (decodeVfF32 w) = _; rw [withRnd_lit, decodeVfF32, h, e]; rfl)

theorem vnegF32 (o : Vf1Op) : Statement (.vnegF32 o) :=
  of_vf1 rfl (fun w h e => by show withRnd _ (decodeVfF32 w) = _; rw [withRnd_lit, decodeVfF32, h, e]; rfl)

theorem vaddBf16 (o : VfOp) : Statement (.vaddBf16 o) :=
  of_vf rfl (fun w h e => by show withRnd _ (decodeVfBf16 w) = _; rw [withRnd_lit, decodeVfBf16, h, e]; rfl)

theorem vsubBf16 (o : VfOp) : Statement (.vsubBf16 o) :=
  of_vf rfl (fun w h e => by show withRnd _ (decodeVfBf16 w) = _; rw [withRnd_lit, decodeVfBf16, h, e]; rfl)

theorem vmulBf16 (o : VfOp) : Statement (.vmulBf16 o) :=
  of_vf rfl (fun w h e => by show withRnd _ (decodeVfBf16 w) = _; rw [withRnd_lit, decodeVfBf16, h, e]; rfl)

theorem vfmaBf16 (o : VfOp) : Statement (.vfmaBf16 o) :=
  of_vf rfl (fun w h e => by show withRnd _ (decodeVfBf16 w) = _; rw [withRnd_lit, decodeVfBf16, h, e]; rfl)

theorem vminBf16 (o : VfOp) : Statement (.vminBf16 o) :=
  of_vf rfl (fun w h e => by show withRnd _ (decodeVfBf16 w) = _; rw [withRnd_lit, decodeVfBf16, h, e]; rfl)

theorem vmaxBf16 (o : VfOp) : Statement (.vmaxBf16 o) :=
  of_vf rfl (fun w h e => by show withRnd _ (decodeVfBf16 w) = _; rw [withRnd_lit, decodeVfBf16, h, e]; rfl)

theorem vabsBf16 (o : Vf1Op) : Statement (.vabsBf16 o) :=
  of_vf1 rfl (fun w h e => by show withRnd _ (decodeVfBf16 w) = _; rw [withRnd_lit, decodeVfBf16, h, e]; rfl)

theorem vnegBf16 (o : Vf1Op) : Statement (.vnegBf16 o) :=
  of_vf1 rfl (fun w h e => by show withRnd _ (decodeVfBf16 w) = _; rw [withRnd_lit, decodeVfBf16, h, e]; rfl)

theorem vaddF16 (o : VfOp) : Statement (.vaddF16 o) :=
  of_vf rfl (fun w h e => by show withRnd _ (decodeVfF16 w) = _; rw [withRnd_lit, decodeVfF16, h, e]; rfl)

theorem vsubF16 (o : VfOp) : Statement (.vsubF16 o) :=
  of_vf rfl (fun w h e => by show withRnd _ (decodeVfF16 w) = _; rw [withRnd_lit, decodeVfF16, h, e]; rfl)

theorem vmulF16 (o : VfOp) : Statement (.vmulF16 o) :=
  of_vf rfl (fun w h e => by show withRnd _ (decodeVfF16 w) = _; rw [withRnd_lit, decodeVfF16, h, e]; rfl)

theorem vfmaF16 (o : VfOp) : Statement (.vfmaF16 o) :=
  of_vf rfl (fun w h e => by show withRnd _ (decodeVfF16 w) = _; rw [withRnd_lit, decodeVfF16, h, e]; rfl)

theorem vminF16 (o : VfOp) : Statement (.vminF16 o) :=
  of_vf rfl (fun w h e => by show withRnd _ (decodeVfF16 w) = _; rw [withRnd_lit, decodeVfF16, h, e]; rfl)

theorem vmaxF16 (o : VfOp) : Statement (.vmaxF16 o) :=
  of_vf rfl (fun w h e => by show withRnd _ (decodeVfF16 w) = _; rw [withRnd_lit, decodeVfF16, h, e]; rfl)

theorem vabsF16 (o : Vf1Op) : Statement (.vabsF16 o) :=
  of_vf1 rfl (fun w h e => by show withRnd _ (decodeVfF16 w) = _; rw [withRnd_lit, decodeVfF16, h, e]; rfl)

theorem vnegF16 (o : Vf1Op) : Statement (.vnegF16 o) :=
  of_vf1 rfl (fun w h e => by show withRnd _ (decodeVfF16 w) = _; rw [withRnd_lit, decodeVfF16, h, e]; rfl)

theorem vaddI32 (o : VOp) : Statement (.vaddI32 o) :=
  of_v rfl (fun w h e => by show decodeVi32 w = _; rw [decodeVi32, h, e]; rfl)

theorem vsubI32 (o : VOp) : Statement (.vsubI32 o) :=
  of_v rfl (fun w h e => by show decodeVi32 w = _; rw [decodeVi32, h, e]; rfl)

theorem vmulI32 (o : VOp) : Statement (.vmulI32 o) :=
  of_v rfl (fun w h e => by show decodeVi32 w = _; rw [decodeVi32, h, e]; rfl)

theorem vmulhI32 (o : VOp) : Statement (.vmulhI32 o) :=
  of_v rfl (fun w h e => by show decodeVi32 w = _; rw [decodeVi32, h, e]; rfl)

theorem vminI32 (o : VOp) : Statement (.vminI32 o) :=
  of_v rfl (fun w h e => by show decodeVi32 w = _; rw [decodeVi32, h, e]; rfl)

theorem vmaxI32 (o : VOp) : Statement (.vmaxI32 o) :=
  of_v rfl (fun w h e => by show decodeVi32 w = _; rw [decodeVi32, h, e]; rfl)

theorem vminuI32 (o : VOp) : Statement (.vminuI32 o) :=
  of_v rfl (fun w h e => by show decodeVi32 w = _; rw [decodeVi32, h, e]; rfl)

theorem vmaxuI32 (o : VOp) : Statement (.vmaxuI32 o) :=
  of_v rfl (fun w h e => by show decodeVi32 w = _; rw [decodeVi32, h, e]; rfl)

theorem vandI32 (o : VOp) : Statement (.vandI32 o) :=
  of_v rfl (fun w h e => by show decodeVi32 w = _; rw [decodeVi32, h, e]; rfl)

theorem vorI32 (o : VOp) : Statement (.vorI32 o) :=
  of_v rfl (fun w h e => by show decodeVi32 w = _; rw [decodeVi32, h, e]; rfl)

theorem vxorI32 (o : VOp) : Statement (.vxorI32 o) :=
  of_v rfl (fun w h e => by show decodeVi32 w = _; rw [decodeVi32, h, e]; rfl)

theorem vandnI32 (o : VOp) : Statement (.vandnI32 o) :=
  of_v rfl (fun w h e => by show decodeVi32 w = _; rw [decodeVi32, h, e]; rfl)

theorem vshlI32 (o : VOp) : Statement (.vshlI32 o) :=
  of_v rfl (fun w h e => by show decodeVi32 w = _; rw [decodeVi32, h, e]; rfl)

theorem vshrI32 (o : VOp) : Statement (.vshrI32 o) :=
  of_v rfl (fun w h e => by show decodeVi32 w = _; rw [decodeVi32, h, e]; rfl)

theorem vsarI32 (o : VOp) : Statement (.vsarI32 o) :=
  of_v rfl (fun w h e => by show decodeVi32 w = _; rw [decodeVi32, h, e]; rfl)

theorem vaddI16 (o : VOp) : Statement (.vaddI16 o) :=
  of_v rfl (fun w h e => by show decodeVi16 w = _; rw [decodeVi16, h, e]; rfl)

theorem vsubI16 (o : VOp) : Statement (.vsubI16 o) :=
  of_v rfl (fun w h e => by show decodeVi16 w = _; rw [decodeVi16, h, e]; rfl)

theorem vmulI16 (o : VOp) : Statement (.vmulI16 o) :=
  of_v rfl (fun w h e => by show decodeVi16 w = _; rw [decodeVi16, h, e]; rfl)

theorem vaddsI16 (o : VOp) : Statement (.vaddsI16 o) :=
  of_v rfl (fun w h e => by show decodeVi16 w = _; rw [decodeVi16, h, e]; rfl)

theorem vsubsI16 (o : VOp) : Statement (.vsubsI16 o) :=
  of_v rfl (fun w h e => by show decodeVi16 w = _; rw [decodeVi16, h, e]; rfl)

theorem vminI16 (o : VOp) : Statement (.vminI16 o) :=
  of_v rfl (fun w h e => by show decodeVi16 w = _; rw [decodeVi16, h, e]; rfl)

theorem vmaxI16 (o : VOp) : Statement (.vmaxI16 o) :=
  of_v rfl (fun w h e => by show decodeVi16 w = _; rw [decodeVi16, h, e]; rfl)

theorem vcmp (o : VcmpOp) : Statement (.vcmp o) :=
  fun hw => of_encV rfl (fun w h => by
    have hb := vcmpBits o.t o.k
    have h2 : field w 2 2 = vcmpTyBits o.t := (h.fn 2 2 (by decide)).trans hb.2.1
    have h0 : field w 0 2 = vcmpCondBits o.k := (h.fn 0 2 (by decide)).trans hb.2.2
    obtain ⟨ct, md, a, b, m, t, k⟩ := o
    show decodeVcmp w = _
    rw [decodeVcmp, (mask_low h.v).2, need_true (by rfl), h2, h0, h.tag, (mask_low h.v).1, aOf, bv_eq h.a, bOf, bv_eq h.b, h.m]
    cases t <;> cases k <;> exact checked_ok hw) (fun _ h => by cases h) rfl (toNat3_lt _) (gn_lt _) (gn_lt _)
    (vcmpBits _ _).1 (by decide) hw

theorem vsel (o : VOp) : Statement (.vsel o) :=
  of_v rfl (fun w h e => by
    show need (decide (field w 0 4 = 0)) _ (.ok (.vsel (vOf w))) = _
    rw [h, e]; rfl)

theorem mand (o : MmmOp) : Statement (.mand o) :=
  fun hw => of_mmm rfl (fun w hf hn e => by
    rw [decodeMask, hf]
    exact (need_true hn).trans (by rw [e]; exact checked_ok hw)) (by decide) hw

theorem mor (o : MmmOp) : Statement (.mor o) :=
  fun hw => of_mmm rfl (fun w hf hn e => by
    rw [decodeMask, hf]
    exact (need_true hn).trans (by rw [e]; exact checked_ok hw)) (by decide) hw

theorem mxor (o : MmmOp) : Statement (.mxor o) :=
  fun hw => of_mmm rfl (fun w hf hn e => by
    rw [decodeMask, hf]
    exact (need_true hn).trans (by rw [e]; exact checked_ok hw)) (by decide) hw

theorem mandn (o : MmmOp) : Statement (.mandn o) :=
  fun hw => of_mmm rfl (fun w hf hn e => by
    rw [decodeMask, hf]
    exact (need_true hn).trans (by rw [e]; exact checked_ok hw)) (by decide) hw

theorem mnot (o : MmOp) : Statement (.mnot o) :=
  fun hw => of_mask rfl (fun w h hf => by
    rw [decodeMask, hf]
    show need (decide (field w 17 5 < 8) && decide (field w 12 5 < 8)) _ (checked (.mnot ⟨tagOf w, bv w 17 3, bv w 12 3⟩) _) = _
    rw [(mask_low h.v).2, (mask_low h.a).2, (mask_low h.v).1, (mask_low h.a).1, h.tag, checked_ok hw]; rfl) (toNat3_lt _)
    (toNat3_lt _) (by decide) (by decide) hw

theorem mpop (o : GmOp) : Statement (.mpop o) :=
  of_mask rfl (fun w h hf => by
    rw [decodeMask, hf]
    show need (decide (field w 12 5 < 8)) _ (.ok (.mpop ⟨tagOf w, dOf w, bv w 12 3⟩)) = _
    rw [(mask_low h.a).2, (mask_low h.a).1, h.tag, dOf, bv_eq h.v]; rfl) (gn_lt _) (toNat3_lt _) (by decide)

theorem mtog (o : GmOp) : Statement (.mtog o) :=
  of_mask rfl (fun w h hf => by
    rw [decodeMask, hf]
    show need (decide (field w 12 5 < 8)) _ (.ok (.mtog ⟨tagOf w, dOf w, bv w 12 3⟩)) = _
    rw [(mask_low h.a).2, (mask_low h.a).1, h.tag, dOf, bv_eq h.v]; rfl) (gn_lt _) (toNat3_lt _) (by decide)

theorem mfromg (o : MgOp) : Statement (.mfromg o) :=
  fun hw => of_mask rfl (fun w h hf => by
    rw [decodeMask, hf]
    show need (decide (field w 17 5 < 8)) _ (checked (.mfromg ⟨tagOf w, bv w 17 3, aOf w⟩) _) = _
    rw [(mask_low h.v).2, (mask_low h.v).1, h.tag, aOf, bv_eq h.a, checked_ok hw]; rfl) (toNat3_lt _) (gn_lt _) (by decide)
    (by decide) hw

theorem vcvtF32I32 (o : Vf1Op) : Statement (.vcvtF32I32 o) :=
  of_vf1 rfl (fun w h e => by show withRnd _ (decodeVcvt w) = _; rw [withRnd_lit, decodeVcvt, h, e]; rfl)

theorem vcvtI32F32 (o : Vf1Op) : Statement (.vcvtI32F32 o) :=
  of_vf1 rfl (fun w h e => by show withRnd _ (decodeVcvt w) = _; rw [withRnd_lit, decodeVcvt, h, e]; rfl)

theorem vcvtF32Bf16 (o : Vf1Op) : Statement (.vcvtF32Bf16 o) :=
  fun hw => of_vf1 rfl (fun w h e => by show withRnd _ (decodeVcvt w) = _; rw [withRnd_lit, decodeVcvt, h, e]; exact checked_ok hw) (by decide) (by decide) hw

theorem vcvtBf16F32 (o : Vf1Op) : Statement (.vcvtBf16F32 o) :=
  of_vf1 rfl (fun w h e => by show withRnd _ (decodeVcvt w) = _; rw [withRnd_lit, decodeVcvt, h, e]; rfl)

theorem vcvtF32F16 (o : Vf1Op) : Statement (.vcvtF32F16 o) :=
  fun hw => of_vf1 rfl (fun w h e => by show withRnd _ (decodeVcvt w) = _; rw [withRnd_lit, decodeVcvt, h, e]; exact checked_ok hw) (by decide) (by decide) hw

theorem vcvtF16F32 (o : Vf1Op) : Statement (.vcvtF16F32 o) :=
  of_vf1 rfl (fun w h e => by show withRnd _ (decodeVcvt w) = _; rw [withRnd_lit, decodeVcvt, h, e]; rfl)

theorem vl6pack (o : Vf1Op) : Statement (.vl6pack o) :=
  fun hw => of_vf1 rfl (fun w h e => by show withRnd _ (decodeVcvt w) = _; rw [withRnd_lit, decodeVcvt, h, e]; exact checked_ok hw) (by decide) (by decide) hw

theorem vl6unpk (o : Vf1Op) : Statement (.vl6unpk o) :=
  of_vf1 rfl (fun w h e => by show withRnd _ (decodeVcvt w) = _; rw [withRnd_lit, decodeVcvt, h, e]; rfl)

theorem vexp2 (o : Vf1Op) : Statement (.vexp2 o) :=
  of_vf1 rfl (fun w h e => by show withRnd _ (decodeVtrans w) = _; rw [withRnd_lit, decodeVtrans, h, e]; rfl)

theorem vlog2 (o : Vf1Op) : Statement (.vlog2 o) :=
  of_vf1 rfl (fun w h e => by show withRnd _ (decodeVtrans w) = _; rw [withRnd_lit, decodeVtrans, h, e]; rfl)

theorem vrcp (o : Vf1Op) : Statement (.vrcp o) :=
  of_vf1 rfl (fun w h e => by show withRnd _ (decodeVtrans w) = _; rw [withRnd_lit, decodeVtrans, h, e]; rfl)

theorem vrsq (o : Vf1Op) : Statement (.vrsq o) :=
  of_vf1 rfl (fun w h e => by show withRnd _ (decodeVtrans w) = _; rw [withRnd_lit, decodeVtrans, h, e]; rfl)

theorem vred (o : VredOp) : Statement (.vred o) :=
  fun hw => of_encV rfl (fun w h => by
    have hb := vredFields o.f
    have h0 : field w 0 4 = vredBits o.f := (h.fn 0 4 (by decide)).trans (field_zero_lo hb)
    obtain ⟨ct, d, a, m, f, x⟩ := o
    show withRnd (rndLit x) (decodeVred w) = _
    rw [withRnd_lit, decodeVred, h0, h.tag, dOf, bv_eq h.v, aOf, bv_eq h.a, h.m]
    cases f <;> exact checked_ok hw) (rndLit_lt _) (rndLit_isSome _) (gn_lt _) (gn_lt _) (by decide) (vredFields _)
    (by decide) hw

theorem vperm (o : VOp) : Statement (.vperm o) :=
  of_v rfl (fun w h e => by show decodePerm w = _; rw [decodePerm, h, e]; rfl)

theorem vbcast (o : VbcastOp) : Statement (.vbcast o) :=
  of_encV rfl (fun w h => by
    show decodePerm w = _
    rw [decodePerm, (h.fn 0 4 (by decide)).trans (show field 1 0 4 = 1 by decide), h.tag, dOf, bv_eq h.v, aOf, bv_eq h.a, h.m]; rfl)
    (fun _ h => by cases h) rfl (gn_lt _) (gn_lt _) (by decide) (by decide)

theorem vld (o : VmemOp) : Statement (.vld o) :=
  of_vmem (k := .vld) rfl rfl (fun _ _ => rfl)

theorem vlds (o : VmemXOp) : Statement (.vlds o) :=
  of_vmemX (k := .vlds) rfl rfl (fun _ _ => rfl)

theorem vldx (o : VmemXOp) : Statement (.vldx o) :=
  of_vmemX (k := .vldx) rfl rfl (fun _ _ => rfl)

theorem vst (o : VmemOp) : Statement (.vst o) :=
  of_vmem (k := .vst) rfl rfl (fun _ _ => rfl)

theorem vsts (o : VmemXOp) : Statement (.vsts o) :=
  of_vmemX (k := .vsts) rfl rfl (fun _ _ => rfl)

theorem vstx (o : VmemXOp) : Statement (.vstx o) :=
  of_vmemX (k := .vstx) rfl rfl (fun _ _ => rfl)

theorem tld (o : TmemOp) : Statement (.tld o) :=
  of_tmem rfl (fun w l h hl e => by
    rw [decodeTens, hl, need_true (by rfl), h]
    exact congrArg (fun o => Except.ok (Instr.tld o)) e)

theorem tst (o : TmemOp) : Statement (.tst o) :=
  of_tmem rfl (fun w l h hl e => by
    rw [decodeTens, hl, need_true (by rfl), h]
    exact congrArg (fun o => Except.ok (Instr.tst o)) e)

theorem tmod (o : TmodOp) : Statement (.tmod o) :=
  have hb := tmodFields o.f o.add
  of_tmodLit rfl (lit_gy0 hb.1) (lit_lt (gn_lt _) (by decide) hb.1) (lit_gx o.gx (by decide) hb.1)
    ((lit_low hb.1 (by decide)).trans hb.2.1) (bit_b2n ((lit_low hb.1 (by decide)).trans hb.2.2.1))
    (by rw [(lit_low hb.1 (by decide)).trans hb.2.2.2.1]; exact hb.2.2.2.2)

theorem mxm (o : MxmOp) : Statement (.mxm o) :=
  of_mxm rfl (fun w h ha e => by
    rw [decodeMx, h]
    exact (need_true (by rfl)).trans ((need_true ha).trans (congrArg (fun o => Except.ok (Instr.mxm o)) e)))

theorem mxmRb (o : MxmOp) : Statement (.mxmRb o) :=
  of_mxm rfl (fun w h ha e => by
    rw [decodeMx, h]
    exact (need_true (by rfl)).trans ((need_true ha).trans (congrArg (fun o => Except.ok (Instr.mxmRb o)) e)))

theorem mxz (o : MxzOp) : Statement (.mxz o) :=
  of_encE rfl (fun w h => by
    show decodeMx w 0 = _
    rw [decodeMx, h.fn]
    exact (need_true (by rfl)).trans ((need_true (acc_low h).2).trans (by rw [h.tag, (acc_low h).1]))) (by decide) (by decide)
    (by decide) (acc_lt _)

theorem mxd (o : MxdOp) : Statement (.mxd o) :=
  have hb := mxdFields o.i32 o.z
  of_encE rfl (fun w h => by
    show decodeMx w (b2n o.i32 + 2 * b2n o.z) = _
    rw [decodeMx, h.fn]
    exact (need_true (decide_eq_true hb.1)).trans ((need_true (acc_low h).2).trans (by
      rw [h.tag, taOf, bv_eq h.fA, (acc_low h).1, hb.2.1, hb.2.2]))) (by have := hb.1; omega) o.ta.isLt (by decide) (acc_lt _)

theorem cpy (o : CpyOp) : Statement (.cpy o) :=
  of_cpy rfl (fun w h e => by rw [decodeCp, h, need_true (by rfl)]; exact congrArg (fun o => Except.ok (Instr.cpy o)) e)

theorem cpyT8 (o : CpyOp) : Statement (.cpyT8 o) :=
  of_cpy rfl (fun w h e => by rw [decodeCp, h, need_true (by rfl)]; exact congrArg (fun o => Except.ok (Instr.cpyT8 o)) e)

theorem cpyT16 (o : CpyOp) : Statement (.cpyT16 o) :=
  of_cpy rfl (fun w h e => by rw [decodeCp, h, need_true (by rfl)]; exact congrArg (fun o => Except.ok (Instr.cpyT16 o)) e)

theorem gather (o : IdxOp) : Statement (.gather o) :=
  of_idx rfl (fun w h e => by rw [decodeCp, h, need_true (by rfl)]; exact congrArg (fun o => Except.ok (Instr.gather o)) e)

theorem scatter (o : IdxOp) : Statement (.scatter o) :=
  of_idx rfl (fun w h e => by rw [decodeCp, h, need_true (by rfl)]; exact congrArg (fun o => Except.ok (Instr.scatter o)) e)

theorem scadd (o : IdxOp) : Statement (.scadd o) :=
  of_idx rfl (fun w h e => by rw [decodeCp, h, need_true (by rfl)]; exact congrArg (fun o => Except.ok (Instr.scadd o)) e)

theorem wload (o : CpyOp) : Statement (.wload o) :=
  of_cpy rfl (fun w h e => by rw [decodeCp, h, need_true (by rfl)]; exact congrArg (fun o => Except.ok (Instr.wload o)) e)

theorem att (o : AttOp) : Statement (.att o) :=
  have hb := attFields o.acco o.accs o.first o.last
  of_encE (l := feLit (gn o.gx) 0 (o.acco.toNat + 8 * o.accs.toNat + 64 * b2n o.first + 128 * b2n o.last)) rfl
    (fun w h => by
      show decodeAtt w _ = _
      have h8 := (lit_27 (gx := gn o.gx) (lo := 8) (n := 19) hb.1 (by decide)).trans hb.2.1
      have h0 := bv_eq (b := o.acco) ((lit_27 (gx := gn o.gx) (lo := 0) (n := 3) hb.1 (by decide)).trans hb.2.2.1)
      have h3 := bv_eq (b := o.accs) ((lit_27 (gx := gn o.gx) (lo := 3) (n := 3) hb.1 (by decide)).trans hb.2.2.2.1)
      have h6 := bit_b2n (b := o.first) ((lit_27 (gx := gn o.gx) (lo := 6) (n := 1) hb.1 (by decide)).trans hb.2.2.2.2.1)
      have h7 := bit_b2n (b := o.last) ((lit_27 (gx := gn o.gx) (lo := 7) (n := 1) hb.1 (by decide)).trans hb.2.2.2.2.2)
      rw [decodeAtt, h.fn, need_true (by rfl), h8, need_true (by rfl), h0, h3, h6, h7, h.tag, taOf, bv_eq h.fA, tbOf, bv_eq h.fB,
        tcOf, bv_eq h.fC, lit_gx o.gx (by decide) hb.1])
    (lit_lt (gn_lt _) (by decide) hb.1) o.tq.isLt o.tk.isLt o.tv.isLt

theorem copen (o : CopenOp) : Statement (.copen o) :=
  of_copenLit rfl ((lit_low (by decide) (by decide)).trans (show field 0 0 22 = 0 by decide))
    (lit_lt (gn_lt _) (gn_lt _) (by decide)) (lit_gx o.gx (gn_lt _) (by decide)) (lit_gy o.gy (by decide))

theorem chold (o : HgOp) : Statement (.chold o) :=
  of_hg rfl (fun w l hf h4 h16 hl e => by
    rw [decodeCirc, h4, need_true (by rfl), need_true h16, hf]
    exact (need_true (by rw [hl]; rfl)).trans (congrArg (fun o => Except.ok (Instr.chold o)) e))

theorem csend (o : HgOp) : Statement (.csend o) :=
  of_hg rfl (fun w l hf h4 h16 hl e => by
    rw [decodeCirc, h4, need_true (by rfl), need_true h16, hf]
    exact (need_true (by rw [hl]; rfl)).trans (congrArg (fun o => Except.ok (Instr.csend o)) e))

theorem csendResume (o : HgOp) : Statement (.csendResume o) :=
  of_hg rfl (fun w l hf h4 h16 hl e => by
    rw [decodeCirc, h4, need_true (by rfl), need_true h16, hf]
    exact (need_true (by rw [hl]; rfl)).trans (congrArg (fun o => Except.ok (Instr.csendResume o)) e))

theorem cshut (o : HOp) : Statement (.cshut o) :=
  of_circ rfl (fun w ht hf h4 h16 h3 => by
    rw [decodeCirc, h4, need_true (by rfl), need_true h16, hf]
    exact (need_true (by rfl)).trans (by rw [ht, h3])) (by decide)

theorem cstat (o : HgOp) : Statement (.cstat o) :=
  of_hg rfl (fun w l hf h4 h16 hl e => by
    rw [decodeCirc, h4, need_true (by rfl), need_true h16, hf]
    exact (need_true (by rw [hl]; rfl)).trans (congrArg (fun o => Except.ok (Instr.cstat o)) e))

theorem tide (o : TideOp) : Statement (.tide o) :=
  fun hw =>
  have hk : o.link.toNat < 2 ^ 4 := o.link.isLt
  have hb : o.link.toNat < 2 ^ 22 := by omega
  of_encE (l := feLit (gn o.gx) 0 o.link.toNat) rfl (fun w h => by
    show decodeTide w _ = _
    have h4 := (lit_27 (gx := gn o.gx) (lo := 4) (n := 23) hb (by decide)).trans (field_small hk)
    have h0 := bv_eq (b := o.link) ((lit_27 (gx := gn o.gx) (lo := 0) (n := 4) hb (by decide)).trans (field_zero_lo hk))
    rw [decodeTide, h.fn, need_true (by rfl), h.fABC, h4, need_true (by rfl), h.tag, h0, lit_gx o.gx (by decide) hb,
      checked_ok hw]) (lit_lt (gn_lt _) (by decide) hb) (by decide) (by decide) (by decide) (by decide) (by decide) hw

theorem ard (o : RedCollOp) : Statement (.ard o) :=
  of_redColl rfl (fun w l hf h4 h2 h0 e => by
    rw [decodeColl, h4, need_true (by rfl), hf]
    exact (need_true (by rw [h2]; rfl)).trans ((collFn_dec l o.op h0 _).trans (congrArg (fun o => Except.ok (Instr.ard o)) e)))

theorem agt (o : CollOp) : Statement (.agt o) :=
  of_coll rfl (fun w l hf h4 h0 e => by
    rw [decodeColl, h4, need_true (by rfl), hf]
    exact (need_true (by rw [h0]; rfl)).trans (congrArg (fun o => Except.ok (Instr.agt o)) e))

theorem rsc (o : RedCollOp) : Statement (.rsc o) :=
  of_redColl rfl (fun w l hf h4 h2 h0 e => by
    rw [decodeColl, h4, need_true (by rfl), hf]
    exact (need_true (by rw [h2]; rfl)).trans ((collFn_dec l o.op h0 _).trans (congrArg (fun o => Except.ok (Instr.rsc o)) e)))

theorem bct (o : CollOp) : Statement (.bct o) :=
  of_coll rfl (fun w l hf h4 h0 e => by
    rw [decodeColl, h4, need_true (by rfl), hf]
    exact (need_true (by rw [h0]; rfl)).trans (congrArg (fun o => Except.ok (Instr.bct o)) e))

theorem tree (o : TreeOp) : Statement (.tree o) :=
  of_treeLit rfl ((lit_low (by decide) (by decide)).trans (show field 0 0 22 = 0 by decide))
    (lit_lt (gn_lt _) (gn_lt _) (by decide)) (lit_gx o.gx (gn_lt _) (by decide)) (lit_gy o.gy (by decide))

theorem rota (o : RotaOp) : Statement (.rota o) :=
  have hb := rotaFields o.acco o.accs o.att
  of_encE (l := feLit (gn o.gx) 0 (o.acco.toNat + 8 * o.accs.toNat + 64 * b2n o.att)) rfl (fun w h => by
    show decodeRota w _ = _
    have h7 := (lit_27 (gx := gn o.gx) (lo := 7) (n := 20) hb.1 (by decide)).trans hb.2.1
    have h0 := bv_eq (b := o.acco) ((lit_27 (gx := gn o.gx) (lo := 0) (n := 3) hb.1 (by decide)).trans hb.2.2.1)
    have h3 := bv_eq (b := o.accs) ((lit_27 (gx := gn o.gx) (lo := 3) (n := 3) hb.1 (by decide)).trans hb.2.2.2.1)
    have h6 := bit_b2n (b := o.att) ((lit_27 (gx := gn o.gx) (lo := 6) (n := 1) hb.1 (by decide)).trans hb.2.2.2.2)
    rw [decodeRota, h.fn, need_true (by rfl), h.fBC, h7, need_true (by rfl), h0, h3, h6, h.tag, taOf, bv_eq h.fA,
      lit_gx o.gx (by decide) hb.1]) (lit_lt (gn_lt _) (by decide) hb.1) o.ts.isLt (by decide) (by decide)

theorem vcAdvance (isle : Nat) : Statement (.vcAdvance isle) := no_words rfl

theorem timedLanding (isle : Nat) : Statement (.timedLanding isle) := no_words rfl

theorem landingDataArrival (isle : Nat) (id : Nat) (only : Option Nat) (answers : List (Nat × Answer)) :
    Statement (.landingDataArrival isle id only answers) := no_words rfl

theorem freezeEnd (isle : Nat) : Statement (.freezeEnd isle) := no_words rfl

theorem watchdog (isle : Nat) : Statement (.watchdog isle) := no_words rfl

theorem pageRefillDone (isle : Nat) (page : Nat) : Statement (.pageRefillDone isle page) := no_words rfl

theorem writeAcknowledge (id : Nat) (die : Option Nat) (answers : List (Nat × Answer)) :
    Statement (.writeAcknowledge id die answers) := no_words rfl

theorem queueEnable (vf : Nat) (q : Nat) (value : Word) : Statement (.queueEnable vf q value) := no_words rfl

theorem queueDisable (vf : Nat) (q : Nat) (value : Word) : Statement (.queueDisable vf q value) := no_words rfl

theorem tailWrite (vf : Nat) (q : Nat) (value : Word) : Statement (.tailWrite vf q value) := no_words rfl

theorem parseNop (vf : Nat) (q : Nat) (ext : List (Nat × Byte)) : Statement (.parseNop vf q ext) := no_words rfl

theorem parseLaunch (vf : Nat) (q : Nat) (ext : List (Nat × Byte)) : Statement (.parseLaunch vf q ext) := no_words rfl

theorem parseFence (vf : Nat) (q : Nat) (ext : List (Nat × Byte)) : Statement (.parseFence vf q ext) := no_words rfl

theorem fenceCounterRead (vf : Nat) (q : Nat) (ext : List (Nat × Byte)) : Statement (.fenceCounterRead vf q ext) := no_words rfl

theorem parseSignal (vf : Nat) (q : Nat) (ext : List (Nat × Byte)) : Statement (.parseSignal vf q ext) := no_words rfl

theorem signalAdd (vf : Nat) (q : Nat) : Statement (.signalAdd vf q) := no_words rfl

theorem launchDispatch (vf : Nat) (q : Nat) (ext : List (Nat × Byte)) : Statement (.launchDispatch vf q ext) := no_words rfl

theorem saveComplete (isle : Nat) : Statement (.saveComplete isle) := no_words rfl

theorem instanceResume (inst : Nat) (isle : Nat) : Statement (.instanceResume inst isle) := no_words rfl

theorem speculationTimeout (vf : Nat) (q : Nat) : Statement (.speculationTimeout vf q) := no_words rfl

theorem commitComplete (vf : Nat) (q : Nat) : Statement (.commitComplete vf q) := no_words rfl

theorem ingressRequest (r : IngressReq) : Statement (.ingressRequest r) := no_words rfl

theorem refusedAccess (id : Nat) (part : Nat) (step : BitVec 4) : Statement (.refusedAccess id part step) := no_words rfl

theorem fabricTimeout (id : Nat) : Statement (.fabricTimeout id) := no_words rfl

theorem granuleMoveStart (home : Option Nat) (granule : Nat) (holder : Option Nat) :
    Statement (.granuleMoveStart home granule holder) := no_words rfl

theorem granuleMoveEnd (home : Option Nat) (granule : Nat) (backing : Nat) (image : List (Nat × Byte)) :
    Statement (.granuleMoveEnd home granule backing image) := no_words rfl

theorem contestPinEnd (granule : Nat) : Statement (.contestPinEnd granule) := no_words rfl

theorem moveRetry (req : Nat) : Statement (.moveRetry req) := no_words rfl

theorem moveRetryLimit (req : Nat) : Statement (.moveRetryLimit req) := no_words rfl

theorem foreignPeerTimeout (part : Nat) (peer : Nat) : Statement (.foreignPeerTimeout part peer) := no_words rfl

theorem turnStart (link : Nat) : Statement (.turnStart link) := no_words rfl

theorem turnEnd (link : Nat) : Statement (.turnEnd link) := no_words rfl

theorem tideExpired (link : Nat) (region : Nat) : Statement (.tideExpired link region) := no_words rfl

theorem windowPacketArrival (p : WindowPacket) : Statement (.windowPacketArrival p) := no_words rfl

theorem meterIdle (f : Flow) : Statement (.meterIdle f) := no_words rfl

theorem probeArrival (p : Probe) :
    Statement (.probeArrival p) := no_words rfl

theorem probeSuccess (f : Flow) (backtracks : Nat) : Statement (.probeSuccess f backtracks) := no_words rfl

theorem probeFail (f : Flow) (backtracks : Nat) : Statement (.probeFail f backtracks) := no_words rfl

theorem circuitDataArrival (c : CircuitSrc) (off : Nat) (data : List Byte) :
    Statement (.circuitDataArrival c off data) := no_words rfl

theorem markedPacketArrival (f : Flow) (off : Nat) : Statement (.markedPacketArrival f off) := no_words rfl

theorem tokenArrival (c : CircuitRef) (off : Nat) : Statement (.tokenArrival c off) := no_words rfl

theorem circuitIdle (f : Flow) : Statement (.circuitIdle f) := no_words rfl

theorem demotionMarkArrival (f : Flow) : Statement (.demotionMarkArrival f) := no_words rfl

theorem circuitBreak (c : CircuitRef) (cause : BitVec 4) : Statement (.circuitBreak c cause) := no_words rfl

theorem teardownReported (f : Flow) : Statement (.teardownReported f) := no_words rfl

theorem holdExpiry (f : Flow) : Statement (.holdExpiry f) := no_words rfl

theorem leaseExpiry (isle : Nat) (h : Nat) : Statement (.leaseExpiry isle h) := no_words rfl

theorem fallbackDone (isle : Nat) (h : Nat) : Statement (.fallbackDone isle h) := no_words rfl

theorem linkFailure (port : Nat) : Statement (.linkFailure port) := no_words rfl

theorem linkRetrain (port : Nat) : Statement (.linkRetrain port) := no_words rfl

theorem multicastForward (tree : Nat) (tenant : Nat) (c : Contribution) :
    Statement (.multicastForward tree tenant c) := no_words rfl

theorem collectiveContribution (isle : Nat) (c : Contribution) : Statement (.collectiveContribution isle c) := no_words rfl

theorem rackTokenArrival (isle : Nat) (fromPeer : Nat) (label : Nat) :
    Statement (.rackTokenArrival isle fromPeer label) := no_words rfl

theorem caskArrival (isle : Nat) (size : Nat) (n : Nat) (data : List Byte) :
    Statement (.caskArrival isle size n data) := no_words rfl

theorem rotaReopen (isle : Nat) (opened : Bool) : Statement (.rotaReopen isle opened) := no_words rfl

theorem failureMarkArrival (isle : Nat) (label : Nat) : Statement (.failureMarkArrival isle label) := no_words rfl

theorem engineCommandStart (isle : Nat) (engine : Engine) (cmd : Nat) :
    Statement (.engineCommandStart isle engine cmd) := no_words rfl

theorem engineCommandComplete (isle : Nat) (engine : Engine) (cmd : Nat) (row : Option Nat) (ext : List (Nat × Answer)) :
    Statement (.engineCommandComplete isle engine cmd row ext) := no_words rfl

theorem dieReset (die : Nat) : Statement (.dieReset die) := no_words rfl

theorem dieResetTimeout (die : Nat) : Statement (.dieResetTimeout die) := no_words rfl

theorem linkFlitError (link : Nat) (hit : FlitHit) : Statement (.linkFlitError link hit) := no_words rfl

theorem fabricFlitError (port : Nat) (hit : FlitHit) : Statement (.fabricFlitError port hit) := no_words rfl

theorem clockThrottle (junction : Nat) : Statement (.clockThrottle junction) := no_words rfl

theorem shutdown : Statement (.shutdown) := no_words rfl

theorem deviceReset : Statement (.deviceReset) := no_words rfl

theorem firmwareLoad (image : List Byte) (signature : List Byte) : Statement (.firmwareLoad image signature) := no_words rfl

theorem attestation (nonce : List Byte) : Statement (.attestation nonce) := no_words rfl

theorem lifeCycleChange (target : LifeCycle) (actor : LifeCycleActor) :
    Statement (.lifeCycleChange target actor) := no_words rfl

theorem abortreq (vf : Nat) (value : Word) : Statement (.abortreq vf value) := no_words rfl

theorem rrqctlWrite (vf : Nat) (value : Word) : Statement (.rrqctlWrite vf value) := no_words rfl

theorem rrqctlRead (vf : Nat) : Statement (.rrqctlRead vf) := no_words rfl

theorem sidebandResetRequest : Statement (.sidebandResetRequest) := no_words rfl

theorem registerWrite (w : RegWrite) : Statement (.registerWrite w) := no_words rfl

theorem hostLinkRequest (r : HostReq) : Statement (.hostLinkRequest r) := no_words rfl

theorem dieReturnsToService (die : Nat) : Statement (.dieReturnsToService die) := no_words rfl

theorem caskConsumed (isle : Nat) : Statement (.caskConsumed isle) := no_words rfl

end Sys2Proof.Laws.RoundTrip
end

