-- ==== Sys2Proof/Laws/Queues.lean ====
section
/-!
SUPPORT. Queues of virtual functions: reads after an update of one, and the canonical form of their tables.
-/
namespace Sys2Proof.Machine

open Sys2Proof.Safety

theorem vf_setVf_self (s : State) (v : Nat) (x : Vf) (h : Sparse.wf Vf.reset s.vfs = true) : (s.setVf v x).vf v = x :=
  Sparse.get_set_self _ _ _ _ h

theorem vf_setVf_other (s : State) (v w : Nat) (x : Vf) (h : w ≠ v) : (s.setVf v x).vf w = s.vf w :=
  Sparse.get_set_other _ _ _ _ _ h

/-- A value that a table gives is its default or stands in the table. -/
theorem get_mem {α : Type} (d : α) (m : List (Nat × α)) (k : Nat) : Sparse.get d m k = d ∨ (k, Sparse.get d m k) ∈ m := by
  induction m with
  | nil => exact .inl rfl
  | cons p rest ih =>
    obtain ⟨k', v⟩ := p
    unfold Sparse.get
    split
    · rename_i e; subst e; exact .inr (by simp)
    · rcases ih with ih | ih
      · exact .inl ih
      · exact .inr (List.mem_cons_of_mem _ ih)

theorem queuesWf_vf (s : State) (v : Nat) (h : QueuesWf s) : Sparse.wf HwQueue.reset (s.vf v).queues = true := by
  unfold State.vf
  rcases get_mem Vf.reset s.vfs v with e | e
  · rw [e]; rfl
  · exact h.2 _ e

theorem mem_set {α : Type} [DecidableEq α] (d : α) (m : List (Nat × α)) (k : Nat) (v : α) (p : Nat × α) (h : p ∈ Sparse.set d m k v) :
    p = (k, v) ∨ p ∈ m := by
  unfold Sparse.set at h
  split at h
  · right
    induction m with
    | nil => exact h
    | cons q rest ih =>
      unfold Sparse.erase at h
      split at h
      · exact List.mem_cons_of_mem _ h
      · rcases List.mem_cons.mp h with e | e
        · exact e ▸ List.mem_cons_self
        · exact List.mem_cons_of_mem _ (ih e)
  · induction m with
    | nil => exact .inl (by simpa [Sparse.insert] using h)
    | cons q rest ih =>
      unfold Sparse.insert at h
      split at h
      · rcases List.mem_cons.mp h with e | e
        · exact .inl e
        · exact .inr e
      · split at h
        · rcases List.mem_cons.mp h with e | e
          · exact .inl e
          · exact .inr (List.mem_cons_of_mem _ e)
        · rcases List.mem_cons.mp h with e | e
          · exact .inr (e ▸ List.mem_cons_self)
          · rcases ih e with e | e
            · exact .inl e
            · exact .inr (List.mem_cons_of_mem _ e)

/-- After an update the queue reads as set, and every other queue as before. -/
theorem queueIs_setQueue (s : State) (v q : Nat) (x : HwQueue) (h : QueuesWf s) : QueueIs s (s.setQueue v q x) v q x := by
  unfold QueueIs State.queue State.setQueue
  constructor
  · rw [vf_setVf_self _ _ _ h.1]
    exact Sparse.get_set_self _ _ _ _ (queuesWf_vf s v h)
  · intro w r hne
    by_cases e : w = v
    · subst e
      rw [vf_setVf_self _ _ _ h.1]
      exact Sparse.get_set_other _ _ _ _ _ (fun er => hne (by rw [er]))
    · rw [vf_setVf_other _ _ _ _ e]

/-- An update keeps the canonical form of the tables. -/
theorem queuesWf_setQueue (s : State) (v q : Nat) (x : HwQueue) (h : QueuesWf s) : QueuesWf (s.setQueue v q x) := by
  refine ⟨Sparse.wf_set _ _ _ _ h.1, ?_⟩
  intro p hp
  rcases mem_set _ _ _ _ _ hp with e | e
  · rw [e]; exact Sparse.wf_set _ _ _ _ (queuesWf_vf s v h)
  · exact h.2 p e

end Sys2Proof.Machine
end

