-- ==== Sys2Proof/Laws/State.lean ====
section
/-!
SUPPORT. What each named update of State leaves alone and sets, field by field.
-/
namespace Sys2Proof.Machine


/-! ## State -/

@[simp] theorem setInst_time (s : State) (k : Nat) (i : Inst) : (s.setInst k i).time = s.time := rfl
@[simp] theorem setInst_mhz (s : State) (k : Nat) (i : Inst) : (s.setInst k i).mhz = s.mhz := rfl
@[simp] theorem setInst_turn (s : State) (k : Nat) (i : Inst) : (s.setInst k i).turn = s.turn := rfl
@[simp] theorem setInst_agenda (s : State) (k : Nat) (i : Inst) : (s.setInst k i).agenda = s.agenda := rfl
@[simp] theorem setInst_fresh (s : State) (k : Nat) (i : Inst) : (s.setInst k i).fresh = s.fresh := rfl
@[simp] theorem setInst_nextId (s : State) (k : Nat) (i : Inst) : (s.setInst k i).nextId = s.nextId := rfl
@[simp] theorem setInst_nextUid (s : State) (k : Nat) (i : Inst) : (s.setInst k i).nextUid = s.nextUid := rfl
@[simp] theorem setInst_nextLaunch (s : State) (k : Nat) (i : Inst) : (s.setInst k i).nextLaunch = s.nextLaunch := rfl
@[simp] theorem setInst_boot (s : State) (k : Nat) (i : Inst) : (s.setInst k i).boot = s.boot := rfl
@[simp] theorem setInst_image (s : State) (k : Nat) (i : Inst) : (s.setInst k i).image = s.image := rfl
@[simp] theorem setInst_lifeCycle (s : State) (k : Nat) (i : Inst) : (s.setInst k i).lifeCycle = s.lifeCycle := rfl
@[simp] theorem setInst_failed (s : State) (k : Nat) (i : Inst) : (s.setInst k i).failed = s.failed := rfl
@[simp] theorem setInst_popmap (s : State) (k : Nat) (i : Inst) : (s.setInst k i).popmap = s.popmap := rfl
@[simp] theorem setInst_mxmap (s : State) (k : Nat) (i : Inst) : (s.setInst k i).mxmap = s.mxmap := rfl
@[simp] theorem setInst_vwmap (s : State) (k : Nat) (i : Inst) : (s.setInst k i).vwmap = s.vwmap := rfl
@[simp] theorem setInst_mem (s : State) (k : Nat) (i : Inst) : (s.setInst k i).mem = s.mem := rfl
@[simp] theorem setInst_poison (s : State) (k : Nat) (i : Inst) : (s.setInst k i).poison = s.poison := rfl
@[simp] theorem setInst_poisonWs (s : State) (k : Nat) (i : Inst) : (s.setInst k i).poisonWs = s.poisonWs := rfl
@[simp] theorem setInst_dirty (s : State) (k : Nat) (i : Inst) : (s.setInst k i).dirty = s.dirty := rfl
@[simp] theorem setInst_acc (s : State) (k : Nat) (i : Inst) : (s.setInst k i).acc = s.acc := rfl
@[simp] theorem setInst_versions (s : State) (k : Nat) (i : Inst) : (s.setInst k i).versions = s.versions := rfl
@[simp] theorem setInst_saved (s : State) (k : Nat) (i : Inst) : (s.setInst k i).saved = s.saved := rfl
@[simp] theorem setInst_launches (s : State) (k : Nat) (i : Inst) : (s.setInst k i).launches = s.launches := rfl
@[simp] theorem setInst_vfs (s : State) (k : Nat) (i : Inst) : (s.setInst k i).vfs = s.vfs := rfl
@[simp] theorem setInst_deficit (s : State) (k : Nat) (i : Inst) : (s.setInst k i).deficit = s.deficit := rfl
@[simp] theorem setInst_freed (s : State) (k : Nat) (i : Inst) : (s.setInst k i).freed = s.freed := rfl
@[simp] theorem setInst_offered (s : State) (k : Nat) (i : Inst) : (s.setInst k i).offered = s.offered := rfl
@[simp] theorem setInst_ordering (s : State) (k : Nat) (i : Inst) : (s.setInst k i).ordering = s.ordering := rfl
@[simp] theorem setInst_topped (s : State) (k : Nat) (i : Inst) : (s.setInst k i).topped = s.topped := rfl
@[simp] theorem setInst_respec (s : State) (k : Nat) (i : Inst) : (s.setInst k i).respec = s.respec := rfl
@[simp] theorem setInst_links (s : State) (k : Nat) (i : Inst) : (s.setInst k i).links = s.links := rfl
@[simp] theorem setInst_meters (s : State) (k : Nat) (i : Inst) : (s.setInst k i).meters = s.meters := rfl
@[simp] theorem setInst_receivers (s : State) (k : Nat) (i : Inst) : (s.setInst k i).receivers = s.receivers := rfl
@[simp] theorem setInst_straits (s : State) (k : Nat) (i : Inst) : (s.setInst k i).straits = s.straits := rfl
@[simp] theorem setInst_xpts (s : State) (k : Nat) (i : Inst) : (s.setInst k i).xpts = s.xpts := rfl
@[simp] theorem setInst_loop (s : State) (k : Nat) (i : Inst) : (s.setInst k i).loop = s.loop := rfl
@[simp] theorem setInst_ingress (s : State) (k : Nat) (i : Inst) : (s.setInst k i).ingress = s.ingress := rfl
@[simp] theorem setInst_granules (s : State) (k : Nat) (i : Inst) : (s.setInst k i).granules = s.granules := rfl
@[simp] theorem setInst_guests (s : State) (k : Nat) (i : Inst) : (s.setInst k i).guests = s.guests := rfl
@[simp] theorem setInst_migContest (s : State) (k : Nat) (i : Inst) : (s.setInst k i).migContest = s.migContest := rfl
@[simp] theorem setInst_presence (s : State) (k : Nat) (i : Inst) : (s.setInst k i).presence = s.presence := rfl
@[simp] theorem setInst_ports (s : State) (k : Nat) (i : Inst) : (s.setInst k i).ports = s.ports := rfl
@[simp] theorem setInst_fabTimeout (s : State) (k : Nat) (i : Inst) : (s.setInst k i).fabTimeout = s.fabTimeout := rfl
@[simp] theorem setInst_foreign (s : State) (k : Nat) (i : Inst) : (s.setInst k i).foreign = s.foreign := rfl
@[simp] theorem setInst_trees (s : State) (k : Nat) (i : Inst) : (s.setInst k i).trees = s.trees := rfl
@[simp] theorem setInst_heldColl (s : State) (k : Nat) (i : Inst) : (s.setInst k i).heldColl = s.heldColl := rfl
@[simp] theorem setInst_heldTok (s : State) (k : Nat) (i : Inst) : (s.setInst k i).heldTok = s.heldTok := rfl
@[simp] theorem setInst_rotaEnded (s : State) (k : Nat) (i : Inst) : (s.setInst k i).rotaEnded = s.rotaEnded := rfl
@[simp] theorem setInst_dieDown (s : State) (k : Nat) (i : Inst) : (s.setInst k i).dieDown = s.dieDown := rfl
@[simp] theorem setInst_dieHeld (s : State) (k : Nat) (i : Inst) : (s.setInst k i).dieHeld = s.dieHeld := rfl
@[simp] theorem setInst_pmark (s : State) (k : Nat) (i : Inst) : (s.setInst k i).pmark = s.pmark := rfl
@[simp] theorem setInst_counters (s : State) (k : Nat) (i : Inst) : (s.setInst k i).counters = s.counters := rfl
@[simp] theorem setInst_out (s : State) (k : Nat) (i : Inst) : (s.setInst k i).out = s.out := rfl
@[simp] theorem updInst_time (s : State) (k : Nat) (f : Inst → Inst) : (s.updInst k f).time = s.time := rfl
@[simp] theorem updInst_mhz (s : State) (k : Nat) (f : Inst → Inst) : (s.updInst k f).mhz = s.mhz := rfl
@[simp] theorem updInst_turn (s : State) (k : Nat) (f : Inst → Inst) : (s.updInst k f).turn = s.turn := rfl
@[simp] theorem updInst_agenda (s : State) (k : Nat) (f : Inst → Inst) : (s.updInst k f).agenda = s.agenda := rfl
@[simp] theorem updInst_fresh (s : State) (k : Nat) (f : Inst → Inst) : (s.updInst k f).fresh = s.fresh := rfl
@[simp] theorem updInst_nextId (s : State) (k : Nat) (f : Inst → Inst) : (s.updInst k f).nextId = s.nextId := rfl
@[simp] theorem updInst_nextUid (s : State) (k : Nat) (f : Inst → Inst) : (s.updInst k f).nextUid = s.nextUid := rfl
@[simp] theorem updInst_nextLaunch (s : State) (k : Nat) (f : Inst → Inst) : (s.updInst k f).nextLaunch = s.nextLaunch := rfl
@[simp] theorem updInst_boot (s : State) (k : Nat) (f : Inst → Inst) : (s.updInst k f).boot = s.boot := rfl
@[simp] theorem updInst_image (s : State) (k : Nat) (f : Inst → Inst) : (s.updInst k f).image = s.image := rfl
@[simp] theorem updInst_lifeCycle (s : State) (k : Nat) (f : Inst → Inst) : (s.updInst k f).lifeCycle = s.lifeCycle := rfl
@[simp] theorem updInst_failed (s : State) (k : Nat) (f : Inst → Inst) : (s.updInst k f).failed = s.failed := rfl
@[simp] theorem updInst_popmap (s : State) (k : Nat) (f : Inst → Inst) : (s.updInst k f).popmap = s.popmap := rfl
@[simp] theorem updInst_mxmap (s : State) (k : Nat) (f : Inst → Inst) : (s.updInst k f).mxmap = s.mxmap := rfl
@[simp] theorem updInst_vwmap (s : State) (k : Nat) (f : Inst → Inst) : (s.updInst k f).vwmap = s.vwmap := rfl
@[simp] theorem updInst_mem (s : State) (k : Nat) (f : Inst → Inst) : (s.updInst k f).mem = s.mem := rfl
@[simp] theorem updInst_poison (s : State) (k : Nat) (f : Inst → Inst) : (s.updInst k f).poison = s.poison := rfl
@[simp] theorem updInst_poisonWs (s : State) (k : Nat) (f : Inst → Inst) : (s.updInst k f).poisonWs = s.poisonWs := rfl
@[simp] theorem updInst_dirty (s : State) (k : Nat) (f : Inst → Inst) : (s.updInst k f).dirty = s.dirty := rfl
@[simp] theorem updInst_acc (s : State) (k : Nat) (f : Inst → Inst) : (s.updInst k f).acc = s.acc := rfl
@[simp] theorem updInst_versions (s : State) (k : Nat) (f : Inst → Inst) : (s.updInst k f).versions = s.versions := rfl
@[simp] theorem updInst_saved (s : State) (k : Nat) (f : Inst → Inst) : (s.updInst k f).saved = s.saved := rfl
@[simp] theorem updInst_launches (s : State) (k : Nat) (f : Inst → Inst) : (s.updInst k f).launches = s.launches := rfl
@[simp] theorem updInst_vfs (s : State) (k : Nat) (f : Inst → Inst) : (s.updInst k f).vfs = s.vfs := rfl
@[simp] theorem updInst_deficit (s : State) (k : Nat) (f : Inst → Inst) : (s.updInst k f).deficit = s.deficit := rfl
@[simp] theorem updInst_freed (s : State) (k : Nat) (f : Inst → Inst) : (s.updInst k f).freed = s.freed := rfl
@[simp] theorem updInst_offered (s : State) (k : Nat) (f : Inst → Inst) : (s.updInst k f).offered = s.offered := rfl
@[simp] theorem updInst_ordering (s : State) (k : Nat) (f : Inst → Inst) : (s.updInst k f).ordering = s.ordering := rfl
@[simp] theorem updInst_topped (s : State) (k : Nat) (f : Inst → Inst) : (s.updInst k f).topped = s.topped := rfl
@[simp] theorem updInst_respec (s : State) (k : Nat) (f : Inst → Inst) : (s.updInst k f).respec = s.respec := rfl
@[simp] theorem updInst_links (s : State) (k : Nat) (f : Inst → Inst) : (s.updInst k f).links = s.links := rfl
@[simp] theorem updInst_meters (s : State) (k : Nat) (f : Inst → Inst) : (s.updInst k f).meters = s.meters := rfl
@[simp] theorem updInst_receivers (s : State) (k : Nat) (f : Inst → Inst) : (s.updInst k f).receivers = s.receivers := rfl
@[simp] theorem updInst_straits (s : State) (k : Nat) (f : Inst → Inst) : (s.updInst k f).straits = s.straits := rfl
@[simp] theorem updInst_xpts (s : State) (k : Nat) (f : Inst → Inst) : (s.updInst k f).xpts = s.xpts := rfl
@[simp] theorem updInst_loop (s : State) (k : Nat) (f : Inst → Inst) : (s.updInst k f).loop = s.loop := rfl
@[simp] theorem updInst_ingress (s : State) (k : Nat) (f : Inst → Inst) : (s.updInst k f).ingress = s.ingress := rfl
@[simp] theorem updInst_granules (s : State) (k : Nat) (f : Inst → Inst) : (s.updInst k f).granules = s.granules := rfl
@[simp] theorem updInst_guests (s : State) (k : Nat) (f : Inst → Inst) : (s.updInst k f).guests = s.guests := rfl
@[simp] theorem updInst_migContest (s : State) (k : Nat) (f : Inst → Inst) : (s.updInst k f).migContest = s.migContest := rfl
@[simp] theorem updInst_presence (s : State) (k : Nat) (f : Inst → Inst) : (s.updInst k f).presence = s.presence := rfl
@[simp] theorem updInst_ports (s : State) (k : Nat) (f : Inst → Inst) : (s.updInst k f).ports = s.ports := rfl
@[simp] theorem updInst_fabTimeout (s : State) (k : Nat) (f : Inst → Inst) : (s.updInst k f).fabTimeout = s.fabTimeout := rfl
@[simp] theorem updInst_foreign (s : State) (k : Nat) (f : Inst → Inst) : (s.updInst k f).foreign = s.foreign := rfl
@[simp] theorem updInst_trees (s : State) (k : Nat) (f : Inst → Inst) : (s.updInst k f).trees = s.trees := rfl
@[simp] theorem updInst_heldColl (s : State) (k : Nat) (f : Inst → Inst) : (s.updInst k f).heldColl = s.heldColl := rfl
@[simp] theorem updInst_heldTok (s : State) (k : Nat) (f : Inst → Inst) : (s.updInst k f).heldTok = s.heldTok := rfl
@[simp] theorem updInst_rotaEnded (s : State) (k : Nat) (f : Inst → Inst) : (s.updInst k f).rotaEnded = s.rotaEnded := rfl
@[simp] theorem updInst_dieDown (s : State) (k : Nat) (f : Inst → Inst) : (s.updInst k f).dieDown = s.dieDown := rfl
@[simp] theorem updInst_dieHeld (s : State) (k : Nat) (f : Inst → Inst) : (s.updInst k f).dieHeld = s.dieHeld := rfl
@[simp] theorem updInst_pmark (s : State) (k : Nat) (f : Inst → Inst) : (s.updInst k f).pmark = s.pmark := rfl
@[simp] theorem updInst_counters (s : State) (k : Nat) (f : Inst → Inst) : (s.updInst k f).counters = s.counters := rfl
@[simp] theorem updInst_out (s : State) (k : Nat) (f : Inst → Inst) : (s.updInst k f).out = s.out := rfl
@[simp] theorem updLaunch_time (s : State) (n : Nat) (f : Launch → Launch) : (s.updLaunch n f).time = s.time := rfl
@[simp] theorem updLaunch_mhz (s : State) (n : Nat) (f : Launch → Launch) : (s.updLaunch n f).mhz = s.mhz := rfl
@[simp] theorem updLaunch_turn (s : State) (n : Nat) (f : Launch → Launch) : (s.updLaunch n f).turn = s.turn := rfl
@[simp] theorem updLaunch_agenda (s : State) (n : Nat) (f : Launch → Launch) : (s.updLaunch n f).agenda = s.agenda := rfl
@[simp] theorem updLaunch_fresh (s : State) (n : Nat) (f : Launch → Launch) : (s.updLaunch n f).fresh = s.fresh := rfl
@[simp] theorem updLaunch_nextId (s : State) (n : Nat) (f : Launch → Launch) : (s.updLaunch n f).nextId = s.nextId := rfl
@[simp] theorem updLaunch_nextUid (s : State) (n : Nat) (f : Launch → Launch) : (s.updLaunch n f).nextUid = s.nextUid := rfl
@[simp] theorem updLaunch_nextLaunch (s : State) (n : Nat) (f : Launch → Launch) : (s.updLaunch n f).nextLaunch = s.nextLaunch := rfl
@[simp] theorem updLaunch_boot (s : State) (n : Nat) (f : Launch → Launch) : (s.updLaunch n f).boot = s.boot := rfl
@[simp] theorem updLaunch_image (s : State) (n : Nat) (f : Launch → Launch) : (s.updLaunch n f).image = s.image := rfl
@[simp] theorem updLaunch_lifeCycle (s : State) (n : Nat) (f : Launch → Launch) : (s.updLaunch n f).lifeCycle = s.lifeCycle := rfl
@[simp] theorem updLaunch_failed (s : State) (n : Nat) (f : Launch → Launch) : (s.updLaunch n f).failed = s.failed := rfl
@[simp] theorem updLaunch_popmap (s : State) (n : Nat) (f : Launch → Launch) : (s.updLaunch n f).popmap = s.popmap := rfl
@[simp] theorem updLaunch_mxmap (s : State) (n : Nat) (f : Launch → Launch) : (s.updLaunch n f).mxmap = s.mxmap := rfl
@[simp] theorem updLaunch_vwmap (s : State) (n : Nat) (f : Launch → Launch) : (s.updLaunch n f).vwmap = s.vwmap := rfl
@[simp] theorem updLaunch_mem (s : State) (n : Nat) (f : Launch → Launch) : (s.updLaunch n f).mem = s.mem := rfl
@[simp] theorem updLaunch_poison (s : State) (n : Nat) (f : Launch → Launch) : (s.updLaunch n f).poison = s.poison := rfl
@[simp] theorem updLaunch_poisonWs (s : State) (n : Nat) (f : Launch → Launch) : (s.updLaunch n f).poisonWs = s.poisonWs := rfl
@[simp] theorem updLaunch_dirty (s : State) (n : Nat) (f : Launch → Launch) : (s.updLaunch n f).dirty = s.dirty := rfl
@[simp] theorem updLaunch_acc (s : State) (n : Nat) (f : Launch → Launch) : (s.updLaunch n f).acc = s.acc := rfl
@[simp] theorem updLaunch_versions (s : State) (n : Nat) (f : Launch → Launch) : (s.updLaunch n f).versions = s.versions := rfl
@[simp] theorem updLaunch_slots (s : State) (n : Nat) (f : Launch → Launch) : (s.updLaunch n f).slots = s.slots := rfl
@[simp] theorem updLaunch_saved (s : State) (n : Nat) (f : Launch → Launch) : (s.updLaunch n f).saved = s.saved := rfl
@[simp] theorem updLaunch_vfs (s : State) (n : Nat) (f : Launch → Launch) : (s.updLaunch n f).vfs = s.vfs := rfl
@[simp] theorem updLaunch_deficit (s : State) (n : Nat) (f : Launch → Launch) : (s.updLaunch n f).deficit = s.deficit := rfl
@[simp] theorem updLaunch_freed (s : State) (n : Nat) (f : Launch → Launch) : (s.updLaunch n f).freed = s.freed := rfl
@[simp] theorem updLaunch_offered (s : State) (n : Nat) (f : Launch → Launch) : (s.updLaunch n f).offered = s.offered := rfl
@[simp] theorem updLaunch_ordering (s : State) (n : Nat) (f : Launch → Launch) : (s.updLaunch n f).ordering = s.ordering := rfl
@[simp] theorem updLaunch_topped (s : State) (n : Nat) (f : Launch → Launch) : (s.updLaunch n f).topped = s.topped := rfl
@[simp] theorem updLaunch_respec (s : State) (n : Nat) (f : Launch → Launch) : (s.updLaunch n f).respec = s.respec := rfl
@[simp] theorem updLaunch_links (s : State) (n : Nat) (f : Launch → Launch) : (s.updLaunch n f).links = s.links := rfl
@[simp] theorem updLaunch_meters (s : State) (n : Nat) (f : Launch → Launch) : (s.updLaunch n f).meters = s.meters := rfl
@[simp] theorem updLaunch_receivers (s : State) (n : Nat) (f : Launch → Launch) : (s.updLaunch n f).receivers = s.receivers := rfl
@[simp] theorem updLaunch_straits (s : State) (n : Nat) (f : Launch → Launch) : (s.updLaunch n f).straits = s.straits := rfl
@[simp] theorem updLaunch_xpts (s : State) (n : Nat) (f : Launch → Launch) : (s.updLaunch n f).xpts = s.xpts := rfl
@[simp] theorem updLaunch_loop (s : State) (n : Nat) (f : Launch → Launch) : (s.updLaunch n f).loop = s.loop := rfl
@[simp] theorem updLaunch_ingress (s : State) (n : Nat) (f : Launch → Launch) : (s.updLaunch n f).ingress = s.ingress := rfl
@[simp] theorem updLaunch_granules (s : State) (n : Nat) (f : Launch → Launch) : (s.updLaunch n f).granules = s.granules := rfl
@[simp] theorem updLaunch_guests (s : State) (n : Nat) (f : Launch → Launch) : (s.updLaunch n f).guests = s.guests := rfl
@[simp] theorem updLaunch_migContest (s : State) (n : Nat) (f : Launch → Launch) : (s.updLaunch n f).migContest = s.migContest := rfl
@[simp] theorem updLaunch_presence (s : State) (n : Nat) (f : Launch → Launch) : (s.updLaunch n f).presence = s.presence := rfl
@[simp] theorem updLaunch_ports (s : State) (n : Nat) (f : Launch → Launch) : (s.updLaunch n f).ports = s.ports := rfl
@[simp] theorem updLaunch_fabTimeout (s : State) (n : Nat) (f : Launch → Launch) : (s.updLaunch n f).fabTimeout = s.fabTimeout := rfl
@[simp] theorem updLaunch_foreign (s : State) (n : Nat) (f : Launch → Launch) : (s.updLaunch n f).foreign = s.foreign := rfl
@[simp] theorem updLaunch_trees (s : State) (n : Nat) (f : Launch → Launch) : (s.updLaunch n f).trees = s.trees := rfl
@[simp] theorem updLaunch_heldColl (s : State) (n : Nat) (f : Launch → Launch) : (s.updLaunch n f).heldColl = s.heldColl := rfl
@[simp] theorem updLaunch_heldTok (s : State) (n : Nat) (f : Launch → Launch) : (s.updLaunch n f).heldTok = s.heldTok := rfl
@[simp] theorem updLaunch_rotaEnded (s : State) (n : Nat) (f : Launch → Launch) : (s.updLaunch n f).rotaEnded = s.rotaEnded := rfl
@[simp] theorem updLaunch_dieDown (s : State) (n : Nat) (f : Launch → Launch) : (s.updLaunch n f).dieDown = s.dieDown := rfl
@[simp] theorem updLaunch_dieHeld (s : State) (n : Nat) (f : Launch → Launch) : (s.updLaunch n f).dieHeld = s.dieHeld := rfl
@[simp] theorem updLaunch_pmark (s : State) (n : Nat) (f : Launch → Launch) : (s.updLaunch n f).pmark = s.pmark := rfl
@[simp] theorem updLaunch_counters (s : State) (n : Nat) (f : Launch → Launch) : (s.updLaunch n f).counters = s.counters := rfl
@[simp] theorem updLaunch_out (s : State) (n : Nat) (f : Launch → Launch) : (s.updLaunch n f).out = s.out := rfl
@[simp] theorem setVf_time (s : State) (v : Nat) (x : Vf) : (s.setVf v x).time = s.time := rfl
@[simp] theorem setVf_mhz (s : State) (v : Nat) (x : Vf) : (s.setVf v x).mhz = s.mhz := rfl
@[simp] theorem setVf_turn (s : State) (v : Nat) (x : Vf) : (s.setVf v x).turn = s.turn := rfl
@[simp] theorem setVf_agenda (s : State) (v : Nat) (x : Vf) : (s.setVf v x).agenda = s.agenda := rfl
@[simp] theorem setVf_fresh (s : State) (v : Nat) (x : Vf) : (s.setVf v x).fresh = s.fresh := rfl
@[simp] theorem setVf_nextId (s : State) (v : Nat) (x : Vf) : (s.setVf v x).nextId = s.nextId := rfl
@[simp] theorem setVf_nextUid (s : State) (v : Nat) (x : Vf) : (s.setVf v x).nextUid = s.nextUid := rfl
@[simp] theorem setVf_nextLaunch (s : State) (v : Nat) (x : Vf) : (s.setVf v x).nextLaunch = s.nextLaunch := rfl
@[simp] theorem setVf_boot (s : State) (v : Nat) (x : Vf) : (s.setVf v x).boot = s.boot := rfl
@[simp] theorem setVf_image (s : State) (v : Nat) (x : Vf) : (s.setVf v x).image = s.image := rfl
@[simp] theorem setVf_lifeCycle (s : State) (v : Nat) (x : Vf) : (s.setVf v x).lifeCycle = s.lifeCycle := rfl
@[simp] theorem setVf_failed (s : State) (v : Nat) (x : Vf) : (s.setVf v x).failed = s.failed := rfl
@[simp] theorem setVf_popmap (s : State) (v : Nat) (x : Vf) : (s.setVf v x).popmap = s.popmap := rfl
@[simp] theorem setVf_mxmap (s : State) (v : Nat) (x : Vf) : (s.setVf v x).mxmap = s.mxmap := rfl
@[simp] theorem setVf_vwmap (s : State) (v : Nat) (x : Vf) : (s.setVf v x).vwmap = s.vwmap := rfl
@[simp] theorem setVf_mem (s : State) (v : Nat) (x : Vf) : (s.setVf v x).mem = s.mem := rfl
@[simp] theorem setVf_poison (s : State) (v : Nat) (x : Vf) : (s.setVf v x).poison = s.poison := rfl
@[simp] theorem setVf_poisonWs (s : State) (v : Nat) (x : Vf) : (s.setVf v x).poisonWs = s.poisonWs := rfl
@[simp] theorem setVf_dirty (s : State) (v : Nat) (x : Vf) : (s.setVf v x).dirty = s.dirty := rfl
@[simp] theorem setVf_acc (s : State) (v : Nat) (x : Vf) : (s.setVf v x).acc = s.acc := rfl
@[simp] theorem setVf_versions (s : State) (v : Nat) (x : Vf) : (s.setVf v x).versions = s.versions := rfl
@[simp] theorem setVf_slots (s : State) (v : Nat) (x : Vf) : (s.setVf v x).slots = s.slots := rfl
@[simp] theorem setVf_saved (s : State) (v : Nat) (x : Vf) : (s.setVf v x).saved = s.saved := rfl
@[simp] theorem setVf_launches (s : State) (v : Nat) (x : Vf) : (s.setVf v x).launches = s.launches := rfl
@[simp] theorem setVf_deficit (s : State) (v : Nat) (x : Vf) : (s.setVf v x).deficit = s.deficit := rfl
@[simp] theorem setVf_freed (s : State) (v : Nat) (x : Vf) : (s.setVf v x).freed = s.freed := rfl
@[simp] theorem setVf_offered (s : State) (v : Nat) (x : Vf) : (s.setVf v x).offered = s.offered := rfl
@[simp] theorem setVf_ordering (s : State) (v : Nat) (x : Vf) : (s.setVf v x).ordering = s.ordering := rfl
@[simp] theorem setVf_topped (s : State) (v : Nat) (x : Vf) : (s.setVf v x).topped = s.topped := rfl
@[simp] theorem setVf_respec (s : State) (v : Nat) (x : Vf) : (s.setVf v x).respec = s.respec := rfl
@[simp] theorem setVf_links (s : State) (v : Nat) (x : Vf) : (s.setVf v x).links = s.links := rfl
@[simp] theorem setVf_meters (s : State) (v : Nat) (x : Vf) : (s.setVf v x).meters = s.meters := rfl
@[simp] theorem setVf_receivers (s : State) (v : Nat) (x : Vf) : (s.setVf v x).receivers = s.receivers := rfl
@[simp] theorem setVf_straits (s : State) (v : Nat) (x : Vf) : (s.setVf v x).straits = s.straits := rfl
@[simp] theorem setVf_xpts (s : State) (v : Nat) (x : Vf) : (s.setVf v x).xpts = s.xpts := rfl
@[simp] theorem setVf_loop (s : State) (v : Nat) (x : Vf) : (s.setVf v x).loop = s.loop := rfl
@[simp] theorem setVf_ingress (s : State) (v : Nat) (x : Vf) : (s.setVf v x).ingress = s.ingress := rfl
@[simp] theorem setVf_granules (s : State) (v : Nat) (x : Vf) : (s.setVf v x).granules = s.granules := rfl
@[simp] theorem setVf_guests (s : State) (v : Nat) (x : Vf) : (s.setVf v x).guests = s.guests := rfl
@[simp] theorem setVf_migContest (s : State) (v : Nat) (x : Vf) : (s.setVf v x).migContest = s.migContest := rfl
@[simp] theorem setVf_presence (s : State) (v : Nat) (x : Vf) : (s.setVf v x).presence = s.presence := rfl
@[simp] theorem setVf_ports (s : State) (v : Nat) (x : Vf) : (s.setVf v x).ports = s.ports := rfl
@[simp] theorem setVf_fabTimeout (s : State) (v : Nat) (x : Vf) : (s.setVf v x).fabTimeout = s.fabTimeout := rfl
@[simp] theorem setVf_foreign (s : State) (v : Nat) (x : Vf) : (s.setVf v x).foreign = s.foreign := rfl
@[simp] theorem setVf_trees (s : State) (v : Nat) (x : Vf) : (s.setVf v x).trees = s.trees := rfl
@[simp] theorem setVf_heldColl (s : State) (v : Nat) (x : Vf) : (s.setVf v x).heldColl = s.heldColl := rfl
@[simp] theorem setVf_heldTok (s : State) (v : Nat) (x : Vf) : (s.setVf v x).heldTok = s.heldTok := rfl
@[simp] theorem setVf_rotaEnded (s : State) (v : Nat) (x : Vf) : (s.setVf v x).rotaEnded = s.rotaEnded := rfl
@[simp] theorem setVf_dieDown (s : State) (v : Nat) (x : Vf) : (s.setVf v x).dieDown = s.dieDown := rfl
@[simp] theorem setVf_dieHeld (s : State) (v : Nat) (x : Vf) : (s.setVf v x).dieHeld = s.dieHeld := rfl
@[simp] theorem setVf_pmark (s : State) (v : Nat) (x : Vf) : (s.setVf v x).pmark = s.pmark := rfl
@[simp] theorem setVf_counters (s : State) (v : Nat) (x : Vf) : (s.setVf v x).counters = s.counters := rfl
@[simp] theorem setVf_out (s : State) (v : Nat) (x : Vf) : (s.setVf v x).out = s.out := rfl
@[simp] theorem setQueue_time (s : State) (v q : Nat) (x : HwQueue) : (s.setQueue v q x).time = s.time := rfl
@[simp] theorem setQueue_mhz (s : State) (v q : Nat) (x : HwQueue) : (s.setQueue v q x).mhz = s.mhz := rfl
@[simp] theorem setQueue_turn (s : State) (v q : Nat) (x : HwQueue) : (s.setQueue v q x).turn = s.turn := rfl
@[simp] theorem setQueue_agenda (s : State) (v q : Nat) (x : HwQueue) : (s.setQueue v q x).agenda = s.agenda := rfl
@[simp] theorem setQueue_fresh (s : State) (v q : Nat) (x : HwQueue) : (s.setQueue v q x).fresh = s.fresh := rfl
@[simp] theorem setQueue_nextId (s : State) (v q : Nat) (x : HwQueue) : (s.setQueue v q x).nextId = s.nextId := rfl
@[simp] theorem setQueue_nextUid (s : State) (v q : Nat) (x : HwQueue) : (s.setQueue v q x).nextUid = s.nextUid := rfl
@[simp] theorem setQueue_nextLaunch (s : State) (v q : Nat) (x : HwQueue) : (s.setQueue v q x).nextLaunch = s.nextLaunch := rfl
@[simp] theorem setQueue_boot (s : State) (v q : Nat) (x : HwQueue) : (s.setQueue v q x).boot = s.boot := rfl
@[simp] theorem setQueue_image (s : State) (v q : Nat) (x : HwQueue) : (s.setQueue v q x).image = s.image := rfl
@[simp] theorem setQueue_lifeCycle (s : State) (v q : Nat) (x : HwQueue) : (s.setQueue v q x).lifeCycle = s.lifeCycle := rfl
@[simp] theorem setQueue_failed (s : State) (v q : Nat) (x : HwQueue) : (s.setQueue v q x).failed = s.failed := rfl
@[simp] theorem setQueue_popmap (s : State) (v q : Nat) (x : HwQueue) : (s.setQueue v q x).popmap = s.popmap := rfl
@[simp] theorem setQueue_mxmap (s : State) (v q : Nat) (x : HwQueue) : (s.setQueue v q x).mxmap = s.mxmap := rfl
@[simp] theorem setQueue_vwmap (s : State) (v q : Nat) (x : HwQueue) : (s.setQueue v q x).vwmap = s.vwmap := rfl
@[simp] theorem setQueue_mem (s : State) (v q : Nat) (x : HwQueue) : (s.setQueue v q x).mem = s.mem := rfl
@[simp] theorem setQueue_poison (s : State) (v q : Nat) (x : HwQueue) : (s.setQueue v q x).poison = s.poison := rfl
@[simp] theorem setQueue_poisonWs (s : State) (v q : Nat) (x : HwQueue) : (s.setQueue v q x).poisonWs = s.poisonWs := rfl
@[simp] theorem setQueue_dirty (s : State) (v q : Nat) (x : HwQueue) : (s.setQueue v q x).dirty = s.dirty := rfl
@[simp] theorem setQueue_acc (s : State) (v q : Nat) (x : HwQueue) : (s.setQueue v q x).acc = s.acc := rfl
@[simp] theorem setQueue_versions (s : State) (v q : Nat) (x : HwQueue) : (s.setQueue v q x).versions = s.versions := rfl
@[simp] theorem setQueue_slots (s : State) (v q : Nat) (x : HwQueue) : (s.setQueue v q x).slots = s.slots := rfl
@[simp] theorem setQueue_saved (s : State) (v q : Nat) (x : HwQueue) : (s.setQueue v q x).saved = s.saved := rfl
@[simp] theorem setQueue_launches (s : State) (v q : Nat) (x : HwQueue) : (s.setQueue v q x).launches = s.launches := rfl
@[simp] theorem setQueue_deficit (s : State) (v q : Nat) (x : HwQueue) : (s.setQueue v q x).deficit = s.deficit := rfl
@[simp] theorem setQueue_freed (s : State) (v q : Nat) (x : HwQueue) : (s.setQueue v q x).freed = s.freed := rfl
@[simp] theorem setQueue_offered (s : State) (v q : Nat) (x : HwQueue) : (s.setQueue v q x).offered = s.offered := rfl
@[simp] theorem setQueue_ordering (s : State) (v q : Nat) (x : HwQueue) : (s.setQueue v q x).ordering = s.ordering := rfl
@[simp] theorem setQueue_topped (s : State) (v q : Nat) (x : HwQueue) : (s.setQueue v q x).topped = s.topped := rfl
@[simp] theorem setQueue_respec (s : State) (v q : Nat) (x : HwQueue) : (s.setQueue v q x).respec = s.respec := rfl
@[simp] theorem setQueue_links (s : State) (v q : Nat) (x : HwQueue) : (s.setQueue v q x).links = s.links := rfl
@[simp] theorem setQueue_meters (s : State) (v q : Nat) (x : HwQueue) : (s.setQueue v q x).meters = s.meters := rfl
@[simp] theorem setQueue_receivers (s : State) (v q : Nat) (x : HwQueue) : (s.setQueue v q x).receivers = s.receivers := rfl
@[simp] theorem setQueue_straits (s : State) (v q : Nat) (x : HwQueue) : (s.setQueue v q x).straits = s.straits := rfl
@[simp] theorem setQueue_xpts (s : State) (v q : Nat) (x : HwQueue) : (s.setQueue v q x).xpts = s.xpts := rfl
@[simp] theorem setQueue_loop (s : State) (v q : Nat) (x : HwQueue) : (s.setQueue v q x).loop = s.loop := rfl
@[simp] theorem setQueue_ingress (s : State) (v q : Nat) (x : HwQueue) : (s.setQueue v q x).ingress = s.ingress := rfl
@[simp] theorem setQueue_granules (s : State) (v q : Nat) (x : HwQueue) : (s.setQueue v q x).granules = s.granules := rfl
@[simp] theorem setQueue_guests (s : State) (v q : Nat) (x : HwQueue) : (s.setQueue v q x).guests = s.guests := rfl
@[simp] theorem setQueue_migContest (s : State) (v q : Nat) (x : HwQueue) : (s.setQueue v q x).migContest = s.migContest := rfl
@[simp] theorem setQueue_presence (s : State) (v q : Nat) (x : HwQueue) : (s.setQueue v q x).presence = s.presence := rfl
@[simp] theorem setQueue_ports (s : State) (v q : Nat) (x : HwQueue) : (s.setQueue v q x).ports = s.ports := rfl
@[simp] theorem setQueue_fabTimeout (s : State) (v q : Nat) (x : HwQueue) : (s.setQueue v q x).fabTimeout = s.fabTimeout := rfl
@[simp] theorem setQueue_foreign (s : State) (v q : Nat) (x : HwQueue) : (s.setQueue v q x).foreign = s.foreign := rfl
@[simp] theorem setQueue_trees (s : State) (v q : Nat) (x : HwQueue) : (s.setQueue v q x).trees = s.trees := rfl
@[simp] theorem setQueue_heldColl (s : State) (v q : Nat) (x : HwQueue) : (s.setQueue v q x).heldColl = s.heldColl := rfl
@[simp] theorem setQueue_heldTok (s : State) (v q : Nat) (x : HwQueue) : (s.setQueue v q x).heldTok = s.heldTok := rfl
@[simp] theorem setQueue_rotaEnded (s : State) (v q : Nat) (x : HwQueue) : (s.setQueue v q x).rotaEnded = s.rotaEnded := rfl
@[simp] theorem setQueue_dieDown (s : State) (v q : Nat) (x : HwQueue) : (s.setQueue v q x).dieDown = s.dieDown := rfl
@[simp] theorem setQueue_dieHeld (s : State) (v q : Nat) (x : HwQueue) : (s.setQueue v q x).dieHeld = s.dieHeld := rfl
@[simp] theorem setQueue_pmark (s : State) (v q : Nat) (x : HwQueue) : (s.setQueue v q x).pmark = s.pmark := rfl
@[simp] theorem setQueue_counters (s : State) (v q : Nat) (x : HwQueue) : (s.setQueue v q x).counters = s.counters := rfl
@[simp] theorem setQueue_out (s : State) (v q : Nat) (x : HwQueue) : (s.setQueue v q x).out = s.out := rfl
@[simp] theorem send_time (s : State) (m : Out) : (s.send m).time = s.time := rfl
@[simp] theorem send_mhz (s : State) (m : Out) : (s.send m).mhz = s.mhz := rfl
@[simp] theorem send_turn (s : State) (m : Out) : (s.send m).turn = s.turn := rfl
@[simp] theorem send_agenda (s : State) (m : Out) : (s.send m).agenda = s.agenda := rfl
@[simp] theorem send_fresh (s : State) (m : Out) : (s.send m).fresh = s.fresh := rfl
@[simp] theorem send_nextId (s : State) (m : Out) : (s.send m).nextId = s.nextId := rfl
@[simp] theorem send_nextUid (s : State) (m : Out) : (s.send m).nextUid = s.nextUid := rfl
@[simp] theorem send_nextLaunch (s : State) (m : Out) : (s.send m).nextLaunch = s.nextLaunch := rfl
@[simp] theorem send_boot (s : State) (m : Out) : (s.send m).boot = s.boot := rfl
@[simp] theorem send_image (s : State) (m : Out) : (s.send m).image = s.image := rfl
@[simp] theorem send_lifeCycle (s : State) (m : Out) : (s.send m).lifeCycle = s.lifeCycle := rfl
@[simp] theorem send_failed (s : State) (m : Out) : (s.send m).failed = s.failed := rfl
@[simp] theorem send_popmap (s : State) (m : Out) : (s.send m).popmap = s.popmap := rfl
@[simp] theorem send_mxmap (s : State) (m : Out) : (s.send m).mxmap = s.mxmap := rfl
@[simp] theorem send_vwmap (s : State) (m : Out) : (s.send m).vwmap = s.vwmap := rfl
@[simp] theorem send_mem (s : State) (m : Out) : (s.send m).mem = s.mem := rfl
@[simp] theorem send_poison (s : State) (m : Out) : (s.send m).poison = s.poison := rfl
@[simp] theorem send_poisonWs (s : State) (m : Out) : (s.send m).poisonWs = s.poisonWs := rfl
@[simp] theorem send_dirty (s : State) (m : Out) : (s.send m).dirty = s.dirty := rfl
@[simp] theorem send_acc (s : State) (m : Out) : (s.send m).acc = s.acc := rfl
@[simp] theorem send_versions (s : State) (m : Out) : (s.send m).versions = s.versions := rfl
@[simp] theorem send_slots (s : State) (m : Out) : (s.send m).slots = s.slots := rfl
@[simp] theorem send_saved (s : State) (m : Out) : (s.send m).saved = s.saved := rfl
@[simp] theorem send_launches (s : State) (m : Out) : (s.send m).launches = s.launches := rfl
@[simp] theorem send_vfs (s : State) (m : Out) : (s.send m).vfs = s.vfs := rfl
@[simp] theorem send_deficit (s : State) (m : Out) : (s.send m).deficit = s.deficit := rfl
@[simp] theorem send_freed (s : State) (m : Out) : (s.send m).freed = s.freed := rfl
@[simp] theorem send_offered (s : State) (m : Out) : (s.send m).offered = s.offered := rfl
@[simp] theorem send_ordering (s : State) (m : Out) : (s.send m).ordering = s.ordering := rfl
@[simp] theorem send_topped (s : State) (m : Out) : (s.send m).topped = s.topped := rfl
@[simp] theorem send_respec (s : State) (m : Out) : (s.send m).respec = s.respec := rfl
@[simp] theorem send_links (s : State) (m : Out) : (s.send m).links = s.links := rfl
@[simp] theorem send_meters (s : State) (m : Out) : (s.send m).meters = s.meters := rfl
@[simp] theorem send_receivers (s : State) (m : Out) : (s.send m).receivers = s.receivers := rfl
@[simp] theorem send_straits (s : State) (m : Out) : (s.send m).straits = s.straits := rfl
@[simp] theorem send_xpts (s : State) (m : Out) : (s.send m).xpts = s.xpts := rfl
@[simp] theorem send_loop (s : State) (m : Out) : (s.send m).loop = s.loop := rfl
@[simp] theorem send_ingress (s : State) (m : Out) : (s.send m).ingress = s.ingress := rfl
@[simp] theorem send_granules (s : State) (m : Out) : (s.send m).granules = s.granules := rfl
@[simp] theorem send_guests (s : State) (m : Out) : (s.send m).guests = s.guests := rfl
@[simp] theorem send_migContest (s : State) (m : Out) : (s.send m).migContest = s.migContest := rfl
@[simp] theorem send_presence (s : State) (m : Out) : (s.send m).presence = s.presence := rfl
@[simp] theorem send_ports (s : State) (m : Out) : (s.send m).ports = s.ports := rfl
@[simp] theorem send_fabTimeout (s : State) (m : Out) : (s.send m).fabTimeout = s.fabTimeout := rfl
@[simp] theorem send_foreign (s : State) (m : Out) : (s.send m).foreign = s.foreign := rfl
@[simp] theorem send_trees (s : State) (m : Out) : (s.send m).trees = s.trees := rfl
@[simp] theorem send_heldColl (s : State) (m : Out) : (s.send m).heldColl = s.heldColl := rfl
@[simp] theorem send_heldTok (s : State) (m : Out) : (s.send m).heldTok = s.heldTok := rfl
@[simp] theorem send_rotaEnded (s : State) (m : Out) : (s.send m).rotaEnded = s.rotaEnded := rfl
@[simp] theorem send_dieDown (s : State) (m : Out) : (s.send m).dieDown = s.dieDown := rfl
@[simp] theorem send_dieHeld (s : State) (m : Out) : (s.send m).dieHeld = s.dieHeld := rfl
@[simp] theorem send_pmark (s : State) (m : Out) : (s.send m).pmark = s.pmark := rfl
@[simp] theorem send_counters (s : State) (m : Out) : (s.send m).counters = s.counters := rfl
@[simp] theorem send_out (s : State) (m : Out) : (s.send m).out = s.out ++ [m] := rfl
@[simp] theorem count_time (s : State) (b n : Nat) : (s.count b n).time = s.time := rfl
@[simp] theorem count_mhz (s : State) (b n : Nat) : (s.count b n).mhz = s.mhz := rfl
@[simp] theorem count_turn (s : State) (b n : Nat) : (s.count b n).turn = s.turn := rfl
@[simp] theorem count_agenda (s : State) (b n : Nat) : (s.count b n).agenda = s.agenda := rfl
@[simp] theorem count_fresh (s : State) (b n : Nat) : (s.count b n).fresh = s.fresh := rfl
@[simp] theorem count_nextId (s : State) (b n : Nat) : (s.count b n).nextId = s.nextId := rfl
@[simp] theorem count_nextUid (s : State) (b n : Nat) : (s.count b n).nextUid = s.nextUid := rfl
@[simp] theorem count_nextLaunch (s : State) (b n : Nat) : (s.count b n).nextLaunch = s.nextLaunch := rfl
@[simp] theorem count_boot (s : State) (b n : Nat) : (s.count b n).boot = s.boot := rfl
@[simp] theorem count_image (s : State) (b n : Nat) : (s.count b n).image = s.image := rfl
@[simp] theorem count_lifeCycle (s : State) (b n : Nat) : (s.count b n).lifeCycle = s.lifeCycle := rfl
@[simp] theorem count_failed (s : State) (b n : Nat) : (s.count b n).failed = s.failed := rfl
@[simp] theorem count_popmap (s : State) (b n : Nat) : (s.count b n).popmap = s.popmap := rfl
@[simp] theorem count_mxmap (s : State) (b n : Nat) : (s.count b n).mxmap = s.mxmap := rfl
@[simp] theorem count_vwmap (s : State) (b n : Nat) : (s.count b n).vwmap = s.vwmap := rfl
@[simp] theorem count_mem (s : State) (b n : Nat) : (s.count b n).mem = s.mem := rfl
@[simp] theorem count_poison (s : State) (b n : Nat) : (s.count b n).poison = s.poison := rfl
@[simp] theorem count_poisonWs (s : State) (b n : Nat) : (s.count b n).poisonWs = s.poisonWs := rfl
@[simp] theorem count_dirty (s : State) (b n : Nat) : (s.count b n).dirty = s.dirty := rfl
@[simp] theorem count_acc (s : State) (b n : Nat) : (s.count b n).acc = s.acc := rfl
@[simp] theorem count_versions (s : State) (b n : Nat) : (s.count b n).versions = s.versions := rfl
@[simp] theorem count_slots (s : State) (b n : Nat) : (s.count b n).slots = s.slots := rfl
@[simp] theorem count_saved (s : State) (b n : Nat) : (s.count b n).saved = s.saved := rfl
@[simp] theorem count_launches (s : State) (b n : Nat) : (s.count b n).launches = s.launches := rfl
@[simp] theorem count_vfs (s : State) (b n : Nat) : (s.count b n).vfs = s.vfs := rfl
@[simp] theorem count_deficit (s : State) (b n : Nat) : (s.count b n).deficit = s.deficit := rfl
@[simp] theorem count_freed (s : State) (b n : Nat) : (s.count b n).freed = s.freed := rfl
@[simp] theorem count_offered (s : State) (b n : Nat) : (s.count b n).offered = s.offered := rfl
@[simp] theorem count_ordering (s : State) (b n : Nat) : (s.count b n).ordering = s.ordering := rfl
@[simp] theorem count_topped (s : State) (b n : Nat) : (s.count b n).topped = s.topped := rfl
@[simp] theorem count_respec (s : State) (b n : Nat) : (s.count b n).respec = s.respec := rfl
@[simp] theorem count_links (s : State) (b n : Nat) : (s.count b n).links = s.links := rfl
@[simp] theorem count_meters (s : State) (b n : Nat) : (s.count b n).meters = s.meters := rfl
@[simp] theorem count_receivers (s : State) (b n : Nat) : (s.count b n).receivers = s.receivers := rfl
@[simp] theorem count_straits (s : State) (b n : Nat) : (s.count b n).straits = s.straits := rfl
@[simp] theorem count_xpts (s : State) (b n : Nat) : (s.count b n).xpts = s.xpts := rfl
@[simp] theorem count_loop (s : State) (b n : Nat) : (s.count b n).loop = s.loop := rfl
@[simp] theorem count_ingress (s : State) (b n : Nat) : (s.count b n).ingress = s.ingress := rfl
@[simp] theorem count_granules (s : State) (b n : Nat) : (s.count b n).granules = s.granules := rfl
@[simp] theorem count_guests (s : State) (b n : Nat) : (s.count b n).guests = s.guests := rfl
@[simp] theorem count_migContest (s : State) (b n : Nat) : (s.count b n).migContest = s.migContest := rfl
@[simp] theorem count_presence (s : State) (b n : Nat) : (s.count b n).presence = s.presence := rfl
@[simp] theorem count_ports (s : State) (b n : Nat) : (s.count b n).ports = s.ports := rfl
@[simp] theorem count_fabTimeout (s : State) (b n : Nat) : (s.count b n).fabTimeout = s.fabTimeout := rfl
@[simp] theorem count_foreign (s : State) (b n : Nat) : (s.count b n).foreign = s.foreign := rfl
@[simp] theorem count_trees (s : State) (b n : Nat) : (s.count b n).trees = s.trees := rfl
@[simp] theorem count_heldColl (s : State) (b n : Nat) : (s.count b n).heldColl = s.heldColl := rfl
@[simp] theorem count_heldTok (s : State) (b n : Nat) : (s.count b n).heldTok = s.heldTok := rfl
@[simp] theorem count_rotaEnded (s : State) (b n : Nat) : (s.count b n).rotaEnded = s.rotaEnded := rfl
@[simp] theorem count_dieDown (s : State) (b n : Nat) : (s.count b n).dieDown = s.dieDown := rfl
@[simp] theorem count_dieHeld (s : State) (b n : Nat) : (s.count b n).dieHeld = s.dieHeld := rfl
@[simp] theorem count_pmark (s : State) (b n : Nat) : (s.count b n).pmark = s.pmark := rfl
@[simp] theorem count_out (s : State) (b n : Nat) : (s.count b n).out = s.out := rfl
@[simp] theorem setLink_time (s : State) (l : Nat) (x : Link) : (s.setLink l x).time = s.time := rfl
@[simp] theorem setLink_mhz (s : State) (l : Nat) (x : Link) : (s.setLink l x).mhz = s.mhz := rfl
@[simp] theorem setLink_turn (s : State) (l : Nat) (x : Link) : (s.setLink l x).turn = s.turn := rfl
@[simp] theorem setLink_agenda (s : State) (l : Nat) (x : Link) : (s.setLink l x).agenda = s.agenda := rfl
@[simp] theorem setLink_fresh (s : State) (l : Nat) (x : Link) : (s.setLink l x).fresh = s.fresh := rfl
@[simp] theorem setLink_nextId (s : State) (l : Nat) (x : Link) : (s.setLink l x).nextId = s.nextId := rfl
@[simp] theorem setLink_nextUid (s : State) (l : Nat) (x : Link) : (s.setLink l x).nextUid = s.nextUid := rfl
@[simp] theorem setLink_nextLaunch (s : State) (l : Nat) (x : Link) : (s.setLink l x).nextLaunch = s.nextLaunch := rfl
@[simp] theorem setLink_boot (s : State) (l : Nat) (x : Link) : (s.setLink l x).boot = s.boot := rfl
@[simp] theorem setLink_image (s : State) (l : Nat) (x : Link) : (s.setLink l x).image = s.image := rfl
@[simp] theorem setLink_lifeCycle (s : State) (l : Nat) (x : Link) : (s.setLink l x).lifeCycle = s.lifeCycle := rfl
@[simp] theorem setLink_failed (s : State) (l : Nat) (x : Link) : (s.setLink l x).failed = s.failed := rfl
@[simp] theorem setLink_popmap (s : State) (l : Nat) (x : Link) : (s.setLink l x).popmap = s.popmap := rfl
@[simp] theorem setLink_mxmap (s : State) (l : Nat) (x : Link) : (s.setLink l x).mxmap = s.mxmap := rfl
@[simp] theorem setLink_vwmap (s : State) (l : Nat) (x : Link) : (s.setLink l x).vwmap = s.vwmap := rfl
@[simp] theorem setLink_mem (s : State) (l : Nat) (x : Link) : (s.setLink l x).mem = s.mem := rfl
@[simp] theorem setLink_poison (s : State) (l : Nat) (x : Link) : (s.setLink l x).poison = s.poison := rfl
@[simp] theorem setLink_poisonWs (s : State) (l : Nat) (x : Link) : (s.setLink l x).poisonWs = s.poisonWs := rfl
@[simp] theorem setLink_dirty (s : State) (l : Nat) (x : Link) : (s.setLink l x).dirty = s.dirty := rfl
@[simp] theorem setLink_acc (s : State) (l : Nat) (x : Link) : (s.setLink l x).acc = s.acc := rfl
@[simp] theorem setLink_versions (s : State) (l : Nat) (x : Link) : (s.setLink l x).versions = s.versions := rfl
@[simp] theorem setLink_slots (s : State) (l : Nat) (x : Link) : (s.setLink l x).slots = s.slots := rfl
@[simp] theorem setLink_saved (s : State) (l : Nat) (x : Link) : (s.setLink l x).saved = s.saved := rfl
@[simp] theorem setLink_launches (s : State) (l : Nat) (x : Link) : (s.setLink l x).launches = s.launches := rfl
@[simp] theorem setLink_vfs (s : State) (l : Nat) (x : Link) : (s.setLink l x).vfs = s.vfs := rfl
@[simp] theorem setLink_deficit (s : State) (l : Nat) (x : Link) : (s.setLink l x).deficit = s.deficit := rfl
@[simp] theorem setLink_freed (s : State) (l : Nat) (x : Link) : (s.setLink l x).freed = s.freed := rfl
@[simp] theorem setLink_offered (s : State) (l : Nat) (x : Link) : (s.setLink l x).offered = s.offered := rfl
@[simp] theorem setLink_ordering (s : State) (l : Nat) (x : Link) : (s.setLink l x).ordering = s.ordering := rfl
@[simp] theorem setLink_topped (s : State) (l : Nat) (x : Link) : (s.setLink l x).topped = s.topped := rfl
@[simp] theorem setLink_respec (s : State) (l : Nat) (x : Link) : (s.setLink l x).respec = s.respec := rfl
@[simp] theorem setLink_meters (s : State) (l : Nat) (x : Link) : (s.setLink l x).meters = s.meters := rfl
@[simp] theorem setLink_receivers (s : State) (l : Nat) (x : Link) : (s.setLink l x).receivers = s.receivers := rfl
@[simp] theorem setLink_straits (s : State) (l : Nat) (x : Link) : (s.setLink l x).straits = s.straits := rfl
@[simp] theorem setLink_xpts (s : State) (l : Nat) (x : Link) : (s.setLink l x).xpts = s.xpts := rfl
@[simp] theorem setLink_loop (s : State) (l : Nat) (x : Link) : (s.setLink l x).loop = s.loop := rfl
@[simp] theorem setLink_ingress (s : State) (l : Nat) (x : Link) : (s.setLink l x).ingress = s.ingress := rfl
@[simp] theorem setLink_granules (s : State) (l : Nat) (x : Link) : (s.setLink l x).granules = s.granules := rfl
@[simp] theorem setLink_guests (s : State) (l : Nat) (x : Link) : (s.setLink l x).guests = s.guests := rfl
@[simp] theorem setLink_migContest (s : State) (l : Nat) (x : Link) : (s.setLink l x).migContest = s.migContest := rfl
@[simp] theorem setLink_presence (s : State) (l : Nat) (x : Link) : (s.setLink l x).presence = s.presence := rfl
@[simp] theorem setLink_ports (s : State) (l : Nat) (x : Link) : (s.setLink l x).ports = s.ports := rfl
@[simp] theorem setLink_fabTimeout (s : State) (l : Nat) (x : Link) : (s.setLink l x).fabTimeout = s.fabTimeout := rfl
@[simp] theorem setLink_foreign (s : State) (l : Nat) (x : Link) : (s.setLink l x).foreign = s.foreign := rfl
@[simp] theorem setLink_trees (s : State) (l : Nat) (x : Link) : (s.setLink l x).trees = s.trees := rfl
@[simp] theorem setLink_heldColl (s : State) (l : Nat) (x : Link) : (s.setLink l x).heldColl = s.heldColl := rfl
@[simp] theorem setLink_heldTok (s : State) (l : Nat) (x : Link) : (s.setLink l x).heldTok = s.heldTok := rfl
@[simp] theorem setLink_rotaEnded (s : State) (l : Nat) (x : Link) : (s.setLink l x).rotaEnded = s.rotaEnded := rfl
@[simp] theorem setLink_dieDown (s : State) (l : Nat) (x : Link) : (s.setLink l x).dieDown = s.dieDown := rfl
@[simp] theorem setLink_dieHeld (s : State) (l : Nat) (x : Link) : (s.setLink l x).dieHeld = s.dieHeld := rfl
@[simp] theorem setLink_pmark (s : State) (l : Nat) (x : Link) : (s.setLink l x).pmark = s.pmark := rfl
@[simp] theorem setLink_counters (s : State) (l : Nat) (x : Link) : (s.setLink l x).counters = s.counters := rfl
@[simp] theorem setLink_out (s : State) (l : Nat) (x : Link) : (s.setLink l x).out = s.out := rfl

/-! ## Instances -/

@[simp] theorem updCtx_uid (i : Inst) (c : Ctx) (f : CtxState → CtxState) : (i.updCtx c f).uid = i.uid := by cases c <;> rfl
@[simp] theorem updCtx_launch (i : Inst) (c : Ctx) (f : CtxState → CtxState) : (i.updCtx c f).launch = i.launch := by cases c <;> rfl
@[simp] theorem updCtx_rank (i : Inst) (c : Ctx) (f : CtxState → CtxState) : (i.updCtx c f).rank = i.rank := by cases c <;> rfl
@[simp] theorem updCtx_cls (i : Inst) (c : Ctx) (f : CtxState → CtxState) : (i.updCtx c f).cls = i.cls := by cases c <;> rfl
@[simp] theorem updCtx_counts (i : Inst) (c : Ctx) (f : CtxState → CtxState) : (i.updCtx c f).counts = i.counts := by cases c <;> rfl
@[simp] theorem updCtx_qs (i : Inst) (c : Ctx) (f : CtxState → CtxState) : (i.updCtx c f).qs = i.qs := by cases c <;> rfl
@[simp] theorem updCtx_v (i : Inst) (c : Ctx) (f : CtxState → CtxState) : (i.updCtx c f).v = i.v := by cases c <;> rfl
@[simp] theorem updCtx_m (i : Inst) (c : Ctx) (f : CtxState → CtxState) : (i.updCtx c f).m = i.m := by cases c <;> rfl
@[simp] theorem updCtx_t (i : Inst) (c : Ctx) (f : CtxState → CtxState) : (i.updCtx c f).t = i.t := by cases c <;> rfl
@[simp] theorem updCtx_h (i : Inst) (c : Ctx) (f : CtxState → CtxState) : (i.updCtx c f).h = i.h := by cases c <;> rfl
@[simp] theorem updCtx_acc (i : Inst) (c : Ctx) (f : CtxState → CtxState) : (i.updCtx c f).acc = i.acc := by cases c <;> rfl
@[simp] theorem updCtx_accPoison (i : Inst) (c : Ctx) (f : CtxState → CtxState) : (i.updCtx c f).accPoison = i.accPoison := by cases c <;> rfl
@[simp] theorem updCtx_spad (i : Inst) (c : Ctx) (f : CtxState → CtxState) : (i.updCtx c f).spad = i.spad := by cases c <;> rfl
@[simp] theorem updCtx_spadPoison (i : Inst) (c : Ctx) (f : CtxState → CtxState) : (i.updCtx c f).spadPoison = i.spadPoison := by cases c <;> rfl
@[simp] theorem updCtx_vcyc (i : Inst) (c : Ctx) (f : CtxState → CtxState) : (i.updCtx c f).vcyc = i.vcyc := by cases c <;> rfl
@[simp] theorem updCtx_win (i : Inst) (c : Ctx) (f : CtxState → CtxState) : (i.updCtx c f).win = i.win := by cases c <;> rfl
@[simp] theorem updCtx_tmode (i : Inst) (c : Ctx) (f : CtxState → CtxState) : (i.updCtx c f).tmode = i.tmode := by cases c <;> rfl
@[simp] theorem updCtx_fex (i : Inst) (c : Ctx) (f : CtxState → CtxState) : (i.updCtx c f).fex = i.fex := by cases c <;> rfl
@[simp] theorem updCtx_mflags (i : Inst) (c : Ctx) (f : CtxState → CtxState) : (i.updCtx c f).mflags = i.mflags := by cases c <;> rfl
@[simp] theorem updCtx_fltCause (i : Inst) (c : Ctx) (f : CtxState → CtxState) : (i.updCtx c f).fltCause = i.fltCause := by cases c <;> rfl
@[simp] theorem updCtx_fltPc (i : Inst) (c : Ctx) (f : CtxState → CtxState) : (i.updCtx c f).fltPc = i.fltPc := by cases c <;> rfl
@[simp] theorem updCtx_fltAddr (i : Inst) (c : Ctx) (f : CtxState → CtxState) : (i.updCtx c f).fltAddr = i.fltAddr := by cases c <;> rfl
@[simp] theorem updCtx_eccLog (i : Inst) (c : Ctx) (f : CtxState → CtxState) : (i.updCtx c f).eccLog = i.eccLog := by cases c <;> rfl
@[simp] theorem updCtx_cntMx (i : Inst) (c : Ctx) (f : CtxState → CtxState) : (i.updCtx c f).cntMx = i.cntMx := by cases c <;> rfl
@[simp] theorem updCtx_cntCp (i : Inst) (c : Ctx) (f : CtxState → CtxState) : (i.updCtx c f).cntCp = i.cntCp := by cases c <;> rfl
@[simp] theorem updCtx_cntAt (i : Inst) (c : Ctx) (f : CtxState → CtxState) : (i.updCtx c f).cntAt = i.cntAt := by cases c <;> rfl
@[simp] theorem updCtx_cntCl (i : Inst) (c : Ctx) (f : CtxState → CtxState) : (i.updCtx c f).cntCl = i.cntCl := by cases c <;> rfl
@[simp] theorem updCtx_cntCi (i : Inst) (c : Ctx) (f : CtxState → CtxState) : (i.updCtx c f).cntCi = i.cntCi := by cases c <;> rfl
@[simp] theorem updCtx_cntTd (i : Inst) (c : Ctx) (f : CtxState → CtxState) : (i.updCtx c f).cntTd = i.cntTd := by cases c <;> rfl
@[simp] theorem updCtx_tideSt (i : Inst) (c : Ctx) (f : CtxState → CtxState) : (i.updCtx c f).tideSt = i.tideSt := by cases c <;> rfl
@[simp] theorem updCtx_mwsel (i : Inst) (c : Ctx) (f : CtxState → CtxState) : (i.updCtx c f).mwsel = i.mwsel := by cases c <;> rfl
@[simp] theorem updCtx_wins (i : Inst) (c : Ctx) (f : CtxState → CtxState) : (i.updCtx c f).wins = i.wins := by cases c <;> rfl
@[simp] theorem updCtx_arr (i : Inst) (c : Ctx) (f : CtxState → CtxState) : (i.updCtx c f).arr = i.arr := by cases c <;> rfl
@[simp] theorem updCtx_succ (i : Inst) (c : Ctx) (f : CtxState → CtxState) : (i.updCtx c f).succ = i.succ := by cases c <;> rfl
@[simp] theorem updCtx_wb (i : Inst) (c : Ctx) (f : CtxState → CtxState) : (i.updCtx c f).wb = i.wb := by cases c <;> rfl
@[simp] theorem updCtx_reqs (i : Inst) (c : Ctx) (f : CtxState → CtxState) : (i.updCtx c f).reqs = i.reqs := by cases c <;> rfl
@[simp] theorem updCtx_cmds (i : Inst) (c : Ctx) (f : CtxState → CtxState) : (i.updCtx c f).cmds = i.cmds := by cases c <;> rfl
@[simp] theorem updCtx_latch (i : Inst) (c : Ctx) (f : CtxState → CtxState) : (i.updCtx c f).latch = i.latch := by cases c <;> rfl
@[simp] theorem updCtx_engObs (i : Inst) (c : Ctx) (f : CtxState → CtxState) : (i.updCtx c f).engObs = i.engObs := by cases c <;> rfl
@[simp] theorem updCtx_engHost (i : Inst) (c : Ctx) (f : CtxState → CtxState) : (i.updCtx c f).engHost = i.engHost := by cases c <;> rfl
@[simp] theorem updCtx_rotaDone (i : Inst) (c : Ctx) (f : CtxState → CtxState) : (i.updCtx c f).rotaDone = i.rotaDone := by cases c <;> rfl
@[simp] theorem updCtx_frozen (i : Inst) (c : Ctx) (f : CtxState → CtxState) : (i.updCtx c f).frozen = i.frozen := by cases c <;> rfl
@[simp] theorem updCtx_refill (i : Inst) (c : Ctx) (f : CtxState → CtxState) : (i.updCtx c f).refill = i.refill := by cases c <;> rfl
@[simp] theorem updCtx_life (i : Inst) (c : Ctx) (f : CtxState → CtxState) : (i.updCtx c f).life = i.life := by cases c <;> rfl
@[simp] theorem updCtx_since (i : Inst) (c : Ctx) (f : CtxState → CtxState) : (i.updCtx c f).since = i.since := by cases c <;> rfl
@[simp] theorem updCtx_pool (i : Inst) (c : Ctx) (f : CtxState → CtxState) : (i.updCtx c f).pool = i.pool := by cases c <;> rfl
@[simp] theorem updCtx_slotBase (i : Inst) (c : Ctx) (f : CtxState → CtxState) : (i.updCtx c f).slotBase = i.slotBase := by cases c <;> rfl
@[simp] theorem updCtx_slotNo (i : Inst) (c : Ctx) (f : CtxState → CtxState) : (i.updCtx c f).slotNo = i.slotNo := by cases c <;> rfl
@[simp] theorem updCtx_goes (i : Inst) (c : Ctx) (f : CtxState → CtxState) : (i.updCtx c f).goes = i.goes := by cases c <;> rfl
@[simp] theorem updCtx_ctx (i : Inst) (c : Ctx) (f : CtxState → CtxState) : (i.updCtx c f).ctx c = f (i.ctx c) := by cases c <;> rfl
theorem updCtx_ctx_other (i : Inst) (c d : Ctx) (f : CtxState → CtxState) (h : d ≠ c) : (i.updCtx c f).ctx d = i.ctx d := by
  cases c <;> cases d <;> first | rfl | exact absurd rfl h
@[simp] theorem setFifo_uid (i : Inst) (n : Nat) (f : Fifo) : (i.setFifo n f).uid = i.uid := rfl
@[simp] theorem setFifo_launch (i : Inst) (n : Nat) (f : Fifo) : (i.setFifo n f).launch = i.launch := rfl
@[simp] theorem setFifo_rank (i : Inst) (n : Nat) (f : Fifo) : (i.setFifo n f).rank = i.rank := rfl
@[simp] theorem setFifo_cls (i : Inst) (n : Nat) (f : Fifo) : (i.setFifo n f).cls = i.cls := rfl
@[simp] theorem setFifo_counts (i : Inst) (n : Nat) (f : Fifo) : (i.setFifo n f).counts = i.counts := rfl
@[simp] theorem setFifo_ctxL (i : Inst) (n : Nat) (f : Fifo) : (i.setFifo n f).ctxL = i.ctxL := rfl
@[simp] theorem setFifo_ctxC (i : Inst) (n : Nat) (f : Fifo) : (i.setFifo n f).ctxC = i.ctxC := rfl
@[simp] theorem setFifo_ctxS (i : Inst) (n : Nat) (f : Fifo) : (i.setFifo n f).ctxS = i.ctxS := rfl
@[simp] theorem setFifo_v (i : Inst) (n : Nat) (f : Fifo) : (i.setFifo n f).v = i.v := rfl
@[simp] theorem setFifo_m (i : Inst) (n : Nat) (f : Fifo) : (i.setFifo n f).m = i.m := rfl
@[simp] theorem setFifo_t (i : Inst) (n : Nat) (f : Fifo) : (i.setFifo n f).t = i.t := rfl
@[simp] theorem setFifo_h (i : Inst) (n : Nat) (f : Fifo) : (i.setFifo n f).h = i.h := rfl
@[simp] theorem setFifo_acc (i : Inst) (n : Nat) (f : Fifo) : (i.setFifo n f).acc = i.acc := rfl
@[simp] theorem setFifo_accPoison (i : Inst) (n : Nat) (f : Fifo) : (i.setFifo n f).accPoison = i.accPoison := rfl
@[simp] theorem setFifo_spad (i : Inst) (n : Nat) (f : Fifo) : (i.setFifo n f).spad = i.spad := rfl
@[simp] theorem setFifo_spadPoison (i : Inst) (n : Nat) (f : Fifo) : (i.setFifo n f).spadPoison = i.spadPoison := rfl
@[simp] theorem setFifo_vcyc (i : Inst) (n : Nat) (f : Fifo) : (i.setFifo n f).vcyc = i.vcyc := rfl
@[simp] theorem setFifo_win (i : Inst) (n : Nat) (f : Fifo) : (i.setFifo n f).win = i.win := rfl
@[simp] theorem setFifo_tmode (i : Inst) (n : Nat) (f : Fifo) : (i.setFifo n f).tmode = i.tmode := rfl
@[simp] theorem setFifo_fex (i : Inst) (n : Nat) (f : Fifo) : (i.setFifo n f).fex = i.fex := rfl
@[simp] theorem setFifo_mflags (i : Inst) (n : Nat) (f : Fifo) : (i.setFifo n f).mflags = i.mflags := rfl
@[simp] theorem setFifo_fltCause (i : Inst) (n : Nat) (f : Fifo) : (i.setFifo n f).fltCause = i.fltCause := rfl
@[simp] theorem setFifo_fltPc (i : Inst) (n : Nat) (f : Fifo) : (i.setFifo n f).fltPc = i.fltPc := rfl
@[simp] theorem setFifo_fltAddr (i : Inst) (n : Nat) (f : Fifo) : (i.setFifo n f).fltAddr = i.fltAddr := rfl
@[simp] theorem setFifo_eccLog (i : Inst) (n : Nat) (f : Fifo) : (i.setFifo n f).eccLog = i.eccLog := rfl
@[simp] theorem setFifo_cntMx (i : Inst) (n : Nat) (f : Fifo) : (i.setFifo n f).cntMx = i.cntMx := rfl
@[simp] theorem setFifo_cntCp (i : Inst) (n : Nat) (f : Fifo) : (i.setFifo n f).cntCp = i.cntCp := rfl
@[simp] theorem setFifo_cntAt (i : Inst) (n : Nat) (f : Fifo) : (i.setFifo n f).cntAt = i.cntAt := rfl
@[simp] theorem setFifo_cntCl (i : Inst) (n : Nat) (f : Fifo) : (i.setFifo n f).cntCl = i.cntCl := rfl
@[simp] theorem setFifo_cntCi (i : Inst) (n : Nat) (f : Fifo) : (i.setFifo n f).cntCi = i.cntCi := rfl
@[simp] theorem setFifo_cntTd (i : Inst) (n : Nat) (f : Fifo) : (i.setFifo n f).cntTd = i.cntTd := rfl
@[simp] theorem setFifo_tideSt (i : Inst) (n : Nat) (f : Fifo) : (i.setFifo n f).tideSt = i.tideSt := rfl
@[simp] theorem setFifo_mwsel (i : Inst) (n : Nat) (f : Fifo) : (i.setFifo n f).mwsel = i.mwsel := rfl
@[simp] theorem setFifo_wins (i : Inst) (n : Nat) (f : Fifo) : (i.setFifo n f).wins = i.wins := rfl
@[simp] theorem setFifo_arr (i : Inst) (n : Nat) (f : Fifo) : (i.setFifo n f).arr = i.arr := rfl
@[simp] theorem setFifo_succ (i : Inst) (n : Nat) (f : Fifo) : (i.setFifo n f).succ = i.succ := rfl
@[simp] theorem setFifo_wb (i : Inst) (n : Nat) (f : Fifo) : (i.setFifo n f).wb = i.wb := rfl
@[simp] theorem setFifo_reqs (i : Inst) (n : Nat) (f : Fifo) : (i.setFifo n f).reqs = i.reqs := rfl
@[simp] theorem setFifo_cmds (i : Inst) (n : Nat) (f : Fifo) : (i.setFifo n f).cmds = i.cmds := rfl
@[simp] theorem setFifo_latch (i : Inst) (n : Nat) (f : Fifo) : (i.setFifo n f).latch = i.latch := rfl
@[simp] theorem setFifo_engObs (i : Inst) (n : Nat) (f : Fifo) : (i.setFifo n f).engObs = i.engObs := rfl
@[simp] theorem setFifo_engHost (i : Inst) (n : Nat) (f : Fifo) : (i.setFifo n f).engHost = i.engHost := rfl
@[simp] theorem setFifo_rotaDone (i : Inst) (n : Nat) (f : Fifo) : (i.setFifo n f).rotaDone = i.rotaDone := rfl
@[simp] theorem setFifo_frozen (i : Inst) (n : Nat) (f : Fifo) : (i.setFifo n f).frozen = i.frozen := rfl
@[simp] theorem setFifo_refill (i : Inst) (n : Nat) (f : Fifo) : (i.setFifo n f).refill = i.refill := rfl
@[simp] theorem setFifo_life (i : Inst) (n : Nat) (f : Fifo) : (i.setFifo n f).life = i.life := rfl
@[simp] theorem setFifo_since (i : Inst) (n : Nat) (f : Fifo) : (i.setFifo n f).since = i.since := rfl
@[simp] theorem setFifo_pool (i : Inst) (n : Nat) (f : Fifo) : (i.setFifo n f).pool = i.pool := rfl
@[simp] theorem setFifo_slotBase (i : Inst) (n : Nat) (f : Fifo) : (i.setFifo n f).slotBase = i.slotBase := rfl
@[simp] theorem setFifo_slotNo (i : Inst) (n : Nat) (f : Fifo) : (i.setFifo n f).slotNo = i.slotNo := rfl
@[simp] theorem setFifo_goes (i : Inst) (n : Nat) (f : Fifo) : (i.setFifo n f).goes = i.goes := rfl
@[simp] theorem setFifo_ctx (i : Inst) (n : Nat) (f : Fifo) (c : Ctx) : (i.setFifo n f).ctx c = i.ctx c := by cases c <;> rfl
@[simp] theorem later_uid (i : Inst) (c : Ctx) (d : WbDst) (v : BitVec 256) : (i.later c d v).uid = i.uid := rfl
@[simp] theorem later_launch (i : Inst) (c : Ctx) (d : WbDst) (v : BitVec 256) : (i.later c d v).launch = i.launch := rfl
@[simp] theorem later_rank (i : Inst) (c : Ctx) (d : WbDst) (v : BitVec 256) : (i.later c d v).rank = i.rank := rfl
@[simp] theorem later_cls (i : Inst) (c : Ctx) (d : WbDst) (v : BitVec 256) : (i.later c d v).cls = i.cls := rfl
@[simp] theorem later_counts (i : Inst) (c : Ctx) (d : WbDst) (v : BitVec 256) : (i.later c d v).counts = i.counts := rfl
@[simp] theorem later_ctxL (i : Inst) (c : Ctx) (d : WbDst) (v : BitVec 256) : (i.later c d v).ctxL = i.ctxL := rfl
@[simp] theorem later_ctxC (i : Inst) (c : Ctx) (d : WbDst) (v : BitVec 256) : (i.later c d v).ctxC = i.ctxC := rfl
@[simp] theorem later_ctxS (i : Inst) (c : Ctx) (d : WbDst) (v : BitVec 256) : (i.later c d v).ctxS = i.ctxS := rfl
@[simp] theorem later_qs (i : Inst) (c : Ctx) (d : WbDst) (v : BitVec 256) : (i.later c d v).qs = i.qs := rfl
@[simp] theorem later_v (i : Inst) (c : Ctx) (d : WbDst) (v : BitVec 256) : (i.later c d v).v = i.v := rfl
@[simp] theorem later_m (i : Inst) (c : Ctx) (d : WbDst) (v : BitVec 256) : (i.later c d v).m = i.m := rfl
@[simp] theorem later_t (i : Inst) (c : Ctx) (d : WbDst) (v : BitVec 256) : (i.later c d v).t = i.t := rfl
@[simp] theorem later_h (i : Inst) (c : Ctx) (d : WbDst) (v : BitVec 256) : (i.later c d v).h = i.h := rfl
@[simp] theorem later_acc (i : Inst) (c : Ctx) (d : WbDst) (v : BitVec 256) : (i.later c d v).acc = i.acc := rfl
@[simp] theorem later_accPoison (i : Inst) (c : Ctx) (d : WbDst) (v : BitVec 256) : (i.later c d v).accPoison = i.accPoison := rfl
@[simp] theorem later_spad (i : Inst) (c : Ctx) (d : WbDst) (v : BitVec 256) : (i.later c d v).spad = i.spad := rfl
@[simp] theorem later_spadPoison (i : Inst) (c : Ctx) (d : WbDst) (v : BitVec 256) : (i.later c d v).spadPoison = i.spadPoison := rfl
@[simp] theorem later_vcyc (i : Inst) (c : Ctx) (d : WbDst) (v : BitVec 256) : (i.later c d v).vcyc = i.vcyc := rfl
@[simp] theorem later_win (i : Inst) (c : Ctx) (d : WbDst) (v : BitVec 256) : (i.later c d v).win = i.win := rfl
@[simp] theorem later_tmode (i : Inst) (c : Ctx) (d : WbDst) (v : BitVec 256) : (i.later c d v).tmode = i.tmode := rfl
@[simp] theorem later_fex (i : Inst) (c : Ctx) (d : WbDst) (v : BitVec 256) : (i.later c d v).fex = i.fex := rfl
@[simp] theorem later_mflags (i : Inst) (c : Ctx) (d : WbDst) (v : BitVec 256) : (i.later c d v).mflags = i.mflags := rfl
@[simp] theorem later_fltCause (i : Inst) (c : Ctx) (d : WbDst) (v : BitVec 256) : (i.later c d v).fltCause = i.fltCause := rfl
@[simp] theorem later_fltPc (i : Inst) (c : Ctx) (d : WbDst) (v : BitVec 256) : (i.later c d v).fltPc = i.fltPc := rfl
@[simp] theorem later_fltAddr (i : Inst) (c : Ctx) (d : WbDst) (v : BitVec 256) : (i.later c d v).fltAddr = i.fltAddr := rfl
@[simp] theorem later_eccLog (i : Inst) (c : Ctx) (d : WbDst) (v : BitVec 256) : (i.later c d v).eccLog = i.eccLog := rfl
@[simp] theorem later_cntMx (i : Inst) (c : Ctx) (d : WbDst) (v : BitVec 256) : (i.later c d v).cntMx = i.cntMx := rfl
@[simp] theorem later_cntCp (i : Inst) (c : Ctx) (d : WbDst) (v : BitVec 256) : (i.later c d v).cntCp = i.cntCp := rfl
@[simp] theorem later_cntAt (i : Inst) (c : Ctx) (d : WbDst) (v : BitVec 256) : (i.later c d v).cntAt = i.cntAt := rfl
@[simp] theorem later_cntCl (i : Inst) (c : Ctx) (d : WbDst) (v : BitVec 256) : (i.later c d v).cntCl = i.cntCl := rfl
@[simp] theorem later_cntCi (i : Inst) (c : Ctx) (d : WbDst) (v : BitVec 256) : (i.later c d v).cntCi = i.cntCi := rfl
@[simp] theorem later_cntTd (i : Inst) (c : Ctx) (d : WbDst) (v : BitVec 256) : (i.later c d v).cntTd = i.cntTd := rfl
@[simp] theorem later_tideSt (i : Inst) (c : Ctx) (d : WbDst) (v : BitVec 256) : (i.later c d v).tideSt = i.tideSt := rfl
@[simp] theorem later_mwsel (i : Inst) (c : Ctx) (d : WbDst) (v : BitVec 256) : (i.later c d v).mwsel = i.mwsel := rfl
@[simp] theorem later_wins (i : Inst) (c : Ctx) (d : WbDst) (v : BitVec 256) : (i.later c d v).wins = i.wins := rfl
@[simp] theorem later_arr (i : Inst) (c : Ctx) (d : WbDst) (v : BitVec 256) : (i.later c d v).arr = i.arr := rfl
@[simp] theorem later_succ (i : Inst) (c : Ctx) (d : WbDst) (v : BitVec 256) : (i.later c d v).succ = i.succ := rfl
@[simp] theorem later_reqs (i : Inst) (c : Ctx) (d : WbDst) (v : BitVec 256) : (i.later c d v).reqs = i.reqs := rfl
@[simp] theorem later_cmds (i : Inst) (c : Ctx) (d : WbDst) (v : BitVec 256) : (i.later c d v).cmds = i.cmds := rfl
@[simp] theorem later_latch (i : Inst) (c : Ctx) (d : WbDst) (v : BitVec 256) : (i.later c d v).latch = i.latch := rfl
@[simp] theorem later_engObs (i : Inst) (c : Ctx) (d : WbDst) (v : BitVec 256) : (i.later c d v).engObs = i.engObs := rfl
@[simp] theorem later_engHost (i : Inst) (c : Ctx) (d : WbDst) (v : BitVec 256) : (i.later c d v).engHost = i.engHost := rfl
@[simp] theorem later_rotaDone (i : Inst) (c : Ctx) (d : WbDst) (v : BitVec 256) : (i.later c d v).rotaDone = i.rotaDone := rfl
@[simp] theorem later_frozen (i : Inst) (c : Ctx) (d : WbDst) (v : BitVec 256) : (i.later c d v).frozen = i.frozen := rfl
@[simp] theorem later_refill (i : Inst) (c : Ctx) (d : WbDst) (v : BitVec 256) : (i.later c d v).refill = i.refill := rfl
@[simp] theorem later_life (i : Inst) (c : Ctx) (d : WbDst) (v : BitVec 256) : (i.later c d v).life = i.life := rfl
@[simp] theorem later_since (i : Inst) (c : Ctx) (d : WbDst) (v : BitVec 256) : (i.later c d v).since = i.since := rfl
@[simp] theorem later_pool (i : Inst) (c : Ctx) (d : WbDst) (v : BitVec 256) : (i.later c d v).pool = i.pool := rfl
@[simp] theorem later_slotBase (i : Inst) (c : Ctx) (d : WbDst) (v : BitVec 256) : (i.later c d v).slotBase = i.slotBase := rfl
@[simp] theorem later_slotNo (i : Inst) (c : Ctx) (d : WbDst) (v : BitVec 256) : (i.later c d v).slotNo = i.slotNo := rfl
@[simp] theorem later_goes (i : Inst) (c : Ctx) (d : WbDst) (v : BitVec 256) : (i.later c d v).goes = i.goes := rfl
@[simp] theorem later_ctx (i : Inst) (c : Ctx) (d : WbDst) (v : BitVec 256) (e : Ctx) : (i.later c d v).ctx e = i.ctx e := by cases e <;> rfl
@[simp] theorem setHandle_uid (i : Inst) (n : Nat) (x : Handle) : (i.setHandle n x).uid = i.uid := rfl
@[simp] theorem setHandle_launch (i : Inst) (n : Nat) (x : Handle) : (i.setHandle n x).launch = i.launch := rfl
@[simp] theorem setHandle_rank (i : Inst) (n : Nat) (x : Handle) : (i.setHandle n x).rank = i.rank := rfl
@[simp] theorem setHandle_cls (i : Inst) (n : Nat) (x : Handle) : (i.setHandle n x).cls = i.cls := rfl
@[simp] theorem setHandle_counts (i : Inst) (n : Nat) (x : Handle) : (i.setHandle n x).counts = i.counts := rfl
@[simp] theorem setHandle_ctxL (i : Inst) (n : Nat) (x : Handle) : (i.setHandle n x).ctxL = i.ctxL := rfl
@[simp] theorem setHandle_ctxC (i : Inst) (n : Nat) (x : Handle) : (i.setHandle n x).ctxC = i.ctxC := rfl
@[simp] theorem setHandle_ctxS (i : Inst) (n : Nat) (x : Handle) : (i.setHandle n x).ctxS = i.ctxS := rfl
@[simp] theorem setHandle_qs (i : Inst) (n : Nat) (x : Handle) : (i.setHandle n x).qs = i.qs := rfl
@[simp] theorem setHandle_v (i : Inst) (n : Nat) (x : Handle) : (i.setHandle n x).v = i.v := rfl
@[simp] theorem setHandle_m (i : Inst) (n : Nat) (x : Handle) : (i.setHandle n x).m = i.m := rfl
@[simp] theorem setHandle_t (i : Inst) (n : Nat) (x : Handle) : (i.setHandle n x).t = i.t := rfl
@[simp] theorem setHandle_acc (i : Inst) (n : Nat) (x : Handle) : (i.setHandle n x).acc = i.acc := rfl
@[simp] theorem setHandle_accPoison (i : Inst) (n : Nat) (x : Handle) : (i.setHandle n x).accPoison = i.accPoison := rfl
@[simp] theorem setHandle_spad (i : Inst) (n : Nat) (x : Handle) : (i.setHandle n x).spad = i.spad := rfl
@[simp] theorem setHandle_spadPoison (i : Inst) (n : Nat) (x : Handle) : (i.setHandle n x).spadPoison = i.spadPoison := rfl
@[simp] theorem setHandle_vcyc (i : Inst) (n : Nat) (x : Handle) : (i.setHandle n x).vcyc = i.vcyc := rfl
@[simp] theorem setHandle_win (i : Inst) (n : Nat) (x : Handle) : (i.setHandle n x).win = i.win := rfl
@[simp] theorem setHandle_tmode (i : Inst) (n : Nat) (x : Handle) : (i.setHandle n x).tmode = i.tmode := rfl
@[simp] theorem setHandle_fex (i : Inst) (n : Nat) (x : Handle) : (i.setHandle n x).fex = i.fex := rfl
@[simp] theorem setHandle_mflags (i : Inst) (n : Nat) (x : Handle) : (i.setHandle n x).mflags = i.mflags := rfl
@[simp] theorem setHandle_fltCause (i : Inst) (n : Nat) (x : Handle) : (i.setHandle n x).fltCause = i.fltCause := rfl
@[simp] theorem setHandle_fltPc (i : Inst) (n : Nat) (x : Handle) : (i.setHandle n x).fltPc = i.fltPc := rfl
@[simp] theorem setHandle_fltAddr (i : Inst) (n : Nat) (x : Handle) : (i.setHandle n x).fltAddr = i.fltAddr := rfl
@[simp] theorem setHandle_eccLog (i : Inst) (n : Nat) (x : Handle) : (i.setHandle n x).eccLog = i.eccLog := rfl
@[simp] theorem setHandle_cntMx (i : Inst) (n : Nat) (x : Handle) : (i.setHandle n x).cntMx = i.cntMx := rfl
@[simp] theorem setHandle_cntCp (i : Inst) (n : Nat) (x : Handle) : (i.setHandle n x).cntCp = i.cntCp := rfl
@[simp] theorem setHandle_cntAt (i : Inst) (n : Nat) (x : Handle) : (i.setHandle n x).cntAt = i.cntAt := rfl
@[simp] theorem setHandle_cntCl (i : Inst) (n : Nat) (x : Handle) : (i.setHandle n x).cntCl = i.cntCl := rfl
@[simp] theorem setHandle_cntCi (i : Inst) (n : Nat) (x : Handle) : (i.setHandle n x).cntCi = i.cntCi := rfl
@[simp] theorem setHandle_cntTd (i : Inst) (n : Nat) (x : Handle) : (i.setHandle n x).cntTd = i.cntTd := rfl
@[simp] theorem setHandle_tideSt (i : Inst) (n : Nat) (x : Handle) : (i.setHandle n x).tideSt = i.tideSt := rfl
@[simp] theorem setHandle_mwsel (i : Inst) (n : Nat) (x : Handle) : (i.setHandle n x).mwsel = i.mwsel := rfl
@[simp] theorem setHandle_wins (i : Inst) (n : Nat) (x : Handle) : (i.setHandle n x).wins = i.wins := rfl
@[simp] theorem setHandle_arr (i : Inst) (n : Nat) (x : Handle) : (i.setHandle n x).arr = i.arr := rfl
@[simp] theorem setHandle_succ (i : Inst) (n : Nat) (x : Handle) : (i.setHandle n x).succ = i.succ := rfl
@[simp] theorem setHandle_wb (i : Inst) (n : Nat) (x : Handle) : (i.setHandle n x).wb = i.wb := rfl
@[simp] theorem setHandle_reqs (i : Inst) (n : Nat) (x : Handle) : (i.setHandle n x).reqs = i.reqs := rfl
@[simp] theorem setHandle_cmds (i : Inst) (n : Nat) (x : Handle) : (i.setHandle n x).cmds = i.cmds := rfl
@[simp] theorem setHandle_latch (i : Inst) (n : Nat) (x : Handle) : (i.setHandle n x).latch = i.latch := rfl
@[simp] theorem setHandle_engObs (i : Inst) (n : Nat) (x : Handle) : (i.setHandle n x).engObs = i.engObs := rfl
@[simp] theorem setHandle_engHost (i : Inst) (n : Nat) (x : Handle) : (i.setHandle n x).engHost = i.engHost := rfl
@[simp] theorem setHandle_rotaDone (i : Inst) (n : Nat) (x : Handle) : (i.setHandle n x).rotaDone = i.rotaDone := rfl
@[simp] theorem setHandle_frozen (i : Inst) (n : Nat) (x : Handle) : (i.setHandle n x).frozen = i.frozen := rfl
@[simp] theorem setHandle_refill (i : Inst) (n : Nat) (x : Handle) : (i.setHandle n x).refill = i.refill := rfl
@[simp] theorem setHandle_life (i : Inst) (n : Nat) (x : Handle) : (i.setHandle n x).life = i.life := rfl
@[simp] theorem setHandle_since (i : Inst) (n : Nat) (x : Handle) : (i.setHandle n x).since = i.since := rfl
@[simp] theorem setHandle_pool (i : Inst) (n : Nat) (x : Handle) : (i.setHandle n x).pool = i.pool := rfl
@[simp] theorem setHandle_slotBase (i : Inst) (n : Nat) (x : Handle) : (i.setHandle n x).slotBase = i.slotBase := rfl
@[simp] theorem setHandle_slotNo (i : Inst) (n : Nat) (x : Handle) : (i.setHandle n x).slotNo = i.slotNo := rfl
@[simp] theorem setHandle_goes (i : Inst) (n : Nat) (x : Handle) : (i.setHandle n x).goes = i.goes := rfl
@[simp] theorem vSet_uid (i : Inst) (n l : Nat) (x : BitVec 32) : (i.vSet n l x).uid = i.uid := rfl
@[simp] theorem vSet_launch (i : Inst) (n l : Nat) (x : BitVec 32) : (i.vSet n l x).launch = i.launch := rfl
@[simp] theorem vSet_rank (i : Inst) (n l : Nat) (x : BitVec 32) : (i.vSet n l x).rank = i.rank := rfl
@[simp] theorem vSet_cls (i : Inst) (n l : Nat) (x : BitVec 32) : (i.vSet n l x).cls = i.cls := rfl
@[simp] theorem vSet_counts (i : Inst) (n l : Nat) (x : BitVec 32) : (i.vSet n l x).counts = i.counts := rfl
@[simp] theorem vSet_ctxL (i : Inst) (n l : Nat) (x : BitVec 32) : (i.vSet n l x).ctxL = i.ctxL := rfl
@[simp] theorem vSet_ctxC (i : Inst) (n l : Nat) (x : BitVec 32) : (i.vSet n l x).ctxC = i.ctxC := rfl
@[simp] theorem vSet_ctxS (i : Inst) (n l : Nat) (x : BitVec 32) : (i.vSet n l x).ctxS = i.ctxS := rfl
@[simp] theorem vSet_qs (i : Inst) (n l : Nat) (x : BitVec 32) : (i.vSet n l x).qs = i.qs := rfl
@[simp] theorem vSet_m (i : Inst) (n l : Nat) (x : BitVec 32) : (i.vSet n l x).m = i.m := rfl
@[simp] theorem vSet_t (i : Inst) (n l : Nat) (x : BitVec 32) : (i.vSet n l x).t = i.t := rfl
@[simp] theorem vSet_h (i : Inst) (n l : Nat) (x : BitVec 32) : (i.vSet n l x).h = i.h := rfl
@[simp] theorem vSet_acc (i : Inst) (n l : Nat) (x : BitVec 32) : (i.vSet n l x).acc = i.acc := rfl
@[simp] theorem vSet_accPoison (i : Inst) (n l : Nat) (x : BitVec 32) : (i.vSet n l x).accPoison = i.accPoison := rfl
@[simp] theorem vSet_spad (i : Inst) (n l : Nat) (x : BitVec 32) : (i.vSet n l x).spad = i.spad := rfl
@[simp] theorem vSet_spadPoison (i : Inst) (n l : Nat) (x : BitVec 32) : (i.vSet n l x).spadPoison = i.spadPoison := rfl
@[simp] theorem vSet_vcyc (i : Inst) (n l : Nat) (x : BitVec 32) : (i.vSet n l x).vcyc = i.vcyc := rfl
@[simp] theorem vSet_win (i : Inst) (n l : Nat) (x : BitVec 32) : (i.vSet n l x).win = i.win := rfl
@[simp] theorem vSet_tmode (i : Inst) (n l : Nat) (x : BitVec 32) : (i.vSet n l x).tmode = i.tmode := rfl
@[simp] theorem vSet_fex (i : Inst) (n l : Nat) (x : BitVec 32) : (i.vSet n l x).fex = i.fex := rfl
@[simp] theorem vSet_mflags (i : Inst) (n l : Nat) (x : BitVec 32) : (i.vSet n l x).mflags = i.mflags := rfl
@[simp] theorem vSet_fltCause (i : Inst) (n l : Nat) (x : BitVec 32) : (i.vSet n l x).fltCause = i.fltCause := rfl
@[simp] theorem vSet_fltPc (i : Inst) (n l : Nat) (x : BitVec 32) : (i.vSet n l x).fltPc = i.fltPc := rfl
@[simp] theorem vSet_fltAddr (i : Inst) (n l : Nat) (x : BitVec 32) : (i.vSet n l x).fltAddr = i.fltAddr := rfl
@[simp] theorem vSet_eccLog (i : Inst) (n l : Nat) (x : BitVec 32) : (i.vSet n l x).eccLog = i.eccLog := rfl
@[simp] theorem vSet_cntMx (i : Inst) (n l : Nat) (x : BitVec 32) : (i.vSet n l x).cntMx = i.cntMx := rfl
@[simp] theorem vSet_cntCp (i : Inst) (n l : Nat) (x : BitVec 32) : (i.vSet n l x).cntCp = i.cntCp := rfl
@[simp] theorem vSet_cntAt (i : Inst) (n l : Nat) (x : BitVec 32) : (i.vSet n l x).cntAt = i.cntAt := rfl
@[simp] theorem vSet_cntCl (i : Inst) (n l : Nat) (x : BitVec 32) : (i.vSet n l x).cntCl = i.cntCl := rfl
@[simp] theorem vSet_cntCi (i : Inst) (n l : Nat) (x : BitVec 32) : (i.vSet n l x).cntCi = i.cntCi := rfl
@[simp] theorem vSet_cntTd (i : Inst) (n l : Nat) (x : BitVec 32) : (i.vSet n l x).cntTd = i.cntTd := rfl
@[simp] theorem vSet_tideSt (i : Inst) (n l : Nat) (x : BitVec 32) : (i.vSet n l x).tideSt = i.tideSt := rfl
@[simp] theorem vSet_mwsel (i : Inst) (n l : Nat) (x : BitVec 32) : (i.vSet n l x).mwsel = i.mwsel := rfl
@[simp] theorem vSet_wins (i : Inst) (n l : Nat) (x : BitVec 32) : (i.vSet n l x).wins = i.wins := rfl
@[simp] theorem vSet_arr (i : Inst) (n l : Nat) (x : BitVec 32) : (i.vSet n l x).arr = i.arr := rfl
@[simp] theorem vSet_succ (i : Inst) (n l : Nat) (x : BitVec 32) : (i.vSet n l x).succ = i.succ := rfl
@[simp] theorem vSet_wb (i : Inst) (n l : Nat) (x : BitVec 32) : (i.vSet n l x).wb = i.wb := rfl
@[simp] theorem vSet_reqs (i : Inst) (n l : Nat) (x : BitVec 32) : (i.vSet n l x).reqs = i.reqs := rfl
@[simp] theorem vSet_cmds (i : Inst) (n l : Nat) (x : BitVec 32) : (i.vSet n l x).cmds = i.cmds := rfl
@[simp] theorem vSet_latch (i : Inst) (n l : Nat) (x : BitVec 32) : (i.vSet n l x).latch = i.latch := rfl
@[simp] theorem vSet_engObs (i : Inst) (n l : Nat) (x : BitVec 32) : (i.vSet n l x).engObs = i.engObs := rfl
@[simp] theorem vSet_engHost (i : Inst) (n l : Nat) (x : BitVec 32) : (i.vSet n l x).engHost = i.engHost := rfl
@[simp] theorem vSet_rotaDone (i : Inst) (n l : Nat) (x : BitVec 32) : (i.vSet n l x).rotaDone = i.rotaDone := rfl
@[simp] theorem vSet_frozen (i : Inst) (n l : Nat) (x : BitVec 32) : (i.vSet n l x).frozen = i.frozen := rfl
@[simp] theorem vSet_refill (i : Inst) (n l : Nat) (x : BitVec 32) : (i.vSet n l x).refill = i.refill := rfl
@[simp] theorem vSet_life (i : Inst) (n l : Nat) (x : BitVec 32) : (i.vSet n l x).life = i.life := rfl
@[simp] theorem vSet_since (i : Inst) (n l : Nat) (x : BitVec 32) : (i.vSet n l x).since = i.since := rfl
@[simp] theorem vSet_pool (i : Inst) (n l : Nat) (x : BitVec 32) : (i.vSet n l x).pool = i.pool := rfl
@[simp] theorem vSet_slotBase (i : Inst) (n l : Nat) (x : BitVec 32) : (i.vSet n l x).slotBase = i.slotBase := rfl
@[simp] theorem vSet_slotNo (i : Inst) (n l : Nat) (x : BitVec 32) : (i.vSet n l x).slotNo = i.slotNo := rfl
@[simp] theorem vSet_goes (i : Inst) (n l : Nat) (x : BitVec 32) : (i.vSet n l x).goes = i.goes := rfl
@[simp] theorem tSet_uid (i : Inst) (n : Nat) (x : BitVec 256) : (i.tSet n x).uid = i.uid := rfl
@[simp] theorem tSet_launch (i : Inst) (n : Nat) (x : BitVec 256) : (i.tSet n x).launch = i.launch := rfl
@[simp] theorem tSet_rank (i : Inst) (n : Nat) (x : BitVec 256) : (i.tSet n x).rank = i.rank := rfl
@[simp] theorem tSet_cls (i : Inst) (n : Nat) (x : BitVec 256) : (i.tSet n x).cls = i.cls := rfl
@[simp] theorem tSet_counts (i : Inst) (n : Nat) (x : BitVec 256) : (i.tSet n x).counts = i.counts := rfl
@[simp] theorem tSet_ctxL (i : Inst) (n : Nat) (x : BitVec 256) : (i.tSet n x).ctxL = i.ctxL := rfl
@[simp] theorem tSet_ctxC (i : Inst) (n : Nat) (x : BitVec 256) : (i.tSet n x).ctxC = i.ctxC := rfl
@[simp] theorem tSet_ctxS (i : Inst) (n : Nat) (x : BitVec 256) : (i.tSet n x).ctxS = i.ctxS := rfl
@[simp] theorem tSet_qs (i : Inst) (n : Nat) (x : BitVec 256) : (i.tSet n x).qs = i.qs := rfl
@[simp] theorem tSet_v (i : Inst) (n : Nat) (x : BitVec 256) : (i.tSet n x).v = i.v := rfl
@[simp] theorem tSet_m (i : Inst) (n : Nat) (x : BitVec 256) : (i.tSet n x).m = i.m := rfl
@[simp] theorem tSet_h (i : Inst) (n : Nat) (x : BitVec 256) : (i.tSet n x).h = i.h := rfl
@[simp] theorem tSet_acc (i : Inst) (n : Nat) (x : BitVec 256) : (i.tSet n x).acc = i.acc := rfl
@[simp] theorem tSet_accPoison (i : Inst) (n : Nat) (x : BitVec 256) : (i.tSet n x).accPoison = i.accPoison := rfl
@[simp] theorem tSet_spad (i : Inst) (n : Nat) (x : BitVec 256) : (i.tSet n x).spad = i.spad := rfl
@[simp] theorem tSet_spadPoison (i : Inst) (n : Nat) (x : BitVec 256) : (i.tSet n x).spadPoison = i.spadPoison := rfl
@[simp] theorem tSet_vcyc (i : Inst) (n : Nat) (x : BitVec 256) : (i.tSet n x).vcyc = i.vcyc := rfl
@[simp] theorem tSet_win (i : Inst) (n : Nat) (x : BitVec 256) : (i.tSet n x).win = i.win := rfl
@[simp] theorem tSet_tmode (i : Inst) (n : Nat) (x : BitVec 256) : (i.tSet n x).tmode = i.tmode := rfl
@[simp] theorem tSet_fex (i : Inst) (n : Nat) (x : BitVec 256) : (i.tSet n x).fex = i.fex := rfl
@[simp] theorem tSet_mflags (i : Inst) (n : Nat) (x : BitVec 256) : (i.tSet n x).mflags = i.mflags := rfl
@[simp] theorem tSet_fltCause (i : Inst) (n : Nat) (x : BitVec 256) : (i.tSet n x).fltCause = i.fltCause := rfl
@[simp] theorem tSet_fltPc (i : Inst) (n : Nat) (x : BitVec 256) : (i.tSet n x).fltPc = i.fltPc := rfl
@[simp] theorem tSet_fltAddr (i : Inst) (n : Nat) (x : BitVec 256) : (i.tSet n x).fltAddr = i.fltAddr := rfl
@[simp] theorem tSet_eccLog (i : Inst) (n : Nat) (x : BitVec 256) : (i.tSet n x).eccLog = i.eccLog := rfl
@[simp] theorem tSet_cntMx (i : Inst) (n : Nat) (x : BitVec 256) : (i.tSet n x).cntMx = i.cntMx := rfl
@[simp] theorem tSet_cntCp (i : Inst) (n : Nat) (x : BitVec 256) : (i.tSet n x).cntCp = i.cntCp := rfl
@[simp] theorem tSet_cntAt (i : Inst) (n : Nat) (x : BitVec 256) : (i.tSet n x).cntAt = i.cntAt := rfl
@[simp] theorem tSet_cntCl (i : Inst) (n : Nat) (x : BitVec 256) : (i.tSet n x).cntCl = i.cntCl := rfl
@[simp] theorem tSet_cntCi (i : Inst) (n : Nat) (x : BitVec 256) : (i.tSet n x).cntCi = i.cntCi := rfl
@[simp] theorem tSet_cntTd (i : Inst) (n : Nat) (x : BitVec 256) : (i.tSet n x).cntTd = i.cntTd := rfl
@[simp] theorem tSet_tideSt (i : Inst) (n : Nat) (x : BitVec 256) : (i.tSet n x).tideSt = i.tideSt := rfl
@[simp] theorem tSet_mwsel (i : Inst) (n : Nat) (x : BitVec 256) : (i.tSet n x).mwsel = i.mwsel := rfl
@[simp] theorem tSet_wins (i : Inst) (n : Nat) (x : BitVec 256) : (i.tSet n x).wins = i.wins := rfl
@[simp] theorem tSet_arr (i : Inst) (n : Nat) (x : BitVec 256) : (i.tSet n x).arr = i.arr := rfl
@[simp] theorem tSet_succ (i : Inst) (n : Nat) (x : BitVec 256) : (i.tSet n x).succ = i.succ := rfl
@[simp] theorem tSet_wb (i : Inst) (n : Nat) (x : BitVec 256) : (i.tSet n x).wb = i.wb := rfl
@[simp] theorem tSet_reqs (i : Inst) (n : Nat) (x : BitVec 256) : (i.tSet n x).reqs = i.reqs := rfl
@[simp] theorem tSet_cmds (i : Inst) (n : Nat) (x : BitVec 256) : (i.tSet n x).cmds = i.cmds := rfl
@[simp] theorem tSet_latch (i : Inst) (n : Nat) (x : BitVec 256) : (i.tSet n x).latch = i.latch := rfl
@[simp] theorem tSet_engObs (i : Inst) (n : Nat) (x : BitVec 256) : (i.tSet n x).engObs = i.engObs := rfl
@[simp] theorem tSet_engHost (i : Inst) (n : Nat) (x : BitVec 256) : (i.tSet n x).engHost = i.engHost := rfl
@[simp] theorem tSet_rotaDone (i : Inst) (n : Nat) (x : BitVec 256) : (i.tSet n x).rotaDone = i.rotaDone := rfl
@[simp] theorem tSet_frozen (i : Inst) (n : Nat) (x : BitVec 256) : (i.tSet n x).frozen = i.frozen := rfl
@[simp] theorem tSet_refill (i : Inst) (n : Nat) (x : BitVec 256) : (i.tSet n x).refill = i.refill := rfl
@[simp] theorem tSet_life (i : Inst) (n : Nat) (x : BitVec 256) : (i.tSet n x).life = i.life := rfl
@[simp] theorem tSet_since (i : Inst) (n : Nat) (x : BitVec 256) : (i.tSet n x).since = i.since := rfl
@[simp] theorem tSet_pool (i : Inst) (n : Nat) (x : BitVec 256) : (i.tSet n x).pool = i.pool := rfl
@[simp] theorem tSet_slotBase (i : Inst) (n : Nat) (x : BitVec 256) : (i.tSet n x).slotBase = i.slotBase := rfl
@[simp] theorem tSet_slotNo (i : Inst) (n : Nat) (x : BitVec 256) : (i.tSet n x).slotNo = i.slotNo := rfl
@[simp] theorem tSet_goes (i : Inst) (n : Nat) (x : BitVec 256) : (i.tSet n x).goes = i.goes := rfl

/-! ## Contexts -/

@[simp] theorem advance_g (x : CtxState) (n : Nat) : (x.advance n).g = x.g := rfl
@[simp] theorem advance_stack (x : CtxState) (n : Nat) : (x.advance n).stack = x.stack := rfl
@[simp] theorem advance_live (x : CtxState) (n : Nat) : (x.advance n).live = x.live := rfl
@[simp] theorem advance_blockVc (x : CtxState) (n : Nat) : (x.advance n).blockVc = x.blockVc := rfl
@[simp] theorem advance_hostWr (x : CtxState) (n : Nat) : (x.advance n).hostWr = x.hostWr := rfl
@[simp] theorem advance_lag (x : CtxState) (n : Nat) : (x.advance n).lag = x.lag := rfl
@[simp] theorem advance_observed (x : CtxState) (n : Nat) : (x.advance n).observed = x.observed := rfl
@[simp] theorem advance_after (x : CtxState) (n : Nat) : (x.advance n).after = x.after := rfl
@[simp] theorem advance_fetched (x : CtxState) (n : Nat) : (x.advance n).fetched = x.fetched := rfl
@[simp] theorem blocked_g (x : CtxState) (b : Block) (v : Word) : (x.blocked b v).g = x.g := rfl
@[simp] theorem blocked_pc (x : CtxState) (b : Block) (v : Word) : (x.blocked b v).pc = x.pc := rfl
@[simp] theorem blocked_walk (x : CtxState) (b : Block) (v : Word) : (x.blocked b v).walk = x.walk := rfl
@[simp] theorem blocked_stack (x : CtxState) (b : Block) (v : Word) : (x.blocked b v).stack = x.stack := rfl
@[simp] theorem blocked_live (x : CtxState) (b : Block) (v : Word) : (x.blocked b v).live = x.live := rfl
@[simp] theorem blocked_waitCount (x : CtxState) (b : Block) (v : Word) : (x.blocked b v).waitCount = x.waitCount := rfl
@[simp] theorem blocked_stepped (x : CtxState) (b : Block) (v : Word) : (x.blocked b v).stepped = x.stepped := rfl
@[simp] theorem blocked_fenced (x : CtxState) (b : Block) (v : Word) : (x.blocked b v).fenced = x.fenced := rfl
@[simp] theorem blocked_hostWr (x : CtxState) (b : Block) (v : Word) : (x.blocked b v).hostWr = x.hostWr := rfl
@[simp] theorem blocked_lag (x : CtxState) (b : Block) (v : Word) : (x.blocked b v).lag = x.lag := rfl
@[simp] theorem blocked_observed (x : CtxState) (b : Block) (v : Word) : (x.blocked b v).observed = x.observed := rfl
@[simp] theorem blocked_after (x : CtxState) (b : Block) (v : Word) : (x.blocked b v).after = x.after := rfl
@[simp] theorem blocked_fetched (x : CtxState) (b : Block) (v : Word) : (x.blocked b v).fetched = x.fetched := rfl

end Sys2Proof.Machine
end

