-- ==== Sys2Proof/Laws/Sweep.lean ====
section
/-!
SUPPORT. Sweeping a quiet machine changes nothing.
-/
namespace Sys2Proof.Machine

open Sys2Proof.Safety

theorem foldl_fixed {α β : Type} (f : α → β → α) (a : α) (l : List β) (h : ∀ b ∈ l, f a b = a) : l.foldl f a = a := by
  induction l with
  | nil => rfl
  | cons x xs ih => rw [List.foldl_cons, h x (by simp)]; exact ih (fun b hb => h b (by simp [hb]))

theorem find_mem {α : Type} (t : List (Nat × α)) (k : Nat) (x : α) (h : Assoc.find t k = some x) : (k, x) ∈ t := by
  induction t with
  | nil => cases h
  | cons p rest ih =>
    obtain ⟨k', v⟩ := p
    unfold Assoc.find at h
    split at h
    · rename_i e; cases h; subst e; exact List.mem_cons_self
    · exact List.mem_cons_of_mem _ (ih h)

/-- Nothing retires, settles or is freed in a quiet machine (R78). -/
theorem sweep_quiet (s : State) (h : Quiet s) : sweep s = s := by
  have ha : s.slots.any (fun p => p.2.drained) = false := by
    rw [List.any_eq_false]; intro p hp; simp [h.slots p hp]
  have hk : s.slots.filter (fun p => !p.2.drained) = s.slots := by
    rw [List.filter_eq_self]; intro p hp; simp [h.slots p hp]
  have hd : endedOn s = [] := by
    unfold endedOn
    rw [List.filter_eq_nil_iff.mpr (fun p hp => by simp [h.slots p hp])]; rfl
  have h1 : ({ s with slots := s.slots.filter (fun p => !p.2.drained), rotaEnded := s.rotaEnded ++ endedOn s
                      freed := s.freed || s.slots.any (fun p => p.2.drained)
                      respec := s.respec || s.slots.any (fun p => p.2.drained) } : State) = s := by
    rw [hk, hd, ha]; simp
  unfold sweep
  simp only [h1]
  have h2 : s.launches.foldl (fun s p =>
      if !p.2.retired && !p.2.spec && (unretired s p.1).isEmpty then s.updLaunch p.1 (fun l => { l with retired := true }) else s) s = s := by
    apply foldl_fixed
    intro p hp
    rw [if_neg]
    rcases (h.launches p hp).2 with e | e
    · simp [e]
    · simp [e]
  rw [h2]
  apply foldl_fixed
  intro p hp
  unfold settleLaunch
  split
  · rfl
  · rename_i l hl
    have := (h.launches _ (find_mem _ _ _ hl)).1
    simp_all

theorem calm_quiet (s : State) (h : Calm s) : Quiet s :=
  ⟨fun p hp => by simp [Inst.drained, h.slots p hp], fun p hp => ⟨(h.launches p hp).2.1, .inr (h.launches p hp).2.2.2⟩⟩

end Sys2Proof.Machine
end

