-- ==== Sys2Proof/Laws/Vector.lean ====
section
/-!
SUPPORT. Vector words: the active lanes of the machine are those of Safety.lean, and a word of the lane-wise operation writes them.
-/
namespace Sys2Proof.Machine

open Sys2Proof.Safety

theorem lanesOf_eq (s : State) (k : Nat) : lanesOf s k = laneCount s k := rfl

theorem laneCount_cases (s : State) (k : Nat) : laneCount s k = 32 ∨ laneCount s k = 64 := by
  unfold laneCount; split <;> simp

theorem noSources (i : Inst) (c : Ctx) : Sources i c [] [] [] i := ⟨by simp, by simp, rfl⟩

/-- M0 has the bits of the lanes (R23). -/
theorem onesMask_bit (n l : Nat) (h : n = 32 ∨ n = 64) : (onesMask n).getLsbD l = decide (l < n) := by
  unfold onesMask
  rw [BitVec.getLsbD_ofNat, Nat.testBit_two_pow_sub_one]
  rcases h with rfl | rfl
  · by_cases g : l < 32
    · simp [g]; omega
    · simp [g]
  · by_cases g : l < 64 <;> simp [g]

theorem active_eq (e : Env) (m : BitVec 3) (l : Nat) (h : l < laneCount e.s e.k) : e.active m l = maskBit e.i m l := by
  unfold Env.active maskBit Inst.mGet
  have hb := onesMask_bit (laneCount e.s e.k) l (laneCount_cases _ _)
  unfold Env.lanes; rw [lanesOf_eq]
  by_cases hm : m = 0
  · subst hm; simp [hb, h]
  · have : m.toNat ≠ 0 := by intro h; apply hm; exact BitVec.eq_of_toNat_eq h
    simp [this, BitVec.getLsbD_and, hb, h]
    exact fun e => absurd e hm

theorem filter_active (e : Env) (m : BitVec 3) : (upto e.lanes).filter (e.active m) = activeLanes e.s e.k e.i m := by
  unfold activeLanes upto Env.lanes; rw [lanesOf_eq]
  apply List.filter_congr
  intro l hl
  exact active_eq e m l (by simpa using hl)

theorem writeLanes_eq (e : Env) (v : BitVec 5) (p : Nat → Bool) (f : Nat → LaneRes) (i : Inst) :
    writeLanes e v p f i = .go (e.s.setInst e.k (lanesTake e.c v ((upto e.lanes).filter p) f i)) := by
  simp [writeLanes, lanesTake, orAll, List.foldl_map, List.map_map, Function.comp_def]

theorem foldl_flags_congr {f g : Nat → Nat × BitVec 5} (ls : List Nat) (h : ∀ l ∈ ls, f l = g l) (a : BitVec 5) :
    ls.foldl (fun a l => a ||| (f l).2) a = ls.foldl (fun a l => a ||| (g l).2) a := by
  induction ls generalizing a with
  | nil => rfl
  | cons x xs ih => simp only [List.foldl_cons]; rw [h x (by simp)]; exact ih (fun l hl => h l (by simp [hl])) _

theorem lanesTake_congr (c : Ctx) (v : BitVec 5) (ls : List Nat) {f g : Nat → Nat × BitVec 5} (i : Inst) (h : ∀ l ∈ ls, f l = g l) :
    lanesTake c v ls f i = lanesTake c v ls g i := by
  unfold lanesTake
  have h1 : ls.map (fun l => (WbDst.v v.toNat l, BitVec.ofNat 256 (f l).1)) = ls.map (fun l => (WbDst.v v.toNat l, BitVec.ofNat 256 (g l).1)) := by
    apply List.map_congr_left; intro l hl; rw [h l hl]
  rw [h1, foldl_flags_congr ls h]

/-- A word of the lane-wise operation writes its active lanes. -/
theorem writesLanes_of {ins : Instr} {v : BitVec 5} {srcs : List (BitVec 5)} {m : BitVec 3} {f : Inst → Nat → Nat × BitVec 5}
    {g : Env → Nat → LaneRes} (he : ∀ s, exec ins s = runWord ins s (laneOp v srcs m g))
    (hg : ∀ e l, l < laneCount e.s e.k → ins.wellFormed = true → g e l = f e.i l) : WritesLanes ins v srcs m f := by
  intro s k c i h hv
  refine completes_of_go h (he s) ?_
  unfold laneOp
  rw [withVec_ok (e := ⟨s, k, c, i⟩) (vals := []) (j := i) (noSources i c) hv, writeLanes_eq, filter_active]
  congr 2
  apply lanesTake_congr
  intro l hl
  exact hg ⟨s, k, c, i⟩ l (by simp [activeLanes] at hl; exact hl.1) h.wellFormed

end Sys2Proof.Machine
end

