-- ==== Sys2Proof/Tests/Slice0.lean ====
section
/-!
SUPPORT. Tests: ill-formed terms that WellFormed refuses, words written out from the spec's encodings and what they decode to, small steps
whose results stand in the spec, and for each statement with premises a concrete state and operands that meet them.
-/
namespace Sys2Proof.Tests

open Sys2Proof.Machine Sys2Proof.Safety

/-- R207, R212: F-R words of majors 0x00 to 0x02, written out field by field, and the instructions they stand for. -/
theorem test_decode_integer :
    decodeWord 0b00_0_0000000_00001_11111_00011_0000000 0 = .ok (.add { ct := .A, d := 1, a := 31, b := 3 }) ∧
    decodeWord 0b01_0_0000000_00010_11110_01010_0000001 0 = .ok (.sub { ct := .L, d := 2, a := 30, b := 10 }) ∧
    decodeWord 0b10_0_0000000_00011_11101_10001_0000010 0 = .ok (.mul { ct := .C, d := 3, a := 29, b := 17 }) ∧
    decodeWord 0b11_0_0000000_00100_11100_11000_0000011 0 = .ok (.mulh { ct := .S, d := 4, a := 28, b := 24 }) ∧
    decodeWord 0b00_0_0000000_00101_11011_11111_0000100 0 = .ok (.mulhu { ct := .A, d := 5, a := 27, b := 31 }) ∧
    decodeWord 0b01_0_0000000_00110_11010_00110_0000101 0 = .ok (.div { ct := .L, d := 6, a := 26, b := 6 }) ∧
    decodeWord 0b10_0_0000000_00111_11001_01101_0000110 0 = .ok (.divu { ct := .C, d := 7, a := 25, b := 13 }) ∧
    decodeWord 0b11_0_0000000_01000_11000_10100_0000111 0 = .ok (.rem { ct := .S, d := 8, a := 24, b := 20 }) ∧
    decodeWord 0b00_0_0000000_01001_10111_11011_0001000 0 = .ok (.remu { ct := .A, d := 9, a := 23, b := 27 }) ∧
    decodeWord 0b01_0_0000000_01010_10110_00010_0001001 0 = .ok (.and { ct := .L, d := 10, a := 22, b := 2 }) ∧
    decodeWord 0b10_0_0000000_01011_10101_01001_0001010 0 = .ok (.or { ct := .C, d := 11, a := 21, b := 9 }) ∧
    decodeWord 0b11_0_0000000_01100_10100_10000_0001011 0 = .ok (.xor { ct := .S, d := 12, a := 20, b := 16 }) ∧
    decodeWord 0b00_0_0000000_01101_10011_10111_0001100 0 = .ok (.andn { ct := .A, d := 13, a := 19, b := 23 }) ∧
    decodeWord 0b01_0_0000000_01110_10010_11110_0001101 0 = .ok (.shl { ct := .L, d := 14, a := 18, b := 30 }) ∧
    decodeWord 0b10_0_0000000_01111_10001_00101_0001110 0 = .ok (.shr { ct := .C, d := 15, a := 17, b := 5 }) ∧
    decodeWord 0b11_0_0000000_10000_10000_01100_0001111 0 = .ok (.sar { ct := .S, d := 16, a := 16, b := 12 }) ∧
    decodeWord 0b00_0_0000000_10001_01111_10011_0010000 0 = .ok (.rol { ct := .A, d := 17, a := 15, b := 19 }) ∧
    decodeWord 0b01_0_0000000_10010_01110_11010_0010001 0 = .ok (.min { ct := .L, d := 18, a := 14, b := 26 }) ∧
    decodeWord 0b10_0_0000000_10011_01101_00001_0010010 0 = .ok (.max { ct := .C, d := 19, a := 13, b := 1 }) ∧
    decodeWord 0b11_0_0000000_10100_01100_01000_0010011 0 = .ok (.minu { ct := .S, d := 20, a := 12, b := 8 }) ∧
    decodeWord 0b00_0_0000000_10101_01011_01111_0010100 0 = .ok (.maxu { ct := .A, d := 21, a := 11, b := 15 }) ∧
    decodeWord 0b01_0_0000000_10110_01010_10110_0010101 0 = .ok (.slt { ct := .L, d := 22, a := 10, b := 22 }) ∧
    decodeWord 0b10_0_0000000_10111_01001_11101_0010110 0 = .ok (.sltu { ct := .C, d := 23, a := 9, b := 29 }) ∧
    decodeWord 0b11_0_0000000_11000_01000_00100_0010111 0 = .ok (.seq { ct := .S, d := 24, a := 8, b := 4 }) ∧
    decodeWord 0b01_0_0000000_01001_10100_11111_0011000 0 = .ok (.clz { ct := .L, d := 9, a := 20 }) ∧
    decodeWord 0b01_0_0000000_01010_10011_11111_0011001 0 = .ok (.ctz { ct := .L, d := 10, a := 19 }) ∧
    decodeWord 0b01_0_0000000_01011_10010_11111_0011010 0 = .ok (.popc { ct := .L, d := 11, a := 18 }) ∧
    decodeWord 0b01_0_0000000_01100_10001_11111_0011011 0 = .ok (.bswap { ct := .L, d := 12, a := 17 }) ∧
    decodeWord 0b01_0_0000000_01101_10000_11111_0011100 0 = .ok (.loc { ct := .L, d := 13, a := 16 }) ∧
    decodeWord 0b00_0_0000001_00001_00010_00011_0000100 0 = .ok (.sel { ct := .A, d := 1, a := 2, b := 3, e := 4 }) ∧
    decodeWord 0b00_0_0000001_11111_11110_11101_0011100 0 = .ok (.sel { ct := .A, d := 31, a := 30, b := 29, e := 28 }) ∧
    decodeWord 0b11_0_0000010_00001_00010_00011_0000101 0 = .ok (.lea { ct := .S, d := 1, a := 2, b := 3, s := 5 }) := by
  refine ⟨?_, ?_, ?_, ?_, ?_, ?_, ?_, ?_, ?_, ?_, ?_, ?_, ?_, ?_, ?_, ?_, ?_, ?_, ?_, ?_, ?_, ?_, ?_, ?_, ?_, ?_, ?_, ?_, ?_, ?_, ?_, ?_⟩ <;> rfl

/-- R208, R210, R233 to R235: F-I words of majors 0x03 to 0x11, written out field by field, and the instructions they stand for. -/
theorem test_decode_immediate :
    decodeWord 0b10_0_0000011_00100_00101_000111_001001 0 = .ok (.bfx { ct := .C, d := 4, a := 5, wm1 := 7, pos := 9 }) ∧
    decodeWord 0b10_0_0000100_00100_00101_011111_100000 0 = .ok (.bfi { ct := .C, d := 4, a := 5, wm1 := 31, pos := 32 }) ∧
    decodeWord 0b00_0_0000101_00101_00110_100000000000 0 = .ok (.addImm { ct := .A, d := 5, a := 6, i := .short 0x800 }) ∧
    decodeWord 0b00_0_0000110_00110_00111_100000000000 0 = .ok (.mulImm { ct := .A, d := 6, a := 7, i := .short 0x800 }) ∧
    decodeWord 0b00_0_0000111_00111_01000_100000000000 0 = .ok (.andImm { ct := .A, d := 7, a := 8, i := .short 0x800 }) ∧
    decodeWord 0b00_0_0001000_01000_01001_100000000000 0 = .ok (.orImm { ct := .A, d := 8, a := 9, i := .short 0x800 }) ∧
    decodeWord 0b00_0_0001001_01001_01010_100000000000 0 = .ok (.xorImm { ct := .A, d := 9, a := 10, i := .short 0x800 }) ∧
    decodeWord 0b00_0_0001101_01101_01110_100000000000 0 = .ok (.sltImm { ct := .A, d := 13, a := 14, i := .short 0x800 }) ∧
    decodeWord 0b00_0_0001110_01110_01111_100000000000 0 = .ok (.sltuImm { ct := .A, d := 14, a := 15, i := .short 0x800 }) ∧
    decodeWord 0b00_0_0001111_01111_10000_100000000000 0 = .ok (.seqImm { ct := .A, d := 15, a := 16, i := .short 0x800 }) ∧
    decodeWord 0b00_1_0000101_00001_00010_000000000000 0xfffffffe = .ok (.addImm { ct := .A, d := 1, a := 2, i := .long 0xFFFFFFFE }) ∧
    decodeWord 0b11_0_0001010_00001_00010_000000111111 0 = .ok (.shlImm { ct := .S, d := 1, a := 2, n := 63, xw := false }) ∧
    decodeWord 0b11_0_0001011_00001_00010_000000111111 0 = .ok (.shrImm { ct := .S, d := 1, a := 2, n := 63, xw := false }) ∧
    decodeWord 0b11_0_0001100_00001_00010_000000111111 0 = .ok (.sarImm { ct := .S, d := 1, a := 2, n := 63, xw := false }) ∧
    decodeWord 0b11_1_0001010_00001_00010_000000000000 0x3f = .ok (.shlImm { ct := .S, d := 1, a := 2, n := 63, xw := true }) ∧
    decodeWord 0b01_0_0010000_00011_11111_011111111111 0 = .ok (.li { ct := .L, d := 3, i := .short 0x7FF }) ∧
    decodeWord 0b01_1_0010001_00011_00100_000000000000 0x89abcdef = .ok (.lui { ct := .L, d := 3, a := 4, i := .long 0x89ABCDEF }) := by
  refine ⟨?_, ?_, ?_, ?_, ?_, ?_, ?_, ?_, ?_, ?_, ?_, ?_, ?_, ?_, ?_, ?_, ?_⟩ <;> rfl

/-- R213: words of majors 0x12 and 0x13, written out field by field, and the instructions they stand for. -/
theorem test_decode_float :
    decodeWord 0b10_0_0010010_00001_00010_00011_01_00000 0 = .ok (.fadd { ct := .C, d := 1, a := 2, b := 3, r := .rtz }) ∧
    decodeWord 0b10_0_0010010_00001_00010_00011_10_00001 0 = .ok (.fsub { ct := .C, d := 1, a := 2, b := 3, r := .rup }) ∧
    decodeWord 0b10_0_0010010_00001_00010_00011_11_00010 0 = .ok (.fmul { ct := .C, d := 1, a := 2, b := 3, r := .rdn }) ∧
    decodeWord 0b10_0_0010010_00001_00010_00011_00_00011 0 = .ok (.fmin { ct := .C, d := 1, a := 2, b := 3 }) ∧
    decodeWord 0b10_0_0010010_00001_00010_00011_00_00100 0 = .ok (.fmax { ct := .C, d := 1, a := 2, b := 3 }) ∧
    decodeWord 0b10_0_0010010_00001_00010_00011_00_01000 0 = .ok (.fcmp { ct := .C, d := 1, a := 2, b := 3, k := .eq }) ∧
    decodeWord 0b10_0_0010010_00001_00010_00011_00_01001 0 = .ok (.fcmp { ct := .C, d := 1, a := 2, b := 3, k := .lt }) ∧
    decodeWord 0b10_0_0010010_00001_00010_00011_00_01010 0 = .ok (.fcmp { ct := .C, d := 1, a := 2, b := 3, k := .le }) ∧
    decodeWord 0b10_0_0010010_00001_00010_00011_00_01011 0 = .ok (.fcmp { ct := .C, d := 1, a := 2, b := 3, k := .un }) ∧
    decodeWord 0b10_0_0010010_00001_00010_01001_11_10000 0 = .ok (.fcvtI32F32 { ct := .C, d := 1, a := 2, r := .rdn }) ∧
    decodeWord 0b10_0_0010010_00001_00010_01001_11_10001 0 = .ok (.fcvtF32I32 { ct := .C, d := 1, a := 2, r := .rdn }) ∧
    decodeWord 0b10_0_0010010_00001_00010_01001_11_10010 0 = .ok (.fcvtBf16F32 { ct := .C, d := 1, a := 2, r := .rdn }) ∧
    decodeWord 0b10_0_0010010_00001_00010_01001_11_10100 0 = .ok (.fcvtF16F32 { ct := .C, d := 1, a := 2, r := .rdn }) ∧
    decodeWord 0b10_0_0010010_00001_00010_01001_00_10011 0 = .ok (.fcvtF32Bf16 { ct := .C, d := 1, a := 2 }) ∧
    decodeWord 0b10_0_0010010_00001_00010_01001_00_10101 0 = .ok (.fcvtF32F16 { ct := .C, d := 1, a := 2 }) ∧
    decodeWord 0b10_0_0010010_00001_00010_01001_00_10110 0 = .ok (.fcvtL6F32 { ct := .C, d := 1, a := 2 }) ∧
    decodeWord 0b10_0_0010010_00001_00010_01001_00_10111 0 = .ok (.fcvtF32L6 { ct := .C, d := 1, a := 2 }) ∧
    decodeWord 0b10_0_0010011_00001_00010_00011_01_10001 0 = .ok (.ffma { ct := .C, d := 1, a := 2, b := 3, e := 17, r := .rtz }) := by
  refine ⟨?_, ?_, ?_, ?_, ?_, ?_, ?_, ?_, ?_, ?_, ?_, ?_, ?_, ?_, ?_, ?_, ?_, ?_⟩ <;> rfl

/-- R212, R214: F-B words of majors 0x14 to 0x16, and majors 0x17 to 0x19, written out field by field, and the instructions they stand for. -/
theorem test_decode_control :
    decodeWord 0b01_0_0010100_01001_000_11111111111111 0 = .ok (.br { ct := .L, o := .short 0x3FFF }) ∧
    decodeWord 0b01_0_0010100_01001_001_00000000000101 0 = .ok (.bc { ct := .L, a := 9, k := .eqz, o := .short 5 }) ∧
    decodeWord 0b01_0_0010100_01001_010_00000000000101 0 = .ok (.bc { ct := .L, a := 9, k := .nez, o := .short 5 }) ∧
    decodeWord 0b01_0_0010100_01001_011_00000000000101 0 = .ok (.bc { ct := .L, a := 9, k := .ltz, o := .short 5 }) ∧
    decodeWord 0b01_0_0010100_01001_100_00000000000101 0 = .ok (.bc { ct := .L, a := 9, k := .gez, o := .short 5 }) ∧
    decodeWord 0b01_0_0010100_01001_101_00000000000101 0 = .ok (.bc { ct := .L, a := 9, k := .gtz, o := .short 5 }) ∧
    decodeWord 0b01_0_0010100_01001_110_00000000000101 0 = .ok (.bc { ct := .L, a := 9, k := .lez, o := .short 5 }) ∧
    decodeWord 0b01_1_0010100_01001_010_00000000000000 0xfffffff0 = .ok (.bc { ct := .L, a := 9, k := .nez, o := .long 0xFFFFFFF0 }) ∧
    decodeWord 0b00_0_0010101_10111_000_10000000000000 0 = .ok (.loop { ct := .A, a := 23, o := .short 0x2000 }) ∧
    decodeWord 0b00_0_0010110_00000_000_00000000001100 0 = .ok (.call { ct := .A, o := .short 12 }) ∧
    decodeWord 0b11_0_0010111_00000_00110_00000_0000000 0 = .ok (.jr { ct := .S, a := 6 }) ∧
    decodeWord 0b11_0_0010111_00000_00110_00000_0000001 0 = .ok (.callr { ct := .S, a := 6 }) ∧
    decodeWord 0b11_0_0010111_00000_00000_00000_0000010 0 = .ok (.ret { ct := .S }) ∧
    decodeWord 0b11_0_0011000_00011_11101_00000_0000000 0 = .ok (.qpeek { ct := .S, d := 3, q := 5 }) ∧
    decodeWord 0b11_0_0011000_00011_11000_00000_0000001 0 = .ok (.qcnt { ct := .S, d := 3, q := 0 }) ∧
    decodeWord 0b00_0_0011001_00010_000000100000_00000 0 = .ok (.srd { ct := .A, d := 2, sys := 0x020 }) ∧
    decodeWord 0b00_0_0011001_00010_000000100001_00001 0 = .ok (.swr { ct := .A, d := 2, sys := 0x021 }) ∧
    decodeWord 0b00_0_0011001_00010_111111111111_00000 0 = .ok (.srd { ct := .A, d := 2, sys := 0xFFF }) ∧
    decodeWord 0b00_0_0011001_00000_101010111100_00010 0 = .ok (.trap { ct := .A, code := 0xABC }) ∧
    decodeWord 0b00_0_0011001_00000_000000000000_00011 0 = .ok (.exit { ct := .A }) ∧
    decodeWord 0b00_0_0011001_00000_000000000000_00100 0 = .ok (.nop { ct := .A }) ∧
    decodeWord 0b00_0_0011001_00000_000100100011_00101 0 = .ok (.hint { ct := .A, code := 0x123 }) ∧
    decodeWord 0b00_0_0011001_00000_010001010110_00110 0 = .ok (.pmark { ct := .A, code := 0x456 }) := by
  refine ⟨?_, ?_, ?_, ?_, ?_, ?_, ?_, ?_, ?_, ?_, ?_, ?_, ?_, ?_, ?_, ?_, ?_, ?_, ?_, ?_, ?_, ?_, ?_⟩ <;> rfl

/-- R207, R215: F-M words of majors 0x20 to 0x2B, written out field by field, and the instructions they stand for. -/
theorem test_decode_memory :
    decodeWord 0b01_0_0100000_00001_00010_111111_00_0111 0 = .ok (.ld { ct := .L, d := 1, a := 2, land := 63, sz := .b, m := 7, off := none }) ∧
    decodeWord 0b01_1_0100000_00001_00010_000000_01_0000 0x10 = .ok (.ld { ct := .L, d := 1, a := 2, land := 0, sz := .h, m := 0, off := some 16 }) ∧
    decodeWord 0b01_0_0100001_00001_00010_000001_10_0001 0 = .ok (.lds { ct := .L, d := 1, a := 2, land := 1, sz := .w, m := 1, off := none }) ∧
    decodeWord 0b01_0_0100010_11111_00010_000000_11_0000 0 = .ok (.ldAq { ct := .L, d := 31, a := 2, land := 0, sz := .d, m := 0, off := none }) ∧
    decodeWord 0b11_0_0100011_00001_00010_000000_11_0000 0 = .ok (.st { ct := .S, s := 1, a := 2, sz := .d, off := none }) ∧
    decodeWord 0b11_0_0100100_00001_00010_000000_00_0000 0 = .ok (.stRl { ct := .S, s := 1, a := 2, sz := .b, off := none }) ∧
    decodeWord 0b11_0_0100101_00001_00010_000101_11_0000 0 = .ok (.amo { ct := .S, d := 1, a := 2, land := 5, sz := .d, fn := .add, q := false, off := none }) ∧
    decodeWord 0b11_0_0100101_00001_00010_000101_11_1001 0 = .ok (.amo { ct := .S, d := 1, a := 2, land := 5, sz := .d, fn := .min, q := true, off := none }) ∧
    decodeWord 0b11_0_0100101_00001_00010_000101_11_0010 0 = .ok (.amo { ct := .S, d := 1, a := 2, land := 5, sz := .d, fn := .max, q := false, off := none }) ∧
    decodeWord 0b11_0_0100101_00001_00010_000101_11_1011 0 = .ok (.amo { ct := .S, d := 1, a := 2, land := 5, sz := .d, fn := .and, q := true, off := none }) ∧
    decodeWord 0b11_0_0100101_00001_00010_000101_11_0100 0 = .ok (.amo { ct := .S, d := 1, a := 2, land := 5, sz := .d, fn := .or, q := false, off := none }) ∧
    decodeWord 0b11_0_0100101_00001_00010_000101_11_1101 0 = .ok (.amo { ct := .S, d := 1, a := 2, land := 5, sz := .d, fn := .xor, q := true, off := none }) ∧
    decodeWord 0b11_0_0100101_00001_00010_000101_11_0110 0 = .ok (.amo { ct := .S, d := 1, a := 2, land := 5, sz := .d, fn := .swap, q := false, off := none }) ∧
    decodeWord 0b11_0_0100110_00001_00010_000101_10_1111 0 = .ok (.amoRl { ct := .S, d := 1, a := 2, land := 5, sz := .w, fn := .addf, q := true, off := none }) ∧
    decodeWord 0b11_0_0100111_10110_00010_000101_10_0001 0 = .ok (.cas { ct := .S, d := 22, a := 2, land := 5, sz := .w, rl := false, aq := true, off := none }) ∧
    decodeWord 0b11_0_0100111_00010_00010_000101_11_0010 0 = .ok (.cas { ct := .S, d := 2, a := 2, land := 5, sz := .d, rl := true, aq := false, off := none }) ∧
    decodeWord 0b11_0_0101000_00001_00010_000000_10_1111 0 = .ok (.red { ct := .S, s := 1, a := 2, sz := .w, fn := .addf, rl := true, off := none }) ∧
    decodeWord 0b01_0_0101001_00000_00010_000000_00_0000 0 = .ok (.pref { ct := .L, a := 2, off := none }) ∧
    decodeWord 0b11_0_0101010_00000_00010_000000_11_0000 0 = .ok (.cflush { ct := .S, a := 2, off := none }) ∧
    decodeWord 0b01_1_0101011_00000_00010_000000_00_0000 0x40 = .ok (.pgreq { ct := .L, a := 2, off := some 64 }) := by
  refine ⟨?_, ?_, ?_, ?_, ?_, ?_, ?_, ?_, ?_, ?_, ?_, ?_, ?_, ?_, ?_, ?_, ?_, ?_, ?_, ?_⟩ <;> rfl

/-- R214: F-S words of major 0x30 and F-R words of major 0x31, written out field by field, and the instructions they stand for. -/
theorem test_decode_sync :
    decodeWord 0b01_0_0110000_00000_000000000000_00000 0 = .ok (.fence { ct := .L, sc := false, scope := .isle }) ∧
    decodeWord 0b01_0_0110000_00000_000000000101_00000 0 = .ok (.fence { ct := .L, sc := true, scope := .die }) ∧
    decodeWord 0b01_0_0110000_00000_000000000010_00000 0 = .ok (.fence { ct := .L, sc := false, scope := .dev }) ∧
    decodeWord 0b01_0_0110000_00000_000000000111_00000 0 = .ok (.fence { ct := .L, sc := true, scope := .dom }) ∧
    decodeWord 0b01_0_0110000_00000_000000011111_00001 0 = .ok (.barArr { ct := .L, b := 31 }) ∧
    decodeWord 0b01_0_0110000_00000_000000011110_00010 0 = .ok (.barWait { ct := .L, b := 30 }) ∧
    decodeWord 0b00_0_0110000_00000_000000011101_00011 0 = .ok (.step { ct := .A, b := 29 }) ∧
    decodeWord 0b00_0_0110000_00000_000000000000_00100 0 = .ok (.succ { ct := .A }) ∧
    decodeWord 0b00_0_0110000_00000_000000000000_00101 0 = .ok (.waitvis { ct := .A }) ∧
    decodeWord 0b10_0_0110000_00111_000000000000_00110 0 = .ok (.wait { ct := .C, d := 7, eng := .mx }) ∧
    decodeWord 0b10_0_0110000_00111_000000000001_00110 0 = .ok (.wait { ct := .C, d := 7, eng := .cp }) ∧
    decodeWord 0b10_0_0110000_00111_000000000010_00110 0 = .ok (.wait { ct := .C, d := 7, eng := .at }) ∧
    decodeWord 0b10_0_0110000_00111_000000000011_00110 0 = .ok (.wait { ct := .C, d := 7, eng := .cl }) ∧
    decodeWord 0b10_0_0110000_00111_000000000100_00110 0 = .ok (.wait { ct := .C, d := 7, eng := .ci }) ∧
    decodeWord 0b10_0_0110000_00111_000000000101_00110 0 = .ok (.wait { ct := .C, d := 7, eng := .td }) ∧
    decodeWord 0b11_0_0110001_00000_00100_00101_0000000 0 = .ok (.launch { ct := .S, a := 4, b := 5 }) ∧
    decodeWord 0b11_0_0110001_00000_00100_00101_0000001 0 = .ok (.qtail { ct := .S, a := 4, b := 5 }) := by
  refine ⟨?_, ?_, ?_, ?_, ?_, ?_, ?_, ?_, ?_, ?_, ?_, ?_, ?_, ?_, ?_, ?_, ?_⟩ <;> rfl

/-- R216: F-V words of majors 0x40 to 0x42, written out field by field, and the instructions they stand for. -/
theorem test_decode_vectorFloat :
    decodeWord 0b10_0_1000000_00001_00010_00011_000_0000 0 = .ok (.vaddF32 { ct := .C, v := 1, a := 2, b := 3, m := 0, x := none }) ∧
    decodeWord 0b10_0_1000000_00001_00010_00011_001_0001 0 = .ok (.vsubF32 { ct := .C, v := 1, a := 2, b := 3, m := 1, x := none }) ∧
    decodeWord 0b10_0_1000000_00001_00010_00011_010_0010 0 = .ok (.vmulF32 { ct := .C, v := 1, a := 2, b := 3, m := 2, x := none }) ∧
    decodeWord 0b10_0_1000000_00001_00010_00011_011_0011 0 = .ok (.vfmaF32 { ct := .C, v := 1, a := 2, b := 3, m := 3, x := none }) ∧
    decodeWord 0b10_0_1000000_00001_00010_00011_100_0100 0 = .ok (.vminF32 { ct := .C, v := 1, a := 2, b := 3, m := 4, x := none }) ∧
    decodeWord 0b10_0_1000000_00001_00010_00011_101_0101 0 = .ok (.vmaxF32 { ct := .C, v := 1, a := 2, b := 3, m := 5, x := none }) ∧
    decodeWord 0b10_0_1000000_00001_00010_10011_110_0110 0 = .ok (.vabsF32 { ct := .C, v := 1, a := 2, m := 6, x := none }) ∧
    decodeWord 0b10_0_1000000_00001_00010_10011_111_0111 0 = .ok (.vnegF32 { ct := .C, v := 1, a := 2, m := 7, x := none }) ∧
    decodeWord 0b10_0_1000001_00001_00010_00011_000_0000 0 = .ok (.vaddBf16 { ct := .C, v := 1, a := 2, b := 3, m := 0, x := none }) ∧
    decodeWord 0b10_0_1000001_00001_00010_00011_001_0001 0 = .ok (.vsubBf16 { ct := .C, v := 1, a := 2, b := 3, m := 1, x := none }) ∧
    decodeWord 0b10_0_1000001_00001_00010_00011_010_0010 0 = .ok (.vmulBf16 { ct := .C, v := 1, a := 2, b := 3, m := 2, x := none }) ∧
    decodeWord 0b10_0_1000001_00001_00010_00011_011_0011 0 = .ok (.vfmaBf16 { ct := .C, v := 1, a := 2, b := 3, m := 3, x := none }) ∧
    decodeWord 0b10_0_1000001_00001_00010_00011_100_0100 0 = .ok (.vminBf16 { ct := .C, v := 1, a := 2, b := 3, m := 4, x := none }) ∧
    decodeWord 0b10_0_1000001_00001_00010_00011_101_0101 0 = .ok (.vmaxBf16 { ct := .C, v := 1, a := 2, b := 3, m := 5, x := none }) ∧
    decodeWord 0b10_0_1000001_00001_00010_10011_110_0110 0 = .ok (.vabsBf16 { ct := .C, v := 1, a := 2, m := 6, x := none }) ∧
    decodeWord 0b10_0_1000001_00001_00010_10011_111_0111 0 = .ok (.vnegBf16 { ct := .C, v := 1, a := 2, m := 7, x := none }) ∧
    decodeWord 0b10_0_1000010_00001_00010_00011_000_0000 0 = .ok (.vaddF16 { ct := .C, v := 1, a := 2, b := 3, m := 0, x := none }) ∧
    decodeWord 0b10_0_1000010_00001_00010_00011_001_0001 0 = .ok (.vsubF16 { ct := .C, v := 1, a := 2, b := 3, m := 1, x := none }) ∧
    decodeWord 0b10_0_1000010_00001_00010_00011_010_0010 0 = .ok (.vmulF16 { ct := .C, v := 1, a := 2, b := 3, m := 2, x := none }) ∧
    decodeWord 0b10_0_1000010_00001_00010_00011_011_0011 0 = .ok (.vfmaF16 { ct := .C, v := 1, a := 2, b := 3, m := 3, x := none }) ∧
    decodeWord 0b10_0_1000010_00001_00010_00011_100_0100 0 = .ok (.vminF16 { ct := .C, v := 1, a := 2, b := 3, m := 4, x := none }) ∧
    decodeWord 0b10_0_1000010_00001_00010_00011_101_0101 0 = .ok (.vmaxF16 { ct := .C, v := 1, a := 2, b := 3, m := 5, x := none }) ∧
    decodeWord 0b10_0_1000010_00001_00010_10011_110_0110 0 = .ok (.vabsF16 { ct := .C, v := 1, a := 2, m := 6, x := none }) ∧
    decodeWord 0b10_0_1000010_00001_00010_10011_111_0111 0 = .ok (.vnegF16 { ct := .C, v := 1, a := 2, m := 7, x := none }) ∧
    decodeWord 0b10_1_1000000_00001_00010_00011_100_0000 3 = .ok (.vaddF32 { ct := .C, v := 1, a := 2, b := 3, m := 4, x := some .rdn }) ∧
    decodeWord 0b10_1_1000001_00001_00010_00011_100_0010 1 = .ok (.vmulBf16 { ct := .C, v := 1, a := 2, b := 3, m := 4, x := some .rtz }) := by
  refine ⟨?_, ?_, ?_, ?_, ?_, ?_, ?_, ?_, ?_, ?_, ?_, ?_, ?_, ?_, ?_, ?_, ?_, ?_, ?_, ?_, ?_, ?_, ?_, ?_, ?_, ?_⟩ <;> rfl

/-- R216: F-V words of majors 0x43 and 0x44, written out field by field, and the instructions they stand for. -/
theorem test_decode_vectorInteger :
    decodeWord 0b10_0_1000011_11111_11110_11101_111_0000 0 = .ok (.vaddI32 { ct := .C, v := 31, a := 30, b := 29, m := 7 }) ∧
    decodeWord 0b10_0_1000011_11111_11110_11101_111_0001 0 = .ok (.vsubI32 { ct := .C, v := 31, a := 30, b := 29, m := 7 }) ∧
    decodeWord 0b10_0_1000011_11111_11110_11101_111_0010 0 = .ok (.vmulI32 { ct := .C, v := 31, a := 30, b := 29, m := 7 }) ∧
    decodeWord 0b10_0_1000011_11111_11110_11101_111_0011 0 = .ok (.vmulhI32 { ct := .C, v := 31, a := 30, b := 29, m := 7 }) ∧
    decodeWord 0b10_0_1000011_11111_11110_11101_111_0100 0 = .ok (.vminI32 { ct := .C, v := 31, a := 30, b := 29, m := 7 }) ∧
    decodeWord 0b10_0_1000011_11111_11110_11101_111_0101 0 = .ok (.vmaxI32 { ct := .C, v := 31, a := 30, b := 29, m := 7 }) ∧
    decodeWord 0b10_0_1000011_11111_11110_11101_111_0110 0 = .ok (.vminuI32 { ct := .C, v := 31, a := 30, b := 29, m := 7 }) ∧
    decodeWord 0b10_0_1000011_11111_11110_11101_111_0111 0 = .ok (.vmaxuI32 { ct := .C, v := 31, a := 30, b := 29, m := 7 }) ∧
    decodeWord 0b10_0_1000011_11111_11110_11101_111_1000 0 = .ok (.vandI32 { ct := .C, v := 31, a := 30, b := 29, m := 7 }) ∧
    decodeWord 0b10_0_1000011_11111_11110_11101_111_1001 0 = .ok (.vorI32 { ct := .C, v := 31, a := 30, b := 29, m := 7 }) ∧
    decodeWord 0b10_0_1000011_11111_11110_11101_111_1010 0 = .ok (.vxorI32 { ct := .C, v := 31, a := 30, b := 29, m := 7 }) ∧
    decodeWord 0b10_0_1000011_11111_11110_11101_111_1011 0 = .ok (.vandnI32 { ct := .C, v := 31, a := 30, b := 29, m := 7 }) ∧
    decodeWord 0b10_0_1000011_11111_11110_11101_111_1100 0 = .ok (.vshlI32 { ct := .C, v := 31, a := 30, b := 29, m := 7 }) ∧
    decodeWord 0b10_0_1000011_11111_11110_11101_111_1101 0 = .ok (.vshrI32 { ct := .C, v := 31, a := 30, b := 29, m := 7 }) ∧
    decodeWord 0b10_0_1000011_11111_11110_11101_111_1110 0 = .ok (.vsarI32 { ct := .C, v := 31, a := 30, b := 29, m := 7 }) ∧
    decodeWord 0b10_0_1000100_11111_11110_11101_111_0000 0 = .ok (.vaddI16 { ct := .C, v := 31, a := 30, b := 29, m := 7 }) ∧
    decodeWord 0b10_0_1000100_11111_11110_11101_111_0001 0 = .ok (.vsubI16 { ct := .C, v := 31, a := 30, b := 29, m := 7 }) ∧
    decodeWord 0b10_0_1000100_11111_11110_11101_111_0010 0 = .ok (.vmulI16 { ct := .C, v := 31, a := 30, b := 29, m := 7 }) ∧
    decodeWord 0b10_0_1000100_11111_11110_11101_111_0011 0 = .ok (.vaddsI16 { ct := .C, v := 31, a := 30, b := 29, m := 7 }) ∧
    decodeWord 0b10_0_1000100_11111_11110_11101_111_0100 0 = .ok (.vsubsI16 { ct := .C, v := 31, a := 30, b := 29, m := 7 }) ∧
    decodeWord 0b10_0_1000100_11111_11110_11101_111_0101 0 = .ok (.vminI16 { ct := .C, v := 31, a := 30, b := 29, m := 7 }) ∧
    decodeWord 0b10_0_1000100_11111_11110_11101_111_0110 0 = .ok (.vmaxI16 { ct := .C, v := 31, a := 30, b := 29, m := 7 }) := by
  refine ⟨?_, ?_, ?_, ?_, ?_, ?_, ?_, ?_, ?_, ?_, ?_, ?_, ?_, ?_, ?_, ?_, ?_, ?_, ?_, ?_, ?_, ?_⟩ <;> rfl

/-- R216: F-V words of majors 0x45 to 0x47, written out field by field, and the instructions they stand for. -/
theorem test_decode_vectorMask :
    decodeWord 0b10_0_1000101_00101_00010_00011_100_0000 0 = .ok (.vcmp { ct := .C, md := 5, a := 2, b := 3, m := 4, t := .f32, k := .eq }) ∧
    decodeWord 0b10_0_1000101_00101_00010_00011_100_0101 0 = .ok (.vcmp { ct := .C, md := 5, a := 2, b := 3, m := 4, t := .i32, k := .lt }) ∧
    decodeWord 0b10_0_1000101_00101_00010_00011_100_1010 0 = .ok (.vcmp { ct := .C, md := 5, a := 2, b := 3, m := 4, t := .u32, k := .le }) ∧
    decodeWord 0b10_0_1000101_00101_00010_00011_100_1111 0 = .ok (.vcmp { ct := .C, md := 5, a := 2, b := 3, m := 4, t := .bf16, k := .ne }) ∧
    decodeWord 0b10_0_1000110_00001_00010_00011_100_0000 0 = .ok (.vsel { ct := .C, v := 1, a := 2, b := 3, m := 4 }) ∧
    decodeWord 0b10_0_1000111_00001_00010_00011_111_0000 0 = .ok (.mand { ct := .C, md := 1, ma := 2, mb := 3 }) ∧
    decodeWord 0b10_0_1000111_00001_00010_00011_111_0001 0 = .ok (.mor { ct := .C, md := 1, ma := 2, mb := 3 }) ∧
    decodeWord 0b10_0_1000111_00001_00010_00011_111_0010 0 = .ok (.mxor { ct := .C, md := 1, ma := 2, mb := 3 }) ∧
    decodeWord 0b10_0_1000111_00001_00010_00011_111_0011 0 = .ok (.mandn { ct := .C, md := 1, ma := 2, mb := 3 }) ∧
    decodeWord 0b10_0_1000111_00001_00010_11111_111_0100 0 = .ok (.mnot { ct := .C, md := 1, ma := 2 }) ∧
    decodeWord 0b10_0_1000111_11111_00010_00000_000_0101 0 = .ok (.mpop { ct := .C, d := 31, ma := 2 }) ∧
    decodeWord 0b10_0_1000111_11111_00010_00000_000_0110 0 = .ok (.mtog { ct := .C, d := 31, ma := 2 }) ∧
    decodeWord 0b10_0_1000111_00111_11110_00000_000_0111 0 = .ok (.mfromg { ct := .C, md := 7, a := 30 }) := by
  refine ⟨?_, ?_, ?_, ?_, ?_, ?_, ?_, ?_, ?_, ?_, ?_, ?_, ?_⟩ <;> rfl

/-- R216: F-V words of majors 0x48 to 0x4B, written out field by field, and the instructions they stand for. -/
theorem test_decode_vectorConversion :
    decodeWord 0b10_0_1001000_00001_00010_00000_011_0000 0 = .ok (.vcvtF32I32 { ct := .C, v := 1, a := 2, m := 3, x := none }) ∧
    decodeWord 0b10_0_1001000_00001_00010_00000_011_0001 0 = .ok (.vcvtI32F32 { ct := .C, v := 1, a := 2, m := 3, x := none }) ∧
    decodeWord 0b10_0_1001000_00001_00010_00000_011_0010 0 = .ok (.vcvtF32Bf16 { ct := .C, v := 1, a := 2, m := 3, x := none }) ∧
    decodeWord 0b10_0_1001000_00001_00010_00000_011_0011 0 = .ok (.vcvtBf16F32 { ct := .C, v := 1, a := 2, m := 3, x := none }) ∧
    decodeWord 0b10_0_1001000_00001_00010_00000_011_0100 0 = .ok (.vcvtF32F16 { ct := .C, v := 1, a := 2, m := 3, x := none }) ∧
    decodeWord 0b10_0_1001000_00001_00010_00000_011_0101 0 = .ok (.vcvtF16F32 { ct := .C, v := 1, a := 2, m := 3, x := none }) ∧
    decodeWord 0b10_0_1001000_00001_00010_00000_011_0110 0 = .ok (.vl6pack { ct := .C, v := 1, a := 2, m := 3, x := none }) ∧
    decodeWord 0b10_0_1001000_00001_00010_00000_011_0111 0 = .ok (.vl6unpk { ct := .C, v := 1, a := 2, m := 3, x := none }) ∧
    decodeWord 0b10_0_1001001_00001_00010_00000_011_0000 0 = .ok (.vexp2 { ct := .C, v := 1, a := 2, m := 3, x := none }) ∧
    decodeWord 0b10_0_1001001_00001_00010_00000_011_0001 0 = .ok (.vlog2 { ct := .C, v := 1, a := 2, m := 3, x := none }) ∧
    decodeWord 0b10_0_1001001_00001_00010_00000_011_0010 0 = .ok (.vrcp { ct := .C, v := 1, a := 2, m := 3, x := none }) ∧
    decodeWord 0b10_0_1001001_00001_00010_00000_011_0011 0 = .ok (.vrsq { ct := .C, v := 1, a := 2, m := 3, x := none }) ∧
    decodeWord 0b10_0_1001010_00001_00010_00000_011_0000 0 = .ok (.vred { ct := .C, d := 1, a := 2, m := 3, f := .sumF32, x := none }) ∧
    decodeWord 0b10_0_1001010_00001_00010_00000_011_0001 0 = .ok (.vred { ct := .C, d := 1, a := 2, m := 3, f := .maxF32, x := none }) ∧
    decodeWord 0b10_0_1001010_00001_00010_00000_011_0010 0 = .ok (.vred { ct := .C, d := 1, a := 2, m := 3, f := .minF32, x := none }) ∧
    decodeWord 0b10_0_1001010_00001_00010_00000_011_0011 0 = .ok (.vred { ct := .C, d := 1, a := 2, m := 3, f := .sumI32, x := none }) ∧
    decodeWord 0b10_0_1001010_00001_00010_00000_011_0100 0 = .ok (.vred { ct := .C, d := 1, a := 2, m := 3, f := .maxI32, x := none }) ∧
    decodeWord 0b10_0_1001010_00001_00010_00000_011_0101 0 = .ok (.vred { ct := .C, d := 1, a := 2, m := 3, f := .minI32, x := none }) ∧
    decodeWord 0b10_0_1001010_00001_00010_00000_011_0110 0 = .ok (.vred { ct := .C, d := 1, a := 2, m := 3, f := .and, x := none }) ∧
    decodeWord 0b10_0_1001010_00001_00010_00000_011_0111 0 = .ok (.vred { ct := .C, d := 1, a := 2, m := 3, f := .or, x := none }) ∧
    decodeWord 0b10_0_1001010_00001_00010_00000_011_1000 0 = .ok (.vred { ct := .C, d := 1, a := 2, m := 3, f := .xor, x := none }) ∧
    decodeWord 0b10_0_1001011_00001_00010_00011_100_0000 0 = .ok (.vperm { ct := .C, v := 1, a := 2, b := 3, m := 4 }) ∧
    decodeWord 0b10_0_1001011_00001_11110_00000_100_0001 0 = .ok (.vbcast { ct := .C, v := 1, a := 30, m := 4 }) := by
  refine ⟨?_, ?_, ?_, ?_, ?_, ?_, ?_, ?_, ?_, ?_, ?_, ?_, ?_, ?_, ?_, ?_, ?_, ?_, ?_, ?_, ?_, ?_, ?_⟩ <;> rfl

/-- R208, R215: F-M words of majors 0x50 to 0x55, written out field by field, and the instructions they stand for. -/
theorem test_decode_vectorMemory :
    decodeWord 0b01_0_1010000_00001_00010_001001_10_0011 0 = .ok (.vld { ct := .L, v := 1, a := 2, land := 9, m := 3, off := none }) ∧
    decodeWord 0b01_1_1010001_00001_00010_001001_10_0011 0x8fffffff = .ok (.vlds { ct := .L, v := 1, a := 2, land := 9, m := 3, x := 17, off := 0x7FFFFFF }) ∧
    decodeWord 0b01_1_1010010_00001_00010_001001_10_0011 0x88000004 = .ok (.vldx { ct := .L, v := 1, a := 2, land := 9, m := 3, x := 17, off := 4 }) ∧
    decodeWord 0b11_1_1010011_00001_00010_000000_10_0011 0x80000000 = .ok (.vst { ct := .S, v := 1, a := 2, land := 0, m := 3, off := some 0x80000000 }) ∧
    decodeWord 0b11_1_1010100_00001_00010_000000_10_0011 0x28000008 = .ok (.vsts { ct := .S, v := 1, a := 2, land := 0, m := 3, x := 5, off := 8 }) ∧
    decodeWord 0b11_1_1010101_00001_00010_000000_10_0011 0x28000008 = .ok (.vstx { ct := .S, v := 1, a := 2, land := 0, m := 3, x := 5, off := 8 }) := by
  refine ⟨?_, ?_, ?_, ?_, ?_, ?_⟩ <;> rfl

/-- R217, R324: F-E words of majors 0x60 to 0x63, written out field by field, and the instructions they stand for. -/
theorem test_decode_engine :
    decodeWord 0b10_1_1100000_111111_000000_000000_0000 0x203fffff = .ok (.tld { ct := .C, t := 63, gx := 4, off := 0x3FFFFF }) ∧
    decodeWord 0b10_1_1100000_111110_000000_000000_0001 0x20000020 = .ok (.tst { ct := .C, t := 62, gx := 4, off := 32 }) ∧
    decodeWord 0b10_1_1100000_000101_000000_000000_0010 0x20000000 = .ok (.tmod { ct := .C, t := 5, gx := 4, f := .base, add := false }) ∧
    decodeWord 0b10_1_1100000_000101_000000_000000_0010 0x20000011 = .ok (.tmod { ct := .C, t := 5, gx := 4, f := .size0, add := true }) ∧
    decodeWord 0b10_1_1100000_000101_000000_000000_0010 0x20000002 = .ok (.tmod { ct := .C, t := 5, gx := 4, f := .size1, add := false }) ∧
    decodeWord 0b10_1_1100000_000101_000000_000000_0010 0x20000013 = .ok (.tmod { ct := .C, t := 5, gx := 4, f := .size2, add := true }) ∧
    decodeWord 0b10_1_1100000_000101_000000_000000_0010 0x20000004 = .ok (.tmod { ct := .C, t := 5, gx := 4, f := .size3, add := false }) ∧
    decodeWord 0b10_1_1100000_000101_000000_000000_0010 0x20000015 = .ok (.tmod { ct := .C, t := 5, gx := 4, f := .stride1, add := true }) ∧
    decodeWord 0b10_1_1100000_000101_000000_000000_0010 0x20000006 = .ok (.tmod { ct := .C, t := 5, gx := 4, f := .stride2, add := false }) ∧
    decodeWord 0b10_1_1100000_000101_000000_000000_0010 0x20000017 = .ok (.tmod { ct := .C, t := 5, gx := 4, f := .stride3, add := true }) ∧
    decodeWord 0b10_1_1100000_000101_000000_000000_0010 0x20000008 = .ok (.tmod { ct := .C, t := 5, gx := 4, f := .sb, add := false }) ∧
    decodeWord 0b10_1_1100000_000101_000000_000000_0010 0x20000019 = .ok (.tmod { ct := .C, t := 5, gx := 4, f := .gsoff, add := true }) ∧
    decodeWord 0b10_1_1100000_000101_000000_000000_0010 0x2000000a = .ok (.tmod { ct := .C, t := 5, gx := 4, f := .fmt, add := false }) ∧
    decodeWord 0b10_1_1100000_000101_000000_000000_0010 0x2000001b = .ok (.tmod { ct := .C, t := 5, gx := 4, f := .space, add := true }) ∧
    decodeWord 0b10_1_1100000_000101_000000_000000_0010 0x2000000c = .ok (.tmod { ct := .C, t := 5, gx := 4, f := .ndim, add := false }) ∧
    decodeWord 0b10_1_1100000_000101_000000_000000_0010 0x2000001d = .ok (.tmod { ct := .C, t := 5, gx := 4, f := .flags, add := true }) ∧
    decodeWord 0b10_1_1100001_000001_000010_000111_0000 0 = .ok (.mxm { ct := .C, ta := 1, tb := 2, acc := 7 }) ∧
    decodeWord 0b10_1_1100001_000001_000010_000111_0001 0 = .ok (.mxmRb { ct := .C, ta := 1, tb := 2, acc := 7 }) ∧
    decodeWord 0b10_1_1100001_000000_000000_000111_0010 0 = .ok (.mxz { ct := .C, acc := 7 }) ∧
    decodeWord 0b10_1_1100001_000001_000000_000111_0011 1 = .ok (.mxd { ct := .C, ta := 1, acc := 7, i32 := true, z := false }) ∧
    decodeWord 0b10_1_1100001_000001_000000_000111_0011 2 = .ok (.mxd { ct := .C, ta := 1, acc := 7, i32 := false, z := true }) ∧
    decodeWord 0b10_1_1100010_000001_000010_000000_0000 0 = .ok (.cpy { ct := .C, td := 1, ts := 2 }) ∧
    decodeWord 0b10_1_1100010_000001_000010_000000_0001 0 = .ok (.cpyT8 { ct := .C, td := 1, ts := 2 }) ∧
    decodeWord 0b10_1_1100010_000001_000010_000000_0010 0 = .ok (.cpyT16 { ct := .C, td := 1, ts := 2 }) ∧
    decodeWord 0b10_1_1100010_000001_000010_000000_0110 0 = .ok (.wload { ct := .C, td := 1, ts := 2 }) ∧
    decodeWord 0b10_1_1100010_000001_000010_000011_0011 0 = .ok (.gather { ct := .C, td := 1, ts := 2, ti := 3 }) ∧
    decodeWord 0b10_1_1100010_000001_000010_000011_0100 0 = .ok (.scatter { ct := .C, td := 1, ts := 2, ti := 3 }) ∧
    decodeWord 0b10_1_1100010_000001_000010_000011_0101 0 = .ok (.scadd { ct := .C, td := 1, ts := 2, ti := 3 }) ∧
    decodeWord 0b10_1_1100011_000001_000010_000011_0000 0x48000071 = .ok (.att { ct := .C, tq := 1, tk := 2, tv := 3, gx := 9, acco := 1, accs := 6, first := true, last := false }) := by
  refine ⟨?_, ?_, ?_, ?_, ?_, ?_, ?_, ?_, ?_, ?_, ?_, ?_, ?_, ?_, ?_, ?_, ?_, ?_, ?_, ?_, ?_, ?_, ?_, ?_, ?_, ?_, ?_, ?_, ?_⟩ <;> rfl

/-- R217, R348: F-E words of majors 0x70 to 0x73, written out field by field, and the instructions they stand for. -/
theorem test_decode_fabric :
    decodeWord 0b10_1_1110000_000111_000000_000000_0000 0x4a800000 = .ok (.copen { ct := .C, h := 7, gx := 9, gy := 10 }) ∧
    decodeWord 0b10_1_1110000_000110_000000_000000_0001 0x48000000 = .ok (.chold { ct := .C, h := 6, gx := 9 }) ∧
    decodeWord 0b10_1_1110000_000110_000000_000000_0010 0x48000000 = .ok (.csend { ct := .C, h := 6, gx := 9 }) ∧
    decodeWord 0b10_1_1110000_000110_000000_000000_0011 0x48000000 = .ok (.csendResume { ct := .C, h := 6, gx := 9 }) ∧
    decodeWord 0b10_1_1110000_000110_000000_000000_0101 0x48000000 = .ok (.cstat { ct := .C, h := 6, gx := 9 }) ∧
    decodeWord 0b10_1_1110000_000110_000000_000000_0100 0 = .ok (.cshut { ct := .C, h := 6 }) ∧
    decodeWord 0b10_1_1110001_000000_000000_000000_0000 0x4800000a = .ok (.tide { ct := .C, gx := 9, link := 10 }) ∧
    decodeWord 0b10_1_1110010_000001_000010_000000_0000 0x4a800001 = .ok (.ard { ct := .C, td := 1, ts := 2, gx := 9, gy := 10, op := .max }) ∧
    decodeWord 0b10_1_1110010_000001_000010_000000_0001 0x4a800000 = .ok (.agt { ct := .C, td := 1, ts := 2, gx := 9, gy := 10 }) ∧
    decodeWord 0b10_1_1110010_000001_000010_000000_0010 0x4a800002 = .ok (.rsc { ct := .C, td := 1, ts := 2, gx := 9, gy := 10, op := .min }) ∧
    decodeWord 0b10_1_1110010_000001_000010_000000_0011 0x4a800000 = .ok (.bct { ct := .C, td := 1, ts := 2, gx := 9, gy := 10 }) ∧
    decodeWord 0b10_1_1110010_000000_000000_000000_0100 0x4a800000 = .ok (.tree { ct := .C, gx := 9, gy := 10 }) ∧
    decodeWord 0b10_1_1110011_000010_000000_000000_0000 0x48000063 = .ok (.rota { ct := .C, ts := 2, gx := 9, acco := 3, accs := 4, att := true }) := by
  refine ⟨?_, ?_, ?_, ?_, ?_, ?_, ?_, ?_, ?_, ?_, ?_, ?_, ?_⟩ <;> rfl
/-! ## A small machine -/

/-- Launch 0 over a flat segment, with its instance on isle 0. -/
def l0 : Launch := flatLaunch 0 0

/-- Its instance, with every count declared to its limit. -/
def i0 : Inst := flatInst State.reset l0 0

/-- The instance with registers gs in context c. -/
def iG (c : Ctx) (gs : List (Nat × Word)) : Inst := i0.updCtx c (fun x => { x with g := gs })

/-- The instance with the entries es in queue register Q0. -/
def iQ (es : List QEnt) : Inst := i0.setFifo 0 ⟨es, 0, []⟩

/-- The machine in which context c of isle 0 has its turn, i being the instance there, of launch l. -/
def on (c : Ctx) (i : Inst) (l : Launch) : State :=
  { State.reset with boot := .running, turn := .issue 0 c, nextLaunch := 1, nextUid := 1, launches := [(0, l)], slots := [(0, i)] }

/-- Context c owns the slot class of ins, and the tag of ins names c. -/
def legalAt (ins : Instr) (c : Ctx) : Bool :=
  match tagOfInstr ins, slotOf ins with
  | some t, some sl => tagFor t c && slotLegal t c sl
  | _, _ => false

theorem reached_on (ins : Instr) (c : Ctx) (i : Inst) (l : Launch) (h : (ins.wellFormed && i.acts c && legalAt ins c) = true) :
    Reached ins (on c i l) 0 c i := by
  simp only [Bool.and_eq_true] at h
  obtain ⟨⟨hw, ha⟩, hl⟩ := h
  refine ⟨rfl, rfl, ha, hw, ?_⟩
  unfold legalAt at hl
  split at hl
  · rename_i t sl ht hs
    simp only [Bool.and_eq_true] at hl
    exact ⟨t, sl, ht, hs, hl.1, hl.2⟩
  · cases hl

/-- The premises of `WritesG` for a word of context c. -/
def CanWrite (ins : Instr) (gs : List (BitVec 5)) (d : BitVec 5) (c : Ctx) (i : Inst) (vals : List Word) (j : Inst) : Prop :=
  Reached ins (on c i l0) 0 c i ∧ Sources i c gs [d] vals j ∧ pushRoom i j d = true

/-! ## Scalar words -/

/-- Registers at the ends of their range: G23 and G1, to G0. -/
theorem wit_integerArithmetic :
    CanWrite (.add ⟨.L, 0, 23, 1⟩) [23, 1] 0 .L (iG .L [(1, 7), (23, 5)]) [5, 7] (iG .L [(1, 7), (23, 5)]) :=
  ⟨reached_on _ _ _ _ (by decide), ⟨by decide, by decide, rfl⟩, by decide⟩

/-- A queue register as source and destination: popped, and pushed where it has just been popped. -/
theorem wit_integerArithmetic_queue : ∃ j, CanWrite (.sub ⟨.L, 24, 24, 0⟩) [24, 0] 24 .L
    (iQ [⟨some 9, 0, .C, 0⟩, ⟨none, 3, .C, 0⟩, ⟨some 1, 0, .C, 0⟩, ⟨some 2, 0, .C, 0⟩]) [9, 0] j :=
  ⟨_, reached_on _ _ _ _ (by decide), ⟨by decide, by decide, rfl⟩, by decide⟩

/-- Division by zero, and -2^63 / -1. -/
theorem wit_divisions :
    CanWrite (.div ⟨.C, 3, 1, 2⟩) [1, 2] 3 .C (iG .C [(1, 7)]) [7, 0] (iG .C [(1, 7)]) ∧
    CanWrite (.rem ⟨.C, 3, 1, 2⟩) [1, 2] 3 .C (iG .C [(1, 0x8000000000000000), (2, 0xFFFFFFFFFFFFFFFF)])
      [0x8000000000000000, 0xFFFFFFFFFFFFFFFF] (iG .C [(1, 0x8000000000000000), (2, 0xFFFFFFFFFFFFFFFF)]) :=
  ⟨⟨reached_on _ _ _ _ (by decide), ⟨by decide, by decide, rfl⟩, by decide⟩,
    ⟨reached_on _ _ _ _ (by decide), ⟨by decide, by decide, rfl⟩, by decide⟩⟩

/-- A count of 64, of which the low six bits are zero. -/
theorem wit_shifts : CanWrite (.rol ⟨.S, 3, 1, 2⟩) [1, 2] 3 .S (iG .S [(1, 7), (2, 64)]) [7, 64] (iG .S [(1, 7), (2, 64)]) :=
  ⟨reached_on _ _ _ _ (by decide), ⟨by decide, by decide, rfl⟩, by decide⟩

/-- A field of the whole width, and one that ends at bit 63. -/
theorem wit_scaledAndFields :
    CanWrite (.bfx ⟨.A, 3, 1, 63, 0⟩) [1] 3 .L (iG .L [(1, 7)]) [7] (iG .L [(1, 7)]) ∧
    CanWrite (.bfi ⟨.A, 3, 1, 0, 63⟩) [1, 3] 3 .L (iG .L [(1, 7)]) [7, 0] (iG .L [(1, 7)]) ∧
    CanWrite (.sel ⟨.A, 3, 1, 2, 4⟩) [1, 2, 4] 3 .L (iG .L [(1, 7)]) [7, 0, 0] (iG .L [(1, 7)]) :=
  ⟨⟨reached_on _ _ _ _ (by decide), ⟨by decide, by decide, rfl⟩, by decide⟩,
    ⟨reached_on _ _ _ _ (by decide), ⟨by decide, by decide, rfl⟩, by decide⟩,
    ⟨reached_on _ _ _ _ (by decide), ⟨by decide, by decide, rfl⟩, by decide⟩⟩

theorem wit_immediates :
    CanWrite (.addImm ⟨.A, 3, 1, .long 0x80000000⟩) [1] 3 .L (iG .L [(1, 7)]) [7] (iG .L [(1, 7)]) ∧
    CanWrite (.li ⟨.A, 3, .short 0x800⟩) [] 3 .L i0 [] i0 :=
  ⟨⟨reached_on _ _ _ _ (by decide), ⟨by decide, by decide, rfl⟩, by decide⟩,
    ⟨reached_on _ _ _ _ (by decide), ⟨by decide, by decide, rfl⟩, by decide⟩⟩

/-- An infinity and a signalling NaN. -/
theorem wit_scalarFloat :
    CanWrite (.fadd ⟨.A, 3, 1, 2, .rdn⟩) [1, 2] 3 .L (iG .L [(1, 0x7F800000), (2, 0x7F800001)]) [0x7F800000, 0x7F800001]
      (iG .L [(1, 0x7F800000), (2, 0x7F800001)]) ∧
    CanWrite (.fcvtF32Bf16 ⟨.A, 3, 1⟩) [1] 3 .L (iG .L [(1, 0x7F80)]) [0x7F80] (iG .L [(1, 0x7F80)]) :=
  ⟨⟨reached_on _ _ _ _ (by decide), ⟨by decide, by decide, rfl⟩, by decide⟩,
    ⟨reached_on _ _ _ _ (by decide), ⟨by decide, by decide, rfl⟩, by decide⟩⟩

/-- The smallest signalling NaN of FP32, and the largest finite pattern of FP16. -/
theorem wit_roundingAndNans :
    (decodeF fF32 0x7F800001).isNan = true ∧ (0x7BFF : Nat) < 2 ^ (1 + fF16.eb + fF16.mb) ∧ (decodeF fF16 0x7BFF).isNan = false := by
  decide

/-- An address in the flat segment, and one beyond every segment; a scratchpad window and DRAM as targets. -/
theorem wit_locate :
    CanWrite (.loc ⟨.A, 3, 1⟩) [1] 3 .L (iG .L [(1, 0x7FFFFFFFFF)]) [0x7FFFFFFFFF] (iG .L [(1, 0x7FFFFFFFFF)]) ∧
    (∃ d, findSeg [flatSeg] 0x8000000000 = .error d) ∧
    findSeg [flatSeg] 0x1000 = .ok flatSeg ∧ segTgt none flatSeg 0x1000 = .dram 0x1000 ∧ l0.part.self < 4096 ∧
    (∃ g, findSeg [g] 0x1000 = .ok g ∧ segTgt none g 0x1000 = .spad 0 0x1000) :=
  ⟨⟨reached_on _ _ _ _ (by decide), ⟨by decide, by decide, rfl⟩, by decide⟩, ⟨1, by decide⟩, by decide, by decide, by decide,
    ⟨{ flatSeg with lbase := spadBase }, by decide, by decide⟩⟩

/-! ## Control and system words -/

/-- BC at zero, where .LEZ holds and .LTZ does not; LOOP at 1, 2 and 0. -/
theorem wit_relativeBranches :
    (Reached (.br ⟨.A, .short 0x2000⟩) (on .S i0 l0) 0 .S i0) ∧
    (Reached (.bc ⟨.A, 1, .lez, .short 1⟩) (on .S i0 l0) 0 .S i0 ∧ Sources i0 .S [1] [] [0] i0 ∧ (0 : Word).toInt ≤ 0) ∧
    (Reached (.bc ⟨.A, 1, .ltz, .short 1⟩) (on .S i0 l0) 0 .S i0 ∧ Sources i0 .S [1] [] [0] i0 ∧ ¬ (0 : Word).toInt < 0) ∧
    (Reached (.loop ⟨.A, 23, .short 1⟩) (on .S i0 l0) 0 .S i0 ∧ Sources i0 .S [23] [23] [0] i0 ∧ (0 : Word) ≠ 1) ∧
    (Reached (.loop ⟨.A, 1, .short 1⟩) (on .S (iG .S [(1, 1)]) l0) 0 .S (iG .S [(1, 1)]) ∧
      Sources (iG .S [(1, 1)]) .S [1] [1] [1] (iG .S [(1, 1)])) :=
  ⟨reached_on _ _ _ _ (by decide), ⟨reached_on _ _ _ _ (by decide), ⟨by decide, by decide, rfl⟩, by decide⟩,
    ⟨reached_on _ _ _ _ (by decide), ⟨by decide, by decide, rfl⟩, by decide⟩,
    ⟨reached_on _ _ _ _ (by decide), ⟨by decide, by decide, rfl⟩, by decide⟩,
    ⟨reached_on _ _ _ _ (by decide), ⟨by decide, by decide, rfl⟩⟩⟩

/-- The instance whose context L has n entries in its return stack, and t in G1. -/
def iStack (n : Nat) (t : Word) : Inst := i0.updCtx .L (fun x => { x with stack := List.replicate n 0x2000, g := [(1, t)] })

/-- Six and seven entries in the return stack; targets at the ends of each clause. -/
theorem wit_callsAndReturns :
    (Reached (.call ⟨.A, .long 1⟩) (on .L (iStack 6 0) l0) 0 .L (iStack 6 0) ∧ ((iStack 6 0).ctx .L).stack.length < 7) ∧
    (Reached (.call ⟨.A, .long 1⟩) (on .L (iStack 7 0) l0) 0 .L (iStack 7 0) ∧ 7 ≤ ((iStack 7 0).ctx .L).stack.length) ∧
    (Reached (.callr ⟨.A, 1⟩) (on .L (iStack 6 0xFFFFFFFFFFFC) l0) 0 .L (iStack 6 0xFFFFFFFFFFFC) ∧
      ((iStack 6 0xFFFFFFFFFFFC).ctx .L).stack.length < 7 ∧
      Sources (iStack 6 0xFFFFFFFFFFFC) .L [1] [] [0xFFFFFFFFFFFC] (iStack 6 0xFFFFFFFFFFFC) ∧
      (0xFFFFFFFFFFFC : Word).toNat < 2 ^ 48 ∧ (0xFFFFFFFFFFFC : Word).toNat % 4 = 0) ∧
    (Reached (.jr ⟨.A, 1⟩) (on .L (iStack 0 0x1000000000001) l0) 0 .L (iStack 0 0x1000000000001) ∧
      Sources (iStack 0 0x1000000000001) .L [1] [] [0x1000000000001] (iStack 0 0x1000000000001) ∧
      2 ^ 48 ≤ (0x1000000000001 : Word).toNat) ∧
    (Reached (.jr ⟨.A, 1⟩) (on .L (iStack 0 0xFFFFFFFFFFFE) l0) 0 .L (iStack 0 0xFFFFFFFFFFFE) ∧
      Sources (iStack 0 0xFFFFFFFFFFFE) .L [1] [] [0xFFFFFFFFFFFE] (iStack 0 0xFFFFFFFFFFFE) ∧
      (0xFFFFFFFFFFFE : Word).toNat < 2 ^ 48 ∧ (0xFFFFFFFFFFFE : Word).toNat % 4 ≠ 0) ∧
    (Reached (.ret ⟨.A⟩) (on .L (iStack 1 0) l0) 0 .L (iStack 1 0) ∧ ((iStack 1 0).ctx .L).stack = [0x2000]) ∧
    (Reached (.ret ⟨.A⟩) (on .L i0 l0) 0 .L i0 ∧ (i0.ctx .L).stack = []) :=
  ⟨⟨reached_on _ _ _ _ (by decide), by decide⟩, ⟨reached_on _ _ _ _ (by decide), by decide⟩,
    ⟨reached_on _ _ _ _ (by decide), by decide, ⟨by decide, by decide, rfl⟩, by decide, by decide⟩,
    ⟨reached_on _ _ _ _ (by decide), ⟨by decide, by decide, rfl⟩, by decide⟩,
    ⟨reached_on _ _ _ _ (by decide), ⟨by decide, by decide, rfl⟩, by decide, by decide⟩,
    ⟨reached_on _ _ _ _ (by decide), by decide⟩, ⟨reached_on _ _ _ _ (by decide), by decide⟩⟩

/-- QPEEK of an empty queue, of a reserved head and of a head with data; QCNT of a full queue; reads of fields that wait. -/
theorem wit_sourceReads :
    (Reached (.qpeek ⟨.A, 3, 0⟩) (on .L i0 l0) 0 .L i0 ∧ Sources i0 .L [] [3] [] i0 ∧ (i0.fifo 0).ents = []) ∧
    (Reached (.qpeek ⟨.A, 3, 0⟩) (on .L (iQ [⟨none, 1, .L, 0⟩]) l0) 0 .L (iQ [⟨none, 1, .L, 0⟩]) ∧
      Sources (iQ [⟨none, 1, .L, 0⟩]) .L [] [3] [] (iQ [⟨none, 1, .L, 0⟩]) ∧ ((iQ [⟨none, 1, .L, 0⟩]).fifo 0).ents = [⟨none, 1, .L, 0⟩]) ∧
    (Reached (.qpeek ⟨.A, 3, 0⟩) (on .L (iQ [⟨some 5, 1, .L, 0⟩]) l0) 0 .L (iQ [⟨some 5, 1, .L, 0⟩]) ∧
      Sources (iQ [⟨some 5, 1, .L, 0⟩]) .L [] [3] [] (iQ [⟨some 5, 1, .L, 0⟩]) ∧
      pushRoom (iQ [⟨some 5, 1, .L, 0⟩]) (iQ [⟨some 5, 1, .L, 0⟩]) 3 = true) ∧
    CanWrite (.qcnt ⟨.A, 3, 0⟩) [] 3 .L (iQ (List.replicate 4 ⟨some 5, 1, .L, 0⟩)) [] (iQ (List.replicate 4 ⟨some 5, 1, .L, 0⟩)) ∧
    (readG .L i0 [0, 23] = .ok [0, 0] i0) ∧ (readG .L i0 [24] = .wait (.queue 0)) ∧ (∃ j, readG .L (iQ [⟨some 5, 1, .L, 0⟩]) [24] = .ok [5] j) :=
  ⟨⟨reached_on _ _ _ _ (by decide), ⟨by decide, by decide, rfl⟩, by decide⟩,
    ⟨reached_on _ _ _ _ (by decide), ⟨by decide, by decide, rfl⟩, by decide⟩,
    ⟨reached_on _ _ _ _ (by decide), ⟨by decide, by decide, rfl⟩, by decide⟩,
    ⟨reached_on _ _ _ _ (by decide), ⟨by decide, by decide, rfl⟩, by decide⟩, rfl, rfl, ⟨_, rfl⟩⟩

theorem wit_systemReads :
    (0x063 : BitVec 12) = BitVec.ofNat 12 0x063 ∧ CanWrite (.srd ⟨.A, 3, 0x063⟩) [] 3 .L i0 [] i0 ∧ (on .L i0 l0).launch i0.launch = some l0 :=
  ⟨rfl, ⟨reached_on _ _ _ _ (by decide), ⟨by decide, by decide, rfl⟩, by decide⟩, rfl⟩

/-- A writable register, and one without writable fields. -/
theorem wit_systemWrites :
    (∀ n ∈ [(0x021 : BitVec 12), 0x052, 0x000, 0x063], Reached (.swr ⟨.A, 3, n⟩) (on .L i0 l0) 0 .L i0 ∧ n.toNat < 0xF00) ∧
    (on .L i0 l0).launch i0.launch = some l0 ∧ Sources i0 .L [3] [] [0] i0 :=
  ⟨by
    intro n hn
    simp only [List.mem_cons, List.not_mem_nil, or_false] at hn
    rcases hn with rfl | rfl | rfl | rfl <;> exact ⟨reached_on _ _ _ _ (by decide), by decide⟩,
    rfl, ⟨by decide, by decide, rfl⟩⟩

theorem wit_trapWords :
    (Reached (.srd ⟨.A, 3, 0xF00⟩) (on .L i0 l0) 0 .L i0 ∧ 0xF00 ≤ (0xF00 : BitVec 12).toNat) ∧
    (Reached (.swr ⟨.A, 3, 0xFFF⟩) (on .L i0 l0) 0 .L i0 ∧ 0xF00 ≤ (0xFFF : BitVec 12).toNat) ∧
    Reached (.trap ⟨.A, 0xFFF⟩) (on .L i0 l0) 0 .L i0 :=
  ⟨⟨reached_on _ _ _ _ (by decide), by decide⟩, ⟨reached_on _ _ _ _ (by decide), by decide⟩, reached_on _ _ _ _ (by decide)⟩

theorem wit_nopAndHint : Reached (.nop ⟨.A⟩) (on .L i0 l0) 0 .L i0 ∧ Reached (.hint ⟨.A, 0xFFF⟩) (on .L i0 l0) 0 .L i0 :=
  ⟨reached_on _ _ _ _ (by decide), reached_on _ _ _ _ (by decide)⟩

/-- The instance in which L alone is live. -/
def iLast : Inst := (i0.updCtx .C (fun x => { x with live := false })).updCtx .S (fun x => { x with live := false })

/-- The launch as a speculation. -/
def lSpec : Launch := { l0 with spec := true }

theorem wit_exitAndMarks :
    (Reached (.exit ⟨.A⟩) (on .L i0 l0) 0 .L i0 ∧ ∃ c', c' ≠ Ctx.L ∧ (i0.ctx c').live = true) ∧
    (Reached (.exit ⟨.A⟩) (on .L iLast l0) 0 .L iLast ∧ (∀ c', c' ≠ Ctx.L → (iLast.ctx c').live = false) ∧
      (on .L iLast l0).launch iLast.launch = some l0 ∧ l0.spec = false) ∧
    (Reached (.exit ⟨.A⟩) (on .L iLast lSpec) 0 .L iLast ∧ (on .L iLast lSpec).launch iLast.launch = some lSpec ∧ lSpec.spec = true) ∧
    Reached (.succ ⟨.A⟩) (on .L i0 l0) 0 .L i0 ∧
    (Reached (.pmark ⟨.A, 1⟩) (on .L i0 l0) 0 .L i0 ∧ (Sparse.get [] (on .L i0 l0).pmark (0 / 32)).length < 1024) ∧
    Reached (.pmark ⟨.A, 1⟩) (on .L i0 lSpec) 0 .L i0 :=
  ⟨⟨reached_on _ _ _ _ (by decide), .C, by decide, by decide⟩,
    ⟨reached_on _ _ _ _ (by decide), by intro c h; cases c <;> first | rfl | exact absurd rfl h, rfl, rfl⟩,
    ⟨reached_on _ _ _ _ (by decide), rfl, rfl⟩, reached_on _ _ _ _ (by decide), ⟨reached_on _ _ _ _ (by decide), by decide⟩,
    reached_on _ _ _ _ (by decide)⟩

/-! ## Memory, sync and message words -/

/-- The premises that the words of this section share: the word is reached, its sources read, its element passes, and it may issue. -/
def CanAccess (ins : Instr) (c : Ctx) (i : Inst) (gs dst : List (BitVec 5)) (vals : List Word) (w : Want) (n : Nat) (va : Word) (el : Elem) : Prop :=
  Reached ins (on c i l0) 0 c i ∧ Plain (on c i l0) i l0 ∧ Sources i c gs dst vals i ∧ checkElem (on c i l0) 0 i l0 w n 0 va = .ok el ∧
    MayIssue (on c i l0) i c l0 [el.tgt]

/-- A DRAM element at address a. -/
def elAt (a : Nat) : Elem := ⟨0, BitVec.ofNat 64 a, .dram a, .rc, flatSeg.apl, .ok⟩

/-- The last doubleword of the segment, and a masked load of a byte. -/
theorem wit_loadsIssue :
    (CanAccess (.ldAq ⟨.L, 3, 1, 63, .d, 0, none⟩) .L (iG .L [(1, 0x7FFFFFFFF8)]) [1] [3] [0x7FFFFFFFF8] (.load false) 8 0x7FFFFFFFF8
      (elAt 0x7FFFFFFFF8) ∧ VFree (iG .L [(1, 0x7FFFFFFFF8)]) [] [0] ∧ pushRoom i0 i0 3 = true ∧ i0.landingUsed < 48) ∧
    (CanAccess (.lds ⟨.L, 0, 1, 0, .b, 7, some 0xFFFFFFFF⟩) .L (iG .L [(1, 0x2000)]) [1] [0] [0x2000] (.load true) 1 0x1FFF (elAt 0x1FFF) ∧
      VFree (iG .L [(1, 0x2000)]) [] [7]) ∧
    (CanAccess (.ld ⟨.L, 31, 1, 0, .w, 0, none⟩) .L (iG .L [(1, 0x2000)]) [1] [31] [0x2000] (.load false) 4 0x2000 (elAt 0x2000) ∧
      pushRoom (iG .L [(1, 0x2000)]) (iG .L [(1, 0x2000)]) 31 = true) :=
  ⟨⟨⟨reached_on _ _ _ _ (by decide), ⟨rfl, rfl⟩, ⟨by decide, by decide, rfl⟩, by decide, by decide, by decide⟩, ⟨by decide, by decide, by decide⟩,
      by decide, by decide⟩,
    ⟨⟨reached_on _ _ _ _ (by decide), ⟨rfl, rfl⟩, ⟨by decide, by decide, rfl⟩, by decide, by decide, by decide⟩, ⟨by decide, by decide, by decide⟩⟩,
    ⟨⟨reached_on _ _ _ _ (by decide), ⟨rfl, rfl⟩, ⟨by decide, by decide, rfl⟩, by decide, by decide, by decide⟩, by decide⟩⟩

/-- The launch whose segment names the message windows of isle 0. -/
def lWin : Launch := { l0 with segs := [{ flatSeg with lbase := 0x010280000000, log2sz := 20 }] }

/-- Window 0 enabled, for messages to a peer. -/
def iWin (a v : Word) : Inst := { (iG .S [(1, a), (2, v)]) with wins := [(0, { MsgWin.start with en := true })] }

theorem wit_storesIssue :
    (CanAccess (.st ⟨.S, 2, 1, .d, none⟩) .S (iG .S [(1, 0x2000), (2, 5)]) [1, 2] [] [0x2000, 5] .store 8 0x2000 (elAt 0x2000) ∧
      padRefilling (iG .S [(1, 0x2000), (2, 5)]) (elAt 0x2000) 8 = false ∧ ∀ a w off, (elAt 0x2000).tgt ≠ .msgwin a w off) ∧
    (Reached (.stRl ⟨.S, 2, 1, .w, none⟩) (on .S (iG .S [(1, 0x2000)]) l0) 0 .S (iG .S [(1, 0x2000)]) ∧
      releaseReady (on .S (iG .S [(1, 0x2000)]) l0) (iG .S [(1, 0x2000)]).uid .S ((iG .S [(1, 0x2000)]).ctx .S) = true) ∧
    (∀ a ∈ [(0 : Word), 0x7F8, 0x800], Reached (.st ⟨.S, 2, 1, .d, none⟩) (on .S (iWin a 5) lWin) 0 .S (iWin a 5) ∧
      Sources (iWin a 5) .S [1, 2] [] [a, 5] (iWin a 5) ∧ MayIssue (on .S (iWin a 5) lWin) (iWin a 5) .S lWin [.msgwin 0 0 a.toNat] ∧
      checkElem (on .S (iWin a 5) lWin) 0 (iWin a 5) lWin .store 8 0 a = .ok ⟨0, a, .msgwin 0 0 a.toNat, .rc, flatSeg.apl, .ok⟩) :=
  ⟨⟨⟨reached_on _ _ _ _ (by decide), ⟨rfl, rfl⟩, ⟨by decide, by decide, rfl⟩, by decide, by decide, by decide⟩, by decide,
      by intro a w off h; cases h⟩, ⟨reached_on _ _ _ _ (by decide), by decide⟩, by
    intro a ha
    simp only [List.mem_cons, List.not_mem_nil, or_false] at ha
    rcases ha with rfl | rfl | rfl <;>
      exact ⟨reached_on _ _ _ _ (by decide), ⟨by decide, by decide, rfl⟩, ⟨by decide, by decide⟩, by decide⟩⟩

theorem wit_atomicsIssue :
    CanAccess (.amo ⟨.S, 3, 1, 0, .w, .addf, true, none⟩) .S (iG .S [(1, 0x2000)]) [1, 3] [3] [0x2000, 0] (.amo .addf) 4 0x2000 (elAt 0x2000) ∧
    (Reached (.amoRl ⟨.S, 24, 1, 0, .d, .swap, false, none⟩) (on .S (iQ [⟨some 4, 0, .C, 0⟩]) l0) 0 .S (iQ [⟨some 4, 0, .C, 0⟩]) ∧
      ∃ j, Sources (iQ [⟨some 4, 0, .C, 0⟩]) .S [1, 24] [24] [0, 4] j ∧ pushRoom (iQ [⟨some 4, 0, .C, 0⟩]) j 24 = true) ∧
    CanAccess (.cas ⟨.S, 22, 1, 0, .d, true, true, none⟩) .S (iG .S [(1, 0x2000)]) [1, 22, 23] [22] [0x2000, 0, 0] .cas 8 0x2000 (elAt 0x2000) ∧
    CanAccess (.red ⟨.S, 3, 1, .d, .xor, true, none⟩) .S (iG .S [(1, 0x2000)]) [1, 3] [] [0x2000, 0] (.red .xor) 8 0x2000 (elAt 0x2000) ∧
    releaseReady (on .S i0 l0) i0.uid .S (i0.ctx .S) = true ∧ i0.landingUsed < 48 :=
  ⟨⟨reached_on _ _ _ _ (by decide), ⟨rfl, rfl⟩, ⟨by decide, by decide, rfl⟩, by decide, by decide, by decide⟩,
    ⟨reached_on _ _ _ _ (by decide), _, ⟨by decide, by decide, rfl⟩, by decide⟩,
    ⟨reached_on _ _ _ _ (by decide), ⟨rfl, rfl⟩, ⟨by decide, by decide, rfl⟩, by decide, by decide, by decide⟩,
    ⟨reached_on _ _ _ _ (by decide), ⟨rfl, rfl⟩, ⟨by decide, by decide, rfl⟩, by decide, by decide, by decide⟩, by decide, by decide⟩

/-- The launch whose segment is divided into granules whose residency map says that none is resident. -/
def lGone : Launch := { l0 with segs := [{ flatSeg with resid := true }], eff := { flatEff with resmap := 0x10000 } }

theorem wit_lineWords :
    (Reached (.pref ⟨.L, 1, none⟩) (on .L i0 l0) 0 .L i0 ∧ Sources i0 .L [1] [] [0] i0 ∧ acquirePending (on .L i0 l0) i0.uid .L = false) ∧
    CanAccess (.cflush ⟨.S, 1, none⟩) .S (iG .S [(1, 0x2001)]) [1] [] [0x2001] .cflush 1 0x2001 (elAt 0x2001) ∧
    (Reached (.pgreq ⟨.L, 1, none⟩) (on .L i0 lGone) 0 .L i0 ∧ Plain (on .L i0 lGone) i0 lGone ∧
      findSeg lGone.segs 0 = .ok { flatSeg with resid := true } ∧
      resident (on .L i0 lGone) lGone.eff { flatSeg with resid := true } 0 = false) ∧
    resident (on .L i0 l0) l0.eff flatSeg 0 = true :=
  ⟨⟨reached_on _ _ _ _ (by decide), ⟨by decide, by decide, rfl⟩, by decide⟩,
    ⟨reached_on _ _ _ _ (by decide), ⟨rfl, rfl⟩, ⟨by decide, by decide, rfl⟩, by decide, by decide, by decide⟩,
    ⟨reached_on _ _ _ _ (by decide), ⟨rfl, rfl⟩, by decide, by decide⟩, by decide⟩

/-- The first address beyond the segment; a permission that lacks; a granule that is not resident; an address one past a multiple of 8, whose
last byte is in the segment or beyond it. -/
theorem wit_elementChecks :
    (∃ d, findSeg [flatSeg] (0x8000000000 : Word).toNat = .error d) ∧
    (findSeg [{ flatSeg with w := false }] 0x2000 = .ok { flatSeg with w := false } ∧
      segTgt (selfOf l0.part) { flatSeg with w := false } 0x2000 = .dram 0x2000) ∧
    resident (on .L i0 lGone) lGone.eff { flatSeg with resid := true } 0x2000 = false ∧
    ((0x7FFFFFFFFD : Word).toNat % 8 ≠ 0 ∧ (∃ d, findSeg [flatSeg] ((0x7FFFFFFFFD : Word).toNat + 8 - 1) = .error d) ∧
      elemAt (on .L i0 l0) 0 i0 l0 (.load false) 1 ((0x7FFFFFFFFD : Word).toNat + 8 - 1) = .error ⟨5, 0x04, 1⟩) ∧
    ((∃ el, elemAt (on .L i0 l0) 0 i0 l0 (.load false) 1 ((0x2001 : Word).toNat + 8 - 1) = .ok el) ∧
      findSeg [flatSeg] ((0x2001 : Word).toNat + 8 - 1) = .ok flatSeg ∧
      segTgt (selfOf l0.part) flatSeg ((0x2001 : Word).toNat + 8 - 1) = .dram 0x2008 ∧
      checkElem (on .L i0 l0) 0 i0 l0 (.load false) 8 0 0x2001 = .error ⟨6, 0x06, 0⟩ ∧
      Reached (.ld ⟨.L, 3, 1, 0, .d, 0, none⟩) (on .L (iG .L [(1, 0x2001)]) l0) 0 .L (iG .L [(1, 0x2001)]) ∧
      Sources (iG .L [(1, 0x2001)]) .L [1] [3] [0x2001] (iG .L [(1, 0x2001)]) ∧ VFree (iG .L [(1, 0x2001)]) [] [0]) ∧
    (checkElem (on .S i0 l0) 0 i0 l0 .store 8 0 0x8000000000 = .error ⟨5, 0x04, 1⟩ ∧
      Reached (.st ⟨.S, 3, 1, .d, none⟩) (on .S (iG .S [(1, 0x8000000000)]) l0) 0 .S (iG .S [(1, 0x8000000000)])) :=
  ⟨⟨1, by decide⟩, ⟨by decide, by decide⟩, by decide,
    ⟨by decide, ⟨1, by decide⟩, by decide⟩,
    ⟨⟨_, rfl⟩, by decide, by decide, by decide, reached_on _ _ _ _ (by decide), ⟨by decide, by decide, rfl⟩, ⟨by decide, by decide, by decide⟩⟩,
    ⟨by decide, reached_on _ _ _ _ (by decide)⟩⟩

/-- The launch with a live predecessor. -/
def lPred : Launch := { l0 with pred := some 7 }

/-- The machine in which launch 7 is live too. -/
def onPred : State := { on .L i0 lPred with launches := [(0, lPred), (7, { l0 with id := 7 })] }

/-- An access of the instance that is outstanding. -/
def aOut (c : Ctx) (k : AccKind) (p : Part) : Access :=
  ⟨5, 0, 0, 0, c, 0, 0x1000, k, [p], false, false, 0, none, (0, 0, 0)⟩

/-- A doubleword part at DRAM 0x2000. -/
def part0 : Part := ⟨0, 0x2000, .dram 0x2000, 8, .rc, .mem, none, 5, 0, false, 0, .ok⟩

/-- The instance whose context S has written to the host link, and, its FENCE having read the link, waits for that read. -/
def iHost : Inst := i0.updCtx .S (fun x => { x with hostWr := true })
def iHostF : Inst := i0.updCtx .S (fun x => { x with hostWr := true, fenced := true })

/-- The zero-length read of the host link. -/
def partH : Part := ⟨0, 0, .host 0, 0, .un, .host, none, 0, 0, false, 0, .ok⟩

/-- A store of context S outstanding when its FENCE comes; and none; the read of the host link outstanding, and performed. Counters one below,
and at, the count of a WAIT. -/
theorem wit_fencesAndWaits :
    (Reached (.fence ⟨.S, false, .isle⟩) (on .S i0 l0) 0 .S i0 ∧ (on .S i0 l0).launch i0.launch = some l0 ∧
      fenceReady (on .S i0 l0) 0 i0.uid .S (i0.ctx .S) .dom = true ∧
      fenceReady { on .S i0 l0 with acc := [aOut .S .store part0] } 0 i0.uid .S (i0.ctx .S) .dev = false) ∧
    (Reached (.fence ⟨.S, false, .dom⟩) (on .S iHost l0) 0 .S iHost ∧ (iHost.ctx .S).fenced = false ∧ (iHost.ctx .S).hostWr = true ∧
      fenceReady (on .S iHost l0) 0 iHost.uid .S (iHost.ctx .S) .dom = true) ∧
    (Reached (.fence ⟨.S, false, .dev⟩) (on .S iHostF l0) 0 .S iHostF ∧ (iHostF.ctx .S).fenced = true ∧ (on .S iHostF l0).acc = [] ∧
      (aOut .S .hostFence partH).same iHostF.uid .S = true) ∧
    (Reached (.waitvis ⟨.L⟩) (on .L i0 l0) 0 .L i0 ∧ Plain (on .L i0 l0) i0 l0 ∧ l0.pred = none) ∧
    (Reached (.waitvis ⟨.L⟩) (on .L i0 lPred) 0 .L i0 ∧ lPred.pred = some 7 ∧ (on .L i0 lPred).launch 7 = none) ∧
    (onPred.launch i0.launch = some lPred ∧ onPred.launch 7 = some { l0 with id := 7 }) ∧
    (Reached (.wait ⟨.C, 1, .mx⟩) (on .C i0 l0) 0 .C i0 ∧ (i0.ctx .C).waitCount = none ∧ Sources i0 .C [1] [] [0] i0 ∧
      0 ≤ (i0.cnt .mx - (0 : Word).setWidth 32).toInt) ∧
    (i0.cnt .mx - 1).toInt < 0 ∧ ((i0.updCtx .C (fun x => { x with waitCount := some 1 })).ctx .C).waitCount = some 1 :=
  ⟨⟨reached_on _ _ _ _ (by decide), rfl, by decide, by decide⟩,
    ⟨reached_on _ _ _ _ (by decide), by decide, by decide, by decide⟩, ⟨reached_on _ _ _ _ (by decide), by decide, rfl, by decide⟩,
    ⟨reached_on _ _ _ _ (by decide), ⟨rfl, rfl⟩, rfl⟩, ⟨reached_on _ _ _ _ (by decide), rfl, rfl⟩, ⟨rfl, rfl⟩,
    ⟨reached_on _ _ _ _ (by decide), rfl, ⟨by decide, by decide, rfl⟩, by decide⟩, by decide, by decide⟩

/-- The instance that has arrived at barrier b n times, with lag g in context L. -/
def iBar (b n g : Nat) : Inst := (i0.setArr b (BitVec.ofNat 16 n)).updCtx .L (fun x => x.setLag b (BitVec.ofNat 16 g))

/-- iBar, its STEP having arrived. -/
def iStep (b n g : Nat) : Inst := (iBar b n g).updCtx .L (fun x => { x with stepped := true })

/-- The last barrier id; lags 0, 1, 2 and 0xFFFF; before and after the arrival of this phase; a STEP that has arrived, in this phase and in
one that is complete. -/
theorem wit_barriersAndSteps :
    (Reached (.barArr ⟨.L, 31⟩) (on .L (iBar 31 0 0) l0) 0 .L (iBar 31 0 0) ∧ (on .L (iBar 31 0 0) l0).launch 0 = some l0 ∧
      (31 : BitVec 5).toNat < (iBar 31 0 0).counts.bars ∧ ((iBar 31 0 0).ctx .L).lagOf 31 = 0 ∧ (iBar 31 0 0).arrOf 31 ≠ l0.doneOf 31 + 1) ∧
    ((iBar 31 1 0).arrOf 31 = l0.doneOf 31 + 1 ∧ ((iBar 31 1 0).ctx .L).lagOf 31 = 0) ∧ ((iBar 31 0 0xFFFF).ctx .L).lagOf 31 = 0xFFFF ∧
    (Reached (.barWait ⟨.L, 0⟩) (on .L (iBar 0 1 0) l0) 0 .L (iBar 0 1 0) ∧ (iBar 0 1 0).arrOf 0 = l0.doneOf 0 + 1) ∧
    (unretired (on .L (iBar 0 1 0) l0) 0 ≠ [] ∧ ∀ i ∈ unretired (on .L (iBar 0 1 0) l0) 0, i.arrOf 0 = l0.doneOf 0 + 1) ∧
    (Reached (.step ⟨.L, 0⟩) (on .L (iBar 0 0 2) l0) 0 .L (iBar 0 0 2) ∧ ((iBar 0 0 2).ctx .L).stepped = false ∧
      windowStoresPending (on .L (iBar 0 0 2) l0) (iBar 0 0 2).uid = false ∧ 1 < (((iBar 0 0 2).ctx .L).lagOf 0).toNat ∧
      (((iBar 0 0 2).ctx .L).lagOf 0).toNat < 0xFFFF) ∧
    (Reached (.step ⟨.L, 0⟩) (on .L (iStep 0 1 0) l0) 0 .L (iStep 0 1 0) ∧ ((iStep 0 1 0).ctx .L).stepped = true ∧
      ((iStep 0 1 0).ctx .L).lagOf 0 = 0 ∧ (iStep 0 1 0).arrOf 0 = l0.doneOf 0 + 1 ∧ (iStep 0 0 0).arrOf 0 ≠ l0.doneOf 0 + 1) ∧
    (∃ l', (evalBarrier i0.launch 0 ((on .L (iBar 0 0 0) l0).updInst 0 (fun i => i.setArr 0 1))).launch 0 = some l' ∧
      l'.doneOf 0 = (iBar 0 0 0).arrOf 0 + 1) ∧
    windowStoresPending { on .L i0 l0 with acc := [aOut .S .store { part0 with tgt := .spad 1 0 }] } 0 = true :=
  ⟨⟨reached_on _ _ _ _ (by decide), by decide, by decide, by decide, by decide⟩, ⟨by decide, by decide⟩, by decide,
    ⟨reached_on _ _ _ _ (by decide), by decide⟩, ⟨by decide, by decide⟩,
    ⟨reached_on _ _ _ _ (by decide), by decide, by decide, by decide, by decide⟩,
    ⟨reached_on _ _ _ _ (by decide), by decide, by decide, by decide, by decide⟩, ⟨_, rfl, by decide⟩, by decide⟩

theorem wit_queueAppends :
    CanAccess (.launch ⟨.S, 1, 2⟩) .S (iG .S [(1, 0x2000), (2, 15)]) [1, 2] [] [0x2000, 15] .launch 64 0x2000 (elAt 0x2000) ∧
    (Reached (.qtail ⟨.S, 1, 2⟩) (on .S i0 l0) 0 .S i0 ∧ Plain (on .S i0 l0) i0 l0 ∧ Sources i0 .S [1, 2] [] [0, 0] i0 ∧
      acquirePending (on .S i0 l0) i0.uid .S = false ∧ releaseReady (on .S i0 l0) i0.uid .S (i0.ctx .S) = true) :=
  ⟨⟨reached_on _ _ _ _ (by decide), ⟨rfl, rfl⟩, ⟨by decide, by decide, rfl⟩, by decide, by decide, by decide⟩,
    ⟨reached_on _ _ _ _ (by decide), ⟨rfl, rfl⟩, ⟨by decide, by decide, rfl⟩, by decide, by decide⟩⟩

/-! ## Vector words -/

theorem vfree_i0 (vs : List (BitVec 5)) (ms : List (BitVec 3)) : VFree i0 vs ms :=
  ⟨fun f _ => decide_eq_false (show ¬ 32 ≤ f.toNat by have := f.isLt; omega), fun _ _ => rfl, fun m _ => by simp [Inst.mBusy, i0, flatInst, Inst.start]⟩

/-- The last V register, and a mask. -/
theorem wit_vectorFloat : Reached (.vfmaBf16 ⟨.C, 31, 31, 0, 7, some .rdn⟩) (on .C i0 l0) 0 .C i0 ∧ VFree i0 [31, 31, 0] [7] :=
  ⟨reached_on _ _ _ _ (by decide), vfree_i0 _ _⟩

theorem wit_vectorInteger : Reached (.vaddsI16 ⟨.C, 31, 31, 0, 0⟩) (on .C i0 l0) 0 .C i0 ∧ VFree i0 [31, 31, 0] [0] :=
  ⟨reached_on _ _ _ _ (by decide), vfree_i0 _ _⟩

theorem wit_vectorMasks :
    (Reached (.vcmp ⟨.C, 7, 1, 2, 3, .f32, .lt⟩) (on .C i0 l0) 0 .C i0 ∧ VFree i0 [1, 2] [3, 7]) ∧
    (Reached (.mandn ⟨.C, 1, 0, 7⟩) (on .C i0 l0) 0 .C i0 ∧ VFree i0 [] [1, 0, 7]) ∧
    (CanWrite (.mpop ⟨.C, 31, 0⟩) [] 31 .C i0 [] i0) ∧
    (CanWrite (.mtog ⟨.C, 3, 0⟩) [] 3 .C i0 [] i0 ∧
      ∀ l, (BitVec.allOnes 64).getLsbD l = (decide (l < laneCount (on .C i0 l0) 0) && maskBit i0 0 l)) ∧
    (Reached (.mfromg ⟨.C, 7, 1⟩) (on .C i0 l0) 0 .C i0 ∧ Sources i0 .C [1] [] [0] i0) :=
  ⟨⟨reached_on _ _ _ _ (by decide), vfree_i0 _ _⟩, ⟨reached_on _ _ _ _ (by decide), vfree_i0 _ _⟩,
    ⟨reached_on _ _ _ _ (by decide), ⟨by decide, by decide, rfl⟩, by decide⟩,
    ⟨⟨reached_on _ _ _ _ (by decide), ⟨by decide, by decide, rfl⟩, by decide⟩, by
      intro l
      have : laneCount (on .C i0 l0) 0 = 64 := by decide
      rw [this, BitVec.getLsbD_allOnes]; simp [maskBit]⟩,
    ⟨reached_on _ _ _ _ (by decide), ⟨by decide, by decide, rfl⟩⟩⟩

theorem wit_vectorMoves :
    Reached (.vsel ⟨.C, 1, 1, 2, 7⟩) (on .C i0 l0) 0 .C i0 ∧ Reached (.vperm ⟨.C, 1, 1, 2, 0⟩) (on .C i0 l0) 0 .C i0 ∧
    VFree i0 [1, 1, 2] [7] ∧ (Reached (.vbcast ⟨.C, 1, 0, 0⟩) (on .C i0 l0) 0 .C i0 ∧ Sources i0 .C [0] [] [0] i0) :=
  ⟨reached_on _ _ _ _ (by decide), reached_on _ _ _ _ (by decide), vfree_i0 _ _, reached_on _ _ _ _ (by decide), ⟨by decide, by decide, rfl⟩⟩

theorem wit_vectorConversions :
    Reached (.vcvtF32F16 ⟨.C, 31, 0, 7, some .rne⟩) (on .C i0 l0) 0 .C i0 ∧ Reached (.vl6pack ⟨.C, 1, 2, 0, none⟩) (on .C i0 l0) 0 .C i0 ∧
    Reached (.vl6unpk ⟨.C, 1, 2, 0, some .rup⟩) (on .C i0 l0) 0 .C i0 ∧
    (CanWrite (.vred ⟨.C, 31, 0, 0, .or, none⟩) [] 31 .C i0 [] i0 ∧
      treeReduce (vredCombine .or .rne) 6 ((List.range 64).map (fun _ => (0, 0))) = [(0, 0)]) :=
  ⟨reached_on _ _ _ _ (by decide), reached_on _ _ _ _ (by decide), reached_on _ _ _ _ (by decide),
    ⟨reached_on _ _ _ _ (by decide), ⟨by decide, by decide, rfl⟩, by decide⟩, by decide⟩

/-- Base and stride in G1 and G2, and mask M1. -/
def iV (c : Ctx) (a x : Word) (m : Word) : Inst := { (iG c [(1, a), (2, x)]) with m := [(1, m)] }

/-- A launch whose segments are the message windows of isle 0 and, behind them, DRAM. -/
def lBoth : Launch := { l0 with segs :=
  [{ flatSeg with lbase := 0x010280000000, log2sz := 20 }, { flatSeg with vabase := 0x100000, log2sz := 20 }] }

theorem vfree_iV (c : Ctx) (a x m : Word) (vs : List (BitVec 5)) (ms : List (BitVec 3)) : VFree (iV c a x m) vs ms := by
  refine ⟨fun f _ => ?_, fun _ _ => ?_, fun k _ => ?_⟩
  · have := f.isLt; cases c <;> exact decide_eq_false (show ¬ 32 ≤ f.toNat by omega)
  · cases c <;> rfl
  · cases c <;> simp [Inst.mBusy, iV, iG, i0, flatInst, Inst.start, Inst.updCtx, Inst.setCtx]

/-- Lane 63 alone of a load and of a store, no lane, window lanes alone, and both kinds. -/
theorem wit_vectorAccesses :
    (Reached (.vld ⟨.L, 31, 1, 0, 1, none⟩) (on .L (iV .L 0x2000 0 0x7FFFFFFFFFFFFFFF) l0) 0 .L (iV .L 0x2000 0 0x7FFFFFFFFFFFFFFF) ∧
      Sources (iV .L 0x2000 0 0x7FFFFFFFFFFFFFFF) .L [1] [] [0x2000] (iV .L 0x2000 0 0x7FFFFFFFFFFFFFFF) ∧
      checkAll (on .L (iV .L 0x2000 0 0x7FFFFFFFFFFFFFFF) l0) 0 (iV .L 0x2000 0 0x7FFFFFFFFFFFFFFF) l0 (.load true) 4 [(63, 0x20FC)] =
        .ok [⟨63, 0x20FC, .dram 0x20FC, .rc, flatSeg.apl, .ok⟩] ∧
      (List.range (laneCount (on .L (iV .L 0x2000 0 0x7FFFFFFFFFFFFFFF) l0) 0)).filter
        (fun n => (1 : BitVec 3) = 0 || !maskBit (iV .L 0x2000 0 0x7FFFFFFFFFFFFFFF) 1 n) = [63]) ∧
    (Reached (.vsts ⟨.S, 31, 1, 0, 1, 2, 0⟩) (on .S (iV .S 0 0x100000 3) lBoth) 0 .S (iV .S 0 0x100000 3) ∧
      Sources (iV .S 0 0x100000 3) .S [1, 2] [] [0, 0x100000] (iV .S 0 0x100000 3) ∧
      activeLanes (on .S (iV .S 0 0x100000 3) lBoth) 0 (iV .S 0 0x100000 3) 1 = [0, 1] ∧
      (∃ e0 e1, checkAll (on .S { (iV .S 0 0x100000 3) with wins := [(0, { MsgWin.start with en := true })] } lBoth) 0
          { (iV .S 0 0x100000 3) with wins := [(0, { MsgWin.start with en := true })] } lBoth .store 4 [(0, 0), (1, 0x100000)] = .ok [e0, e1] ∧
        e0.inWindow = true ∧ e1.inWindow = false)) ∧
    activeLanes (on .S (iV .S 0 0 0) l0) 0 (iV .S 0 0 0) 1 = [] ∧
    (∀ c a x m vs ms, VFree (iV c a x m) vs ms) :=
  ⟨⟨reached_on _ _ _ _ (by decide), ⟨by decide, by decide, rfl⟩, by decide, by decide +kernel⟩,
    ⟨reached_on _ _ _ _ (by decide), ⟨by decide, by decide, rfl⟩, by decide +kernel,
      ⟨0, 0, .msgwin 0 0 0, .rc, flatSeg.apl, .ok⟩, ⟨1, 0x100000, .dram 0, .rc, flatSeg.apl, .ok⟩, by decide +kernel, by decide, by decide⟩, by decide +kernel, vfree_iV⟩

/-! ## Engine and fabric words -/

/-- A descriptor of two dimensions, s0 elements in a row and s1 rows, at base (R320). -/
def desc2 (fmt space base s0 s1 str1 : Nat) (flags : Nat) : BitVec 256 :=
  BitVec.ofNat 256 (base + flags * 2 ^ 54 + 1 * 2 ^ 56 + space * 2 ^ 58 + fmt * 2 ^ 60 + s0 * 2 ^ 64 + s1 * 2 ^ 80 + str1 * 2 ^ 128)
/-- A descriptor of one dimension. -/
def desc1 (fmt space base s0 : Nat) : BitVec 256 := BitVec.ofNat 256 (base + space * 2 ^ 58 + fmt * 2 ^ 60 + s0 * 2 ^ 64)

/-- The instance with descriptors in T1, T2 and T3. -/
def iT (a b x : BitVec 256) : Inst := { (iG .C [(1, 0x2000)]) with t := [(1, a), (2, b), (3, x)] }

theorem wit_descriptorWords :
    (Reached (.tld ⟨.C, 63, 1, 0x3FFFE0⟩) (on .C (iT 0 0 0) l0) 0 .C (iT 0 0 0) ∧ tOver (iT 0 0 0) 63 = false ∧ (iT 0 0 0).tBusy 63 = false ∧
      Sources (iT 0 0 0) .C [1] [] [0x2000] (iT 0 0 0) ∧
      checkElem (on .C (iT 0 0 0) l0) 0 (iT 0 0 0) l0 (.load false) 32 0 0x1FE0 = .ok (elAt 0x1FE0) ∧
      MayIssue (on .C (iT 0 0 0) l0) (iT 0 0 0) .C l0 [.dram 0x1FE0]) ∧
    (Reached (.tst ⟨.C, 0, 1, 0⟩) (on .C (iT 0 0 0) l0) 0 .C (iT 0 0 0) ∧
      checkElem (on .C (iT 0 0 0) l0) 0 (iT 0 0 0) l0 .store 32 0 0x2000 = .ok (elAt 0x2000) ∧ padRefilling (iT 0 0 0) (elAt 0x2000) 32 = false) ∧
    (Reached (.tmod ⟨.C, 63, 1, .gsoff, true⟩) (on .C (iT 0 0 0) l0) 0 .C (iT 0 0 0)) :=
  ⟨⟨reached_on _ _ _ _ (by decide), by decide, by decide, ⟨by decide, by decide, rfl⟩, by decide, by decide, by decide⟩,
    ⟨reached_on _ _ _ _ (by decide), by decide, by decide⟩, reached_on _ _ _ _ (by decide)⟩

/-- The premises of `EngineWord`. -/
def CanQueue (ins : Instr) (en : Engine) (ts : List (BitVec 6)) (gs : List (BitVec 5)) (vals : List Word) (mk : List Desc → Bool × List Opnd)
    (i : Inst) : Prop :=
  Reached ins (on .C i l0) 0 .C i ∧ Plain (on .C i l0) i l0 ∧ (on .C i l0).mxmap.getLsbD 0 = true ∧
    (let ops := mk ((ts.map (fun t => i.tGet t.toNat)).map descOf)
     Operands i ts ops.1 ops.2 ∧ opndTrap (on .C i l0) 0 i l0 ops.2 = none) ∧
    Sources i .C gs [] vals i ∧ RoomFor i en

/-- Tiles of 2 × 3 bytes, a transposition, rows under an index list, a weight-store column, and an attention step. -/
theorem wit_engineCommands :
    CanQueue (.mxm ⟨.C, 1, 2, 7⟩) .mx [1, 2] [] [] (fun ds => ruleHolds (mxmOps ⟨.C, 1, 2, 7⟩ ds)) (iT (desc2 2 0 0x100 3 2 16 0) (desc2 2 0 0x200 3 128 3 0) 0) ∧
    CanQueue (.mxz ⟨.C, 0⟩) .mx [] [] [] (fun _ => (true, [])) i0 ∧
    CanQueue (.mxd ⟨.C, 1, 7, true, true⟩) .mx [1] [] [] (fun ds =>
      (copySpaces (dAt ds 0) && decide ((dAt ds 0).ndim ≤ 1) && decide ((dAt ds 0).dim 0 ≤ 128) && decide ((dAt ds 0).dim 1 ≤ 128),
        [.write 1 (dAt ds 0) false])) (iT (desc2 3 1 0x3000 2 2 8 0) 0 0) ∧
    CanQueue (.cpyT8 ⟨.C, 1, 2⟩) .cp [1, 2] [] [] (fun ds => ruleHolds (transOps ⟨.C, 1, 2⟩ [fmtINT8] ds)) (iT (desc2 2 0 0x100 3 2 3 0) (desc2 2 0 0x200 2 3 2 0) 0) ∧
    CanQueue (.scadd ⟨.C, 1, 2, 3⟩) .cp [1, 2, 3] [] [] (fun ds => ruleHolds
      (([0], [fmtINT32, fmtFP32, fmtBF16, fmtFP16].contains (dAt ds 0).fmt) :: indexRule (dAt ds 0) (dAt ds 1) (dAt ds 2) 1,
        [.read 2 (dAt ds 1) false, .read 3 (dAt ds 2) false, ⟨1, dAt ds 0, false, true, true, true⟩]))
      (iT (desc2 6 0 0x100 2 4 8 0) (desc2 6 0 0x200 2 3 8 0) (desc1 3 0 0x400 3)) ∧
    CanQueue (.wload ⟨.C, 1, 2⟩) .cp [1, 2] [] [] (fun ds =>
      ((dAt ds 0).space = spWSTORE && (dAt ds 0).csl && copySpaces (dAt ds 1) && decide ((dAt ds 1).ndim ≤ 1) &&
        (dAt ds 0).fmt = (dAt ds 1).fmt && sameDims (dAt ds 0) (dAt ds 1) && (dAt ds 0).gsp = (dAt ds 1).gsp,
        [.read 2 (dAt ds 1) (dAt ds 1).gsp, .write 1 (dAt ds 0) (dAt ds 0).gsp]))
      (iT (desc2 2 2 0x40 2 3 0x40000 2) (desc2 2 0 0x200 2 3 16 0) 0) ∧
    CanQueue (.att ⟨.C, 1, 2, 3, 1, 0, 7, true, false⟩) .at [1, 2, 3] [1] [0x2000] (fun ds => ruleHolds
      (([], (0 : BitVec 3) ≠ 7) :: attRule (dAt ds 0) (dAt ds 1) (dAt ds 2),
        [.read 1 (dAt ds 0) false, .read 2 (dAt ds 1) false, .read 3 (dAt ds 2) false]))
      (iT (desc2 4 0 0x100 2 3 4 0) (desc2 4 0 0x200 2 4 4 0) (desc2 4 0 0x300 5 4 10 0)) :=
  ⟨⟨reached_on _ _ _ _ (by decide), ⟨rfl, rfl⟩, by decide, ⟨⟨by decide, by decide, by decide, by decide⟩, by decide⟩, ⟨by decide, by decide, rfl⟩, (by decide : _ < 16)⟩,
    ⟨reached_on _ _ _ _ (by decide), ⟨rfl, rfl⟩, by decide, ⟨⟨by decide, by decide, by decide, by decide⟩, by decide⟩, ⟨by decide, by decide, rfl⟩, (by decide : _ < 16)⟩,
    ⟨reached_on _ _ _ _ (by decide), ⟨rfl, rfl⟩, by decide, ⟨⟨by decide, by decide, by decide, by decide⟩, by decide⟩, ⟨by decide, by decide, rfl⟩, (by decide : _ < 16)⟩,
    ⟨reached_on _ _ _ _ (by decide), ⟨rfl, rfl⟩, by decide, ⟨⟨by decide, by decide, by decide, by decide⟩, by decide⟩, ⟨by decide, by decide, rfl⟩, (by decide : _ < 16)⟩,
    ⟨reached_on _ _ _ _ (by decide), ⟨rfl, rfl⟩, by decide, ⟨⟨by decide, by decide, by decide, by decide⟩, by decide⟩, ⟨by decide, by decide, rfl⟩, (by decide : _ < 16)⟩,
    ⟨reached_on _ _ _ _ (by decide), ⟨rfl, rfl⟩, by decide, ⟨⟨by decide, by decide, by decide, by decide⟩, by decide⟩, ⟨by decide, by decide, rfl⟩, (by decide : _ < 16)⟩,
    ⟨reached_on _ _ _ _ (by decide), ⟨rfl, rfl⟩, by decide, ⟨⟨by decide, by decide, by decide, by decide⟩, by decide⟩, ⟨by decide, by decide, rfl⟩, (by decide : _ < 16)⟩⟩

/-- The launch of peer 5. -/
def lSelf : Launch := { l0 with part := ⟨0, 0, 0, true, 5, 9⟩ }

/-- What R350 checks of a COPEN with GX gx and GY gy. -/
def copenJudged (s : State) (l : Launch) (i : Inst) (gx gy : Word) : Judged :=
  { illegal := coLen gy = 0 || decide (2 ^ 22 < coLen gy) || decide (2 ^ 22 < coRbase gx + coLen gy)
    beyondPad := padOver i (coLbase gy + coLen gy - 1)
    peer := peerBad s l (coPeer gx) }

/-- A parameter block of a ring of one, at scratchpad 0x1000: two racks, of 4 bytes each, at 0x2000, and the gather at 0x3000. -/
def ringBlock : List (Nat × Byte) := [(0x1008, 2), (0x1011, 0x20), (0x1015, 0x30)]

/-- The premises of `FabricWord`. -/
def CanFabric (ins : Instr) (en : Engine) (ts : List (BitVec 6)) (gs : List (BitVec 5)) (hs : List (BitVec 3)) (vals : List Word)
    (J : Env → Launch → List Desc → List Word → Judged) (i : Inst) (l : Launch) : Prop :=
  Reached ins (on .C i l) 0 .C i ∧ Plain (on .C i l) i l ∧ (∀ t ∈ ts, tOver i t = false) ∧ (∀ t ∈ ts, i.tBusy t.toNat = false) ∧
    (∀ h ∈ hs, hOver i h = false) ∧ Sources i .C gs [] vals i ∧ RoomFor i en ∧ (J ⟨on .C i l, 0, .C, i⟩ l (ts.map (fun t => descOf (i.tGet t.toNat))) vals).trap = none

/-- The instance with descriptors a and b in T1 and T2, and g in G1. -/
def iTG (a b : BitVec 256) (g : Word) : Inst := { iT a b 0 with ctxC := (iG .C [(1, g)]).ctxC }

/-- A range that ends at the scratchpad's last byte for COPEN; the last full line of it for CSTAT; one of no length, and one past the end; groups
of one of the collectives; a ring of one. -/
theorem wit_fabricCommands :
    CanFabric (.copen ⟨.C, 7, 1, 2⟩) .ci [] [1, 2] [7] [0x0050000000000000, 0x8003FF000]
      (fun e l _ v => copenJudged e.s l e.i (src v 0) (src v 1)) (iG .C [(1, 0x0050000000000000), (2, 0x8003FF000)]) lSelf ∧
    CanFabric (.csend ⟨.C, 7, 1⟩) .ci [] [1] [7] [0x2000] (fun e _ _ _ => { reads := handleRange e.i 7 }) (iG .C [(1, 0x2000)]) l0 ∧
    CanFabric (.cstat ⟨.C, 0, 1⟩) .ci [] [1] [0] [0x3FFFE0] (fun e _ _ v =>
      { beyondPad := padOver e.i ((src v 0).toNat % 2 ^ 22 + 31), unaligned := (src v 0).toNat % 32 != 0,
        writes := [((src v 0).toNat % 2 ^ 22, (src v 0).toNat % 2 ^ 22 + 31)] }) (iG .C [(1, 0x3FFFE0)]) l0 ∧
    CanFabric (.ard ⟨.C, 1, 2, 1, 2, .sum⟩) .cl [1, 2] [1, 2] [] [0x1000, 0] (fun e _ ds v => judgeColl true false (fun _ d t => d = t) e ⟨ds.map some, v.map some⟩)
      (iTG (desc1 3 0 0x100 4) (desc1 3 0 0x200 4) 0x1000) l0 ∧
    CanFabric (.agt ⟨.C, 1, 2, 1, 2⟩) .cl [1, 2] [1, 2] [] [0x2001, 0] (fun e _ ds v => judgeColl false false (fun n d t => d = n * t) e ⟨ds.map some, v.map some⟩)
      (iTG (desc1 4 0 0x100 8) (desc1 4 0 0x200 4) 0x2001) l0 ∧
    CanFabric (.bct ⟨.C, 1, 2, 1, 2⟩) .cl [1, 2] [1, 2] [] [0x2001, 0] (fun e _ ds v => judgeColl false true (fun _ d t => d = t) e ⟨ds.map some, v.map some⟩)
      (iTG (desc1 3 0 0x100 4) (desc1 3 0 0x200 4) 0x2001) l0 ∧
    CanFabric (.rota ⟨.C, 1, 1, 0, 0, false⟩) .cl [1] [1] [] [0x1000]
      (fun e l ds v => judgeRota ⟨.C, 1, 1, 0, 0, false⟩ e l ⟨ds.map some, v.map some⟩)
      { iTG (desc1 2 0 0x200 4) 0 0x1000 with spad := ringBlock } l0 ∧
    (let i := { iTG (desc1 2 0 0x200 4) 0 0x1000 with spad := ringBlock };
      padWritesPending (on .C i l0) i 0x1000 (0x1000 + 127) = false) ∧
    (coLen 0x200000000000 = 2 ^ 22 ∧ padOver i0 0x3FFFFF = none ∧ padOver i0 0x400000 ≠ none) ∧
    (Reached (.tide ⟨.C, 1, 10⟩) (on .C i0 l0) 0 .C i0 ∧ Plain (on .C i0 l0) i0 l0 ∧ Sources i0 .C [1] [] [0] i0 ∧ l0.eff.tideright = true ∧ RoomFor i0 .td) ∧
    ({ l0 with eff := { flatEff with tideright := false } } : Launch).eff.tideright = false :=
  ⟨⟨reached_on _ _ _ _ (by decide), ⟨by decide, rfl⟩, by decide, by decide, by decide, ⟨by decide, by decide, rfl⟩, (by decide : _ < 16), by decide +kernel⟩,
    ⟨reached_on _ _ _ _ (by decide), ⟨by decide, rfl⟩, by decide, by decide, by decide, ⟨by decide, by decide, rfl⟩, (by decide : _ < 16), by decide +kernel⟩,
    ⟨reached_on _ _ _ _ (by decide), ⟨by decide, rfl⟩, by decide, by decide, by decide, ⟨by decide, by decide, rfl⟩, (by decide : _ < 16), by decide +kernel⟩,
    ⟨reached_on _ _ _ _ (by decide), ⟨by decide, rfl⟩, by decide, by decide, by decide, ⟨by decide, by decide, rfl⟩, (by decide : _ < 16), by decide +kernel⟩,
    ⟨reached_on _ _ _ _ (by decide), ⟨by decide, rfl⟩, by decide, by decide, by decide, ⟨by decide, by decide, rfl⟩, (by decide : _ < 16), by decide +kernel⟩,
    ⟨reached_on _ _ _ _ (by decide), ⟨by decide, rfl⟩, by decide, by decide, by decide, ⟨by decide, by decide, rfl⟩, (by decide : _ < 16), by decide +kernel⟩,
    ⟨reached_on _ _ _ _ (by decide), ⟨by decide, rfl⟩, by decide, by decide, by decide, ⟨by decide, by decide, rfl⟩, (by decide : _ < 16), by decide +kernel⟩,
    by decide, ⟨by decide, by decide, by decide⟩,
    ⟨reached_on _ _ _ _ (by decide), ⟨by decide, rfl⟩, ⟨by decide, by decide, rfl⟩, by decide, (by decide : _ < 16)⟩, by decide⟩

/-! ## Fetch, waiting words, results, virtual cycles -/

/-- The machine with the words ws as the text of context L, from its PC on. -/
def onText (ws : List Nat) : State :=
  { on .L i0 l0 with mem := (List.range (4 * ws.length)).filterMap (fun n =>
    let b : Byte := BitVec.ofNat 8 (ws.getD (n / 4) 0 / 2 ^ (8 * (n % 4)))
    if b = 0 then none else some (0x1000 + n, b)) }

theorem toIssue_onText (ws : List Nat) : ToIssue (onText ws) 0 .L i0 l0 := ⟨rfl, rfl, rfl, rfl, rfl, rfl⟩

/-- ADD with an extension word; and a due event. -/
theorem wit_stepRuns :
    (ToIssue (onText [0x61481000, 5]) 0 .L i0 l0 ∧ TextAt (onText [0x61481000, 5]) 0 l0 (i0.ctx .L).pc 0x61481000 ∧
      tagFor (tagOf 0x61481000) .L = true ∧ slipOk i0 .L (wordsOf 0x61481000) = true ∧
      TextAt (onText [0x61481000, 5]) 0 l0 ((i0.ctx .L).pc + 4) 5 ∧
      decodeWord 0x61481000 5 = .ok (.addImm { ct := .L, d := 4, a := 1, i := .long 5 })) ∧
    ((0 : Nat) ≤ State.reset.time ∧ State.reset.turn = .clock ∧
      ({ State.reset with agenda := [(0, Instr.shutdown)] } : State).agenda = [(0, Instr.shutdown)]) :=
  ⟨⟨toIssue_onText _, ⟨flatSeg, 0x1000, by decide +kernel⟩, by decide, by decide, ⟨flatSeg, 0x1004, by decide +kernel⟩, rfl⟩, by decide, rfl, rfl⟩

/-- Six words of context C and one of two words: eight in all; then NOP, an unassigned word, or one word more. -/
theorem wit_passingOver :
    (let ws := [0x80000000, 0x80000000, 0x80000000, 0x80000000, 0x80000000, 0x80000000, 0xA1480000]
     MayPass (onText (ws ++ [5, 0x06400004])) 0 .L i0 l0 0 ws ∧ wordsIn ws = 8 ∧
       TextAt (onText (ws ++ [5, 0x06400004])) 0 l0 ((i0.ctx .L).pc + BitVec.ofNat 64 (4 * wordsIn ws)) 0x06400004 ∧
       tagFor (tagOf 0x06400004) .L = true ∧ decodeWord 0x06400004 0 = .ok (.nop { ct := .A }) ∧
       (∃ er, decodeWord 0x1FC00000 0 = .error er) ∧ 8 < wordsIn ws + wordsOf 0x80000000) ∧
    slipOk { (i0.updCtx .L (fun x => { x with walk := 3 })) with win := 3 } .L 1 = false :=
  ⟨⟨⟨⟨flatSeg, 0x1000, by decide +kernel⟩, by decide, by decide, ⟨flatSeg, 0x1004, by decide +kernel⟩, by decide, by decide,
    ⟨flatSeg, 0x1008, by decide +kernel⟩, by decide, by decide, ⟨flatSeg, 0x100C, by decide +kernel⟩, by decide, by decide,
    ⟨flatSeg, 0x1010, by decide +kernel⟩, by decide, by decide, ⟨flatSeg, 0x1014, by decide +kernel⟩, by decide, by decide,
    ⟨flatSeg, 0x1018, by decide +kernel⟩, by decide, by decide, trivial⟩,
    by decide, ⟨flatSeg, 0x1020, by decide +kernel⟩, by decide, rfl, ⟨.unassignedOp, rfl⟩, by decide⟩, by decide⟩

/-- i0 with other counts. -/
def iFew (n : Counts) : Inst := { i0 with counts := n }

/-- i0 with a landing request for dst. -/
def iReq (dst : LandDst) (mask : Nat) : Inst := { i0 with reqs := [⟨7, 0x1000, .L, dst, mask, false, 0, 0, false, [], [], 5, 0⟩] }

/-- The field at its declared count, and at 23 and 24; a busy register; an empty, a reserved and a full queue; an isle without a matrix
engine. -/
theorem wit_wordsThatDoNotIssue :
    (Reached (.add ⟨.L, 3, 1, 23⟩) (on .L (iFew { i0.counts with gregs := 23 }) l0) 0 .L (iFew { i0.counts with gregs := 23 }) ∧
      (iFew { i0.counts with gregs := 23 }).counts.gregs ≤ (23 : BitVec 5).toNat ∧ (23 : BitVec 5).toNat ≤ 23) ∧
    (Reached (.add ⟨.L, 3, 1, 23⟩) (on .L (iReq (.g .L 23 0) 0) l0) 0 .L (iReq (.g .L 23 0) 0) ∧
      (iReq (.g .L 23 0) 0).counts.gregs = 24 ∧ (iReq (.g .L 23 0) 0).gBusy .L 23 = true ∧ (iReq (.g .L 23 0) 0).gBusy .L 22 = false) ∧
    (Reached (.add ⟨.L, 3, 1, 24⟩) (on .L i0 l0) 0 .L i0 ∧ readG .L i0 [1, 24] = .wait (.queue 0) ∧
      readG .L (iQ [⟨none, 7, .L, 0⟩]) [1, 24] = .wait .interlock) ∧
    (readG .L (iQ (List.replicate 4 ⟨some 1, 0, .C, 0⟩)) [1, 2] = .ok [0, 0] (iQ (List.replicate 4 ⟨some 1, 0, .C, 0⟩)) ∧
      pushRoom (iQ (List.replicate 4 ⟨some 1, 0, .C, 0⟩)) (iQ (List.replicate 4 ⟨some 1, 0, .C, 0⟩)) 24 = false) ∧
    (Reached (.vaddF32 ⟨.C, 31, 1, 2, 7, none⟩) (on .C (iFew { i0.counts with vregs := 31 }) l0) 0 .C (iFew { i0.counts with vregs := 31 }) ∧
      (iFew { i0.counts with vregs := 31 }).counts.vregs ≤ (31 : BitVec 5).toNat) ∧
    (i0.counts.vregs = 32 ∧ (iReq (.v 31) 0).vBusy 31 = true ∧ (iReq .discard 7).mBusy 7 = true) ∧
    (Reached (.tmod ⟨.C, 63, 1, .base, false⟩) (on .C (iFew { i0.counts with tensors := 63 }) l0) 0 .C (iFew { i0.counts with tensors := 63 }) ∧
      gOver (iFew { i0.counts with tensors := 63 }) 1 = false ∧ (iFew { i0.counts with tensors := 63 }).counts.tensors ≤ (63 : BitVec 6).toNat) ∧
    ((63 : BitVec 6).toNat < i0.counts.tensors ∧ (iReq (.t 63) 0).tBusy 63 = true) ∧
    (Reached (.step ⟨.L, 31⟩) (on .L (iFew { i0.counts with bars := 31 }) l0) 0 .L (iFew { i0.counts with bars := 31 }) ∧
      (iFew { i0.counts with bars := 31 }).counts.bars ≤ (31 : BitVec 5).toNat) ∧
    (Reached (.cshut ⟨.C, 7⟩) (on .C (iFew { i0.counts with circuits := 7 }) l0) 0 .C (iFew { i0.counts with circuits := 7 }) ∧
      Plain (on .C (iFew { i0.counts with circuits := 7 }) l0) (iFew { i0.counts with circuits := 7 }) l0 ∧
      (iFew { i0.counts with circuits := 7 }).counts.circuits ≤ (7 : BitVec 3).toNat) ∧
    (({ on .C i0 l0 with mxmap := 0 } : State).mxmap.getLsbD 0 = false ∧ Reached (.mxz ⟨.C, 7⟩) (on .C i0 l0) 0 .C i0) ∧
    ((on .L i0 l0).turn = .issue 0 .L ∧ i0.acts .L = true ∧ (Instr.st ⟨.L, 3, 1, .d, none⟩).wellFormed = true ∧
      tagOfInstr (.st ⟨.L, 3, 1, .d, none⟩) = some .L ∧ slotOf (.st ⟨.L, 3, 1, .d, none⟩) = some .memoryWrite ∧ tagFor .L .L = true ∧
      tagOfInstr (.ld ⟨.A, 3, 1, 0, .d, 0, none⟩) = some .A ∧ slotOf (.ld ⟨.A, 3, 1, 0, .d, 0, none⟩) = some .memoryRead) :=
  ⟨⟨reached_on _ _ _ _ (by decide), by decide⟩, ⟨reached_on _ _ _ _ (by decide), by decide⟩, ⟨reached_on _ _ _ _ (by decide), rfl, rfl⟩,
    ⟨rfl, by decide⟩, ⟨reached_on _ _ _ _ (by decide), by decide⟩, by decide, ⟨reached_on _ _ _ _ (by decide), by decide⟩, by decide,
    ⟨reached_on _ _ _ _ (by decide), by decide⟩, ⟨reached_on _ _ _ _ (by decide), ⟨rfl, rfl⟩, by decide⟩,
    ⟨rfl, reached_on _ _ _ _ (by decide)⟩, by decide⟩

/-- Results of C, L and S waiting at the end of a vc, in the order C, L, C. -/
def iWb : Inst := { i0 with wb := [⟨.C, .g .C 1, 5⟩, ⟨.L, .m 7, 6⟩, ⟨.C, .v 31 63, 7⟩] }

theorem wit_resultsAppear :
    (i0.qs.length = 8 ∧ (on .L iWb l0).inst 0 = some iWb ∧ iWb.life = .running ∧ iWb.frozen = none ∧ iWb.reqs = []) ∧
    (Sparse.wf 0 ((iG .C [(1, 7), (23, 5)]).ctx .C).g = true ∧ Sparse.wf 0 i0.v = true ∧ Sparse.wf 0 i0.m = true ∧ Sparse.wf 0 i0.t = true) := by
  decide

/-- The instance whose contexts L and C have been blocked since vc b: L on queue 7, C, one word ahead of the others, by the slip window of one
position; S is blocked since vc c. -/
def iHeld (b c : Word) : Inst :=
  { ((i0.updCtx .L (fun x => { x with block := .queue 7, blockVc := b })).updCtx .C (fun x =>
      { x with block := .slip 1, blockVc := b, walk := 1 })).updCtx .S (fun x => { x with block := .queue 0, blockVc := c }) with win := 1 }

/-- The same in vc 3, S blocked since vc 2. -/
def iHeld3 (b : Word) : Inst := { iHeld b 2 with vcyc := 3 }

/-- At vc 0: blocks begun in vc 0 hold nobody. At vc 3: the context that entered last is S, or, with all three at once, S by rank; with S
exited, it is C; with the contexts behind C exited, C has room again. -/
theorem wit_virtualCycles :
    ((on .L i0 l0).inst 0 = some i0 ∧ i0.life = .running ∧ i0.frozen = none ∧ (i0.ctx .S).live = true ∧ (i0.ctx .S).block = .none) ∧
    (((iHeld 0 0).ctx .L).live = true ∧ ¬ ((iHeld 0 0).ctx .L).blockVc.toNat < (iHeld 0 0).vcyc.toNat) ∧
    (∀ i ∈ [iHeld3 1, iHeld3 2],
      (on .L i l0).inst 0 = some i ∧ i.life = .running ∧ i.frozen = none ∧ (i.ctx .S).live = true ∧ (i.ctx .S).block = .queue 0 ∧
      ∀ d ∈ [Ctx.L, .C, .S], (i.ctx d).live = true → ((i.ctx d).block = .queue 7 ∨ (i.ctx d).block = .queue 0 ∨ ((i.ctx d).block = .slip 1 ∧ slipOk i d 1 = false)) ∧
        (i.ctx d).blockVc.toNat < i.vcyc.toNat ∧ (i.ctx d).blockVc.toNat ≤ (i.ctx .S).blockVc.toNat ∧
        ((i.ctx d).blockVc.toNat = (i.ctx .S).blockVc.toNat → ctxRank d ≤ ctxRank .S)) ∧
    (((iHeld3 1).updCtx .S (fun x => { x with live := false })).ctx .C).block = .slip 1 ∧ Sparse.wf .start i0.wins = true ∧
    slipOk ((iHeld3 1).updCtx .L (fun x => { x with walk := 1, live := true })) .C 1 = false ∧
    slipOk (((iHeld3 1).updCtx .L (fun x => { x with live := false })).updCtx .S (fun x => { x with live := false })) .C 1 = true := by
  decide

/-- The launch of a speculation, and a queue table that holds nothing. -/
def lSpec0 : Launch := { l0 with spec := true }

theorem wit_takingATrap :
    ((on .L i0 l0).inst 0 = some i0 ∧ i0.life = .running ∧ (on .L i0 l0).launch i0.launch = some l0 ∧ l0.spec = false ∧ l0.retired = false) ∧
    ((on .L i0 lSpec0).launch i0.launch = some lSpec0 ∧ lSpec0.spec = true ∧ Sparse.wf Vf.reset (on .L i0 lSpec0).vfs = true ∧
      ∀ p ∈ (on .L i0 lSpec0).vfs, Sparse.wf HwQueue.reset p.2.queues = true) ∧
    (({ on .L i0 { l0 with trapped := true } with turn := .clock } : State).turn = .clock ∧
      ∃ p ∈ ({ on .L i0 { l0 with trapped := true } with turn := .clock } : State).launches, p.2.trapped = true) := by
  decide

/-- Every byte is at home where no granule has moved and no die is down. -/
theorem atHome_all (s : State) (hd : ∀ d, dieIsDown s d = false) (hg : s.granules = []) (x : Nat) : AtHome s x := by
  refine ⟨hd _, ?_, ?_⟩ <;> simp [granuleOf, hg, Sparse.get, Granule.atHome]

/-- The last block whose record stands in DRAM, an entry with each field at its limit, a count of 0 and one of 2^64 - 1. -/
theorem wit_faultRecords :
    MemWf State.reset.mem ∧ spreadBase - 128 + 128 ≤ spreadBase ∧ (∀ n, n < 64 → AtHome State.reset (0x1040 + n)) ∧
      pendingAdd State.reset 0x1040 = false ∧ (31 : Nat) < 32 ∧ (3 : Nat) < 4 ∧ (0xFFF : Nat) < 4096 ∧ (255 : Nat) < 256 ∧
      homeNat State.reset 0x1040 8 = 0 ∧
      homeNat { State.reset with mem := (List.range 8).map (fun n => (0x1040 + n, 0xFF)) } 0x1040 8 = 2 ^ 64 - 1 :=
  ⟨by decide, by decide, fun _ _ => atHome_all _ (fun _ => rfl) rfl _, by decide +kernel⟩

/-- A launch that has retired, with its completion record at the end of the flat segment. -/
def lDone : Launch := { l0 with retired := true, packet := List.replicate 0x18 0 ++ [0xF0, 0xFF, 0xFF, 0xFF, 0x7F, 0, 0, 0] ++ List.replicate 32 0, status := 8 }

/-- Nothing to settle; a launch that settles; one that has not retired, one whose store is outstanding. -/
theorem wit_settling :
    ((∀ p ∈ (on .L i0 l0).slots, p.2.drained = false) ∧
      ∀ p ∈ (on .L i0 l0).launches, p.2.retired = false ∧ (p.2.spec = true ∨ unretired (on .L i0 l0) p.1 ≠ [])) ∧
    ((on .L { i0 with life := .retired } lDone).launch 0 = some lDone ∧ lDone.retired = true ∧ lDone.claiming = false ∧
      (on .L { i0 with life := .retired } lDone).acc = [] ∧ (∀ p ∈ (on .L { i0 with life := .retired } lDone).slots, p.2.cmds = []) ∧
      MemWf (on .L i0 lDone).mem ∧ ((on .L i0 lDone).launches.map Prod.fst).Nodup ∧ QueuesWf (on .L i0 lDone) ∧
      (∃ g, findSeg lDone.segs 0x7FFFFFFFF0 = .ok g ∧ g.w = true ∧ segTgt (selfOf lDone.part) g 0x7FFFFFFFF0 = .dram 0x7FFFFFFFF0 ∧
        findSeg lDone.segs (0x7FFFFFFFF0 + 8) = .ok g ∧ segTgt (selfOf lDone.part) g (0x7FFFFFFFF0 + 8) = .dram (0x7FFFFFFFF0 + 8)) ∧
      (∀ n, n < 16 → AtHome (on .L { i0 with life := .retired } lDone) (0x7FFFFFFFF0 + n)) ∧
      leNat ((lDone.packet.drop 0x18).take 8) = 0x7FFFFFFFF0 ∧ lDone.status < 2 ^ 64) ∧
    (∃ x ∈ ({ on .L i0 lDone with acc := [aOut .S .store part0] } : State).acc, x.launch = 0 ∧ x.settles = true) :=
  ⟨by decide, ⟨by decide, by decide, by decide, by decide, by decide, by decide, by decide, ⟨by decide, by decide⟩, ⟨flatSeg, by decide⟩,
    fun _ _ => atHome_all _ (fun _ => rfl) rfl _, by decide,
    by decide⟩, by decide⟩

/-! ## Events -/

/-- A timed request for G23 of context L, due at vc 5. -/
def rTimed (arrived : Bool) (data : List (Nat × Nat)) (fails : List (Nat × Status)) : Req :=
  ⟨7, 0x1000, .L, .g .L 23 32, 0, true, 5, 1, arrived, data, fails, 5, 0x2000⟩

/-- The instance with that request alone, in vc u. -/
def iTimed (u : Word) (arrived : Bool) (data : List (Nat × Nat)) (fails : List (Nat × Status)) : Inst :=
  { i0 with reqs := [rTimed arrived data fails], vcyc := u }

/-- An interlocked request whose data has come, and a masked one of lane 63 that met a granule which is not resident. -/
def rLoose (arrived : Bool) : Req := { rTimed arrived [(0, 1)] [] with timed := false }
def rMasked : Req := { rTimed true [] [(63, .nonres)] with mask := 7 }

/-- One vc before the landing's, at it, and with its data missing, present and poisoned; an interlocked one; a masked one; a freeze one tick
over its limit, and one whose only request has come. -/
theorem wit_landingsAndFreezes :
    ((on .L (iTimed 4 false [] []) l0).inst 0 = some (iTimed 4 false [] []) ∧ (iTimed 4 false [] []).life = .running ∧
      (iTimed 4 false [] []).frozen = none ∧ (rTimed false [] []).timed = true ∧ (iTimed 4 false [] []).wb = [] ∧
      (4 : Word).toNat < (rTimed false [] []).due.toNat ∧ (rTimed false [] []).due.toNat ≤ (5 : Word).toNat) ∧
    ((rTimed true [(0, 0x80000000)] []).arrived = true ∧ (rTimed true [(0, 0x80000000)] []).mask = 0 ∧
      ((iTimed 5 true [(0, 0x80000000)] []).ctx .L).live = true ∧ Sparse.wf 0 ((iTimed 5 true [(0, 0x80000000)] []).ctx .L).g = true) ∧
    ((on .L { i0 with reqs := [rLoose true] } l0).inst 0 = some { i0 with reqs := [rLoose true] } ∧ (rLoose true).timed = false ∧
      (rLoose true).arrived = true ∧ (rLoose false).arrived = false ∧ ∀ f ∈ (rLoose true).fails, f.2 ≠ .poison) ∧
    ((on .L { i0 with reqs := [rMasked] } l0).inst 0 = some { i0 with reqs := [rMasked] } ∧ rMasked.mask ≠ 0 ∧
      rMasked.fails = [(63, .nonres)] ∧ rMasked.arrived = true ∧ Sparse.wf 0 i0.m = true) ∧
    (rTimed true [] [(0, .poison)]).fails = [(0, .poison)] ∧ (iTimed 5 false [] []).tmode = false ∧
      ({ iTimed 5 false [] [] with tmode := true } : Inst).tmode = true ∧
    ((on .L { iTimed 5 true [] [] with frozen := some 3 } l0).inst 0 = some { iTimed 5 true [] [] with frozen := some 3 } ∧
      ∀ r ∈ (iTimed 5 true [] []).reqs, r.timed = true → (5 : Word).toNat < r.due.toNat ∨ r.arrived = true) ∧
    ((on .L { iTimed 5 false [] [] with frozen := some 3 } l0).launch 0 = some l0 ∧ l0.retired = false ∧
      3 + l0.eff.frzlim * Config.ticksPerUs < 4 + l0.eff.frzlim * Config.ticksPerUs ∧ lSpec0.spec = true) := by
  decide

/-- The machine with access a outstanding. -/
def onAcc (a : Access) : State := { on .S i0 l0 with acc := [a] }

theorem due_onAcc (a : Access) (h : a.launch = 0) (h' : mayPerform (onAcc a) a = true) : Due (onAcc a) a :=
  ⟨by simp [State.access, onAcc], ⟨l0, by rw [h]; exact ⟨rfl, rfl, rfl⟩⟩, h'⟩

theorem dramPart_part0 (a : Access) : DramPart (onAcc a) part0 0x2000 := ⟨rfl, rfl, rfl, rfl, atHome_all _ (fun _ => rfl) rfl _⟩

/-- A store performed at its home, seen on die 0 alone; and the bytes it replaced. -/
def onSeen : State :=
  { onAcc { aOut .S .store { part0 with done := true } with atHome := true } with versions := [⟨5, 1, [(0x2000, 5)]⟩] }

theorem wit_memoryIsPerformed :
    (Due (onAcc (aOut .L .load part0)) (aOut .L .load part0) ∧ DramPart (onAcc (aOut .L .load part0)) part0 0x2000 ∧
      memPoison (onAcc (aOut .L .load part0)) 0x2000 8 = false) ∧
    (Due (onAcc (aOut .S .store part0)) (aOut .S .store part0) ∧ (aOut .S .store part0).atHome = false ∧
      onPacketPlane (onAcc (aOut .S .store part0)) (aOut .S .store part0) = true ∧ (onAcc (aOut .S .store part0)).versions = [] ∧
      MemWf (onAcc (aOut .S .store part0)).mem) ∧
    (onSeen.access 5 = some { aOut .S .store { part0 with done := true } with atHome := true } ∧ (∀ v ∈ onSeen.versions, v.acc = 5)) ∧
    (Due (onAcc (aOut .S (.amo .min) part0)) (aOut .S (.amo .min) part0) ∧
      ∀ i, (onAcc (aOut .S (.amo .min) part0)).instOf 0 = some i → i.launch = 0) ∧
    (Due (onAcc (aOut .S .cas part0)) (aOut .S .cas part0) ∧ Due (onAcc (aOut .S (.red .addf) part0)) (aOut .S (.red .addf) part0)) :=
  ⟨⟨due_onAcc _ rfl (by decide), dramPart_part0 _, by decide⟩, ⟨due_onAcc _ rfl (by decide), by decide⟩, by decide,
    ⟨due_onAcc _ rfl (by decide), by intro i h; cases (show some i0 = some i from h); rfl⟩, ⟨due_onAcc _ rfl (by decide), due_onAcc _ rfl (by decide)⟩⟩

/-! ## Queues -/

/-- Bytes of numbers (address, size, value). -/
def cellsFrom (l : List (Nat × Nat × Nat)) : List Host.Cell :=
  Sparse.setAll (0 : Byte) [] (l.flatMap (fun x => cellsOf x.1 x.2.1 x.2.2))

/-- A root block at 0x8000, which is a region too, with the values l beside SEGTAB 0xA000, one flat segment, PART 0xE000 and RESMAP 0x20000. -/
def regionNums : List (Nat × Nat × Nat) :=
  [(0x8008, 2, 0x700), (0x8020, 8, 0xA000), (0x8028, 8, 0xE000), (0x8030, 8, 0x20000), (0xA000, 8, 0x97A7)]

/-- A kernel header at 0x4000: a class-X instance of every count but circuits. -/
def headerNums : List (Nat × Nat × Nat) :=
  [(0x4000, 4, 0x38594C46), (0x4004, 2, 1), (0x4006, 1, 15), (0x4008, 1, 24), (0x4009, 1, 32), (0x400A, 2, 256), (0x400C, 1, 32), (0x400D, 1, 64)]

/-- Queue 0 of VF1: 16 slots at 0x10000, one packet appended. -/
def q0 : HwQueue := { HwQueue.reset with base := 0x10000, rcb := 0x8000, en := true, logsz := 4, tail := 1 }

/-- A running device with the numbers l beside those of the region, and queue 0 of VF1 being x. -/
def onQueue (l : List (Nat × Nat × Nat)) (x : HwQueue) : State :=
  { State.reset with boot := .running, mem := cellsFrom (regionNums ++ l), vfs := [(1, { Vf.reset with rootrcb := 0x8000, queues := [(0, x)] })] }

/-- The region's effective values. -/
def eff0 : Eff := ⟨4, false, false, 1000, [⟨[256, 256, 256, 256], 65536, 2048⟩], 8, 0xA000, 0xE000, 0x20000, 0, 0⟩

/-- The packet with the numbers l, at 0x10000 and on. -/
def packetOf (l : List (Nat × Nat × Nat)) : List Byte := (List.range 64).map (fun n => Sparse.get 0 (cellsFrom l) (0x10000 + n))

theorem headPacket_onQueue (l : List (Nat × Nat × Nat)) (segs : List Seg) (part : Partition)
    (h1 : QueuesWf (onQueue l q0)) (h2 : chainOf (onQueue l q0) 1 0x8000 = some ([0x8000], eff0))
    (h3 : segsAt (onQueue l q0) 0xA000 = segs) (h4 : partAt (onQueue l q0) 0xE000 = part)
    (h5 : ∀ n < 64, structAt (onQueue l q0) segs part (fun g => g.r) (0x10000 + n) 1 = some (.dram (0x10000 + n)) ∧
      (packetOf l)[n]? = some (homeByte (onQueue l q0) (0x10000 + n))) :
    HeadPacket (onQueue l q0) 1 0 segs part [0x8000] (packetOf l) :=
  ⟨h1, ⟨rfl, rfl⟩, ⟨rfl, rfl, (by decide : (0 : BitVec 32) ≠ 1)⟩, ⟨rfl, rfl, rfl⟩, ⟨eff0, h2, h3.symm, h4.symm⟩, by simp [packetOf], fun n hn =>
    ⟨0x10000 + n, (h5 n hn).1, atHome_all _ (fun _ => rfl) rfl _, (h5 n hn).2⟩⟩

/-- The packets whose types and fields QueueEvents tells apart: an unknown type, a NOP, LAUNCH with a reserved flag, LAUNCH for a region
that is none, LAUNCH over zeros for a header, LAUNCH, LAUNCH with a mask and no pointers, FENCE on an aligned counter of 0 for 1 and for 0
and on an unaligned one, SIGNAL. -/
def pkUnknown : List (Nat × Nat × Nat) := [(0x10000, 1, 4)]
def pkFlag : List (Nat × Nat × Nat) := [(0x10000, 1, 1), (0x10001, 1, 8)]
def pkNoRegion : List (Nat × Nat × Nat) := [(0x10000, 1, 1), (0x10008, 8, 0x4000)]
def pkNoHeader : List (Nat × Nat × Nat) := [(0x10000, 1, 1), (0x10008, 8, 0x6000), (0x10010, 8, 0x8000)]
def pkLaunch : List (Nat × Nat × Nat) := headerNums ++ [(0x10000, 1, 1), (0x10002, 2, 1), (0x10008, 8, 0x4000), (0x10010, 8, 0x8000)]
def pkMask : List (Nat × Nat × Nat) := [(0x10000, 1, 1), (0x10001, 1, 2)]
def pkFence (a : Nat) (n : Nat) : List (Nat × Nat × Nat) := [(0x10000, 1, 2), (0x10002, 1, 1), (0x10010, 8, a), (0x10018, 8, n)]
def pkSignal (a : Nat) : List (Nat × Nat × Nat) := [(0x10000, 1, 3), (0x10001, 1, 1), (0x10008, 8, a)]

/-- A packet stands at HEAD of a queue that may parse. -/
theorem wit_headPacket : HeadPacket (onQueue pkLaunch q0) 1 0 [flatSeg] ⟨0xE000, 0, 0, false, 0, 0⟩ [0x8000] (packetOf pkLaunch) :=
  headPacket_onQueue _ _ _ ⟨by decide +kernel, by decide +kernel⟩ (by decide +kernel) (by decide +kernel) (by decide +kernel) (by decide +kernel)

/-- The launch that a packet gives, and the cause it is rejected with. -/
def goodOf (j : Judged77) : Option Launch := match j with
  | .good l => some l
  | _ => none
def rejectOf (j : Judged77) : Option Nat := match j with
  | .reject c => some c
  | _ => none

/-- The judgement of that LAUNCH. -/
def judged (l : List (Nat × Nat × Nat)) : Judged77 := judgeLaunch (onQueue l q0) 1 0 [] (packetOf l)

/-- What the clauses of QueueEvents ask of those packets, of the registers and of the queue's waits. -/
theorem wit_queueEvents :
    (({ onQueue [] { q0 with en := false } with boot := .running } : State).queue 1 0).en = false ∧
    (chainOf (onQueue headerNums q0) 1 (0x8024 / 2 ^ 7 % 2 ^ 38 * 2 ^ 7)).isSome = true ∧ (chainOf (onQueue headerNums q0) 1 0).isNone = true ∧
    (16 < (BitVec.toNat (0x8031 : Word)) % 2 ^ 5 ∧ (0x8024 : Word).getLsbD 5 = true ∧ (0x8004 : Word).getLsbD 5 = false) ∧
    (((0 : Word).setWidth 32 - q0.head).toNat < (q0.tail - q0.head).toNat ∧ ((16 : Word).setWidth 32 - q0.head).toNat ≤ 2 ^ q0.logsz ∧
      2 ^ q0.logsz < ((17 : Word).setWidth 32 - q0.head).toNat) ∧
    (packetNum (packetOf pkUnknown) 0 1 = 4 ∧ packetNum (packetOf []) 0 1 = 0 ∧ 8 ≤ packetNum (packetOf pkFlag) 1 1) ∧
    (launchBadpkt (packetOf pkNoRegion) = false ∧ rejectOf (judged pkNoRegion) = some 4 ∧
      (tablesOf (onQueue pkNoRegion q0) 1 (packetNum (packetOf pkNoRegion) 0x10 8)).isNone = true) ∧
    (launchBadpkt (packetOf pkNoHeader) = false ∧ rejectOf (judged pkNoHeader) = some 1 ∧ packetNum (packetOf pkNoHeader) 0x18 8 = 0 ∧
      (tablesOf (onQueue pkNoHeader q0) 1 (packetNum (packetOf pkNoHeader) 0x10 8)).isSome = true) ∧
    (launchBadpkt (packetOf pkLaunch) = false ∧ (goodOf (judged pkLaunch)).isSome = true) ∧
    (packetNum (packetOf pkMask) 1 1 / 2 % 2 = 1 ∧ packetNum (packetOf pkMask) 1 1 / 4 % 2 = 0) ∧
    (packetNum (packetOf (pkFence 0x20008 1)) 0x10 8 % 8 = 0 ∧ packetNum (packetOf (pkFence 0x20009 0)) 0x10 8 % 8 ≠ 0 ∧
      (0 - BitVec.ofNat 64 (packetNum (packetOf (pkFence 0x20008 1)) 0x18 8)).toInt < 0) ∧
    structAt (onQueue (pkSignal 0x20008) q0) [flatSeg] ⟨0xE000, 0, 0, false, 0, 0⟩ (fun g => g.w) 0x20008 8 = some (.dram 0x20008) := by
  decide +kernel

/-- A SIGNAL of value 1 that may wait for a settle, sent where its home is another device. -/
def sig (settled sent : Bool) : SignalWait := ⟨.dram 0x20008, 1, settled, ⟨0, 0, 0, false, 0, 0⟩, sent⟩

/-- A FENCE, a SIGNAL that waits for a settle, one that does not, and one that its home has answered, at the head; no LAUNCH appends. -/
theorem wit_queueEvents_waits :
    ((onQueue [] { q0 with fence := some ⟨[(0x20008, .dram 0x20008, 1)], 0⟩ }).queue 1 0).fence = some ⟨[(0x20008, .dram 0x20008, 1)], 0⟩ ∧
    (((onQueue [] { q0 with signal := some (sig true false), unsettled := [7] }).queue 1 0).signal = some (sig true false) ∧
      ((onQueue [] { q0 with signal := some (sig true false), unsettled := [7] }).queue 1 0).unsettled ≠ []) ∧
    (((onQueue [] { q0 with signal := some (sig false false) }).queue 1 0).signal = some (sig false false) ∧
      ((onQueue [] { q0 with signal := some (sig false true) }).queue 1 0).signal = some (sig false true)) ∧
    appending (onQueue [] q0) 1 0 = false ∧
    AtHome (onQueue [] q0) 0x20008 ∧ CounterAt (onQueue [] q0) [flatSeg] ⟨0, 0, 0, false, 0, 0⟩ 0x20008 0x20008 := by
  refine ⟨by decide, by decide, by decide, by decide, atHome_all _ (fun _ => rfl) rfl _, ⟨by decide, by decide +kernel, ?_⟩⟩
  exact fun n _ => atHome_all _ (fun _ => rfl) rfl _

/-! ## Scheduler -/

/-- The launch that the packet of pkLaunch gives, held at its queue's head. -/
def heldL : Launch := ((goodOf (judged pkLaunch)).getD l0)
def onHeld : State := onQueue pkLaunch { q0 with held := some heldL, unsettled := [0] }

/-- The order dispatches that launch, to isle 0. -/
theorem wit_schedulerEvents_dispatch :
    (Sparse.wf Vf.reset onHeld.vfs = true ∧ ∀ p ∈ onHeld.vfs, Sparse.wf HwQueue.reset p.2.queues = true) ∧ onHeld.slots = [] ∧ onHeld.launches = [] ∧
    ((onHeld.queue 1 0).spec = none ∧ (onHeld.queue 1 0).held = some heldL ∧ (onHeld.queue 1 0).history = []) ∧ (readyOf onHeld 1 0).isSome = true ∧
    packetNum heldL.packet 1 1 / 4 % 2 = 0 ∧ (beginOrder onHeld).ordering = true ∧
    (evaluate (beginOrder onHeld)).act = some (.dispatch 1 0 [0]) ∧ allFree onHeld [0] = true ∧
    (tablesOf onHeld 1 (packetNum heldL.packet 0x10 8)).isSome = true := by
  decide +kernel

/-- An instance being saved; a saved instance, and the machine that resumes it to the last isle. -/
def iSaved : Inst := { i0 with life := .saving }
def onSaved : State := { State.reset with boot := .running, popmap := BitVec.ofNat 256 (2 ^ 255), launches := [(0, l0)], saved := [iSaved], freed := true }

/-- A speculation of queue 0 that has run for 1 ms, and one that commits a byte to the last line of local DRAM. -/
def lCommit : Launch := { lSpec0 with claiming := true, cellar := [(0x7FFFFFFFFF, some 1)] }
def onSpec (l : Launch) : State :=
  { on .L i0 l with turn := .clock, time := 1000 * Config.ticksPerUs, vfs := [(1, { Vf.reset with queues := [(0, { q0 with spec := some 0, held := some heldL })] })] }

/-- A commit write of a claimed launch, to the last bytes of local DRAM. -/
def aCommit : Access := aOut .S .commit { part0 with tgt := .dram 0x7FFFFFFFF8 }
def onCommit : State := { on .S i0 { l0 with claiming := true } with acc := [aCommit] }

/-- A saving instance at its boundary; one that resumes; a speculation past its time; a claim whose lines are written, and a line of one. -/
theorem wit_schedulerEvents :
    ((on .L iSaved l0).inst 0 = some iSaved ∧ iSaved.life = .saving ∧ atBoundary (on .L iSaved l0) iSaved = true ∧ (∀ c ∈ iSaved.cmds, c.block.length ≤ 256) ∧ ((on .L iSaved l0).slots.map Prod.fst).Nodup ∧
      MemWf (on .L iSaved l0).mem) ∧
    ((onSaved.slots = [] ∧ ∀ p ∈ onSaved.launches, p.2.retired = false ∧ (p.2.spec = true ∨ unretired onSaved p.1 ≠ [])) ∧
      (beginOrder onSaved).ordering = true ∧ (evaluate (beginOrder onSaved)).act = some (.resume 0 255) ∧ allFree onSaved [255] = true ∧ onSaved.saved.find? (fun j => j.uid = 0) = some iSaved) ∧
    (((onSpec lSpec0).queue 1 0).spec = some 0 ∧ (onSpec lSpec0).launch 0 = some lSpec0 ∧ lSpec0.spec = true ∧
      lSpec0.since + 1000 * Config.ticksPerUs ≤ (onSpec lSpec0).time) ∧
    (((onSpec lCommit).queue 1 0).spec = some 0 ∧ (onSpec lCommit).launch 0 = some lCommit ∧ lCommit.claiming = true ∧ lCommit.id = 0 ∧
      Sparse.wf Vf.reset (onSpec lCommit).vfs = true ∧ (∀ p ∈ (onSpec lCommit).vfs, Sparse.wf HwQueue.reset p.2.queues = true) ∧
      ((onSpec lCommit).queue 1 0).held = some heldL ∧ heldL.id = 0 ∧ (∀ a ∈ (onSpec lCommit).acc, a.launch = 0 → a.kind ≠ .commit)) ∧
    ((onCommit.access 5 = some aCommit ∧ aCommit.kind = .commit ∧ aCommit.launch = 0 ∧ aCommit.atHome = false ∧
      onCommit.launch 0 = some { l0 with claiming := true } ∧ mayPerform onCommit aCommit = true ∧ onPacketPlane onCommit aCommit = true ∧
      MemWf onCommit.mem)) := by
  decide +kernel

/-! ## Requests and granules -/

/-- A request of peer 7 for the last bytes of the window that entry 0 opens, which ends with local DRAM. -/
def reqOf (k : ReqKind) : IngressReq := ⟨none, 7, 9, 3, 0x7FFFFFFFF8, 2, k⟩
def entryOf (gen : Nat) (r w : Bool) : IngressEntry := ⟨7, 9, 0x7FFFE00000, 21, r, w, true, gen, true⟩

/-- A running device with entry e alone. -/
def onEntry (e : IngressEntry) : State := { on .L i0 l0 with ingress := [(0, e)] }

theorem spans_last {n : Nat} (h : n ≤ 8) : Spans 0x7FFFFFFFF8 n 0x7FFFFFFFF8 :=
  ⟨by decide, (by simp only [wsBase]; omega), fun k hk =>
    (by decide : ∀ k < 8, normPa (0x7FFFFFFFF8 + k) = 0x7FFFFFFFF8 + k ∧ (0x7FFFFFFFF8 + k) / 2 ^ 21 = 0x7FFFFFFFF8 / 2 ^ 21) k (by omega)⟩

theorem passes_onEntry (k : ReqKind) (h : granted (entryOf 3 true true) k = true) (h' : 0 < reqSize k ∧ reqSize k ≤ 8) :
    Passes (onEntry (entryOf 3 true true)) (reqOf k) 0x7FFFFFFFF8 :=
  ⟨rfl, (by decide : (7 : Nat) < 4096), ⟨0, _, rfl, ⟨rfl, rfl, rfl, (by decide : 0x7FFFE00000 ≤ 0x7FFFFFFFF8),
    (by omega : 0x7FFFFFFFF8 + reqSize k ≤ 0x7FFFE00000 + 2 ^ 21)⟩, rfl, h⟩, h'.1, spans_last h'.2⟩

/-- The granule of those bytes, and one that moves, with n requests held, flow (7, 2) turned away where nk. -/
def moving (held : List (Nat ⊕ IngressReq)) (nk : List ((Nat × Nat) × (Nat ⊕ IngressReq))) : Granule := ⟨.moving, none, some 5, held, nk, [0], none⟩
def onGranule (s : State) (g : Nat) (x : Granule) : State := { s with granules := [(g, x)] }

theorem wit_requestEvents :
    ((¬ (entryOf 3 true true).src = 8) ∧ (entryOf 4 true true).gen ≠ (reqOf (.load 8)).gen ∧
      granted (entryOf 3 false true) (.load 8) = false ∧ localTgt (2 ^ 44) = .unmapped (2 ^ 44) ∧
      localTgt (spadBase + 2 ^ 22) = .spad 1 0 ∧ (on .L i0 l0).inst 1 = none ∧ localTgt wsBase = .ws wsBase ∧ wsOut { State.reset with mxmap := 0 } (wsBase + 7) = true) ∧
    (Passes (onEntry (entryOf 3 true true)) (reqOf (.load 8)) 0x7FFFFFFFF8 ∧ Passes (onEntry (entryOf 3 true true)) (reqOf (.store [1, 2])) 0x7FFFFFFFF8 ∧
      Passes (onEntry (entryOf 3 true true)) (reqOf (.amo .max 5 8 true)) 0x7FFFFFFFF8 ∧ Passes (onEntry (entryOf 3 true true)) (reqOf (.cas 0 1 4)) 0x7FFFFFFFF8) ∧
    (dieIsDown (onEntry (entryOf 3 true true)) (homeDie 0x7FFFFFFFF8) = false ∧
      (granuleOf (onEntry (entryOf 3 true true)) (0x7FFFFFFFF8 / 2 ^ 21)).place = .home ∧
      (granuleOf (onEntry (entryOf 3 true true)) (0x7FFFFFFFF8 / 2 ^ 21)).nacked = [] ∧
      memPoison (onEntry (entryOf 3 true true)) 0x7FFFFFFFF8 8 = false ∧
      memPoison { onEntry (entryOf 3 true true) with poison := [(0x7FFFFFFFF8 / 64, true)] } 0x7FFFFFFFF8 8 = true ∧
      dieIsDown { onEntry (entryOf 3 true true) with dieDown := [(homeDie 0x7FFFFFFFF8, 0)] } (homeDie 0x7FFFFFFFF8) = true) ∧
    ((granuleOf (onGranule (onEntry (entryOf 3 true true)) 262143 (moving [.inl 0] [])) (0x7FFFFFFFF8 / 2 ^ 21)).place = .moving ∧
      Sparse.wf .atHome (onGranule (onEntry (entryOf 3 true true)) 262143 (moving [.inl 0] [])).granules = true ∧
      (moving (List.replicate 64 (.inl 0)) []).held.length = 64 ∧ (∃ n ∈ (moving [] [((7, 2), .inr (reqOf (.load 8)))]).nacked, n.1 = (7, 2) ∧ n.2 ≠ .inr (reqOf (.store [1]))) ∧
      (moving [] [((7, 2), .inr (reqOf (.store [1])))]).nacked = [(((reqOf (.store [1])).src, (reqOf (.store [1])).label), .inr (reqOf (.store [1])))] ∧
      (granuleOf (onGranule State.reset 262143 ⟨.lent, some 6, none, [], [], [0], none⟩) (0x7FFFFFFFF8 / 2 ^ 21)).holder = some 6) ∧
    (localTgt 0x7FFFFFFFF8 = .dram 0x7FFFFFFFF8) := by
  refine ⟨by decide, ⟨passes_onEntry _ rfl (by decide), passes_onEntry _ rfl (by decide), passes_onEntry _ rfl (by decide), passes_onEntry _ rfl (by decide)⟩,
    by decide, by decide +kernel, by decide⟩

theorem calm_on (c : Ctx) (l : Launch) (h : l.spec = false ∧ l.retired = false ∧ l.claiming = false) (h' : unretired (on c i0 l) 0 ≠ []) :
    Calm (on c i0 l) :=
  ⟨by intro p hp; rw [List.mem_singleton.mp hp]; rfl, by intro p hp; rw [List.mem_singleton.mp hp]; exact ⟨h.1, h.2.1, h.2.2, h'⟩,
    ⟨List.nodup_singleton _, List.nodup_singleton _⟩,
    by intro p hp q hq _; rw [List.mem_singleton.mp hp, List.mem_singleton.mp hq], by intro p _ i hi; cases hi⟩

/-- A part at peer 5, foreign or not, and an access that has been refused for 10 ms. -/
def partPeer : Part := { part0 with tgt := .peer 5 0x3000, sent := some 0 }
def lForeign : Launch := { l0 with part := ⟨0, 0, 2 ^ 5, true, 5, 9⟩ }

theorem pending_onAcc (a : Access) (p : Part) (t : Nat) (l : Launch) (hp : a.parts = [p] ∧ p.done = false) (h : a.isle = 0 ∧ a.uid = 0 ∧ a.launch = 0)
    (hk : a.kind = .load ∨ a.kind = .store ∨ a.kind = .cas ∨ (∃ fn, a.kind = .amo fn) ∨ (∃ fn, a.kind = .red fn)) (hh : a.pc ≠ 0 ∧ a.atHome = false)
    (hl : l.spec = false ∧ l.retired = false ∧ l.claiming = false) (h' : unretired (on .S i0 l) 0 ≠ []) :
    Pending { on .S i0 l with acc := [a], time := t } a p i0 l :=
  ⟨by simp [State.access], hp, hk, by rw [h.1, h.2.1, h.2.2]; exact ⟨rfl, rfl, rfl⟩, by rw [h.2.2]; rfl, hh.1,
    ⟨hh.2, by intro v hv; cases hv⟩, ⟨(calm_on .S l hl h').slots, (calm_on .S l hl h').launches, (calm_on .S l hl h').keys, (calm_on .S l hl h').uids⟩⟩

theorem wit_refusals :
    Pending { on .S i0 l0 with acc := [aOut .S .store part0], time := 0 } (aOut .S .store part0) part0 i0 l0 ∧
    (Pending { on .S i0 l0 with acc := [aOut .L .load partPeer], time := 100 * Config.ticksPerUs } (aOut .L .load partPeer) partPeer i0 l0 ∧
      l0.part.foreign.testBit 5 = false ∧ partPeer.sent = some 0 ∧
      0 + State.reset.fabTimeout * Config.ticksPerUs ≤ 100 * Config.ticksPerUs) ∧
    (Pending { on .S i0 lForeign with acc := [aOut .L .load partPeer], time := 50 * Config.ticksPerUs } (aOut .L .load partPeer) partPeer i0 lForeign ∧
      lForeign.part.foreign.testBit 5 = true ∧ (foreignOf (on .S i0 lForeign) lForeign.part.pa 5).reachable = true ∧
      0 + (foreignOf (on .S i0 lForeign) lForeign.part.pa 5).timeout * Config.ticksPerUs ≤ 50 * Config.ticksPerUs) ∧
    (Pending { on .S i0 l0 with acc := [{ aOut .S .store part0 with nack := some ⟨0, 0, 1⟩ }], time := 10000 * Config.ticksPerUs }
      { aOut .S .store part0 with nack := some ⟨0, 0, 1⟩ } part0 i0 l0) :=
  ⟨pending_onAcc _ _ _ _ (by decide) (by decide) (.inr (.inl rfl)) (by decide) (by decide) (by decide),
    ⟨pending_onAcc _ _ _ _ (by decide) (by decide) (.inl rfl) (by decide) (by decide) (by decide), by decide, by decide⟩,
    ⟨pending_onAcc _ _ _ _ (by decide) (by decide) (.inl rfl) (by decide) (by decide) (by decide), by decide, by decide, by decide⟩,
    pending_onAcc _ _ _ _ (by decide) (by decide) (.inr (.inl rfl)) (by decide) (by decide) (by decide)⟩

/-- Retries that are due, with 63 and 64 requests held, and one that is not due yet. -/
def nackCases : List (Nack × Nat) := [(⟨0, 5, 1⟩, 63), (⟨0, 5, 1⟩, 64), (⟨0, 6, 1⟩, 0)]

/-- A granule with the moves ms, that moves to h; a store that has been turned away, and the machine it retries on. -/
def moved (ms : List Nat) (h : Option Nat) : Granule := { moving [] [] with target := h, moves := ms }
def aNack (n : Nack) : Access := { aOut .S .store part0 with nack := some n }
def onNack (n : Nack) (held : Nat) : State :=
  { onGranule (onAcc (aNack n)) 0 (moving (List.replicate held (.inl 99)) [((8192, 0), .inl 5)]) with time := 5 }

theorem wit_granuleMoves :
    ((granuleOf (onGranule State.reset 9 (moved [0, 1, 2] (some 5))) 9).place = .moving ∧ (moved [0, 1] none).moves.length < 3 ∧
      (moved [0, 1, 2] (some 5)).moves[(moved [0, 1, 2] (some 5)).moves.length - 3]? = some 0 ∧
      1000 * Config.ticksPerUs ≤ 0 + 1000 * Config.ticksPerUs ∧ 0 + 1000 * Config.ticksPerUs < 1 + 1000 * Config.ticksPerUs ∧
      (moved [0, 1, 2] (some 5)).pin = none ∧ Sparse.wf .atHome (onGranule State.reset 9 (moved [0, 1, 2] (some 5))).granules = true) ∧
    (({ moved [] none with held := [.inr (reqOf (.store [1, 2]))] } : Granule).held = [.inr (reqOf (.store [1, 2]))] ∧
      reqDown State.reset (reqOf (.store [1, 2])) = false ∧ (reqOf (.store [1, 2])).src < 4096 ∧ 0x7FFFFFFFF8 / 2 ^ 21 = 262143 ∧
      ({ State.reset with guests := [⟨7, 9, 0⟩] } : State).guests = [⟨7, 9, 0⟩]) ∧
    ((granuleOf State.reset 9).place ≠ .moving ∧ (granuleOf State.reset 9).holder ≠ some 5 ∧ (granuleOf State.reset 9).pin = none) ∧
    (([(0, 1), (2 ^ 21 - 1, 2)] : List (Nat × Byte)).map Prod.fst).Nodup ∧ (2 ^ 21 - 1 < 2 ^ 21) ∧ State.reset.guests = [] ∧
    (granuleOf (onGranule State.reset 9 { moved [] none with place := .home, pin := some 7 }) 9).pin = some 7 ∧
    (∀ x ∈ nackCases, (granuleOf (onNack x.1 x.2) (0x2000 / 2 ^ 21)).held.all (fun h => h.elim (fun n => n ≠ 5) (fun _ => true)) = true) ∧
    (∀ x ∈ nackCases,
      mayPerform (onNack x.1 x.2) (aNack x.1) = true ∧ (onNack x.1 x.2).access 5 = some (aNack x.1) ∧ (aNack x.1).atHome = false ∧
      onPacketPlane (onNack x.1 x.2) (aNack x.1) = true ∧ dieIsDown (onNack x.1 x.2) (homeDie 0x2000) = false ∧
      (granuleOf (onNack x.1 x.2) (0x2000 / 2 ^ 21)).place = .moving ∧ (granuleOf (onNack x.1 x.2) (0x2000 / 2 ^ 21)).nacked = [((8192 + (aNack x.1).isle, 0), .inl (aNack x.1).id)] ∧
      (∀ c ∈ (onNack x.1 x.2).acc, c.id = 5) ∧
      Sparse.wf .atHome (onNack x.1 x.2).granules = true) :=
  ⟨by decide +kernel, by decide +kernel, by decide +kernel, by decide +kernel, by decide, rfl, by decide +kernel,
    by decide +kernel, by decide +kernel⟩

/-! ## Links -/

def tideReq (region prio : Nat) : TideReq := ⟨0, 0, 9, region, 10, prio, 0⟩
/-- The instance with one command, number 9. -/
def iCmd (w : Instr) (phase : Phase) : Inst :=
  { i0 with cmds := [⟨9, 0x1000, w, [], 0, 0, [], [], [], phase, 0, [], .start, [], [], 0, (0, 0, 0), [], [], none⟩] }
/-- Link 17 as x. -/
def onLink (x : Link) (t : Nat) : State := { on .C (iCmd (.tide ⟨.C, 1, 10⟩) .pending) l0 with links := [(17, x)], time := t }
/-- The device 5 with one port, to row position 6, that has not failed, and an access to peer 6. -/
def lFive : Launch := { l0 with part := ⟨0, 0, 0, true, 5, 9⟩ }
def onPort (s : State) : State := { s with ports := [(3, ⟨.row 6, 0, false⟩)] }
def partSix : Part := { part0 with tgt := .peer 6 0x3000, sent := some 0 }
/-- H7 of the instance open to peer 6. -/
def h7 : Handle := { Handle.closed with st := .opened, peer := 6, sentoff := 100, ackoff := 40, len := 200 }
def iH (x : Handle) : Inst := { i0 with h := [(7, x)] }

theorem calm_inst (c : Ctx) (i : Inst) (l : Launch) (h : l.spec = false ∧ l.retired = false ∧ l.claiming = false) (hi : i.life = .running)
    (h' : unretired (on c i l) 0 ≠ []) : Calm (on c i l) :=
  ⟨by intro p hp; rw [List.mem_singleton.mp hp]; exact hi, by intro p hp; rw [List.mem_singleton.mp hp]; exact ⟨h.1, h.2.1, h.2.2, h'⟩,
    ⟨List.nodup_singleton _, List.nodup_singleton _⟩,
    by intro p hp q hq _; rw [List.mem_singleton.mp hp, List.mem_singleton.mp hq], by intro p _ i hi; cases hi⟩

/-- A request of access 5; that access on port 3, to peer 6; the read of a row by command 9; a command. -/
def reqL : Req := ⟨5, 0x1000, .L, .g .L 3 0, 0, false, 0, 0, false, [], [], 5, 0⟩
def onLost (i : Inst) (a : Access) : State := { onPort (on .L i lFive) with acc := [a] }
def aEng : Access := { aOut .C (.engRead 9) partSix with id := 77 }

/-- The circuit of handle 7, and that of the promotion of flow1, over port 3. -/
def onStrait3 : State := { onPort (on .C (iH h7) lFive) with xpts := [⟨.port 3 true, .strait 0 7, 2, true⟩] }
def flow1 : Flow := ⟨0, 7, 0, 2⟩
def meterOf (st : MeterSt) (pk : List SentPacket) : Meter := ⟨3, flow1, 0, 4096, 0, st, 0, 96, pk, [], 0⟩
def onPromo3 : State := { onPort (on .C i0 lFive) with xpts := [⟨.port 3 true, .promoted flow1, 2, true⟩], meters := [meterOf .circ []] }

/-- Two requests of the same PRIO; the end of a turn, 4 µs and 5 µs after it, with three and four turns in the last 20 µs; an expired
request; a link that works, with a request, a circuit and a promotion over it; the link of a byte's home; data of an access and of a
command lost. -/
theorem wit_linkEvents :
    ((onLink ⟨8, [tideReq 1 6, tideReq 2 6], none, some 0, [1, 2, 3]⟩ (5 * Config.ticksPerUs)).link 17).pending = [] ++ tideReq 1 6 :: [tideReq 2 6] ∧
    (¬ 5 * Config.ticksPerUs < 0 + 5 * Config.ticksPerUs ∧ 4 * Config.ticksPerUs < 0 + 5 * Config.ticksPerUs) ∧
    (Calm (on .C (iCmd (.tide ⟨.C, 1, 10⟩) .pending) l0) ∧ engineOf (Instr.tide ⟨.C, 1, 10⟩) = some .td ∧
      ((onLink ⟨8, [], some (tideReq 1 6, 10, 40), none, []⟩ 40).link 17).turning = some (tideReq 1 6, 10, 40) ∧
      ((onLink ⟨8, [tideReq 1 6], none, none, []⟩ (100 * Config.ticksPerUs)).link 17).pending = [tideReq 1 6]) ∧
    (((onPort State.reset).port 3).failed = false ∧ Sparse.wf .reset (onPort State.reset).ports = true ∧ State.reset.xpts = []) ∧
    (Pending { on .S i0 lFive with acc := [aOut .S .store partSix], time := 0 } (aOut .S .store partSix) partSix i0 lFive ∧
      selfOf lFive.part = some 5 ∧ fabricPort (onPort (on .S i0 lFive)) 5 6 = some 3 ∧ partSix.sent ≠ none ∧
      ∀ m ∈ (onLost i0 (aOut .S .store partSix)).meters, heldBack m 5 = false) ∧
    (Calm (on .C (iH h7) lFive) ∧ Sparse.wf .closed (iH h7).h = true ∧ ((iH h7).handle 7).st = .opened ∧ ((iH h7).handle 7).autofb = false ∧
      onStrait3.acc = [] ∧ onStrait3.inst 0 = some (iH h7) ∧ (onStrait3.port 3).failed = false) ∧
    (onPromo3.meters = [meterOf .circ []] ∧ onPromo3.isSelf (meterOf .circ []).flow.peer = false) ∧
    (Pending { on .S { i0 with reqs := [reqL] } l0 with acc := [aOut .L .load part0], time := 0 } (aOut .L .load part0) part0
        { i0 with reqs := [reqL] } l0 ∧
      reqL.id = 5 ∧ Crosses 0 0x2000 0 ∧ Crosses 0 0x9000 0 ∧ 0x2000 < spreadBase) ∧
    partPort (onLost { i0 with reqs := [reqL] } (aOut .L .load partSix)) (aOut .L .load partSix) partSix = some 3 ∧
    (Calm (on .C (iCmd (.cpy ⟨.C, 1, 2⟩) .running) l0) ∧ l0.chain.headD 0 + 128 ≤ 0x9000 / 64 * 64) ∧
    (aEng.kind = .engRead 9 ∧ partPort (onLost (iCmd (.cpy ⟨.C, 1, 2⟩) .running) aEng) aEng partSix = some 3) ∧
    Sparse.wf false State.reset.poison = true :=
  ⟨by decide, by decide, ⟨calm_inst _ _ _ (by decide) rfl (by decide), rfl, by decide, by decide⟩, by decide,
    ⟨pending_onAcc _ _ _ _ (by decide) (by decide) (.inr (.inl rfl)) (by decide) (by decide) (by decide), by decide, by decide, by decide,
      by intro m hm; cases hm⟩,
    ⟨calm_inst _ _ _ (by decide) rfl (by decide), by decide⟩, by decide,
    ⟨⟨by simp [State.access], by decide, .inl rfl, ⟨rfl, rfl, rfl⟩, rfl, by decide, ⟨rfl, by intro v hv; cases hv⟩,
        ⟨(calm_inst .S { i0 with reqs := [reqL] } l0 (by decide) rfl (by decide)).slots,
          (calm_inst .S { i0 with reqs := [reqL] } l0 (by decide) rfl (by decide)).launches,
          (calm_inst .S { i0 with reqs := [reqL] } l0 (by decide) rfl (by decide)).keys,
          (calm_inst .S { i0 with reqs := [reqL] } l0 (by decide) rfl (by decide)).uids⟩⟩,
      rfl, .inl ⟨by decide, by decide⟩, .inl ⟨by decide, by decide⟩, by decide⟩, by decide,
    ⟨calm_inst _ _ _ (by decide) rfl (by decide), by decide⟩, ⟨rfl, by decide⟩, by decide⟩

/-! ## Circuits -/

/-- A packet of peer 7 of 8 bytes for the end of the scratchpad of isle 0, the window that takes it, and one in which it does not fit. -/
def pkt (cursor : Nat) : WindowPacket := ⟨7, 9, 3, ⟨0, 5, 0, 2⟩, cursor, [1, 2, 3, 4, 5, 6, 7, 8]⟩
def padEntry (gen : Nat) (w : Bool) : IngressEntry := ⟨7, 9, spadBase, 22, true, w, false, gen, true⟩
def aPacket : Access := ⟨5, 0, 0, 0, .S, 0, 0x1000, .packet flow1 96, [{ part0 with tgt := .peer 7 96, len := 2 }], false, false, 0, none, (0, 0, 0)⟩
def onMeter (m : Meter) (t : Nat) : State := { on .S i0 l0 with meters := [m], time := t }
def recv (mark : Option Nat) (held packets : List (Nat × List Byte)) : Receiver := ⟨flow1, mark, held, packets, 0, 0⟩

theorem wit_circuitEvents :
    ((onEntry (padEntry 3 true)).receiver { (pkt 0x3FFFF8).flow with peer := 7 } = none ∧ (pkt 0x3FFFF8).srcPeer = 7 ∧ (padEntry 3 true).opened = true ∧
      (padEntry 3 true).lbase ≤ spadBase + 0 * 2 ^ 22 + 0x3FFFF8 ∧ spadBase + 0 * 2 ^ 22 + 0x3FFFF8 + 8 ≤ (padEntry 3 true).lbase + 2 ^ (padEntry 3 true).logsz ∧
      (padEntry 4 true).gen ≠ (pkt 0).gen ∧ (padEntry 3 false).w = false ∧ (onEntry (padEntry 3 true)).inst 0 = some i0 ∧
      (iFew { i0.counts with spad := 255 }).counts.spad * 16384 < 0x3FFFF8 + 8 ∧ 0x3FFFF8 + 8 ≤ i0.counts.spad * 16384 ∧ Sparse.wf 0 i0.spad = true) ∧
    (recv (some 0) [] []).mark ≠ none ∧
    ((onMeter (meterOf .circ []) (2 * Config.ticksPerUs)).meter flow1 = some (meterOf .circ []) ∧
      ¬ 2 * Config.ticksPerUs < (meterOf .circ []).lastSend + 2 * Config.ticksPerUs ∧
      (onMeter (meterOf .hold []) (20 * Config.ticksPerUs)).meter flow1 = some (meterOf .hold []) ∧
      (onMeter (meterOf .probe []) 0).meter flow1 = some (meterOf .probe [])) ∧
    (aPacket.id = 5 ∧ aPacket.kind = .packet flow1 96 ∧ (∀ p ∈ aPacket.parts, p.st = .ok) ∧
      (meterOf .breaking [⟨5, 96, [1, 2]⟩]).acked = 96 ∧ selfOf lFive.part ≠ some flow1.peer ∧ lFive.part.self < 4096) ∧
    (State.reset.receiver flow1 = none ∧ (State.reset.receivers.filter (fun r => r.flow.isle = flow1.isle)).length < 4 ∧
      4 ≤ ((List.replicate 4 (recv none [] [])).filter (fun r => r.flow.isle = flow1.isle)).length) ∧
    ((((recv none [(0, List.replicate 16384 0)] []).held.map (fun h => h.2.length)).sum + 0 ≤ 16384) ∧
      16384 < ((recv none [(0, List.replicate 16384 0)] []).held.map (fun h => h.2.length)).sum + 1) ∧
    ((recv (some 0) [] []).token ≤ 1000 ∧ 1000 + 23 < (recv (some 0) [] []).token + 1024 ∧ (recv (some 0) [] []).token + 1024 ≤ 1000 + 24) := by
  decide +kernel

/-- A probe of peer 7 by port 3 for isle 0, and bytes of a circuit of it. -/
def probeOf (k : CircKind) (range : Option (Nat × Nat)) : Probe := ⟨7, 9, 3, ⟨0, 5, 0, 2⟩, k, 4, true, range, 0, 3⟩
def dataOf (k : CircKind) (off n : Nat) (ends : Bool) : CircuitData := ⟨7, 9, 3, ⟨0, 5, 0, 2⟩, k, off, List.replicate n 1, ends⟩

/-- The device 5 whose one window is isle 0's scratchpad, for peer 7, with the receivers rs and the straits ss. -/
def onRecv (rs : List Receiver) (ss : List Strait) : State :=
  { onEntry (padEntry 3 true) with launches := [(0, lFive)], receivers := rs, straits := ss }

/-- A probe that comes in by port 3 is at the isle of that port's router at once. -/
theorem way_in (s : State) (c : CircuitRef) (h : s.xpts = []) :
    probeIn s ⟨c, 4, true⟩ 3 (portAt 3) 0 = some ⟨portAt 3, none, [.port 3 false], [], 0⟩ := by
  have e : ([] : List CircuitRef).eraseDups = [] := rfl
  have a (w : Walk) (n : Nat) (hv : w.via = none) : Walk.to s ⟨c, 4, true⟩ w.here (n + 1) w = some w := by rw [Walk.to]; simp [hv]
  have b : (Walk.start (portAt 3)).take s ⟨c, 4, true⟩ [.port 3 false] = some ⟨portAt 3, none, [.port 3 false], [], 0⟩ := by
    simp [Walk.take, h, Walk.start, e]
  unfold probeIn
  rw [show ({ Walk.start (portAt 3) with backs := 0 } : Walk) = Walk.start (portAt 3) from rfl, b]
  exact a ⟨portAt 3, none, [.port 3 false], [], 0⟩ 127 rfl

/-- Where a circuit stands at the port that may not be broken, a probe finds no way. -/
theorem no_way_in (s : State) (k : Nat) (h : s.xpts = [⟨.port 3 false, .strait 9 0, 4, true⟩]) :
    probeIn s ⟨.arriving flow1 .promoted, 4, true⟩ 3 k 0 = none := by
  simp [probeIn, Walk.take, h, Prober.mayTake, promotedRef]

/-- Probes that find a way or none; a range that the window covers; streams before and behind the mark, at a token and past it; the end of
a circuit with a packet behind it; a strait's stream. -/
theorem wit_arrivals :
    (probeIn (onRecv [] []) ⟨.arriving flow1 .promoted, 4, true⟩ 3 (portAt 3) 0 = some ⟨portAt 3, none, [.port 3 false], [], 0⟩ ∧
      probeIn { onRecv [] [] with xpts := [⟨.port 3 false, .strait 9 0, 4, true⟩] } ⟨.arriving flow1 .promoted, 4, true⟩ 3 0 0 = none ∧
      (onRecv [] []).isSelf 7 = false ∧ (onRecv [] []).receiver flow1 = none) ∧
    (Plain (onRecv [] []) i0 lFive ∧ Covers (padEntry 3 true) ⟨none, 7, 9, 3, spadBase + 0 * 2 ^ 22 + 0x3FFFFF, 0, .load 1⟩ ∧
      ¬ i0.counts.spad * 16384 < 0x3FFFFF + 1 ∧ i0.counts.spad * 16384 < 0x3FFFFF + 2 ∧ (padEntry 3 false).w = false) ∧
    (judgeStream (onRecv [] []) 7 9 3 0 0x3FFC00 1024 = none ∧ 0x3FFC00 + 1024 ≤ i0.counts.spad * 16384 ∧
      (judgeStream { onRecv [] [] with ingress := [] } 7 9 3 0 0 1).isSome = true) ∧
    (((onRecv [recv none [(0, List.replicate 16383 0)] []] []).receivers.map (fun r => (r.held.map (fun h => h.2.length)).sum + 1)) = [16384] ∧
      (recv (some 0) [] [(100, [1, 2, 3])]).packets = [(100, [1, 2, 3])] ∧ (recv none [(100, [1, 2, 3])] []).held = [(100, [1, 2, 3])]) ∧
    ((onRecv [] [⟨flow1, 7, none⟩]).straits = [⟨{ (dataOf (.strait 7) 0 1024 true).flow with peer := 7 }, 7, none⟩] ∧
      (dataOf (.strait 7) 0 1024 true).data.length = 1024 ∧ (dataOf (.strait 7) 0 1023 false).data.length < 1024) ∧
    (OneMeter (onMeter (meterOf .circ [⟨5, 96, [1, 2]⟩]) 0) flow1 (meterOf .circ [⟨5, 96, [1, 2]⟩]) ∧
      (onMeter (meterOf .circ []) 0).isSelf flow1.peer = false ∧
      ({ onMeter (meterOf .circ []) 0 with launches := [(0, { l0 with part := ⟨0, 0, 0, true, 7, 9⟩ })] } : State).isSelf flow1.peer = true) := by
  refine ⟨⟨way_in _ _ rfl, no_way_in _ _ rfl, by decide, by decide⟩, ⟨⟨rfl, rfl⟩, ⟨by decide, by decide, by decide, by decide, by decide⟩, by decide, by decide, rfl⟩,
    by decide +kernel, by decide +kernel, by decide +kernel, ⟨⟨by decide, ?_⟩, by decide, by decide⟩⟩
  intro x hx _
  exact List.mem_singleton.mp hx

/-- Rings' probes: the window covers the first byte of the isle's scratchpad, for an instance that has retired with its rotation going on,
and for one whose rotation with that upstream and label has ended. -/
theorem wit_ring_probes :
    Covers (padEntry 3 true) ⟨none, 7, 9, 3, spadBase + 0 * 2 ^ 22, 0, .load 1⟩ ∧ (padEntry 3 true).w = true ∧
    (onRecv [] []).inst 0 = some i0 ∧ (onRecv [] []).rotaEnded = [] ∧ i0.rotaDone = [] ∧ i0.cmds = [] ∧
    Plain (onRecv [] []) { i0 with life := .retired, rotaDone := [(6, 7, 2)] } lFive ∧
    (probeOf .ring (some (0, 1))).range = some (0, 1) ∧ (6, (probeOf .ring none).srcPeer, (probeOf .ring none).flow.label) = (6, 7, 2) :=
  ⟨⟨by decide, by decide, by decide, by decide, by decide⟩, rfl, by decide, rfl, rfl, rfl, ⟨rfl, rfl⟩, rfl, rfl⟩

theorem wit_straits :
    Calm (on .C (iH h7) lFive) ∧ ((iH h7).handle 7).st = .opened ∧ Sparse.wf .closed (iH h7).h = true ∧
    (((iH h7).handle 7).ackoff.toNat < 41 ∧ 100 ≤ ((iH h7).handle 7).sentoff.toNat) ∧ (iH h7).cmds = [] ∧
    ({ iH h7 with cmds := (iCmd (.csend ⟨.C, 7, 1⟩) (.streaming 0 100)).cmds } : Inst).cmds.map (fun c => c.phase) = [.streaming 0 100] ∧
    ({ h7 with pre := true } : Handle).pre = true ∧ ((iH h7).handle 7).leaseEnd ≤ 0 ∧ ({ h7 with leaseEnd := 1 } : Handle).leaseEnd = 1 ∧
    ((iH { h7 with autofb := true }).handle 7).autofb = true ∧ h7.sentoff.toNat - h7.ackoff.toNat = 60 ∧ (on .C (iH h7) lFive).isSelf h7.peer.toNat = false ∧ (iH h7).spadPoison = [] ∧
    ((iH { h7 with st := .fallback }).handle 7).st = .fallback ∧ (∀ a ∈ (on .C (iH h7) lFive).acc, ∀ f c, a.kind ≠ .fallback f c 7) :=
  ⟨calm_inst _ _ _ (by decide) rfl (by decide), by decide, by decide, by decide, rfl, rfl, rfl, by decide, rfl, rfl, by decide, by decide, rfl, by decide,
    by intro a ha; cases ha⟩

/-! ## Engines -/

theorem lone_on (i : Inst) (l : Launch) (c : Cmd) (h : l.spec = false ∧ l.retired = false ∧ l.claiming = false) (hi : i.life = .running ∧ i.launch = 0)
    (h' : unretired (on .C i l) 0 ≠ []) (hc : i.cmds = [c]) (hf : i.frozen = none ∧ i.refill = [] ∧ i.spadPoison = [] ∧ i.accPoison = []) : Lone (on .C i l) 0 i l c :=
  ⟨calm_inst _ _ _ h hi.1 h', rfl, by rw [hi.2]; rfl, hc, hf, rfl⟩

/-- A command with the descriptors ds, values and block. -/
def cmdOf (w : Instr) (ds : List (BitVec 256)) (gx gy : Word) (block : List Byte) (phase : Phase) (own : List Contribution) : Cmd :=
  ⟨9, 0x1000, w, ds, gx, gy, block, [], [], phase, 0, [], .start, own, [], 0, (0, 0, 0), [], [], none⟩

/-- Two rows of three bytes at 0x100, at 0x200, and 128 rows of 1 byte. -/
def mA : BitVec 256 := desc2 2 0 0x100 3 2 16 0
def mB : BitVec 256 := desc2 2 0 0x200 3 2 3 0
/-- Contributions to tree 0 of two participants, of ranks 0 and 1. -/
def own0 : Contribution := { ownContribution (cmdOf (.ard ⟨.C, 1, 2, 1, 2, .sum⟩) [] 0x2000 0 [] .gathering []) [] with data := [1] }
/-- The block of a rotation of two, with casks of 4 bytes. -/
def ring2 : List Byte := [1, 0, 0, 0, 6, 0, 4, 0, 2, 9, 0, 0, 0, 0, 0, 0, 0, 0x20, 0, 0, 0, 0x30, 0, 0] ++ List.replicate 104 0

/-- The way out of a probe from the isle of port 3, which leads to peer 6; no way without ports. -/
theorem way_out (s : State) (c : CircuitRef) (pr : Nat) (pre : Bool) (j l : Nat) (h : s.xpts = []) (hp : candPorts s 5 6 = [3]) :
    probeWay s (some 5) ⟨c, pr, pre⟩ ⟨portAt 3, 6, j, l⟩ = some (⟨portAt 3, none, [.port 3 true], [], 0⟩, some 3) := by
  have e : ([] : List CircuitRef).eraseDups = [] := rfl
  have a (w : Walk) (n : Nat) (hv : w.via = none) : Walk.to s ⟨c, pr, pre⟩ w.here (n + 1) w = some w := by rw [Walk.to]; simp [hv]
  have b : Walk.to s ⟨c, pr, pre⟩ (portAt 3) walkHops (Walk.start (portAt 3)) = some (Walk.start (portAt 3)) :=
    a (Walk.start (portAt 3)) 127 rfl
  simp only [probeWay, hp, Walk.out, b]
  simp [Walk.take, h, Walk.start, e]

theorem no_way_out (s : State) (c : CircuitRef) (pr : Nat) (pre : Bool) (f : Flow) (h : f.peer = 6) (hp : candPorts s 5 6 = []) :
    probeWay s (some 5) ⟨c, pr, pre⟩ f = none := by
  simp [probeWay, h, hp, Walk.out]

/-- A COPEN of H7 to isle 5 of peer 6, whose range there ends with the scratchpad. -/
def cOpen (phase : Phase) : Cmd := cmdOf (.copen ⟨.C, 7, 1, 2⟩) [] 0x00605000003FFF38 0x0019000064000000 [] phase []

/-- What COPEN, the engines' starts, a TIDE and MXZ meet. -/
theorem wit_engineEvents :
    (∃ c, Lone (on .C (iCmd (.mxz ⟨.C, 7⟩) .running) l0) 0 (iCmd (.mxz ⟨.C, 7⟩) .running) l0 c ∧ c.phase = .running) ∧
    (let c := cmdOf (.mxmRb ⟨.C, 1, 2, 7⟩) [mA, mB] 0 0 [] .queued []
     let i := { i0 with cmds := [c], latch := some ⟨mB, [], [], 0, 0, 0, []⟩ }
     Lone (on .C i l0) 0 i l0 c ∧ (i.latch.filter (fun l => l.desc = c.ds.getD 1 0)).isSome = true) ∧
    (ByteMatrix (descOf mA) 2 3 ∧ ByteMatrix (descOf mB) 2 3 ∧ Sparse.wf 0 i0.acc = true ∧ Sparse.wf 0 i0.spad = true ∧
      (∀ r < 2, ∀ q < 3, ∀ r' < 2, ∀ q' < 3, ¬ (descOf mA).base + r * (descOf mA).str 1 + q = (descOf mB).base + r' * (descOf mB).str 1 + q' ∧
        ((descOf mA).base + r * (descOf mA).str 1 + q = (descOf mA).base + r' * (descOf mA).str 1 + q' → r = r' ∧ q = q'))) ∧
    (Lone (on .C { i0 with cmds := [cOpen .queued] } lFive) 0 { i0 with cmds := [cOpen .queued] } lFive (cOpen .queued) ∧
      (i0.handle 7).st = .closed ∧ Sparse.wf .closed i0.h = true ∧
      probeWay (onPort State.reset) (selfOf lFive.part) ⟨.strait 0 7, 0, false⟩ ⟨portAt 3, 6, 5, 0⟩ =
        some (⟨portAt 3, none, [.port 3 true], [], 0⟩, some 3) ∧
      probeWay State.reset (selfOf lFive.part) ⟨.strait 0 7, 0, false⟩ ⟨0, 6, 5, 0⟩ = none) ∧
    (((iH { h7 with st := .opening }).handle 7).st = .opening ∧ selfOf lFive.part ≠ some ((iH h7).handle 7).peer.toNat ∧
      selfOf lFive.part = some ((iH { h7 with peer := 5 }).handle 7).peer.toNat ∧ (on .C i0 lFive).straits = [] ∧
      (on .C i0 lFive).inst 1 = none ∧ ((on .C i0 lFive).launch i0.launch).isSome = true ∧
      h7.rbase.toNat + h7.len.toNat ≤ i0.counts.spad * 16384) ∧
    (Nat.min h7.len.toNat (h7.sentoff.toNat + 0) ≤ h7.sentoff.toNat ∧ h7.sentoff.toNat < Nat.min h7.len.toNat (h7.sentoff.toNat + 1)) ∧
    ((on .C i0 l0).link 0).pending = [] ∧
    (Nat.max 2 (Nat.min 22 (20 : Nat)) = (State.reset.link 0).split ∧ Nat.max 2 (Nat.min 22 (31 : Nat)) ≠ (State.reset.link 0).split) := by
  refine ⟨⟨_, lone_on _ _ _ (by decide) (by decide) (by decide) rfl (by decide), rfl⟩,
    ⟨lone_on _ _ _ (by decide) (by decide) (by decide) rfl (by decide), by decide⟩,
    ⟨⟨by decide, by decide⟩, ⟨by decide, by decide⟩, by decide, by decide, ?_⟩,
    ⟨lone_on _ _ _ (by decide) (by decide) (by decide) rfl (by decide), by decide, by decide, ?_, ?_⟩, by decide, by decide, by decide, by decide⟩
  · have h1 : (descOf mA).base = 0x100 ∧ (descOf mA).str 1 = 16 ∧ (descOf mB).base = 0x200 ∧ (descOf mB).str 1 = 3 := by decide
    rw [h1.1, h1.2.1, h1.2.2.1, h1.2.2.2]
    intros; omega
  · exact way_out _ _ _ _ _ _ rfl (by decide)
  · exact no_way_out _ _ _ _ _ rfl (by decide)

/-- An image of a tree entry: one child, on port 3, UPPORT 3; and the same with byte n as b. -/
def imgOf (n : Nat) (b : Byte) : List Byte :=
  (([8] : List Byte) ++ List.replicate 15 0 ++ [1, 0, 3] ++ List.replicate 13 0).set n b
def bitOf (img : List Byte) (b : Nat) : Bool := (img.getD (b / 8) 0).getLsbD (b % 8)

/-- A tree entry that serves isle 0 of tenant 9, with LOCAL, and one that forwards by ports 3 and 10. -/
def entryServes : BitVec 256 := BitVec.ofNat 256 (2 ^ 128 + 2 ^ 129 + 9 * 2 ^ 160)
def entrySends : BitVec 256 := BitVec.ofNat 256 (2 ^ 3 + 2 ^ 10 + 2 ^ 128 + 9 * 2 ^ 160)

/-- An image that may be written, one with a reserved bit, one with a child on a port that leads nowhere; an entry of another tenant. -/
theorem wit_trees :
    (Sparse.wf 0 State.reset.trees = true ∧ (Sparse.get 0 State.reset.trees 255).getLsbD 128 = false ∧
      (BitVec.ofNat 256 (2 ^ 128 + 2 ^ 160)).getLsbD 128 = true ∧
      ((BitVec.ofNat 256 (2 ^ 128 + 2 ^ 160)).extractLsb' 160 16).toNat ≠ lFive.part.tenant) ∧
    ((∀ b < 256, ((131 ≤ b ∧ b < 136) ∨ (151 ≤ b ∧ b < 160) ∨ (176 ≤ b ∧ b < 256)) → bitOf (imgOf 0 8) b = false) ∧
      (∀ b < 128, bitOf (imgOf 0 8) b = true → isGridPort (onPort State.reset) b = true) ∧ isGridPort (onPort State.reset) 3 = true) ∧
    bitOf (imgOf 16 0x89) 135 = true ∧ (bitOf (imgOf 0 9) 0 = true ∧ isGridPort (onPort State.reset) 0 = false) := by
  decide +kernel

/-- The contribution of a command, its partner's, one of the same rank, one of another count; entries that serve and that do not. -/
theorem wit_collectives :
    (own0.n = 2 ∧ own0.crank < own0.n ∧ own0.refused = false ∧ ({ own0 with crank := 1 } : Contribution).crank ≠ own0.crank ∧
      ({ own0 with count := 7, crank := 1 } : Contribution).count ≠ own0.count) ∧
    own0 = { ownContribution (cmdOf (.ard ⟨.C, 1, 2, 1, 2, .sum⟩) [] 0x2000 0 [] .gathering [own0]) [] with data := own0.data } ∧
    (entryServes.getLsbD 128 = true ∧ entryServes.getLsbD 129 = true ∧ (entryServes.extractLsb' 136 8).toNat = 0 ∧
      (entryServes.extractLsb' 160 16).toNat = lFive.part.tenant ∧ State.reset.tree 0 ≠ entryServes) ∧
    (entrySends.getLsbD 128 = true ∧ entrySends.getLsbD 129 = false ∧ (entrySends.extractLsb' 160 16).toNat = 9) ∧
    (State.reset.inst 0 = none ∧ (0, 6, 7, 9) ∉ State.reset.rotaEnded) := by
  decide +kernel

/-- A rotation of two whose ring circuit is broken and may be tried again, has no way, or has one. -/
theorem wit_rotations :
    (1 < rotaN ring2 ∧ rotaRank ring2 < rotaN ring2 ∧ rotaDown ring2 = 6 ∧
      (cmdOf (.rota ⟨.C, 1, 1, 0, 0, false⟩) [desc1 2 0 0x200 4] 0 0 ring2 .rotating []).cask = (0x200, 4)) ∧
    (0 + 20 * Config.ticksPerUs ≤ (onLink ⟨8, [], none, none, []⟩ (20 * Config.ticksPerUs)).time ∧ selfOf lFive.part ≠ some (rotaDown ring2)) ∧
    probeWay (onPort State.reset) (selfOf lFive.part) ⟨.ring 0, 0, false⟩ ⟨portAt 3, rotaDown ring2, portAt 3, 9⟩ =
      some (⟨portAt 3, none, [.port 3 true], [], 0⟩, some 3) ∧
    probeWay State.reset (selfOf lFive.part) ⟨.ring 0, 0, false⟩ ⟨0, rotaDown ring2, 0, 9⟩ = none := by
  refine ⟨by decide, by decide, ?_, ?_⟩
  · exact way_out _ _ _ _ _ _ rfl (by decide)
  · exact no_way_out _ _ _ _ _ (by decide) (by decide)

/-! ## Dies, the module, registers, invariants -/

theorem wit_dieResets :
    (dieIsDown (on .L i0 l0) 7 = false ∧ (on .L i0 l0).boot = .running ∧ ((on .L i0 l0).slots.map Prod.fst).Nodup ∧
      (resetLinks.map Prod.fst).Nodup ∧ (∀ p ∈ (on .L i0 l0).slots, p.1 / 32 ≠ 7) ∧ Calm (on .L i0 l0)) ∧
    (({ State.reset with dirty := [(0x4000, 257)] } : State).dirty = [(0x4000, 257)]) ∧
    (({ State.reset with dieDown := [(7, 3)], time := 3 + 10000 * Config.ticksPerUs } : State).failed = false ∧ State.reset.launches = [] ∧
      (∀ p ∈ State.reset.vfs, p.2.queues = []) ∧ Sparse.wf Vf.reset State.reset.vfs = true) ∧
    (∃ r, ({ State.reset with dieDown := [(7, 3)], dieHeld := [r] } : State).dieHeld = [r] ∧ r = reqOf (.store [1, 2]) ∧ r.home = none ∧
      Spans r.addr 2 0x7FFFFFFFF8 ∧ (granuleOf State.reset (0x7FFFFFFFF8 / 2 ^ 21)).place = .home) :=
  ⟨⟨by decide, rfl, by decide, by decide, by decide, calm_inst _ _ _ (by decide) rfl (by decide)⟩, rfl, by decide,
    ⟨_, rfl, rfl, rfl, spans_last (by omega), by decide⟩⟩

theorem wit_moduleEvents :
    State.reset.boot ≠ .running ∧ (on .L i0 l0).boot = .running ∧ (List.replicate 32 (0 : Byte)).length = 32 ∧ State.reset.lifeCycle = .deployed ∧
    ¬ State.reset.mhz < 450 ∧ ({ State.reset with mhz := 400 } : State).mhz < 450 := by
  decide

theorem wit_registerWrites :
    ((onQueue [] q0).boot = .running ∧ (onQueue [] q0).failed = false ∧ ((onQueue [] q0).queue 1 0).en = true ∧
      ((onQueue [] { q0 with en := false }).queue 1 0).en = false ∧ Sparse.wf .reset (onQueue [] q0).vfs = true ∧
      (∃ q ∈ ((onQueue [] q0).vf 1).queues, q.2.en = true) ∧ (∀ q ∈ ((onQueue [] { q0 with en := false }).vf 1).queues, q.2.en = false)) ∧
    (chainOf (onQueue [] q0) 1 0 = none ∧ chainOf (onQueue [] q0) 1 0x8000 = some ([0x8000], eff0)) ∧
    (Sparse.wf .unused State.reset.ingress = true ∧ Sparse.wf .reset State.reset.ports = true ∧ State.reset.launches = [] ∧ (on .L i0 l0).launches ≠ [] ∧
      Sparse.wf 0 State.reset.trees = true) ∧
    (2 ^ 39 < 2 ^ 45 ∧ 2 ^ 39 % 2 ^ 39 = 0 ∧ 5 / 4 = 4 / 4 ∧ (onPort State.reset).port 3 ≠ (onPort State.reset).port 2) ∧
    (({ State.reset with boot := .running, meters := [meterOf .circ []] } : State).meters = [meterOf .circ []] ∧ (meterOf .circ []).flow.peer = 7) := by
  decide +kernel

/-- Reset, whose memory has its canonical form and whose agenda holds events alone; an instruction of the last vector family; its word. -/
theorem wit_invariants : EventsOnly State.reset ∧ MemWf State.reset.mem ∧ EventsOnly { State.reset with agenda := [(5, .shutdown)] } ∧
    (Instr.vstx ⟨.S, 31, 31, 0, 7, 31, 0x7FFFFFF⟩).wellFormed = true := by
  refine ⟨by unfold EventsOnly; decide, by decide, by unfold EventsOnly; decide, by decide⟩

/-! ## Refused terms and words -/

/-- One ill-formed term for each check of WellFormed.lean. -/
theorem test_illFormed : ∀ i ∈ [
    Instr.bfx ⟨.A, 1, 2, 63, 1⟩, .bfi ⟨.A, 1, 2, 1, 63⟩, .loop ⟨.A, 0, .short 1⟩, .loop ⟨.A, 24, .short 1⟩, .srd ⟨.A, 1, 0x006⟩, .swr ⟨.A, 1, 0xEFF⟩,
    .ld ⟨.L, 24, 1, 4, .d, 0, none⟩, .ldAq ⟨.L, 31, 1, 1, .d, 0, none⟩, .lds ⟨.L, 3, 1, 0, .d, 0, none⟩, .lds ⟨.L, 24, 1, 1, .b, 0, none⟩,
    .amo ⟨.S, 3, 1, 0, .h, .add, false, none⟩, .amo ⟨.S, 24, 1, 1, .w, .add, false, none⟩, .amoRl ⟨.S, 3, 1, 0, .d, .addf, false, none⟩,
    .cas ⟨.S, 3, 1, 0, .d, false, false, none⟩, .cas ⟨.S, 0, 1, 0, .d, false, false, none⟩, .cas ⟨.S, 24, 1, 0, .d, false, false, none⟩,
    .cas ⟨.S, 4, 1, 0, .b, false, false, none⟩, .red ⟨.S, 3, 1, .d, .swap, false, none⟩, .red ⟨.S, 3, 1, .b, .add, false, none⟩,
    .red ⟨.S, 3, 1, .d, .addf, false, none⟩, .vcmp ⟨.C, 0, 1, 2, 3, .f32, .lt⟩, .mand ⟨.C, 0, 1, 2⟩, .mor ⟨.C, 0, 1, 2⟩, .mxor ⟨.C, 0, 1, 2⟩,
    .mandn ⟨.C, 0, 1, 2⟩, .mnot ⟨.C, 0, 1⟩, .mfromg ⟨.C, 0, 1⟩, .vcvtF32Bf16 ⟨.C, 1, 2, 0, some .rtz⟩, .vcvtF32F16 ⟨.C, 1, 2, 0, some .rup⟩,
    .vl6pack ⟨.C, 1, 2, 0, some .rdn⟩, .vred ⟨.C, 1, 2, 0, .maxF32, some .rne⟩, .vst ⟨.S, 1, 2, 5, 0, none⟩, .vsts ⟨.S, 1, 2, 5, 0, 3, 0⟩,
    .vstx ⟨.S, 1, 2, 5, 0, 3, 0⟩, .tide ⟨.C, 1, 11⟩, .vcAdvance 256, .pageRefillDone 256 0, .leaseExpiry 0 8, .tailWrite 65 0 0, .tailWrite 0 0 0,
    .launchDispatch 1 16 [], .rrqctlRead 65, .turnStart 18, .linkFailure 128, .dieReset 8, .multicastForward 256 0 ⟨0, 0, 0, 0, 0, 0, 0, 0, 0, 0, [], false⟩],
    i.wellFormed = false := by decide

/-- Words that R205 to R219 make ILLEGAL: one for each reason of the decoder, and bytes that end within an instruction. -/
theorem test_decode_refuses :
    decodeWord 0b00_0_1111111_00000_00000_00000_0000000 0 = .error .unassignedOp ∧
    decodeWord 0b00_0_0000000_00001_00010_00011_1111111 0 = .error .badFunction ∧
    decodeWord 0b00_1_0000000_00001_00010_00011_0000000 0 = .error .xwForbidden ∧
    decodeWord 0b10_0_1100001_000001_000010_000011_0000 0 = .error .xwRequired ∧
    decodeWord 0b10_0_1000011_00001_00010_00011_000_1111 0 = .error .badFunction ∧
    decodeWord 0b01_0_0100000_11000_01000_000100_11_0000 0 = .error .badLand ∧
    decode [0, 0, 0] = .error .truncated ∧ decode [0, 0, 0x40, 0xB8] = .error .truncated := by
  refine ⟨rfl, rfl, rfl, rfl, rfl, rfl, rfl, rfl⟩

/-! ## Single steps -/

/-- The next state of an outcome. -/
def after (o : Host.Outcome State Fault Refusal) : State := match o with
  | .next s => s
  | .fault _ => State.reset
  | .refused _ => State.reset

/-- The instance on isle 0 after a word of context c. -/
def ran (ins : Instr) (c : Ctx) (i : Inst) : Inst := ((after (exec ins (on c i l0))).inst 0).getD i0

/-- The results that a word of context L over registers gs leaves to appear. -/
def results (ins : Instr) (gs : List (Nat × Word)) : List (WbDst × Nat) := (ran ins .L (iG .L gs)).wb.map (fun w => (w.dst, w.val.toNat))

/-- R229: sums wrap; the high halves of (-1) × (-1) and of the unsigned product. -/
theorem test_arithmetic :
    results (.add ⟨.A, 3, 1, 2⟩) [(1, 0xFFFFFFFFFFFFFFFF), (2, 1)] = [(.g .L 3, 0)] ∧
    results (.mulh ⟨.A, 3, 1, 1⟩) [(1, 0xFFFFFFFFFFFFFFFF)] = [(.g .L 3, 0)] ∧
    results (.mulhu ⟨.A, 3, 1, 1⟩) [(1, 0xFFFFFFFFFFFFFFFF)] = [(.g .L 3, 2 ^ 64 - 2)] ∧
    results (.slt ⟨.A, 3, 1, 2⟩) [(1, 0xFFFFFFFFFFFFFFFF), (2, 1)] = [(.g .L 3, 1)] ∧
    results (.clz ⟨.A, 3, 0⟩) [] = [(.g .L 3, 64)] ∧
    results (.bswap ⟨.A, 3, 1⟩) [(1, 0x0102030405060708)] = [(.g .L 3, 0x0807060504030201)] := by decide

/-- R230, R231: division by zero and of -2^63 by -1; -7 by 2 rounds toward zero; a shift count of 65 counts as 1. -/
theorem test_divisions_and_shifts :
    results (.div ⟨.A, 3, 1, 0⟩) [(1, 5)] = [(.g .L 3, 2 ^ 64 - 1)] ∧
    results (.div ⟨.A, 3, 1, 2⟩) [(1, 0x8000000000000000), (2, 0xFFFFFFFFFFFFFFFF)] = [(.g .L 3, 2 ^ 63)] ∧
    results (.div ⟨.A, 3, 1, 2⟩) [(1, 0xFFFFFFFFFFFFFFF9), (2, 2)] = [(.g .L 3, 2 ^ 64 - 3)] ∧
    results (.rem ⟨.A, 3, 1, 2⟩) [(1, 0xFFFFFFFFFFFFFFF9), (2, 2)] = [(.g .L 3, 2 ^ 64 - 1)] ∧
    results (.remu ⟨.A, 3, 1, 0⟩) [(1, 5)] = [(.g .L 3, 5)] ∧
    results (.sar ⟨.A, 3, 1, 2⟩) [(1, 0x8000000000000000), (2, 65)] = [(.g .L 3, 3 * 2 ^ 62)] ∧
    results (.rol ⟨.A, 3, 1, 2⟩) [(1, 0x8000000000000001), (2, 1)] = [(.g .L 3, 3)] := by decide

/-- R191, R237: 1 + 2^-24 ties to even, inexact; an overflow rounded toward zero gives the largest finite number; infinity minus infinity. -/
theorem test_float :
    results (.fadd ⟨.A, 3, 1, 2, .rne⟩) [(1, 0x3F800000), (2, 0x33800000)] = [(.g .L 3, 0x3F800000), (.sys .fexOr, 1)] ∧
    results (.fmul ⟨.A, 3, 1, 1, .rtz⟩) [(1, 0x7F7FFFFF)] = [(.g .L 3, 0x7F7FFFFF), (.sys .fexOr, 5)] ∧
    results (.fsub ⟨.A, 3, 1, 1, .rne⟩) [(1, 0x7F800000)] = [(.g .L 3, 0x7FC00000), (.sys .fexOr, 16)] ∧
    results (.fcmp ⟨.A, 3, 1, 2, .eq⟩) [(1, 0), (2, 0x80000000)] = [(.g .L 3, 1)] := by decide +kernel

/-- R240, R242, R243: a LOOP at 2 goes back and counts, one at 1 falls through; a call pushes the PC behind it; a return from an empty stack
is ILLEGAL with DETAIL 4. -/
theorem test_control :
    ((ran (.loop ⟨.A, 1, .short 0x3FFE⟩) .L (iG .L [(1, 2)])).ctx .L).pc = 0xFF8 ∧
    ((ran (.loop ⟨.A, 1, .short 0x3FFE⟩) .L (iG .L [(1, 1)])).ctx .L).pc = 0x1004 ∧
    results (.loop ⟨.A, 1, .short 0x3FFE⟩) [(1, 1)] = [(.g .L 1, 0)] ∧
    ((ran (.call ⟨.A, .short 4⟩) .L i0).ctx .L).pc = 0x1010 ∧ ((ran (.call ⟨.A, .short 4⟩) .L i0).ctx .L).stack = [0x1004] := by decide

/-- R374, R378, R379: the record of a TRAP of context S with code 7 at 0x1000: COUNT, KINDS, and the head and PC of FIRST. -/
theorem test_trap_record :
    let t := after (exec (.trap ⟨.A, 7⟩) (on .S i0 l0))
    homeNat t 0x8040 8 = 1 ∧ homeNat t 0x8048 4 = 2 ^ 12 ∧ homeNat t 0x8050 8 = 0x0C + 3 * 2 ^ 26 + 7 * 2 ^ 28 ∧ homeNat t 0x8058 8 = 0x1000 := by
  decide +kernel

/-- R264, R265, R268: lanes of I32 wrap, halves saturate; MPOP of M0 counts the lanes of a wide isle. -/
theorem test_vector :
    (ran (.vaddI32 ⟨.C, 3, 1, 2, 7⟩) .C { i0 with m := [(7, 1 <<< 63)], v := [(127, 0xFFFFFFFF), (191, 2)] }).wb.map (fun w => (w.dst, w.val.toNat)) =
      [(.v 3 63, 1)] ∧
    (ran (.vaddsI16 ⟨.C, 3, 1, 1, 7⟩) .C { i0 with m := [(7, 1)], v := [(64, 0x80007FFF)] }).wb.map (fun w => (w.dst, w.val.toNat)) =
      [(.v 3 0, 0x80007FFF)] ∧
    (ran (.mpop ⟨.C, 3, 0⟩) .C i0).wb.map (fun w => (w.dst, w.val.toNat)) = [(.g .C 3, 64)] := by decide +kernel

/-- R122, R246, R305: a store is an access of its bytes; QCNT of two entries with data; the arrival of the only instance completes the phase. -/
theorem test_memory_and_sync :
    (after (exec (.st ⟨.S, 2, 1, .w, some 8⟩) (on .S (iG .S [(1, 0x2000), (2, 0x1_2345_6789)]) l0))).acc.map
      (fun a => a.parts.map (fun p => (p.va.toNat, p.len, p.x))) = [[(0x2008, 4, 0x2345_6789)]] ∧
    (ran (.qcnt ⟨.A, 3, 0⟩) .L (iQ [⟨some 9, 0, .C, 0⟩, ⟨none, 3, .C, 0⟩])).wb.map (fun w => (w.dst, w.val.toNat)) = [(.g .L 3, 10)] ∧
    ((after (exec (.barArr ⟨.L, 31⟩) (on .L i0 l0))).launch 0).map (fun l => l.doneOf 31) = some 1 := by decide +kernel

/-- R335: MXM over bytes 1, 2, 3 and -1, 0, 5 adds -1 + 0 + 15; MXZ clears. -/
theorem test_matrix :
    (let c := cmdOf (.mxm ⟨.C, 1, 2, 7⟩) [desc2 2 0 0x100 3 1 3 0, desc2 2 0 0x200 3 1 3 0] 0 0 [] .running []
     let i : Inst := { i0 with cmds := [c], spad := [(0x100, 1), (0x101, 2), (0x102, 3), (0x200, 0xFF), (0x202, 5)] }
     (((after (exec (.engineCommandComplete 0 .mx 9 none []) (on .C i l0))).inst 0).map (fun j => (j.acc, j.cntMx))) =
       some ([(16384 * 7, 14)], 1)) := by decide +kernel

end Sys2Proof.Tests
end

/-!
PROOFS. The device's own writes at their home (R144, R379): the bytes that a list of cells leaves, for one write, for the runs of a longer
one, and for an entry of a fault record.
-/
namespace Sys2Proof.Assoc

theorem find_append {α : Type} (l m : List (Nat × α)) (y : Nat) :
    find (l ++ m) y = (find l y).or (find m y) := by
  induction l with
  | nil => rfl
  | cons c rest ih =>
    by_cases h : c.1 = y
    · simp [find, h]
    · simp [find, h, ih]

theorem find_eq_none {α : Type} (l : List (Nat × α)) (y : Nat) : find l y = none ↔ ∀ c ∈ l, c.1 ≠ y := by
  induction l with
  | nil => simp [find]
  | cons c rest ih => by_cases h : c.1 = y <;> simp [find, h, ih]

end Sys2Proof.Assoc

namespace Sys2Proof.Machine

open Sys2Proof.Safety

/-! ## Cells -/

/-- The cell that a list with distinct addresses has for y, and the cells around it. -/
theorem find_split {α : Type} (l : List (Nat × α)) (y : Nat) (b : α) (hn : (l.map Prod.fst).Nodup) (h : Assoc.find l y = some b) :
    ∃ pre post, l = pre ++ (y, b) :: post ∧ ∀ c ∈ post, c.1 ≠ y := by
  obtain ⟨pre, post, rfl⟩ := List.append_of_mem (find_mem l y b h)
  refine ⟨pre, post, rfl, fun c hc e => ?_⟩
  rw [List.map_append, List.map_cons] at hn
  exact (List.nodup_cons.mp (List.nodup_append.mp hn).2.1).1 (List.mem_map.mpr ⟨c, hc, e⟩)

/-- The byte k of the little-endian number x (R9). -/
def byteOf (x k : Nat) : Byte := BitVec.ofNat 8 (x / 2 ^ (8 * k))

theorem map_fst_cellsOf (a n x : Nat) : (cellsOf a n x).map Prod.fst = List.range' a n := by
  simp [cellsOf, upto, List.range'_eq_map_range, Function.comp_def]

theorem map_fst_cellsAt (a : Nat) (bs : List Byte) : (cellsAt a bs).map Prod.fst = List.range' a bs.length := by
  induction bs generalizing a with
  | nil => rfl
  | cons b bs ih => simp [cellsAt, ih, List.range'_succ]

theorem find_cellsOf_in (a n x y : Nat) (h : a ≤ y) (hy : y < a + n) : Assoc.find (cellsOf a n x) y = some (byteOf x (y - a)) := by
  obtain ⟨k, rfl⟩ := Nat.exists_eq_add_of_le h
  have hmem : ∀ c ∈ cellsOf a n x, c.1 = a + k → c.2 = byteOf x (a + k - a) := by
    intro c hc e
    simp only [cellsOf, List.mem_map] at hc
    obtain ⟨m, -, rfl⟩ := hc
    have : m = a + k - a := by simp only at e; omega
    rw [← this]; rfl
  cases hf : Assoc.find (cellsOf a n x) (a + k) with
  | none =>
    refine absurd rfl ((Assoc.find_eq_none _ _).mp hf (a + k, byteOf x k) ?_)
    simp only [cellsOf, List.mem_map, upto, List.mem_range]
    exact ⟨k, by omega, rfl⟩
  | some b => rw [← hmem _ (find_mem _ _ _ hf) rfl]

theorem find_cellsOf_out (a n x y : Nat) (h : y < a ∨ a + n ≤ y) : Assoc.find (cellsOf a n x) y = none := by
  rw [Assoc.find_eq_none]
  intro c hc e
  simp only [cellsOf, List.mem_map, upto, List.mem_range] at hc
  obtain ⟨k, hk, rfl⟩ := hc
  simp only at e; omega

/-! ## Numbers at their home -/

theorem leNat_byteOf (x n : Nat) : leNat ((List.range n).map (byteOf x)) = x % 2 ^ (8 * n) := by
  induction n generalizing x with
  | zero => simp [leNat, Nat.mod_one]
  | succ n ih =>
    have hs : ∀ k, byteOf x (k + 1) = byteOf (x / 256) k := by
      intro k
      unfold byteOf
      rw [Nat.div_div_eq_div_mul, show 8 * (k + 1) = 8 + 8 * k by ring, Nat.pow_add]
    rw [List.range_succ_eq_map, List.map_cons, List.map_map, show byteOf x ∘ Nat.succ = byteOf (x / 256) from funext hs,
      leNat, ih, show 8 * (n + 1) = 8 + 8 * n by ring, Nat.pow_add, Nat.mod_mul]
    simp [byteOf, BitVec.toNat_ofNat]

/-- A number reads as x where each of its bytes is one of x. -/
theorem homeNat_of_bytes (t : State) (a n x : Nat) (h : ∀ k, k < n → homeByte t (a + k) = byteOf x k) :
    homeNat t a n = x % 2 ^ (8 * n) := by
  rw [← leNat_byteOf]
  unfold homeNat homeBytes upto
  exact congrArg leNat (List.map_congr_left (fun k hk => h k (List.mem_range.mp hk)))

theorem homeNat_congr (s t : State) (a n : Nat) (h : ∀ k, k < n → homeByte t (a + k) = homeByte s (a + k)) :
    homeNat t a n = homeNat s a n := by
  unfold homeNat homeBytes upto
  exact congrArg leNat (List.map_congr_left (fun k hk => h k (List.mem_range.mp hk)))

theorem readsOut_home (x : Granule) (h : x.place = .home) : x.readsOut = false := by simp [Granule.readsOut, h]

theorem structByte_atHome (s : State) (a : Nat) (h : AtHome s a) : structByte s a = homeByte s a := by
  obtain ⟨-, hp, -⟩ := h
  unfold structByte
  rw [readsOut_home _ hp, Bool.and_false]; rfl

theorem structNat_atHome (s : State) (a n : Nat) (h : ∀ k, k < n → AtHome s (a + k)) : structNat s a n = homeNat s a n := by
  unfold structNat homeNat homeBytes upto
  exact congrArg leNat (List.map_congr_left (fun k hk => structByte_atHome s _ (h k (List.mem_range.mp hk))))

/-! ## What a write at home leaves -/

/-- From s to t each address reads at its home as the first of the cells that names it says, and as before where none does; dies and
granules stand as they stood. -/
structure Wrote (cells : List (Nat × Byte)) (s t : State) : Prop where
  memWf : MemWf t.mem
  dies : t.dieDown = s.dieDown
  granules : t.granules = s.granules
  bytes : ∀ y, homeByte t y = (Assoc.find cells y).getD (homeByte s y)

theorem Wrote.refl (s : State) (h : MemWf s.mem) : Wrote [] s s := ⟨h, rfl, rfl, fun _ => rfl⟩

/-- A later write comes first where both have a cell. -/
theorem Wrote.trans {l m : List (Nat × Byte)} {s t u : State} (h : Wrote l s t) (g : Wrote m t u) : Wrote (m ++ l) s u := by
  refine ⟨g.memWf, g.dies.trans h.dies, g.granules.trans h.granules, fun y => ?_⟩
  rw [g.bytes, h.bytes, Assoc.find_append]
  cases Assoc.find m y <;> rfl

theorem Wrote.atHome {l : List (Nat × Byte)} {s t : State} (h : Wrote l s t) (x : Nat) : AtHome t x ↔ AtHome s x := by
  simp [AtHome, dieIsDown, granuleOf, h.dies, h.granules]

/-- Bytes without a cell read as before. -/
theorem Wrote.homeByte_out {l : List (Nat × Byte)} {s t : State} (h : Wrote l s t) (y : Nat) (hy : Assoc.find l y = none) :
    homeByte t y = homeByte s y := by
  rw [h.bytes, hy]; rfl

theorem Wrote.homeNat_out {l : List (Nat × Byte)} {s t : State} (h : Wrote l s t) (a n : Nat)
    (hy : ∀ y, a ≤ y → y < a + n → Assoc.find l y = none) : homeNat t a n = homeNat s a n :=
  homeNat_congr s t a n (fun k hk => h.homeByte_out _ (hy _ (by omega) (by omega)))

/-- A number whose bytes are all cells of x reads as x. -/
theorem Wrote.homeNat_in {l : List (Nat × Byte)} {s t : State} (h : Wrote l s t) (a n x : Nat)
    (hy : ∀ y, a ≤ y → y < a + n → Assoc.find l y = some (byteOf x (y - a))) : homeNat t a n = x % 2 ^ (8 * n) := by
  refine homeNat_of_bytes t a n x (fun k hk => ?_)
  rw [h.bytes, hy _ (by omega) (by omega), Nat.add_sub_cancel_left]; rfl

/-! ## One write -/

theorem discardSpec_places (why : SpecEnd) (id : Nat) (s : State) :
    (discardSpec why id s).dieDown = s.dieDown ∧ (discardSpec why id s).granules = s.granules := by
  unfold discardSpec; split
  · exact ⟨rfl, rfl⟩
  · cases why <;> exact ⟨rfl, rfl⟩

theorem foldl_discardSpec_places (ids : List Nat) (s : State) :
    (ids.foldl (fun s id => discardSpec .doom id s) s).dieDown = s.dieDown ∧
    (ids.foldl (fun s id => discardSpec .doom id s) s).granules = s.granules := by
  induction ids generalizing s with
  | nil => exact ⟨rfl, rfl⟩
  | cons x xs ih =>
    obtain ⟨hd, hg⟩ := discardSpec_places .doom x s
    exact ⟨(ih _).1.trans hd, (ih _).2.trans hg⟩

theorem writeHome_places (cells : List (Nat × Byte)) (s : State) :
    (writeHome cells s).dieDown = s.dieDown ∧ (writeHome cells s).granules = s.granules := by
  unfold writeHome writeCells; split
  · exact ⟨rfl, rfl⟩
  · exact foldl_discardSpec_places _ _

/-- A write at home of cells with distinct addresses. -/
theorem wrote_writeHome (cells : List (Nat × Byte)) (s : State) (hm : MemWf s.mem) (hn : (cells.map Prod.fst).Nodup) :
    Wrote cells s (writeHome cells s) := by
  obtain ⟨hd, hg⟩ := writeHome_places cells s
  refine ⟨memWf_writeCells none 257 cells s hm, hd, hg, fun y => ?_⟩
  cases hf : Assoc.find cells y with
  | none => exact homeByte_writeCells_other none 257 cells s y ((Assoc.find_eq_none _ _).mp hf)
  | some b =>
    obtain ⟨pre, post, rfl, hpost⟩ := find_split cells y b hn hf
    exact (byte_writeCells_self none 257 pre post s y b hm hpost).1

/-- A request of the device at a byte that is at its home is performed there at once (R144, R388). -/
theorem ownRequest_atHome (a : Nat) (kind : ReqKind) (s : State) (h : AtHome s a) : ownRequest a kind s = ownPerform a kind s := by
  obtain ⟨hd, hp, -⟩ := h
  unfold ownRequest
  simp only [hd, hp, Bool.false_eq_true, if_false]

theorem wrote_ownRequest_or (a n x : Nat) (s : State) (hm : MemWf s.mem) (h : AtHome s a) (ret : Bool) :
    Wrote (cellsOf a n (homeNat s a n ||| x)) s (ownRequest a (.amo .or x n ret) s) := by
  rw [ownRequest_atHome a _ s h]
  exact wrote_writeHome _ s hm (map_fst_cellsOf a n _ ▸ List.nodup_range')

theorem wrote_ownRequest_add (a n x : Nat) (s : State) (hm : MemWf s.mem) (h : AtHome s a) (ret : Bool) :
    Wrote (cellsOf a n (homeNat s a n + x)) s (ownRequest a (.amo .add x n ret) s) := by
  rw [ownRequest_atHome a _ s h]
  exact wrote_writeHome _ s hm (map_fst_cellsOf a n _ ▸ List.nodup_range')

theorem wrote_ownRequest_store (a : Nat) (bs : List Byte) (s : State) (hm : MemWf s.mem) (h : AtHome s a) :
    Wrote (cellsAt a bs) s (ownRequest a (.store bs) s) := by
  rw [ownRequest_atHome a _ s h]
  exact wrote_writeHome _ s hm (map_fst_cellsAt a bs ▸ List.nodup_range')

/-! ## A write of several cells -/

/-- The cells of a list of runs. -/
def runCells (rs : List (Nat × List Byte)) : List (Nat × Byte) := rs.flatMap (fun r => cellsAt r.1 r.2)

theorem runCells_runsOf (cells : List (Nat × Byte)) : runCells (runsOf cells) = cells := by
  induction cells with
  | nil => rfl
  | cons c cs ih =>
    unfold runsOf
    split
    · rename_i h; rw [h] at ih; rw [← ih]; rfl
    · rename_i a bs rest h
      rw [h] at ih
      split
      · rename_i ha; obtain ⟨rfl, -⟩ := ha; rw [← ih]; rfl
      · rw [← ih]; rfl

theorem runsOf_ne_nil (cells : List (Nat × Byte)) : ∀ r ∈ runsOf cells, r.2 ≠ [] := by
  induction cells with
  | nil => simp [runsOf]
  | cons c cs ih =>
    unfold runsOf
    split
    · simp
    · rename_i a bs rest h
      rw [h] at ih
      split
      · intro r hr
        rcases List.mem_cons.mp hr with rfl | hr
        · simp
        · exact ih r (List.mem_cons_of_mem _ hr)
      · intro r hr
        rcases List.mem_cons.mp hr with rfl | hr
        · simp
        · exact ih r hr

/-- A run begins at the address of a cell. -/
theorem runsOf_first (cells : List (Nat × Byte)) (r : Nat × List Byte) (h : r ∈ runsOf cells) : ∃ c ∈ cells, c.1 = r.1 := by
  cases hb : r.2 with
  | nil => exact absurd hb (runsOf_ne_nil cells r h)
  | cons b bs =>
    refine ⟨(r.1, b), ?_, rfl⟩
    rw [← runCells_runsOf cells]
    exact List.mem_flatMap.mpr ⟨r, h, by rw [hb]; exact List.mem_cons_self⟩

/-- Runs that begin at home, no address twice, are all written. -/
theorem wrote_runs (rs : List (Nat × List Byte)) (s : State) (hm : MemWf s.mem) (hh : ∀ r ∈ rs, AtHome s r.1)
    (hn : ((runCells rs).map Prod.fst).Nodup) :
    Wrote (runCells rs) s (rs.foldl (fun s r => ownRequest r.1 (.store r.2) s) s) := by
  induction rs generalizing s with
  | nil => exact .refl s hm
  | cons r rs ih =>
    have hr := wrote_ownRequest_store r.1 r.2 s hm (hh r (by simp))
    have hc : runCells (r :: rs) = cellsAt r.1 r.2 ++ runCells rs := rfl
    rw [hc, List.map_append, List.nodup_append] at hn
    obtain ⟨-, hns, hdis⟩ := hn
    have hrs := ih _ hr.memWf (fun q hq => (hr.atHome _).mpr (hh q (by simp [hq]))) hns
    have h := hr.trans hrs
    refine ⟨h.memWf, h.dies, h.granules, fun y => (h.bytes y).trans ?_⟩
    rw [hc, Assoc.find_append, Assoc.find_append]
    cases hf : Assoc.find (cellsAt r.1 r.2) y with
    | none => simp
    | some b =>
      have hnone : Assoc.find (runCells rs) y = none := by
        rw [Assoc.find_eq_none]
        rintro c hc rfl
        exact hdis _ (List.mem_map_of_mem (find_mem _ _ _ hf)) _ (List.mem_map_of_mem hc) rfl
      simp [hnone]

/-- A write of the device to cells that are all at home. -/
theorem wrote_ownWrite (cells : List (Nat × Byte)) (s : State) (hm : MemWf s.mem) (hh : ∀ c ∈ cells, AtHome s c.1)
    (hn : (cells.map Prod.fst).Nodup) : Wrote cells s (ownWrite cells s) := by
  have h := wrote_runs (runsOf cells) s hm (fun r hr => ?_) (by rwa [runCells_runsOf])
  · rwa [runCells_runsOf] at h
  · obtain ⟨c, hc, e⟩ := runsOf_first cells r hr
    exact e ▸ hh c hc

end Sys2Proof.Machine

/-!
PROOFS. Fault records (R378 to R380): the cells that an entry writes, and what the record and the FLT registers read then.
-/
namespace Sys2Proof.Machine

open Sys2Proof.Safety

/-- R379: the cells that an entry e makes in the record at r, from its KINDS and COUNT and whether it is the first, the last write first. -/
def recordCells (r : Nat) (e : FaultEntry) (kinds count : Nat) (first : Bool) : List (Nat × Byte) :=
  e.cells (r + 0x28) ++ ((if first then e.cells (r + 0x10) else []) ++ (cellsOf r 8 (count + 1) ++
    cellsOf (r + 8) 4 (kinds ||| 2 ^ (e.cause % 32))))

theorem map_fst_entryCells (e : FaultEntry) (a : Nat) : (e.cells a).map Prod.fst = List.range' a 24 := by
  simp [FaultEntry.cells, map_fst_cellsOf]

/-- The 24 bytes of an entry lie at home. -/
theorem atHome_entryCells (s : State) (e : FaultEntry) (a : Nat) (h : ∀ n, n < 24 → AtHome s (a + n)) :
    ∀ c ∈ e.cells a, AtHome s c.1 := by
  intro c hc
  have hm : c.1 ∈ List.range' a 24 := map_fst_entryCells e a ▸ List.mem_map_of_mem hc
  obtain ⟨n, hn, hcn⟩ := List.mem_range'.mp hm
  rw [hcn, Nat.one_mul]; exact h n hn

theorem wrote_entry (s : State) (e : FaultEntry) (a : Nat) (hm : MemWf s.mem) (h : ∀ n, n < 24 → AtHome s (a + n)) :
    Wrote (e.cells a) s (ownWrite (e.cells a) s) :=
  wrote_ownWrite _ s hm (atHome_entryCells s e a h) (map_fst_entryCells e a ▸ List.nodup_range')

/-- The entry is the first of its record: COUNT is zero and no addition to it is on its way (R379). -/
def firstEntry (s : State) (r : Nat) : Bool := homeNat s r 8 = 0 && !pendingAdd s r

/-- The entry is written at a where it is the first one. -/
def writeFirst (e : FaultEntry) (a : Nat) (first : Bool) (s : State) : State := if first then ownWrite (e.cells a) s else s

/-- Making an entry in the record at r, in the order of R379, COUNT at home. -/
theorem recordEntry_eq (b r : Nat) (e : FaultEntry) (s : State) (hr : r = b + 0x40) (hh : ∀ n, n < 8 → AtHome s (r + n)) :
    recordEntry b e s = ownWrite (e.cells (r + 0x28)) (writeFirst e (r + 0x10) (firstEntry s r)
      (ownRequest r (.amo .add 1 8 false) (ownRequest (r + 8) (.amo .or (2 ^ (e.cause % 32)) 4 false) s))) := by
  subst hr
  have hfirst : (decide (structNat s (b + 0x40) 8 = 0) && !pendingAdd s (b + 0x40)) = firstEntry s (b + 0x40) := by
    rw [structNat_atHome s _ 8 hh]; rfl
  rw [← hfirst]; rfl

theorem Wrote.writeFirst {l : List (Nat × Byte)} {s t : State} (h : Wrote l s t) (e : FaultEntry) (a : Nat) (first : Bool)
    (hh : ∀ n, n < 24 → AtHome s (a + n)) :
    Wrote ((if first then e.cells a else []) ++ l) s (writeFirst e a first t) := by
  cases first with
  | false => exact h
  | true => exact h.trans (wrote_entry t e a h.memWf (fun n hn => (h.atHome _).mpr (hh n hn)))

/-- Making an entry in a record at home writes its cells and nothing else (R379). -/
theorem wrote_recordEntry (b r : Nat) (e : FaultEntry) (s : State) (hr : r = b + 0x40) (hm : MemWf s.mem)
    (hh : ∀ n, n < 64 → AtHome s (r + n)) :
    Wrote (recordCells r e (homeNat s (r + 8) 4) (homeNat s r 8) (firstEntry s r)) s (recordEntry b e s) := by
  rw [recordEntry_eq b r e s hr (fun n hn => hh n (by omega))]
  have hkinds := wrote_ownRequest_or (r + 8) 4 (2 ^ (e.cause % 32)) s hm (hh 8 (by omega)) false
  have hadd := wrote_ownRequest_add r 8 1 _ hkinds.memWf ((hkinds.atHome r).mpr (hh 0 (by omega))) false
  rw [hkinds.homeNat_out r 8 (fun y _ hy => find_cellsOf_out _ _ _ _ (by omega))] at hadd
  have hfirst := (hkinds.trans hadd).writeFirst e (r + 0x10) (firstEntry s r)
    (fun n hn => by rw [Nat.add_assoc]; exact hh _ (by omega))
  exact hfirst.trans (wrote_entry _ e (r + 0x28) hfirst.memWf
    (fun n hn => (hfirst.atHome _).mpr (by rw [Nat.add_assoc]; exact hh _ (by omega))))

/-! ## What the record reads -/

section Reads

variable (e : FaultEntry) (r kinds count : Nat) (first : Bool)

theorem find_entryCells_out (a y : Nat) (h : y < a ∨ a + 24 ≤ y) : Assoc.find (e.cells a) y = none := by
  simp only [FaultEntry.cells, Assoc.find_append]
  rw [find_cellsOf_out _ _ _ _ (by omega), find_cellsOf_out _ _ _ _ (by omega), find_cellsOf_out _ _ _ _ (by omega)]; rfl

theorem find_entryCells_head (a y : Nat) (h : a ≤ y) (hy : y < a + 8) : Assoc.find (e.cells a) y = some (byteOf e.head (y - a)) := by
  simp only [FaultEntry.cells, Assoc.find_append]
  rw [find_cellsOf_in _ _ _ _ h hy]; rfl

theorem find_entryCells_pc (a y : Nat) (h : a + 8 ≤ y) (hy : y < a + 8 + 8) :
    Assoc.find (e.cells a) y = some (byteOf e.pc.toNat (y - (a + 8))) := by
  simp only [FaultEntry.cells, Assoc.find_append]
  rw [find_cellsOf_out _ _ _ _ (by omega), find_cellsOf_in _ _ _ _ h hy]; rfl

theorem find_entryCells_addr (a y : Nat) (h : a + 16 ≤ y) (hy : y < a + 16 + 8) :
    Assoc.find (e.cells a) y = some (byteOf e.addr.toNat (y - (a + 16))) := by
  simp only [FaultEntry.cells, Assoc.find_append]
  rw [find_cellsOf_out _ _ _ _ (by omega), find_cellsOf_out _ _ _ _ (by omega), find_cellsOf_in _ _ _ _ h hy]; rfl

theorem find_firstCells_out (y : Nat) (h : y < r + 0x10 ∨ r + 0x28 ≤ y) :
    Assoc.find (if first then e.cells (r + 0x10) else []) y = none := by
  cases first with
  | false => rfl
  | true => exact find_entryCells_out e _ y (by omega)

/-- The cells of LAST. -/
theorem find_recordCells_last (y : Nat) (h : r + 0x28 ≤ y) :
    Assoc.find (recordCells r e kinds count first) y = Assoc.find (e.cells (r + 0x28)) y := by
  simp only [recordCells, Assoc.find_append]
  rw [find_firstCells_out e r first y (by omega), find_cellsOf_out _ _ _ _ (by omega), find_cellsOf_out _ _ _ _ (by omega)]
  cases Assoc.find (e.cells (r + 0x28)) y <;> rfl

/-- The cells of FIRST. -/
theorem find_recordCells_first (y : Nat) (h : r + 0x10 ≤ y) (hy : y < r + 0x28) :
    Assoc.find (recordCells r e kinds count first) y = Assoc.find (if first then e.cells (r + 0x10) else []) y := by
  simp only [recordCells, Assoc.find_append]
  rw [find_entryCells_out e _ y (by omega), find_cellsOf_out _ _ _ _ (by omega), find_cellsOf_out _ _ _ _ (by omega)]
  cases Assoc.find (if first then e.cells (r + 0x10) else []) y <;> rfl

theorem find_recordCells_count (y : Nat) (h : r ≤ y) (hy : y < r + 8) :
    Assoc.find (recordCells r e kinds count first) y = some (byteOf (count + 1) (y - r)) := by
  simp only [recordCells, Assoc.find_append]
  rw [find_entryCells_out e _ y (by omega), find_firstCells_out e r first y (by omega), find_cellsOf_in _ _ _ _ h hy]; rfl

theorem find_recordCells_kinds (y : Nat) (h : r + 8 ≤ y) (hy : y < r + 8 + 4) :
    Assoc.find (recordCells r e kinds count first) y = some (byteOf (kinds ||| 2 ^ (e.cause % 32)) (y - (r + 8))) := by
  simp only [recordCells, Assoc.find_append]
  rw [find_entryCells_out e _ y (by omega), find_firstCells_out e r first y (by omega), find_cellsOf_out _ _ _ _ (by omega),
    find_cellsOf_in _ _ _ _ h hy]; rfl

/-- No byte outside COUNT, KINDS, FIRST and LAST is written. -/
theorem find_recordCells_out (y : Nat) (h : y < r ∨ r + 0x40 ≤ y ∨ (r + 0xC ≤ y ∧ y < r + 0x10)) :
    Assoc.find (recordCells r e kinds count first) y = none := by
  simp only [recordCells, Assoc.find_append]
  rw [find_entryCells_out e _ y (by omega), find_firstCells_out e r first y (by omega), find_cellsOf_out _ _ _ _ (by omega),
    find_cellsOf_out _ _ _ _ (by omega)]; rfl

end Reads

theorem testBit_or_two_pow (x c n : Nat) : (x ||| 2 ^ c).testBit n = (decide (n = c) || x.testBit n) := by
  rw [Nat.testBit_or, Nat.testBit_two_pow, Bool.or_comm]; simp [eq_comm]

/-- R378: the first word of an entry whose fields fit. -/
theorem head_eq (e : FaultEntry) (hc : e.cause < 256) (hx : e.ctx < 4) (hd : e.detail < 4096) (hi : e.isle < 256) (hr : e.rank < 256) :
    e.head = e.cause + e.ctx * 2 ^ 26 + e.detail * 2 ^ 28 + e.isle * 2 ^ 40 + e.rank * 2 ^ 48 + (if e.late then 2 ^ 63 else 0) := by
  unfold FaultEntry.head
  rw [Nat.mod_eq_of_lt hc, Nat.mod_eq_of_lt hx, Nat.mod_eq_of_lt hd, Nat.mod_eq_of_lt hi, Nat.mod_eq_of_lt hr]
  cases e.late <;> rfl

theorem head_lt (e : FaultEntry) : e.head < 2 ^ 64 := by
  have hlate : b2n e.late ≤ 1 := by cases e.late <;> decide
  unfold FaultEntry.head
  omega

/-- The three words of an entry whose cells stand at a. -/
theorem Wrote.entry {l : List (Nat × Byte)} {s t : State} (h : Wrote l s t) (e : FaultEntry) (a : Nat)
    (hl : ∀ y, a ≤ y → y < a + 24 → Assoc.find l y = Assoc.find (e.cells a) y) :
    homeNat t a 8 = e.head ∧ homeNat t (a + 8) 8 = e.pc.toNat ∧ homeNat t (a + 16) 8 = e.addr.toNat := by
  refine ⟨?_, ?_, ?_⟩
  · rw [h.homeNat_in a 8 e.head fun y h1 h2 => (hl y h1 (by omega)).trans (find_entryCells_head e a y h1 h2)]
    exact Nat.mod_eq_of_lt (head_lt e)
  · rw [h.homeNat_in (a + 8) 8 e.pc.toNat fun y h1 h2 => (hl y (by omega) (by omega)).trans (find_entryCells_pc e a y h1 h2)]
    exact Nat.mod_eq_of_lt e.pc.isLt
  · rw [h.homeNat_in (a + 16) 8 e.addr.toNat fun y h1 h2 => (hl y (by omega) (by omega)).trans (find_entryCells_addr e a y h1 h2)]
    exact Nat.mod_eq_of_lt e.addr.isLt

/-- R380: FLT_CAUSE after an entry is noted. -/
theorem fltCause_noteFault (e : FaultEntry) (i : Inst) :
    (noteFault e i).fltCause.toNat = (i.fltCause.toNat / 2 ^ 40 % 2 ^ 8 + 1) % 256 * 2 ^ 40 + e.detail % 4096 * 2 ^ 28 +
      e.ctx % 4 * 2 ^ 26 + e.cause % 256 := by
  unfold noteFault field
  rw [BitVec.toNat_ofNat, Nat.mod_eq_of_lt (by omega)]

end Sys2Proof.Machine

namespace Sys2Proof.Proofs

open Sys2Proof.Machine Sys2Proof.Safety

/-- Settles O46: the cells that the entry writes, word by word. -/
theorem faultRecords : Obligations.FaultRecords := by
  unfold Obligations.FaultRecords
  refine ⟨?_, ?_⟩
  · intro s b e hm _ hcause hctx hdetail hisle hrank t r hh head
    have hw : Wrote (recordCells r e (homeNat s (r + 8) 4) (homeNat s r 8) (firstEntry s r)) s t := wrote_recordEntry b r e s rfl hm hh
    have hhead : e.head = head := head_eq e (by omega) hctx hdetail hisle hrank
    refine ⟨?count, ?kinds, ?last, ?first, ?firstStays, ?rest⟩
    case count =>
      exact hw.homeNat_in r 8 _ (fun y h h' => find_recordCells_count e r _ _ _ y h h')
    case kinds =>
      intro n hn
      rw [hw.homeNat_in (r + 8) 4 _ (fun y h h' => find_recordCells_kinds e r _ _ _ y h h'), Nat.testBit_mod_two_pow,
        Nat.mod_eq_of_lt hcause, testBit_or_two_pow, decide_eq_true hn, Bool.true_and]
    case last =>
      exact hhead ▸ hw.entry e (r + 0x28) (fun y h _ => find_recordCells_last e r _ _ _ y h)
    case first =>
      intro hzero hnone
      have hfirst : firstEntry s r = true := by simp [firstEntry, hzero, hnone]
      rw [hfirst] at hw
      exact hhead ▸ hw.entry e (r + 0x10) (fun y h h' => find_recordCells_first e r _ _ _ y h h')
    case firstStays =>
      intro hcount a h h'
      have hfirst : firstEntry s r = false := by simp [firstEntry, hcount]
      rw [hfirst] at hw
      exact hw.homeByte_out a (find_recordCells_first e r _ _ _ a h h')
    case rest =>
      exact fun a ha => hw.homeByte_out a (find_recordCells_out e r _ _ _ a ha)
  · intro e i hcause hctx hdetail j f
    have hf : f = _ := fltCause_noteFault e i
    rw [Nat.mod_eq_of_lt hcause, Nat.mod_eq_of_lt hctx, Nat.mod_eq_of_lt hdetail] at hf
    exact ⟨by omega, by omega, by omega, by omega, by omega, by omega, rfl, rfl, rfl⟩

end Sys2Proof.Proofs

/-!
PROOFS. Writes of registers (R12): the fields that a write takes, the tables of functions, windows, ports, foreign peers and trees
after it, and the break of a promoted circuit whose target has changed.
-/
namespace Sys2Proof.Sparse

/-- What a table reads after a write. -/
theorem get_set {α : Type} [DecidableEq α] (d : α) (m : List (Nat × α)) (k j : Nat) (v : α) (h : wf d m = true) :
    get d (set d m k v) j = if j = k then v else get d m j := by
  split
  · rename_i e; rw [e]; exact get_set_self d m k v h
  · rename_i e; exact get_set_other d m k j v e

end Sys2Proof.Sparse

namespace Sys2Proof.Machine

open Sys2Proof.Safety

/-! ## Fields of a written word -/

theorem bitAt_toNat (value : Word) (k : Nat) : bitAt value.toNat k = value.getLsbD k := by
  rw [BitVec.getLsbD, Nat.testBit_eq_decide_div_mod_eq]; rfl

theorem field_toNat (value : Word) (lo n : Nat) : field value.toNat lo n = (value.extractLsb' lo n).toNat := by
  rw [BitVec.extractLsb'_toNat, Nat.shiftRight_eq_div_pow]; rfl

theorem qbase_mask (k : Nat) (hk : k < 64) :
    (0xFFFFFFFFFFC0 : Word).getLsbD k = (decide (6 ≤ k) && decide (k < 48)) := by
  revert k; decide

/-- R67: BASE of QBASE, bits 47 to 6 of the word in place. -/
theorem qbase_field (value : Word) : BitVec.ofNat 64 (field value.toNat 6 42 * 64) = value &&& 0xFFFFFFFFFFC0 := by
  rw [field_toNat]
  refine BitVec.eq_of_getLsbD_eq fun k hk => ?_
  rw [BitVec.getLsbD_and, qbase_mask k hk, BitVec.getLsbD_ofNat, Nat.testBit_mul_two_pow _ _ 6,
    BitVec.testBit_toNat, BitVec.getLsbD_extractLsb']
  by_cases h6 : 6 ≤ k
  · rw [Nat.add_sub_cancel' h6]
    simp only [hk, h6, decide_true, Bool.true_and, show k - 6 < 42 ↔ k < 48 by omega, Bool.and_comm]
  · simp [h6]

/-! ## Functions and queues -/

/-- A write of a function's registers, or of one of its queues, changes the tables of functions alone. -/
theorem setVf_rest (s : State) (v : Nat) (x : Vf) : s.setVf v x = { s with vfs := (s.setVf v x).vfs } := rfl

theorem setQueue_rest (s : State) (v q : Nat) (x : HwQueue) : s.setQueue v q x = { s with vfs := (s.setQueue v q x).vfs } := rfl

theorem servesQueue_of (s : State) (v q : Nat) (hb : s.boot = .running) (h1 : 1 ≤ v) (h64 : v ≤ 64) (hq : q < 16) :
    servesQueue s v q = true := by
  simp [servesQueue, hb, h1, h64, hq]

theorem servesVf_of (s : State) (v : Nat) (hb : s.boot = .running) (h64 : v ≤ 64) : servesVf s v = true := by
  simp [servesVf, hb, h64]

theorem anyEnabled_iff (s : State) (v : Nat) : anyEnabled s v = true ↔ ∃ q ∈ (s.vf v).queues, q.2.en = true := by
  simp [anyEnabled]

theorem anyEnabled_false_iff (s : State) (v : Nat) : anyEnabled s v = false ↔ ∀ q ∈ (s.vf v).queues, q.2.en = false := by
  simp [anyEnabled]

/-! ## Registers of a function (R399) -/

/-- The event sets the registers of function v to x, and nothing else. -/
def SetsVf (e : Instr) (s : State) (v : Nat) (x : Vf) : Prop :=
  After e s (fun t => t = { s with vfs := t.vfs } ∧ t.vf v = x ∧ ∀ w, w ≠ v → t.vf w = s.vf w)

theorem setsVf_of_exec {e : Instr} {s : State} {v : Nat} {x : Vf} (hw : Sparse.wf .reset s.vfs = true)
    (he : exec e s = .next (s.setVf v x)) : SetsVf e s v x :=
  ⟨_, he, setVf_rest s v x, vf_setVf_self s v x hw, fun w h => vf_setVf_other s v w x h⟩

/-- Registers that a function holds while one of its queues is enabled ignore a write then and take it else (R399). -/
theorem putVf_held (s : State) (v : Nat) (f : Vf → Vf) (h : anyEnabled s v = true) : putVf v f s = s := by
  simp [putVf, h]

theorem putVf_free (s : State) (v : Nat) (f : Vf → Vf) (hs : servesVf s v = true) (h : anyEnabled s v = false) :
    putVf v f s = s.setVf v (f (s.vf v)) := by
  simp [putVf, hs, h]

theorem putRrqctl_eq (s : State) (v : Nat) (value : Word) (hs : servesVf s v = true) :
    putRrqctl v value s = s.setVf v { s.vf v with
      rrqHead := (value.extractLsb' 16 16).toNat
      rrqLogsz := if anyEnabled s v then (s.vf v).rrqLogsz else (value.extractLsb' 0 5).toNat } := by
  simp [putRrqctl, hs, field_toNat]

theorem out_foldl_send (ms : List Nat) (m : Nat → Out) (t : State) :
    (ms.foldl (fun s v => s.send (m v)) t).out = t.out ++ ms.map m := by
  induction ms generalizing t with
  | nil => simp
  | cons x xs ih => exact (ih _).trans (by simp [State.send])

/-- Who asked for an abort is told by vector 2 (R396). -/
theorem msix_abortDomain (dom detail : Nat) (asked : List Nat) (s : State) (v : Nat) (h : v ∈ asked) :
    .msix v 2 ∈ (abortDomain dom detail asked s).out := by
  unfold abortDomain
  rw [out_foldl_send _ (fun v => .msix v 2)]
  simp [h]

/-! ## Firmware registers -/

/-- A base of the ingress window table that its size allows stands in the 24 bits of LBASE (R140). -/
theorem lbase_field (lbase logsz : Nat) (h : 21 ≤ logsz) (hl : lbase < 2 ^ 45) (hd : lbase % 2 ^ logsz = 0) :
    field lbase 21 24 * 2 ^ 21 = lbase := by
  have hdvd : 2 ^ 21 ∣ lbase := (pow_dvd_pow 2 h).trans (Nat.dvd_of_mod_eq_zero hd)
  unfold field
  omega

theorem ingressEntry_good (src tenant lbase logsz : Nat) (r w a : Bool) (gen : Nat) (o : Bool) (h21 : 21 ≤ logsz) (h39 : logsz ≤ 39)
    (hl : lbase < 2 ^ 45) (hd : lbase % 2 ^ logsz = 0) :
    ingressEntry src tenant lbase logsz r w a gen o = ⟨src % 4096, tenant % 65536, lbase, logsz, r, w, a, gen % 65536, o⟩ := by
  simp only [ingressEntry, lbase_field lbase logsz h21 hl hd]
  simp [h21, h39, hd]

theorem ingressEntry_closed (src tenant lbase logsz : Nat) (r w a : Bool) (gen : Nat) (o : Bool) (h : logsz < 21 ∨ 39 < logsz) :
    (ingressEntry src tenant lbase logsz r w a gen o).opened = false := by
  have : (decide (21 ≤ logsz) && decide (logsz ≤ 39)) = false := by
    rcases h with h | h <;> simp [h]
  simp [ingressEntry, this]

/-- The port table after a write of port p. -/
theorem port_putPort (s : State) (p m : Nat) (f : Port → Port) (h : Sparse.wf .reset s.ports = true) :
    (putPort p f s).port m = if m = p then f (s.port p) else s.port m := Sparse.get_set _ _ _ _ _ h

theorem portsWf_putPort (s : State) (p : Nat) (f : Port → Port) (h : Sparse.wf .reset s.ports = true) :
    Sparse.wf .reset (putPort p f s).ports = true := Sparse.wf_set _ _ _ _ h

/-- The ports ps take role r. -/
def setRoles (ps : List Nat) (r : PortRole) (s : State) : State :=
  ps.foldl (fun s p => putPort p (fun x => { x with role := r }) s) s

theorem mem_groupPorts (p m : Nat) : m ∈ groupPorts p ↔ m / 4 = p / 4 := by
  simp only [groupPorts, upto, List.mem_map, List.mem_range]
  constructor
  · rintro ⟨n, hn, rfl⟩; omega
  · exact fun h => ⟨m % 4, by omega, by omega⟩

theorem setRoles_rest (ps : List Nat) (r : PortRole) (s : State) : setRoles ps r s = { s with ports := (setRoles ps r s).ports } := by
  induction ps generalizing s with
  | nil => rfl
  | cons p ps ih => exact ih _

theorem portsWf_setRoles (ps : List Nat) (r : PortRole) (s : State) (h : Sparse.wf .reset s.ports = true) :
    Sparse.wf .reset (setRoles ps r s).ports = true := by
  induction ps generalizing s with
  | nil => exact h
  | cons p ps ih => exact ih _ (portsWf_putPort s p _ h)

theorem port_setRoles (ps : List Nat) (r : PortRole) (s : State) (m : Nat) (h : Sparse.wf .reset s.ports = true) :
    (setRoles ps r s).port m = if m ∈ ps then { s.port m with role := r } else s.port m := by
  induction ps generalizing s with
  | nil => rfl
  | cons p ps ih =>
    refine (ih _ (portsWf_putPort s p _ h)).trans ?_
    rw [port_putPort s p m _ h]
    by_cases hmp : m = p
    · subst hmp; by_cases hm : m ∈ ps <;> simp [hm]
    · simp [hmp]

/-- What a write of the port map does: the group of a station, and of a port that ends one, takes its role whole (R170, R175). -/
theorem putRole_eq (p : Nat) (role : PortRole) (s : State) :
    putRole p role s = if role = .ualink then setRoles (groupPorts p) .ualink s
      else putPort p (fun x => { x with role := role })
        (if (s.port p).role = .ualink then setRoles (groupPorts p) .unused s else s) := rfl

theorem putRole_rest (p : Nat) (role : PortRole) (s : State) : putRole p role s = { s with ports := (putRole p role s).ports } := by
  rw [putRole_eq]
  split
  · exact setRoles_rest _ _ s
  · split
    · rw [setRoles_rest]; rfl
    · rfl

/-- The role that port m has after a write of role to port p, m a port of the same group. -/
def roleAfter (s : State) (p m : Nat) (role : PortRole) : PortRole :=
  if m = p ∨ role = .ualink then role else if (s.port p).role = .ualink then .unused else (s.port m).role

theorem port_putRole (p m : Nat) (role : PortRole) (s : State) (h : Sparse.wf .reset s.ports = true) :
    (putRole p role s).port m = if m / 4 = p / 4 then { s.port m with role := roleAfter s p m role } else s.port m := by
  rw [putRole_eq]
  by_cases hr : role = .ualink
  · rw [if_pos hr, port_setRoles _ _ _ _ h]
    simp only [mem_groupPorts, roleAfter, hr, or_true, if_true]
  · rw [if_neg hr]
    by_cases hs : (s.port p).role = .ualink
    · rw [if_pos hs, port_putPort _ _ _ _ (portsWf_setRoles _ _ _ h), port_setRoles _ _ _ _ h, port_setRoles _ _ _ _ h]
      by_cases hmp : m = p
      · subst hmp; simp [mem_groupPorts, roleAfter]
      · simp [mem_groupPorts, roleAfter, hmp, hr, hs]
    · rw [if_neg hs, port_putPort _ _ _ _ h]
      by_cases hmp : m = p
      · subst hmp; simp [roleAfter]
      · simp [roleAfter, hmp, hr, hs]

/-- The role of a code whose target fits (R170). -/
theorem roleOf_eq (role : BitVec 2) (c : Nat) (hc : c < 64) :
    roleOf role c = if role = 1 then .row c else if role = 2 then .col c else if role = 3 then .ualink else .unused := by
  have hcases : role = 0 ∨ role = 1 ∨ role = 2 ∨ role = 3 := by revert role; decide
  rcases hcases with rfl | rfl | rfl | rfl <;> simp [roleOf, Nat.mod_eq_of_lt hc]

theorem roleOf_ualink (role : BitVec 2) (c : Nat) : roleOf role c = .ualink ↔ role = 3 := by
  have hcases : role = 0 ∨ role = 1 ∨ role = 2 ∨ role = 3 := by revert role; decide
  rcases hcases with rfl | rfl | rfl | rfl <;> simp [roleOf]

/-- The role of another port of the group after a write of the port map. -/
theorem roleAfter_other (s : State) (p m : Nat) (role : BitVec 2) (c : Nat) (h : m ≠ p) :
    roleAfter s p m (roleOf role c) =
      if role = 3 then .ualink else if (s.port p).role = .ualink then .unused else (s.port m).role := by
  simp only [roleAfter, h, false_or, roleOf_ualink]
  split
  · rename_i h3; rw [(roleOf_ualink role c).mpr h3]
  · rfl

/-- A foreign peer that is written reads as written (R177). -/
theorem foreignOf_putForeign (s : State) (f : Foreign) (pt q : Nat) (hp : f.part = pt) (hq : f.peer = q) :
    foreignOf (putForeign f s) pt q = f := by
  subst hp hq
  have hnone : (s.foreign.filter (fun x => !(x.part = f.part && x.peer = f.peer))).find?
      (fun x => x.part = f.part && x.peer = f.peer) = none := by
    rw [List.find?_eq_none]; intro x hx; simpa only [Bool.not_eq_true', Bool.not_eq_true] using (List.mem_filter.mp hx).2
  simp only [foreignOf, putForeign, List.find?_append, hnone]
  simp

/-- The entry of a foreign peer names it. -/
theorem foreignOf_key (s : State) (pt q : Nat) : (foreignOf s pt q).part = pt ∧ (foreignOf s pt q).peer = q := by
  unfold foreignOf
  cases hf : s.foreign.find? (fun f => f.part = pt && f.peer = q) with
  | none => exact ⟨rfl, rfl⟩
  | some f => simpa using List.find?_some hf

/-- A set bit taken from a number. -/
theorem testBit_sub_two_pow (x p j : Nat) (h : x / 2 ^ p % 2 = 1) :
    (x - 2 ^ p).testBit j = if j = p then false else x.testBit j := by
  obtain ⟨a, ha⟩ : ∃ a, x / 2 ^ p = 2 * a + 1 := ⟨x / 2 ^ p / 2, by omega⟩
  have hb : x % 2 ^ p < 2 ^ p := Nat.mod_lt _ (Nat.two_pow_pos p)
  have hx : x = 2 ^ p * (2 * a + 1) + x % 2 ^ p := by rw [← ha, Nat.div_add_mod]
  have hsub : x - 2 ^ p = 2 ^ p * (2 * a) + x % 2 ^ p := by rw [Nat.mul_add, Nat.mul_one] at hx; omega
  rw [hsub, Nat.testBit_two_pow_mul_add _ hb]
  conv_rhs => rw [hx, Nat.testBit_two_pow_mul_add _ hb]
  rcases Nat.lt_trichotomy j p with hj | rfl | hj
  · simp [hj, Nat.ne_of_lt hj]
  · simp
  · obtain ⟨k, rfl⟩ : ∃ k, j = p + (k + 1) := ⟨j - p - 1, by omega⟩
    simp only [Nat.add_sub_cancel_left, Nat.testBit_add_one]
    rw [show (2 * a + 1) / 2 = a by omega, show 2 * a / 2 = a by omega]
    simp

/-- The presence bits after bit p is written (R112). -/
theorem testBit_presence (x p m : Nat) (on : Bool) :
    (if on then x ||| 2 ^ p else x - (if bitAt x p then 2 ^ p else 0)).testBit m = if m = p then on else x.testBit m := by
  cases on with
  | true =>
    rw [if_pos rfl, testBit_or_two_pow]
    by_cases h : m = p <;> simp [h]
  | false =>
    rw [if_neg (by simp)]
    by_cases h : bitAt x p = true
    · rw [if_pos h, testBit_sub_two_pow x p m (by simpa [bitAt] using h)]
    · rw [if_neg h, Nat.sub_zero]
      split
      · rename_i e; subst e
        rw [Nat.testBit_eq_decide_div_mod_eq]; simpa [bitAt] using h
      · rfl

/-! ## A changed target (R141, R167) -/

theorem meterTo_slots (f : Flow) (st : MeterSt) (s : State) : (meterTo f st s).slots = s.slots := by
  unfold meterTo State.updMeter
  cases s.meter f <;> rfl

/-- What a break of a promoted circuit leaves of the isles and the meters. -/
theorem breakPromoted_circ (f : Flow) (cause : BitVec 4) (s : State) (m : Meter) (hm : s.meter f = some m) (hc : m.st = .circ) :
    (breakPromoted f cause s).slots = s.slots ∧ (breakPromoted f cause s).meters = (meterTo f .breaking s).meters := by
  have hactive : (m.st = .circ || m.st = .demoting) = true := by rw [hc]; rfl
  rw [← meterTo_slots f .breaking s]
  unfold breakPromoted
  rw [hm]
  dsimp only
  rw [if_pos hactive]
  generalize meterTo f .breaking s = t
  cases State.isSelf (dropXpts (.promoted f) (t.count (blkPort m.port) (idxBROKEN cause))) f.peer with
  | false => rw [if_neg (by simp)]; exact ⟨rfl, rfl⟩
  | true => rw [if_pos rfl]; simp only [dropCircuitData, dropXpts, State.count, and_self]

/-- The only promoted circuit of the device breaks where the ingress generation of its peer changes. -/
theorem targetChange_circ (s : State) (m : Meter) (hs : s.slots = []) (hm : s.meters = [m]) (hc : m.st = .circ) :
    ∃ t, targetChange m.flow.peer s = sweep t ∧ t.meters = [{ m with st := .breaking, since := s.time }] := by
  have hmeter : s.meter m.flow = some m := by simp [State.meter, hm, Meter.active, hc]
  obtain ⟨hbs, hbm⟩ := breakPromoted_circ m.flow caTARGET s m hmeter hc
  refine ⟨breakPromoted m.flow caTARGET s, ?_, ?_⟩
  · unfold targetChange
    simp [hm, hbs, hs]
  · rw [hbm, meterTo, State.updMeter, hmeter]
    simp [hm]

/-! ## The events -/

/-- Registers of a queue (R67, R68). -/
theorem exec_qbase (s : State) (v q : Nat) (value : Word) (hs : servesQueue s v q = true) :
    exec (.registerWrite (.qbase v q value)) s =
      .next (if (s.queue v q).en then s else s.setQueue v q { s.queue v q with base := value &&& 0xFFFFFFFFFFC0 }) := by
  rw [← qbase_field value]
  simp only [exec_registerWrite, execRegisterWrite, putQbase, hs, Bool.not_true, Bool.false_or]

/-- A write of QCFG enables, disables, or sets the fields of a queue that stays disabled. -/
theorem exec_qcfg (s : State) (v q : Nat) (value : Word) (hs : servesQueue s v q = true) :
    exec (.registerWrite (.qcfg v q value)) s =
      if value.getLsbD 5 then exec (.queueEnable v q value) s
      else if (s.queue v q).en then exec (.queueDisable v q value) s
      else .next (s.setQueue v q { s.queue v q with
        rcb := (value.extractLsb' 7 38).toNat * 128, logsz := (value.extractLsb' 0 5).toNat }) := by
  rw [← bitAt_toNat, ← field_toNat, ← field_toNat, exec_registerWrite, exec_queueEnable, exec_queueDisable]
  unfold execRegisterWrite
  dsimp only
  split
  · rfl
  · split
    · rfl
    · rename_i hen; simp [putQcfg, hs, hen]

/-- The event sets queue (v, q) to x, and nothing else. -/
theorem setsQueue_of_exec {e : Instr} {s : State} {v q : Nat} {x : HwQueue} (hw : QueuesWf s) (he : exec e s = .next (s.setQueue v q x)) :
    After e s (fun t => t = { s with vfs := t.vfs } ∧ QueueIs s t v q x) :=
  ⟨_, he, setQueue_rest s v q x, queueIs_setQueue s v q x hw⟩

theorem exec_putVf (s : State) (v : Nat) (f : Vf → Vf) (e : Instr) (he : exec e s = .next (putVf v f s)) (hs : servesVf s v = true)
    (hw : Sparse.wf .reset s.vfs = true) :
    (anyEnabled s v = true → exec e s = .next s) ∧ (anyEnabled s v = false → SetsVf e s v (f (s.vf v))) :=
  ⟨fun h => by rw [he, putVf_held s v f h], fun h => setsVf_of_exec hw (by rw [he, putVf_free s v f hs h])⟩

theorem exec_rrqctlWrite_sets (s : State) (v : Nat) (value : Word) (hs : servesVf s v = true) (hw : Sparse.wf .reset s.vfs = true) :
    SetsVf (.rrqctlWrite v value) s v { s.vf v with
      rrqHead := (value.extractLsb' 16 16).toNat
      rrqLogsz := if anyEnabled s v then (s.vf v).rrqLogsz else (value.extractLsb' 0 5).toNat } :=
  setsVf_of_exec hw (by rw [exec_rrqctlWrite, execRrqctlWrite, putRrqctl_eq s v value hs])

/-- A read of RRQCTL answers with its word and clears DROPS (R399). -/
theorem exec_rrqctlRead_clears (s : State) (v : Nat) (hs : servesVf s v = true) (hw : Sparse.wf .reset s.vfs = true) :
    After (.rrqctlRead v) s (fun t =>
      t = { s with vfs := t.vfs, out := s.out ++ [.hostResponse (.ok (rrqctlWord (s.vf v))) (rrqctlWord (s.vf v))] } ∧
      t.vf v = { s.vf v with rrqDrops := 0 } ∧ ∀ u, u ≠ v → t.vf u = s.vf u) :=
  ⟨_, (exec_rrqctlRead v s).trans (if_pos hs), rfl, vf_setVf_self s v _ hw, fun u h => vf_setVf_other s v u _ h⟩

/-- ABORTREQ of a block without a valid chain is ignored; of one with a chain it aborts its fault domain (R383, R399). -/
theorem abortRequest_none (s : State) (v : Nat) (value : Word) (h : chainOf s v ((value.extractLsb' 7 38).toNat * 128) = none) :
    abortRequest v value s = s := by
  unfold abortRequest
  rw [field_toNat, h]
  cases servesVf s v <;> rfl

theorem abortRequest_some (s : State) (v : Nat) (value : Word) (chain : List Nat) (e : Eff) (hs : servesVf s v = true)
    (h : chainOf s v ((value.extractLsb' 7 38).toNat * 128) = some (chain, e)) :
    abortRequest v value s = abortDomain (domainOf s chain) 3 [v] s := by
  unfold abortRequest
  rw [field_toNat, h, hs]; rfl

/-- Firmware's registers are written while firmware runs. -/
theorem exec_firmware {w : RegWrite} {s : State} (hb : s.boot = .running)
    (he : exec (.registerWrite w) s = if s.boot = .running then .next (putFirmware w s) else .next s) :
    exec (.registerWrite w) s = .next (putFirmware w s) := he.trans (if_pos hb)

/-- A write of the ingress window table sets one entry (R140). -/
theorem after_ingress (s : State) (n src tenant lbase logsz : Nat) (r w a : Bool) (gen : Nat) (o : Bool) (hb : s.boot = .running)
    (hn : n < 4096) (hw : Sparse.wf .unused s.ingress = true) :
    After (.registerWrite (.ingress n src tenant lbase logsz r w a gen o)) s (fun t => t = { s with ingress := t.ingress } ∧
      ∀ m, Sparse.get .unused t.ingress m =
        if m = n then ingressEntry src tenant lbase logsz r w a gen o else Sparse.get .unused s.ingress m) :=
  ⟨_, (exec_firmware hb rfl).trans (congrArg _ (if_pos hn)), rfl, fun m => Sparse.get_set .unused s.ingress n m _ hw⟩

/-- A write of the port map while no launch is live (R170, R175). -/
theorem after_portRole (s : State) (p : Nat) (role : BitVec 2) (c : Nat) (hb : s.boot = .running) (hp : p < 128) (hl : s.launches = [])
    (hw : Sparse.wf .reset s.ports = true) :
    After (.registerWrite (.portRole p role c)) s (fun t => t = { s with ports := t.ports } ∧
      ∀ m, t.port m = if m / 4 = p / 4 then { s.port m with role := roleAfter s p m (roleOf role c) } else s.port m) :=
  ⟨_, (exec_firmware hb rfl).trans (congrArg _ (if_pos ⟨hp, hl⟩)), putRole_rest p _ s, fun m => port_putRole p m _ s hw⟩

/-- A write of a foreign peer's entry for a partition changes that entry (R177). -/
theorem after_putForeign (s : State) (e : Instr) (pt q : Nat) (f : Foreign) (he : exec e s = .next (putForeign f s))
    (hf : f.part = (foreignOf s pt q).part ∧ f.peer = (foreignOf s pt q).peer) :
    After e s (fun t => t = { s with foreign := t.foreign } ∧ foreignOf t pt q = f) := by
  obtain ⟨hp, hq⟩ := foreignOf_key s pt q
  exact ⟨_, he, rfl, foreignOf_putForeign s f pt q (hf.1.trans hp) (hf.2.trans hq)⟩

end Sys2Proof.Machine

namespace Sys2Proof.Proofs

open Sys2Proof.Machine Sys2Proof.Safety

/-- Settles O59: the registers of queues, of functions and of firmware in turn. -/
theorem registerWrites : Obligations.RegisterWrites := by
  unfold Obligations.RegisterWrites
  refine ⟨?queues, ?functions, ?firmware⟩
  case queues =>
    intro s v q value hw hb h1 h64 hq
    have hs := servesQueue_of s v q hb h1 h64 hq
    have hbase := exec_qbase s v q value hs
    have hcfg := exec_qcfg s v q value hs
    refine ⟨fun hen => ?_, fun hen => ?_, fun h5 => ?_, fun h5 hen => ?_, fun h5 hen => ?_, rfl⟩
    · rw [hbase, if_pos hen]
    · exact setsQueue_of_exec hw (by rw [hbase, hen]; rfl)
    · rw [hcfg, if_pos h5]
    · rw [hcfg, h5, hen]; rfl
    · exact setsQueue_of_exec hw (by rw [hcfg, h5, hen]; rfl)
  case functions =>
    intro s v value hw hb h64 becomes x w
    have hs := servesVf_of s v hb h64
    have hroot := exec_putVf s v (putRoot value) (.registerWrite (.rootrcb v value)) rfl hs hw
    have hpool := exec_putVf s v (putPoolBase value) (.registerWrite (.poolbase v value)) rfl hs hw
    have hsize := exec_putVf s v (putPoolSize value) (.registerWrite (.poolsize v value)) rfl hs hw
    have hrrq := exec_putVf s v (putRrqBase value) (.registerWrite (.rrqbase v value)) rfl hs hw
    have hctl := exec_rrqctlWrite_sets s v value hs hw
    simp only [putRoot, putPoolBase, putPoolSize, putRrqBase, field_toNat] at hroot hpool hsize hrrq
    refine ⟨rfl, fun hen => ?_, fun hen => ?_, exec_rrqctlRead_clears s v hs hw, fun hnone => ?_, fun chain e hsome => ?_⟩
    · have hany := (anyEnabled_iff s v).mpr hen
      rw [hany] at hctl
      exact ⟨hroot.1 hany, hpool.1 hany, hsize.1 hany, hrrq.1 hany, hctl⟩
    · have hany := (anyEnabled_false_iff s v).mpr hen
      rw [hany] at hctl
      exact ⟨hroot.2 hany, hpool.2 hany, hsize.2 hany, hrrq.2 hany, hctl⟩
    · rw [exec_abortreq, execAbortreq, abortRequest_none s v value hnone]
    · exact ⟨_, by rw [exec_abortreq, execAbortreq, abortRequest_some s v value chain e hs hsome], rfl,
        msix_abortDomain _ _ _ _ _ (by simp)⟩
  case firmware =>
    intro s hb
    refine ⟨?ingress, ?ports, ?promo, ?timeout, ?limit, ?reachable, ?presence, ?tree, ?target⟩
    case ingress =>
      intro n src tenant lbase logsz r w a gen o hn hw
      obtain ⟨t, he, hrest, hget⟩ := after_ingress s n src tenant lbase logsz r w a gen o hb hn hw
      refine ⟨t, he, hrest, fun m hm => (hget m).trans (if_neg hm), fun h21 h39 hl hd => ?_, fun h => ?_⟩
      · rw [hget, if_pos rfl, ingressEntry_good src tenant lbase logsz r w a gen o h21 h39 hl hd]
      · rw [hget, if_pos rfl, ingressEntry_closed src tenant lbase logsz r w a gen o h]
    case ports =>
      intro p role c hp hw hc
      refine ⟨fun hl => (exec_firmware hb rfl).trans (congrArg _ (if_neg (fun h => hl h.2))), fun hl => ?_⟩
      obtain ⟨t, he, hrest, hport⟩ := after_portRole s p role c hb hp hl hw
      refine ⟨t, he, hrest, fun m hm => (hport m).trans (if_neg hm), ?_, fun m hm hne => ?_⟩
      · rw [hport, if_pos rfl, roleAfter, if_pos (.inl rfl), roleOf_eq role c hc]
      · rw [hport, if_pos hm, roleAfter_other s p m role c hne]
    case promo =>
      intro p u hu hw
      have hport := fun m => port_putPort s p m (fun x => { x with promoThr := 64 * u }) hw
      exact ⟨_, (exec_firmware hb rfl).trans (congrArg _ (if_pos hu)), rfl, (hport p).trans (if_pos rfl),
        fun m hm => (hport m).trans (if_neg hm)⟩
    case timeout =>
      exact fun u h10 h => (exec_firmware hb rfl).trans (congrArg _ (if_pos ⟨h10, h⟩))
    case limit =>
      exact fun pt q limit u h1 h2 h3 h4 =>
        after_putForeign s _ pt q _ ((exec_firmware hb rfl).trans (congrArg _ (if_pos ⟨h1, h2, h3, h4⟩))) ⟨rfl, rfl⟩
    case reachable =>
      exact fun pt q => after_putForeign s _ pt q _ (exec_firmware hb rfl) ⟨rfl, rfl⟩
    case presence =>
      exact fun p on hp => ⟨_, (exec_firmware hb rfl).trans (congrArg _ (if_pos hp)), rfl,
        fun m => testBit_presence s.presence p m on⟩
    case tree =>
      exact fun n image hn hl hw => ⟨_, (exec_firmware hb rfl).trans (congrArg _ (if_pos ⟨hn, hl⟩)), rfl,
        fun m => Sparse.get_set 0 s.trees n m _ hw⟩
    case target =>
      rintro q m hs hm rfl hc
      obtain ⟨t, ht, hmeters⟩ := targetChange_circ s m hs hm hc
      exact ⟨t, (exec_firmware hb rfl).trans (congrArg _ ht), hmeters⟩

end Sys2Proof.Proofs

/-!
PROOFS. Words that do not issue (R24, R39, R53, R63, R64): what the frame of a word ends in where a field is not declared, a register is
held by a landing, a source or a push has to wait, the isle has no matrix engine, or the slot class is not the context's own.
-/
namespace Sys2Proof.Machine

open Sys2Proof.Safety

/-! ## Declared counts and landings -/

theorem gOver_iff (i : Inst) (f : BitVec 5) : gOver i f = true ↔ i.counts.gregs ≤ f.toNat ∧ f.toNat ≤ 23 := by
  simp [gOver]

theorem gFieldBusy_iff (i : Inst) (c : Ctx) (f : BitVec 5) :
    gFieldBusy i c f = true ↔ f.toNat < 24 ∧ i.gBusy c f.toNat = true := by
  simp [gFieldBusy]

theorem overreach_of_gOver {i : Inst} {gs vs : List (BitVec 5)} (h : ∃ f ∈ gs, gOver i f = true) :
    overreach i gs vs = some ovGREGS := if_pos (List.any_eq_true.mpr h)

theorem overreach_of_vOver {i : Inst} {vs : List (BitVec 5)} (h : ∃ f ∈ vs, vOver i f = true) :
    overreach i [] vs = some ovVREGS := if_pos (List.any_eq_true.mpr h)

theorem any_of_all_false {α : Type} {l : List α} {p : α → Bool} (h : ∀ x ∈ l, p x = false) : l.any p = false :=
  List.any_eq_false.mpr fun x hx => Bool.eq_false_iff.mp (h x hx)

theorem overreach_of_declared {i : Inst} {gs vs : List (BitVec 5)} (hg : ∀ f ∈ gs, gOver i f = false)
    (hv : ∀ f ∈ vs, vOver i f = false) : overreach i gs vs = none := by
  unfold overreach
  rw [any_of_all_false hg, any_of_all_false hv]; rfl

/-! ## G fields -/

section Fields

variable {e : Env} {gs dst vs : List (BitVec 5)} {chk : List (Option Word) → Option TrapOf} {k : List Word → Inst → Verdict}

theorem withChecked_overreach {d : Nat} (h : overreach e.i (gs ++ dst) vs = some d) :
    withChecked e gs dst vs chk k = .trap cOVERREACH d 0 := by
  simp only [withChecked, h]

theorem withChecked_busy (ho : overreach e.i (gs ++ dst) vs = none) (hb : ∃ f ∈ gs ++ dst, gFieldBusy e.i e.c f = true) :
    withChecked e gs dst vs chk k = .block .interlock := by
  simp only [withChecked, ho]
  exact if_pos (List.any_eq_true.mpr hb)

/-- A word that meets no trap waits for its sources (R226). -/
theorem withSources_wait {b : Block} (ho : overreach e.i (gs ++ dst) vs = none) (hf : ∀ f ∈ gs ++ dst, gFieldBusy e.i e.c f = false)
    (hr : readG e.c e.i gs = .wait b) : withSources e gs dst vs k = .block b := by
  simp only [withSources, withChecked, ho, hr]
  exact if_neg (by rw [any_of_all_false hf]; exact Bool.false_ne_true)

theorem withVec_overreach {ms : List (BitVec 3)} {d : Nat} (h : overreach e.i (gs ++ dst) vs = some d) :
    withVec e gs dst vs ms k = .trap cOVERREACH d 0 := by
  rw [withVec, withVecChecked, if_neg (by simp [h])]
  exact withChecked_overreach h

/-- A V or M register that a landing holds makes the word wait before it reads its G fields (R53). -/
theorem withVec_busy {ms : List (BitVec 3)} (ho : overreach e.i (gs ++ dst) vs = none)
    (hb : (∃ r ∈ vs, e.i.vBusy r.toNat = true) ∨ ∃ m ∈ ms, e.i.mBusy m.toNat = true) :
    withVec e gs dst vs ms k = .block .interlock := by
  rw [withVec, withVecChecked, ho]
  exact if_pos (Bool.or_eq_true_iff.mpr (hb.imp List.any_eq_true.mpr List.any_eq_true.mpr))

end Fields

/-- A push without room queue-blocks the word (R47). -/
theorem finishG_full {e : Env} {d : BitVec 5} {r : Res} {i : Inst} (h : pushRoom e.i i d = false) :
    finishG e d r i = .block (.queue (d.toNat - 24)) := by
  simp [finishG, h]

/-! ## Scalar words over G fields -/

section Scalar

variable {ins : Instr} {s : State} {k : Nat} {c : Ctx} {i : Inst} {gs : List (BitVec 5)} {d : BitVec 5} {f : List Word → Res}

theorem traps_scalarOp_overreach (h : Reached ins s k c i) (he : exec ins s = runWord ins s (scalarOp gs d f))
    (ho : ∃ g ∈ gs ++ [d], gOver i g = true) : Traps ins s k c i cOVERREACH ovGREGS 0 := by
  refine traps_of_trap h he ?_
  rw [scalarOp, withSources]
  exact withChecked_overreach (overreach_of_gOver ho)

variable (hd : ∀ g ∈ gs ++ [d], gOver i g = false)
include hd

theorem waits_scalarOp_busy (h : Reached ins s k c i) (he : exec ins s = runWord ins s (scalarOp gs d f))
    (hb : ∃ g ∈ gs ++ [d], gFieldBusy i c g = true) : Waits ins s k c i .interlock := by
  refine waits_of_block h he ?_
  rw [scalarOp, withSources]
  exact withChecked_busy (overreach_of_declared hd (by simp)) hb

variable (hf : ∀ g ∈ gs ++ [d], gFieldBusy i c g = false)
include hf

theorem waits_scalarOp_source {b : Block} (h : Reached ins s k c i) (he : exec ins s = runWord ins s (scalarOp gs d f))
    (hr : readG c i gs = .wait b) : Waits ins s k c i b :=
  waits_of_block h he (withSources_wait (e := ⟨s, k, c, i⟩) (overreach_of_declared hd (by simp)) hf hr)

theorem waits_scalarOp_full {vals : List Word} {j : Inst} (h : Reached ins s k c i)
    (he : exec ins s = runWord ins s (scalarOp gs d f)) (hr : readG c i gs = .ok vals j) (hp : pushRoom i j d = false) :
    Waits ins s k c i (.queue (d.toNat - 24)) := by
  refine waits_of_block h he ?_
  rw [scalarOp, withSources_ok (e := ⟨s, k, c, i⟩) ⟨hd, hf, hr⟩ (by simp)]
  exact finishG_full hp

end Scalar

/-- The register forms over A and B with the result in D that share one operand record (R229, R237). -/
def registerForms : List (RRR → Instr) :=
  [.add, .sub, .mul, .mulh, .mulhu, .div, .divu, .rem, .remu, .and, .or, .xor, .andn, .shl, .shr, .sar, .rol, .min, .max, .minu, .maxu,
    .slt, .sltu, .seq, .fmin, .fmax]

theorem exec_registerForm (o : RRR) (s : State) : ∀ mk ∈ registerForms, ∃ g, exec (mk o) s = runWord (mk o) s (binOp g o) := by
  intro mk hmk
  fin_cases hmk <;> exact ⟨_, rfl⟩

/-! ## Vector words -/

section Vector

variable {ins : Instr} {s : State} {k : Nat} {c : Ctx} {i : Inst} {v : BitVec 5} {srcs : List (BitVec 5)} {m : BitVec 3}
  {f : Env → Nat → LaneRes}

theorem traps_laneOp_overreach (h : Reached ins s k c i) (he : exec ins s = runWord ins s (laneOp v srcs m f))
    (ho : ∃ r ∈ v :: srcs, vOver i r = true) : Traps ins s k c i cOVERREACH ovVREGS 0 :=
  traps_of_trap h he (withVec_overreach (e := ⟨s, k, c, i⟩) (overreach_of_vOver ho))

theorem waits_laneOp_busy (h : Reached ins s k c i) (he : exec ins s = runWord ins s (laneOp v srcs m f))
    (hd : ∀ r ∈ v :: srcs, vOver i r = false) (hb : (∃ r ∈ v :: srcs, i.vBusy r.toNat = true) ∨ i.mBusy m.toNat = true) :
    Waits ins s k c i .interlock :=
  waits_of_block h he (withVec_busy (e := ⟨s, k, c, i⟩) (overreach_of_declared (by simp) hd)
    (hb.imp_right fun hm => ⟨m, List.mem_singleton_self m, hm⟩))

end Vector

/-- The floating-point vector words of VA and VB (R263). -/
def floatLaneWords : List (VfOp → Instr) :=
  [.vaddF32, .vsubF32, .vmulF32, .vfmaF32, .vminF32, .vmaxF32, .vaddBf16, .vsubBf16, .vmulBf16, .vfmaBf16, .vminBf16, .vmaxBf16, .vaddF16,
    .vsubF16, .vmulF16, .vfmaF16, .vminF16, .vmaxF16]

theorem exec_floatLaneWord (o : VfOp) (s : State) :
    ∀ mk ∈ floatLaneWords, ∃ g, exec (mk o) s = runWord (mk o) s (laneOp o.v [o.a, o.b] o.m g) := by
  intro mk hmk
  fin_cases hmk <;> exact ⟨_, rfl⟩

/-! ## Isles without a matrix engine -/

theorem engineOp_noMatrix {word : Instr} {stops : Bool} {ts : List (BitVec 6)} {gs : List (BitVec 5)}
    {mk : List Desc → List Clause × List Opnd} {e : Env} (h : hasMx e.s e.k = false) :
    engineOp word true stops ts gs mk e = .trap cILLEGAL 3 0 := by
  simp [engineOp, h]

theorem fabricOp_noMatrix {word : Instr} {ts : List (BitVec 6)} {gs : List (BitVec 5)} {hs : List (BitVec 3)}
    {judge : Env → Launch → Shown → Judged} {e : Env} (h : hasMx e.s e.k = false) :
    fabricOp word true ts gs hs judge e = .trap cILLEGAL 3 0 := by
  simp [fabricOp, h]

/-- A handle beyond CIRCUITS, in a word whose operand values show nothing illegal (R63, R349). -/
theorem fabricOp_hOver {word : Instr} {h : BitVec 3} {judge : Env → Launch → Shown → Judged} {e : Env} {l : Launch}
    (hl : e.launch = some l) (hs : l.spec = false) (hj : (judge e l (shownOf e [] [])).illegal = false) (ho : hOver e.i h = true) :
    fabricOp word false [] [] [h] judge e = .trap cOVERREACH ovCIRCUITS 0 := by
  simp [fabricOp, Env.withLaunch, Env.spec, hl, hs, hj, ho]

/-- Without a matrix engine a ROTA that takes the attention step does not look at its block (R364). -/
theorem blockReached_noMatrix {o : RotaOp} {b : Nat} {e : Env} (h : hasMx e.s e.k = false) (ho : o.att = true) :
    blockReached o b e = false := by
  simp [blockReached, h, ho]

theorem traps_rota_noMatrix {o : RotaOp} {s : State} {k : Nat} {c : Ctx} {i : Inst} (h : Reached (.rota o) s k c i)
    (hm : hasMx s k = false) (ho : o.att = true) : Traps (.rota o) s k c i cILLEGAL 3 0 := by
  refine traps_of_trap h ((exec_rota o s).trans (execRota.eq_1 o s)) ?_
  have hf : fabricOp (.rota o) o.att [o.ts] [o.gx] [] (judgeRota o) ⟨s, k, c, i⟩ = .trap cILLEGAL 3 0 := by
    rw [ho]; exact fabricOp_noMatrix hm
  dsimp only
  split
  · rw [blockReached_noMatrix (e := ⟨s, k, c, i⟩) hm ho]; exact hf
  · exact hf

/-! ## Slot classes -/

theorem slotLegal_false {t : Tag} {c : Ctx} {sl : Slot}
    (h : (t = .A ∧ sl ≠ .scalar ∧ sl ≠ .sync) ∨ (t ≠ .A ∧ owns c sl = false)) : slotLegal t c sl = false := by
  rcases h with ⟨rfl, hscalar, hsync⟩ | ⟨ht, ho⟩
  · simp [slotLegal, hscalar, hsync]
  · cases t with
    | A => exact absurd rfl ht
    | L => exact ho
    | C => exact ho
    | S => exact ho

/-- A word that may not stand in its slot takes ILLEGAL before its body is asked (R39, R64). -/
theorem runWord_slotIllegal {ins : Instr} {s : State} {k : Nat} {c : Ctx} {i : Inst} {t : Tag} {sl : Slot}
    (hturn : s.turn = .issue k c) (hi : s.inst k = some i) (ha : i.acts c = true) (hw : ins.wellFormed = true)
    (ht : tagOfInstr ins = some t) (hs : slotOf ins = some sl) (hf : tagFor t c = true) (hl : slotLegal t c sl = false)
    (body : Env → Verdict) : runWord ins s body = .next (takeTrap k (ctxCode c) cILLEGAL 2 (i.ctx c).pc 0 s) := by
  simp only [runWord, hturn, hi, ha, hw, ht, hs, hf, hl]; rfl

end Sys2Proof.Machine

namespace Sys2Proof.Proofs

open Sys2Proof.Machine Sys2Proof.Safety

/-- Settles O42: the checks that stand before the issue of a word, in the order in which its frame makes them. -/
theorem wordsThatDoNotIssue : Obligations.WordsThatDoNotIssue := by
  unfold Obligations.WordsThatDoNotIssue
  refine ⟨?register, ?vector, ?tmod, ?barriers, ?cshut, ?matrix, ?slots⟩
  case register =>
    intro o s k c i mk hmk h
    obtain ⟨g, he⟩ := exec_registerForm o s mk hmk
    refine ⟨fun ⟨f, hf, hover⟩ => traps_scalarOp_overreach h he ⟨f, hf, (gOver_iff i f).mpr hover⟩, fun hdecl => ?_⟩
    have hd : ∀ f ∈ [o.a, o.b] ++ [o.d], gOver i f = false :=
      fun f hf => Bool.eq_false_iff.mpr (mt (gOver_iff i f).mp (hdecl f hf))
    refine ⟨fun ⟨f, hf, hbusy⟩ => waits_scalarOp_busy hd h he ⟨f, hf, (gFieldBusy_iff i c f).mpr hbusy⟩, fun hfree => ?_⟩
    have hnb : ∀ f ∈ [o.a, o.b] ++ [o.d], gFieldBusy i c f = false := fun f hf =>
      Bool.eq_false_iff.mpr fun hb =>
        have ⟨h24, hbusy⟩ := (gFieldBusy_iff i c f).mp hb
        absurd hbusy (Bool.eq_false_iff.mp (hfree f hf h24))
    exact ⟨fun b hr => waits_scalarOp_source hd hnb h he hr, fun vals j hr hp => waits_scalarOp_full hd hnb h he hr hp⟩
  case vector =>
    intro o s k c i mk hmk h
    obtain ⟨g, he⟩ := exec_floatLaneWord o s mk hmk
    exact ⟨fun ⟨f, hf, hover⟩ => traps_laneOp_overreach h he ⟨f, hf, decide_eq_true hover⟩,
      fun hdecl hb => waits_laneOp_busy h he (fun f hf => decide_eq_false (Nat.not_le.mpr (hdecl f hf))) hb⟩
  case tmod =>
    intro o s k c i h hg
    refine ⟨fun hover => ?_, fun hdecl hb => ?_⟩
    · refine traps_of_trap h ((exec_tmod o s).trans (execTmod.eq_1 o s)) ?_
      simp [tOver, hover, hg, cOVERREACH, ovTENSORS]
    · refine waits_of_block h ((exec_tmod o s).trans (execTmod.eq_1 o s)) ?_
      simp [tOver, Nat.not_le.mpr hdecl, hb]
  case barriers =>
    intro o s k c i hover
    have ho : bOver i o.b = true := decide_eq_true hover
    exact ⟨fun h => traps_of_trap h ((exec_barArr o s).trans (execBarArr.eq_1 o s)) (if_pos ho),
      fun h => traps_of_trap h ((exec_barWait o s).trans (execBarWait.eq_1 o s)) (if_pos ho),
      fun h => traps_of_trap h ((exec_step o s).trans (execStep.eq_1 o s)) (if_pos ho)⟩
  case cshut =>
    intro o s k c i l h hp hover
    exact traps_of_trap h ((exec_cshut o s).trans (execCshut.eq_1 o s))
      (fabricOp_hOver (e := ⟨s, k, c, i⟩) hp.1 hp.2 rfl (decide_eq_true hover))
  case matrix =>
    intro s k c i hm
    refine ⟨fun o mk hmk h => ?_,
      fun o h => traps_of_trap h ((exec_mxz o s).trans (execMxz.eq_1 o s)) (engineOp_noMatrix hm),
      fun o h => traps_of_trap h ((exec_mxd o s).trans (execMxd.eq_1 o s)) (engineOp_noMatrix hm),
      fun o h => traps_of_trap h ((exec_wload o s).trans (execWload.eq_1 o s)) (engineOp_noMatrix hm),
      fun o h => traps_of_trap h ((exec_att o s).trans (execAtt.eq_1 o s)) (engineOp_noMatrix hm),
      fun o ho h => traps_rota_noMatrix h hm ho⟩
    rcases List.mem_pair.mp hmk with rfl | rfl
    · exact traps_of_trap h ((exec_mxm o s).trans (execMxm.eq_1 o s)) (engineOp_noMatrix hm)
    · exact traps_of_trap h ((exec_mxmRb o s).trans (execMxmRb.eq_1 o s)) (engineOp_noMatrix hm)
  case slots =>
    intro ins s k c i t sl hturn hi ha hw ht hs hf owned hslot
    have howned : owned = owns c sl := by cases sl <;> rfl
    obtain ⟨body, he⟩ := exec_word ins (by rw [hs]; exact Option.some_ne_none sl)
    exact (he s).trans (runWord_slotIllegal hturn hi ha hw ht hs hf (slotLegal_false (howned ▸ hslot)) body)

end Sys2Proof.Proofs

/-!
PROOFS. VCMP and the mask operations (R266, R268): the bits of a written mask, the relation of VCMP on two lanes, and the count of a mask.
-/
namespace Sys2Proof.Machine

open Sys2Proof.Safety

/-! ## Bits of masks (R23) -/

theorem getLsbD_and_onesMask (s : State) (k : Nat) (w : Word) (l : Nat) :
    (w &&& onesMask (laneCount s k)).getLsbD l = (decide (l < laneCount s k) && w.getLsbD l) := by
  rw [BitVec.getLsbD_and, onesMask_bit _ l (laneCount_cases s k), Bool.and_comm]

theorem getLsbD_mGet (s : State) (k : Nat) (i : Inst) (m : BitVec 3) (l : Nat) :
    (i.mGet (laneCount s k) m.toNat).getLsbD l = (decide (l < laneCount s k) && maskBit i m l) := by
  unfold Inst.mGet maskBit
  by_cases hm : m = 0
  · simp [hm, onesMask_bit _ l (laneCount_cases s k)]
  · have hn : m.toNat ≠ 0 := fun h => hm (BitVec.eq_of_toNat_eq h)
    rw [if_neg hn, getLsbD_and_onesMask, decide_eq_false hm, Bool.false_or]

theorem getLsbD_foldl_or (ls : List Nat) (w : Word) (l : Nat) :
    (ls.foldl (fun m l => m ||| BitVec.ofNat 64 (2 ^ l)) w).getLsbD l = (w.getLsbD l || (decide (l < 64) && decide (l ∈ ls))) := by
  induction ls generalizing w with
  | nil => simp
  | cons x xs ih =>
    rw [List.foldl_cons, ih, BitVec.getLsbD_or, BitVec.getLsbD_ofNat, Nat.testBit_two_pow]
    by_cases hx : x = l
    · subst hx; cases decide (x < 64) <;> simp
    · simp [hx, Ne.symm hx]

theorem getLsbD_maskOf (ls : List Nat) (l : Nat) : (maskOf ls).getLsbD l = (decide (l < 64) && decide (l ∈ ls)) := by
  rw [maskOf, getLsbD_foldl_or, show (0 : Word).getLsbD l = false from BitVec.getLsbD_zero, Bool.false_or]

theorem lt_64_of_lt_laneCount {s : State} {k l : Nat} (h : l < laneCount s k) : l < 64 := by
  rcases laneCount_cases s k with hn | hn <;> omega

/-! ## The count of a mask -/

theorem popCount_eq_countP (n x : Nat) : popCount n x = (List.range n).countP x.testBit := by
  induction n generalizing x with
  | zero => rfl
  | succ n ih =>
    have hshift : x.testBit ∘ Nat.succ = (x / 2).testBit := funext fun m => Nat.testBit_succ x m
    have hbit : (if x.testBit 0 then 1 else 0) = x % 2 := by
      rw [Nat.testBit_zero]; rcases Nat.mod_two_eq_zero_or_one x with h | h <;> simp [h]
    rw [popCount, List.range_succ_eq_map, List.countP_cons, List.countP_map, hshift, ih, hbit, Nat.add_comm]

/-- Positions beyond n do not count where each of them is ruled out. -/
theorem countP_range_lt (n d : Nat) (p : Nat → Bool) :
    (List.range (n + d)).countP (fun l => decide (l < n) && p l) = (List.range n).countP p := by
  have hlow : (List.range n).countP (fun l => decide (l < n) && p l) = (List.range n).countP p :=
    List.countP_congr fun l hl => by simp [List.mem_range.mp hl]
  have hhigh : ((List.range d).map (n + ·)).countP (fun l => decide (l < n) && p l) = 0 :=
    List.countP_eq_zero.mpr (by simp)
  rw [List.range_add, List.countP_append, hlow, hhigh, Nat.add_zero]

theorem popCount_mGet (s : State) (k : Nat) (i : Inst) (m : BitVec 3) :
    popCount 64 (i.mGet (laneCount s k) m.toNat).toNat = (activeLanes s k i m).length := by
  have hbits : (i.mGet (laneCount s k) m.toNat).toNat.testBit = fun l => decide (l < laneCount s k) && maskBit i m l :=
    funext (getLsbD_mGet s k i m)
  obtain ⟨d, hd⟩ : ∃ d, 64 = laneCount s k + d := by
    rcases laneCount_cases s k with h | h <;> exact ⟨64 - laneCount s k, by omega⟩
  rw [popCount_eq_countP, hbits, activeLanes, ← List.countP_eq_length_filter]
  exact (congrArg (fun n => (List.range n).countP _) hd).trans (countP_range_lt _ d _)

/-! ## The relation of VCMP (R266) -/

theorem ltF_asymm {a b : FVal} (h : ltF a b = true) : ltF b a = false := by
  cases a with
  | nan _ => exact absurd h Bool.false_ne_true
  | inf na =>
    cases b with
    | nan _ => rfl
    | inf nb => simp only [ltF, Bool.and_eq_true, Bool.not_eq_true'] at h ⊢; simp [h]
    | fin nb mb eb => simp only [ltF] at h ⊢; rw [h]; rfl
  | fin na ma ea =>
    cases b with
    | nan _ => rfl
    | inf nb => simpa [ltF] using h
    | fin nb mb eb =>
      have hmin : (if eb ≤ ea then eb else ea) = if ea ≤ eb then ea else eb := by split <;> split <;> omega
      simp only [ltF, decide_eq_true_eq, decide_eq_false_iff_not, hmin] at h ⊢
      omega

/-- A NaN is not below a value, and no value is below it. -/
theorem not_nan_of_ltF {a b : FVal} (h : ltF a b = true) : a.isNan = false ∧ b.isNan = false := by
  cases b with
  | nan _ => cases a <;> exact absurd h Bool.false_ne_true
  | inf _ | fin _ _ _ =>
    cases a with
    | nan _ => exact absurd h Bool.false_ne_true
    | inf _ | fin _ _ _ => exact ⟨rfl, rfl⟩

theorem ltF_or_eqF (a b : FVal) : (ltF a b || eqF a b) = (!(a.isNan || b.isNan) && !ltF b a) := by
  cases h : ltF a b with
  | false => simp [eqF, h]
  | true =>
    obtain ⟨ha, hb⟩ := not_nan_of_ltF h
    simp [ha, hb, ltF_asymm h]

theorem not_eqF (a b : FVal) : (!eqF a b) = (a.isNan || b.isNan || ltF a b || ltF b a) := by
  simp [eqF]

/-- Whether a relation holds between two floating-point values, and whether it raises NV (R266). -/
def relationF (k : VcmpCond) (x y : FVal) : Bool × Bool :=
  match k with
  | .eq => (!(x.isNan || y.isNan) && !ltF x y && !ltF y x, x.isSig || y.isSig)
  | .lt => (ltF x y, x.isNan || y.isNan)
  | .le => (!(x.isNan || y.isNan) && !ltF y x, x.isNan || y.isNan)
  | .ne => (x.isNan || y.isNan || ltF x y || ltF y x, x.isSig || y.isSig)

/-- What VCMP makes of a relation and its NV on one lane (R261, R266). -/
def laneVerdict (r : Bool × Bool) : Bool × BitVec 5 := (r.1, if r.2 then flNV else 0)

theorem vcmpF_eq (f : Fmt) (k : VcmpCond) (wa wb : Nat) :
    vcmpF f k wa wb = laneVerdict (relationF k (decodeF f wa) (decodeF f wb)) := by
  cases k with
  | eq => simp [vcmpF, laneVerdict, relationF, eqF]
  | lt => rfl
  | le => simp only [vcmpF, laneVerdict, relationF, ltF_or_eqF]; rfl
  | ne => simp only [vcmpF, laneVerdict, relationF, not_eqF]; rfl

theorem laneElem_fF32 (x : BitVec 32) : laneElem fF32 x = x.toNat := Nat.mod_eq_of_lt x.isLt

theorem vcmpLane_f32 (k : VcmpCond) (a b : BitVec 32) :
    vcmpLane .f32 k a b = laneVerdict (relationF k (decodeF fF32 (laneElem fF32 a)) (decodeF fF32 (laneElem fF32 b))) := by
  rw [laneElem_fF32, laneElem_fF32]; exact vcmpF_eq fF32 k a.toNat b.toNat

theorem vcmpLane_bf16 (k : VcmpCond) (a b : BitVec 32) :
    vcmpLane .bf16 k a b = laneVerdict (relationF k (decodeF fBF16 (laneElem fBF16 a)) (decodeF fBF16 (laneElem fBF16 b))) :=
  vcmpF_eq fBF16 k _ _

/-- The flags of the lanes join to NV where one of them raises it (R261). -/
theorem orAll_flNV (ls : List Nat) (p : Nat → Bool) :
    orAll (ls.map (fun l => if p l then flNV else 0)) = if ls.any p then 16 else 0 := by
  have hstep : ∀ (a : Bool), (ls.map (fun l => if p l then flNV else 0)).foldl (fun a f => a ||| f) (if a then flNV else 0) =
      if a || ls.any p then flNV else 0 := by
    induction ls with
    | nil => simp
    | cons x xs ih =>
      intro a
      have hor : ((if a then flNV else 0) ||| if p x then flNV else 0) = if a || p x then flNV else 0 := by
        cases a <;> cases p x <;> rfl
      rw [List.map_cons, List.foldl_cons, hor, ih, List.any_cons, Bool.or_assoc]
  exact hstep false

/-! ## Words that write a mask -/

/-- A word that writes a mask completes with the bits of its value that are lanes of the isle. -/
theorem completes_writeMask {ins : Instr} {s : State} {k : Nat} {c : Ctx} {i j : Inst} {gs vs : List (BitVec 5)} {ms : List (BitVec 3)}
    {d : BitVec 3} {vals : List Word} {val : Env → List Word → Word} {fl : Env → BitVec 5} (h : Reached ins s k c i)
    (hs : Sources i c gs [] vals j) (hv : VFree i vs ms)
    (he : exec ins s = runWord ins s (fun e => withVec e gs [] vs ms (fun v i => writeMask e d (val e v) (fl e) i))) :
    Completes ins s k c (orFlags c (fl ⟨s, k, c, i⟩)
      (j.later c (.m d.toNat) ((val ⟨s, k, c, i⟩ vals &&& onesMask (laneCount s k)).setWidth 256))) :=
  completes_of_go h he (withVec_ok (e := ⟨s, k, c, i⟩) hs hv _)

/-- `WritesMask` from the bits of the word's value and its flags. -/
theorem writesMask_of {ins : Instr} {d : BitVec 3} {vs : List (BitVec 5)} {ms : List (BitVec 3)} {P : State → Nat → Inst → Nat → Bool}
    {fl : State → Nat → Inst → BitVec 5} {val : Env → Word} {g : Env → BitVec 5}
    (he : ∀ s, exec ins s = runWord ins s (fun e => withVec e [] [] vs ms (fun _ i => writeMask e d (val e) (g e) i)))
    (hval : ∀ s k c i l, l < laneCount s k → (val ⟨s, k, c, i⟩).getLsbD l = P s k i l)
    (hfl : ∀ s k c i, g ⟨s, k, c, i⟩ = fl s k i) : WritesMask ins d vs ms P fl := by
  intro s k c i h hv
  refine ⟨val ⟨s, k, c, i⟩ &&& onesMask (laneCount s k), fun l => ?_, ?_⟩
  · rw [getLsbD_and_onesMask]
    by_cases hl : l < laneCount s k
    · rw [hval s k c i l hl]
    · simp [hl]
  · rw [← hfl s k c i]
    exact completes_writeMask (val := fun e _ => val e) h (noSources i c) hv (he s)

/-- A mask operation acts bit by bit on the lanes of its two sources (R268). -/
theorem writesMask_maskOp {ins : Instr} {o : MmmOp} {f : Word → Word → Word} {g : Bool → Bool → Bool}
    (he : ∀ s, exec ins s = runWord ins s (maskOp f o))
    (hf : ∀ a b l, l < 64 → (f a b).getLsbD l = g (a.getLsbD l) (b.getLsbD l)) :
    WritesMask ins o.md [] [o.md, o.ma, o.mb] (fun _ _ i l => g (maskBit i o.ma l) (maskBit i o.mb l)) (fun _ _ _ => 0) := by
  refine writesMask_of he (fun s k c i l hl => ?_) (fun _ _ _ _ => rfl)
  rw [hf _ _ l (lt_64_of_lt_laneCount hl)]
  simp only [Env.lanes, lanesOf_eq, getLsbD_mGet, hl, decide_true, Bool.true_and]

/-- MNOT acts bit by bit on the lanes of its source (R268). -/
theorem writesMask_mnot (o : MmOp) :
    WritesMask (.mnot o) o.md [] [o.md, o.ma] (fun _ _ i l => !maskBit i o.ma l) (fun _ _ _ => 0) := by
  refine writesMask_of (fun s => (exec_mnot o s).trans (execMnot.eq_1 o s)) (fun s k c i l hl => ?_) (fun _ _ _ _ => rfl)
  rw [BitVec.getLsbD_not]
  simp only [Env.lanes, lanesOf_eq, getLsbD_mGet, hl, lt_64_of_lt_laneCount hl, decide_true, Bool.true_and]

/-- VCMP writes where its relation holds between active lanes, and raises NV where one of them does (R266). -/
theorem writesMask_vcmp {o : VcmpOp} {rel : BitVec 32 → BitVec 32 → Bool × Bool}
    (hrel : ∀ a b, vcmpLane o.t o.k a b = laneVerdict (rel a b)) :
    WritesMask (.vcmp o) o.md [o.a, o.b] [o.m, o.md]
      (fun _ _ i l => maskBit i o.m l && (rel (i.vGet o.a.toNat l) (i.vGet o.b.toNat l)).1)
      (fun s k i => if (activeLanes s k i o.m).any (fun l => (rel (i.vGet o.a.toNat l) (i.vGet o.b.toNat l)).2) then 16 else 0) := by
  refine writesMask_of (fun s => (exec_vcmp o s).trans (execVcmp.eq_1 o s)) (fun s k c i l hl => ?_) (fun s k c i => ?_)
  · rw [getLsbD_maskOf, filter_active]
    simp [hrel, laneVerdict, activeLanes, hl, lt_64_of_lt_laneCount hl]
  · rw [filter_active, List.map_map, ← orAll_flNV]
    simp [Function.comp_def, hrel, laneVerdict]

end Sys2Proof.Machine

namespace Sys2Proof.Proofs

open Sys2Proof.Machine Sys2Proof.Safety

/-- Settles O27: each word by the bits of the value that it writes. -/
theorem vectorMasks : Obligations.VectorMasks := by
  unfold Obligations.VectorMasks
  refine ⟨?vcmp, ?mand, ?mor, ?mxor, ?mandn, writesMask_mnot, ?mpop, ?mtog, ?mfromg⟩
  case vcmp =>
    intro o rel
    refine writesMask_vcmp (rel := rel) fun x y => ?_
    obtain ⟨ct, md, a, b, m, t, k⟩ := o
    cases t with
    | f32 => exact (vcmpLane_f32 k x y).trans (by cases k <;> rfl)
    | bf16 => exact (vcmpLane_bf16 k x y).trans (by cases k <;> rfl)
    | i32 => cases k <;> rfl
    | u32 => cases k <;> rfl
  case mand =>
    exact fun o => writesMask_maskOp (g := (· && ·)) (fun s => (exec_mand o s).trans (execMand.eq_1 o s))
      (fun a b l _ => BitVec.getLsbD_and)
  case mor =>
    exact fun o => writesMask_maskOp (g := (· || ·)) (fun s => (exec_mor o s).trans (execMor.eq_1 o s))
      (fun a b l _ => BitVec.getLsbD_or)
  case mxor =>
    exact fun o => writesMask_maskOp (g := (· ^^ ·)) (fun s => (exec_mxor o s).trans (execMxor.eq_1 o s))
      (fun a b l _ => BitVec.getLsbD_xor)
  case mandn =>
    exact fun o => writesMask_maskOp (g := fun a b => a && !b) (fun s => (exec_mandn o s).trans (execMandn.eq_1 o s))
      (fun a b l hl => by simp [hl])
  case mpop =>
    intro o s k c i h hs hv hp
    rw [← popCount_mGet]
    refine completes_of_go h ((exec_mpop o s).trans (execMpop.eq_1 o s)) ?_
    rw [withVec_ok (e := ⟨s, k, c, i⟩) hs hv]
    exact finishG_ok hp
  case mtog =>
    intro o s k c i w h hs hv hp hw
    obtain rfl : w = i.mGet (laneCount s k) o.ma.toNat :=
      BitVec.eq_of_getLsbD_eq fun l _ => (hw l).trans (getLsbD_mGet s k i o.ma l).symm
    refine completes_of_go h ((exec_mtog o s).trans (execMtog.eq_1 o s)) ?_
    rw [withVec_ok (e := ⟨s, k, c, i⟩) hs hv]
    exact finishG_ok hp
  case mfromg =>
    intro o s k c i x j h hs hv
    have hc := completes_writeMask (val := fun _ v => src v 0) (fl := fun _ => 0) h hs hv
      ((exec_mfromg o s).trans (execMfromg.eq_1 o s))
    rw [orFlags_zero, src_zero] at hc
    exact ⟨_, getLsbD_and_onesMask s k x, hc⟩

end Sys2Proof.Proofs

/-!
PROOFS. Decoded words (R205 to R219): every arm of the decoder gives a well-formed instruction with the tag of its word, the slot class of its
major and the words that XW says.
-/
namespace Sys2Proof

/-- Whatever the decoder gives has P; it may refuse. -/
def Gives (P : Instr → Prop) (r : Except DecodeError Instr) : Prop := ∀ i, r = .ok i → P i

@[simp] theorem gives_ok (P : Instr → Prop) (i : Instr) : Gives P (.ok i) ↔ P i := by simp [Gives]
@[simp] theorem gives_error (P : Instr → Prop) (e : DecodeError) : Gives P (.error e) := fun _ h => nomatch h
@[simp] theorem gives_need (P : Instr → Prop) (b : Bool) (e : DecodeError) (r : Except DecodeError Instr) :
    Gives P (need b e r) ↔ (b = true → Gives P r) := by cases b <;> simp [need]
@[simp] theorem gives_checked (P : Instr → Prop) (i : Instr) (e : DecodeError) :
    Gives P (checked i e) ↔ (i.wellFormed = true → P i) := by unfold checked; split <;> simp [*]

/-- The instruction is well formed, has tag ct and slot class sl, and its encoding takes a second word where xw is set. -/
structure Shape (ct : Tag) (xw : Bool) (sl : Machine.Slot) (i : Instr) : Prop where
  wellFormed : i.wellFormed = true
  tag : Machine.tagOfInstr i = some ct
  slot : Machine.slotOf i = some sl
  words : (encode i).length = if xw then 2 else 1

theorem Shape.encodable {ct : Tag} {xw : Bool} {sl : Machine.Slot} {i : Instr} (h : Shape ct xw sl i) : (encodeWord i).isSome = true := by
  cases he : encodeWord i with
  | some => rfl
  | none =>
    have hw := h.words
    simp only [encode, he, List.length_nil] at hw
    split at hw <;> cases hw

/-! ## Formats with an optional extension word -/

theorem withImm_shape {ct : Tag} {sl : Machine.Slot} {k : Imm → Instr} (w : Nat) (x : Option Nat)
    (hs : ∀ i, Shape ct false sl (k (.short i))) (hl : ∀ l, Shape ct true sl (k (.long l))) :
    Gives (Shape ct x.isSome sl) (withImm w x k) := by
  cases x with
  | none => exact (gives_ok ..).mpr (hs _)
  | some l => exact (gives_need ..).mpr fun _ => (gives_ok ..).mpr (hl _)

theorem withOff_shape {ct : Tag} {sl : Machine.Slot} {k : Off → Instr} (w : Nat) (x : Option Nat)
    (hs : ∀ i, Shape ct false sl (k (.short i))) (hl : ∀ l, Shape ct true sl (k (.long l))) :
    Gives (Shape ct x.isSome sl) (withOff w x k) := by
  cases x with
  | none => exact (gives_ok ..).mpr (hs _)
  | some l => exact (gives_need ..).mpr fun _ => (gives_ok ..).mpr (hl _)

theorem decodeShift_shape {sl : Machine.Slot} {k : ShiftOp → Instr} (w : Nat) (x : Option Nat)
    (hk : ∀ ct d a n xw, Shape ct xw sl (k ⟨ct, d, a, n, xw⟩)) : Gives (Shape (tagOf w) x.isSome sl) (decodeShift w x k) := by
  cases x with
  | none => exact (gives_need ..).mpr fun _ => (gives_ok ..).mpr (hk ..)
  | some l => exact (gives_need ..).mpr fun _ => (gives_ok ..).mpr (hk ..)

theorem withRnd_shape {ct : Tag} {sl : Machine.Slot} {k : Option Rnd → Except DecodeError Instr} (x : Option Nat)
    (hk : ∀ r, Gives (Shape ct r.isSome sl) (k r)) : Gives (Shape ct x.isSome sl) (withRnd x k) := by
  cases x with
  | none => exact hk none
  | some l => exact (gives_need ..).mpr fun _ => hk (some _)

/-! ## The majors -/

theorem decodeAlu_shape (w : Nat) : Gives (Shape (tagOf w) false .scalar) (decodeAlu w) := by
  unfold decodeAlu
  split <;> simp only [gives_ok, gives_error]
  all_goals exact ⟨rfl, rfl, rfl, rfl⟩

theorem decodeSel_shape (w : Nat) : Gives (Shape (tagOf w) false .scalar) (decodeSel w) := by
  simp only [decodeSel, gives_ok, gives_need]
  exact fun _ => ⟨rfl, rfl, rfl, rfl⟩

theorem decodeLea_shape (w : Nat) : Gives (Shape (tagOf w) false .scalar) (decodeLea w) := by
  simp only [decodeLea, gives_ok, gives_need]
  exact fun _ => ⟨rfl, rfl, rfl, rfl⟩

theorem decodeFp_shape (w : Nat) : Gives (Shape (tagOf w) false .scalar) (decodeFp w) := by
  unfold decodeFp
  dsimp only; split <;> simp only [gives_ok, gives_error, gives_need]
  all_goals intros; exact ⟨rfl, rfl, rfl, rfl⟩

theorem decodeBr_shape (w : Nat) (x : Option Nat) : Gives (Shape (tagOf w) x.isSome .scalar) (decodeBr w x) := by
  unfold decodeBr
  split
  iterate 7 exact withOff_shape w x (fun _ => ⟨rfl, rfl, rfl, rfl⟩) fun _ => ⟨rfl, rfl, rfl, rfl⟩
  exact gives_error _ _

theorem decodeLoop_shape (w : Nat) (x : Option Nat) : Gives (Shape (tagOf w) x.isSome .scalar) (decodeLoop w x) := by
  simp only [decodeLoop, gives_need, Bool.and_eq_true, decide_eq_true_eq]
  intro _ ⟨h1, h2⟩
  have hd : (dOf w).toNat = field w 17 5 := by simp only [dOf, bv, BitVec.toNat_ofNat]; unfold field; omega
  have hw : ∀ o, (Instr.loop ⟨tagOf w, dOf w, o⟩).wellFormed = true := fun o => by simp [Instr.wellFormed, hd, h1, h2]
  exact withOff_shape w x (fun _ => ⟨hw _, rfl, rfl, rfl⟩) fun _ => ⟨hw _, rfl, rfl, rfl⟩

theorem decodeCall_shape (w : Nat) (x : Option Nat) : Gives (Shape (tagOf w) x.isSome .scalar) (decodeCall w x) :=
  (gives_need ..).mpr fun _ => withOff_shape w x (fun _ => ⟨rfl, rfl, rfl, rfl⟩) fun _ => ⟨rfl, rfl, rfl, rfl⟩

theorem decodeJump_shape (w : Nat) : Gives (Shape (tagOf w) false .scalar) (decodeJump w) := by
  unfold decodeJump
  split <;> simp only [gives_ok, gives_error]
  all_goals exact ⟨rfl, rfl, rfl, rfl⟩

theorem decodeQueue_shape (w : Nat) : Gives (Shape (tagOf w) false .scalar) (decodeQueue w) := by
  unfold decodeQueue
  split <;> simp only [gives_ok, gives_error, gives_need]
  all_goals exact fun _ => ⟨rfl, rfl, rfl, rfl⟩

theorem decodeSys_shape (w : Nat) : Gives (Shape (tagOf w) false .scalar) (decodeSys w) := by
  unfold decodeSys; dsimp only
  split <;> simp only [gives_ok, gives_error, gives_need, gives_checked]
  iterate 2 exact fun h => ⟨h, rfl, rfl, rfl⟩
  all_goals intros; exact ⟨rfl, rfl, rfl, rfl⟩

/-! ### Memory -/

theorem offOf_isSome (x : Option Nat) : (offOf x).isSome = x.isSome := by cases x <;> rfl

/-- The words of an F-M instruction: two where it has an offset. -/
theorem length_encode_offset {i : Instr} {w : Nat} {off : Option (BitVec 32)} (h : encodeWord i = some (w, offLit off)) :
    (encode i).length = if off.isSome then 2 else 1 := by
  cases off <;> simp [encode, h, offLit]

/-- What the words of one F-M format have in common: tag, slot class, and a literal where there is an offset. -/
structure MemWord {o : Type} (ct : o → Tag) (off : o → Option (BitVec 32)) (sl : Machine.Slot) (k : o → Instr) : Prop where
  tag : ∀ x, Machine.tagOfInstr (k x) = some (ct x)
  slot : ∀ x, Machine.slotOf (k x) = some sl
  enc : ∀ x, ∃ v, encodeWord (k x) = some (v, offLit (off x))

theorem MemWord.shape {o : Type} {ct : o → Tag} {off : o → Option (BitVec 32)} {sl : Machine.Slot} {k : o → Instr}
    (h : MemWord ct off sl k) {y : o} {x : Option Nat} (hx : off y = offOf x) (hw : (k y).wellFormed = true) :
    Shape (ct y) x.isSome sl (k y) := by
  obtain ⟨v, hv⟩ := h.enc y
  exact ⟨hw, h.tag y, h.slot y, (length_encode_offset hv).trans (by rw [hx, offOf_isSome])⟩

theorem decodeLoad_shape {k : LoadOp → Instr} {sl : Machine.Slot} (w : Nat) (x : Option Nat) (h : MemWord (·.ct) (·.off) sl k) :
    Gives (Shape (tagOf w) x.isSome sl) (decodeLoad w x k) := by
  simp only [decodeLoad, gives_need, gives_checked]
  exact fun _ hw => h.shape rfl hw

theorem decodeStore_shape {k : StoreOp → Instr} {sl : Machine.Slot} (w : Nat) (x : Option Nat) (h : MemWord (·.ct) (·.off) sl k)
    (hw : ∀ o, (k o).wellFormed = true) : Gives (Shape (tagOf w) x.isSome sl) (decodeStore w x k) := by
  simp only [decodeStore, gives_need, gives_ok]
  exact fun _ _ => h.shape (y := ⟨_, _, _, _, _⟩) rfl (hw _)

theorem decodeAmo_shape {k : AmoOp → Instr} {sl : Machine.Slot} (w : Nat) (x : Option Nat) (h : MemWord (·.ct) (·.off) sl k) :
    Gives (Shape (tagOf w) x.isSome sl) (decodeAmo w x k) := by
  simp only [decodeAmo, gives_checked]
  exact fun hw => h.shape rfl hw

theorem decodeCas_shape (w : Nat) (x : Option Nat) : Gives (Shape (tagOf w) x.isSome .memoryWrite) (decodeCas w x) := by
  simp only [decodeCas, gives_need, gives_checked]
  exact fun _ hw => MemWord.shape (k := .cas) ⟨fun _ => rfl, fun _ => rfl, fun _ => ⟨_, rfl⟩⟩ rfl hw

theorem decodeRed_shape (w : Nat) (x : Option Nat) : Gives (Shape (tagOf w) x.isSome .memoryWrite) (decodeRed w x) := by
  simp only [decodeRed, gives_need, gives_checked]
  exact fun _ hw => MemWord.shape (k := .red) ⟨fun _ => rfl, fun _ => rfl, fun _ => ⟨_, rfl⟩⟩ rfl hw

theorem decodeAddr_shape {k : AddrOp → Instr} {sl : Machine.Slot} (w : Nat) (x : Option Nat) (h : MemWord (·.ct) (·.off) sl k)
    (hw : ∀ o, (k o).wellFormed = true) : Gives (Shape (tagOf w) x.isSome sl) (decodeAddr w x k) := by
  simp only [decodeAddr, gives_need, gives_ok]
  exact fun _ _ => h.shape (y := ⟨_, _, _⟩) rfl (hw _)

theorem decodeVmem_shape {k : VmemOp → Instr} {sl : Machine.Slot} (w : Nat) (x : Option Nat) (h : MemWord (·.ct) (·.off) sl k) :
    Gives (Shape (tagOf w) x.isSome sl) (decodeVmem w x k) := by
  simp only [decodeVmem, gives_need, gives_checked]
  exact fun _ hw => h.shape rfl hw

theorem decodeVmemX_shape {k : VmemXOp → Instr} {sl : Machine.Slot} (w l : Nat) (ht : ∀ o, Machine.tagOfInstr (k o) = some o.ct)
    (hs : ∀ o, Machine.slotOf (k o) = some sl) (he : ∀ o, (encode (k o)).length = 2) :
    Gives (Shape (tagOf w) true sl) (decodeVmemX w (some l) k) := by
  simp only [decodeVmemX, gives_need, gives_checked]
  exact fun _ hw => ⟨hw, ht _, hs _, he _⟩

/-! ### Synchronization and messages -/

theorem decodeBar_shape {k : BarOp → Instr} (w : Nat) (hk : ∀ ct b, Shape ct false .sync (k ⟨ct, b⟩)) :
    Gives (Shape (tagOf w) false .sync) (decodeBar w k) := (gives_need ..).mpr fun _ => (gives_ok ..).mpr (hk ..)

theorem decodeWait_shape (w : Nat) : Gives (Shape (tagOf w) false .sync) (decodeWait w) := by
  refine (gives_need ..).mpr fun _ => ?_
  split <;> simp only [gives_ok, gives_error]
  all_goals exact ⟨rfl, rfl, rfl, rfl⟩

theorem decodeSync_shape (w : Nat) : Gives (Shape (tagOf w) false .sync) (decodeSync w) := by
  unfold decodeSync; split
  · exact (gives_need ..).mpr fun _ => (gives_ok ..).mpr ⟨rfl, rfl, rfl, rfl⟩
  iterate 3 exact decodeBar_shape w fun _ _ => ⟨rfl, rfl, rfl, rfl⟩
  iterate 2 exact (gives_need ..).mpr fun _ => (gives_ok ..).mpr ⟨rfl, rfl, rfl, rfl⟩
  · exact decodeWait_shape w
  · exact gives_error _ _

theorem decodeMsg_shape (w : Nat) : Gives (Shape (tagOf w) false .message) (decodeMsg w) := by
  unfold decodeMsg
  split <;> simp only [gives_ok, gives_error]
  all_goals exact ⟨rfl, rfl, rfl, rfl⟩

/-! ### Vectors -/

theorem decodeVfF32_shape (w : Nat) (r : Option Rnd) : Gives (Shape (tagOf w) r.isSome .vector) (decodeVfF32 w r) := by
  unfold decodeVfF32; cases r <;> split <;> simp only [gives_ok, gives_error]
  all_goals exact ⟨rfl, rfl, rfl, rfl⟩

theorem decodeVfBf16_shape (w : Nat) (r : Option Rnd) : Gives (Shape (tagOf w) r.isSome .vector) (decodeVfBf16 w r) := by
  unfold decodeVfBf16; cases r <;> split <;> simp only [gives_ok, gives_error]
  all_goals exact ⟨rfl, rfl, rfl, rfl⟩

theorem decodeVfF16_shape (w : Nat) (r : Option Rnd) : Gives (Shape (tagOf w) r.isSome .vector) (decodeVfF16 w r) := by
  unfold decodeVfF16; cases r <;> split <;> simp only [gives_ok, gives_error]
  all_goals exact ⟨rfl, rfl, rfl, rfl⟩

theorem decodeVi32_shape (w : Nat) : Gives (Shape (tagOf w) false .vector) (decodeVi32 w) := by
  unfold decodeVi32; split <;> simp only [gives_ok, gives_error]
  all_goals exact ⟨rfl, rfl, rfl, rfl⟩

theorem decodeVi16_shape (w : Nat) : Gives (Shape (tagOf w) false .vector) (decodeVi16 w) := by
  unfold decodeVi16; split <;> simp only [gives_ok, gives_error]
  all_goals exact ⟨rfl, rfl, rfl, rfl⟩

theorem decodeVcmp_shape (w : Nat) : Gives (Shape (tagOf w) false .vector) (decodeVcmp w) :=
  (gives_need ..).mpr fun _ => (gives_checked ..).mpr fun hw => ⟨hw, rfl, rfl, rfl⟩

theorem decodeMask_shape (w : Nat) : Gives (Shape (tagOf w) false .vector) (decodeMask w) := by
  unfold decodeMask; dsimp only; split <;> simp only [gives_ok, gives_error, gives_need, gives_checked]
  iterate 5 exact fun _ hw => ⟨hw, rfl, rfl, rfl⟩
  iterate 2 exact fun _ => ⟨rfl, rfl, rfl, rfl⟩
  exact fun _ hw => ⟨hw, rfl, rfl, rfl⟩

theorem decodeVcvt_shape (w : Nat) (r : Option Rnd) : Gives (Shape (tagOf w) r.isSome .vector) (decodeVcvt w r) := by
  unfold decodeVcvt; cases r <;> split <;> simp only [gives_ok, gives_error, gives_checked]
  all_goals first
    | exact ⟨rfl, rfl, rfl, rfl⟩
    | exact fun hw => ⟨hw, rfl, rfl, rfl⟩

theorem decodeVtrans_shape (w : Nat) (r : Option Rnd) : Gives (Shape (tagOf w) r.isSome .vector) (decodeVtrans w r) := by
  unfold decodeVtrans; cases r <;> split <;> simp only [gives_ok, gives_error]
  all_goals exact ⟨rfl, rfl, rfl, rfl⟩

theorem decodeVred_shape (w : Nat) (r : Option Rnd) : Gives (Shape (tagOf w) r.isSome .vector) (decodeVred w r) := by
  unfold decodeVred; dsimp only; cases r <;> split <;> simp only [gives_error, gives_checked]
  all_goals exact fun hw => ⟨hw, rfl, rfl, rfl⟩

theorem decodePerm_shape (w : Nat) : Gives (Shape (tagOf w) false .vector) (decodePerm w) := by
  unfold decodePerm; split <;> simp only [gives_ok, gives_error]
  all_goals exact ⟨rfl, rfl, rfl, rfl⟩

/-! ### Engine commands -/

theorem decodeTens_shape (w l : Nat) : Gives (Shape (tagOf w) true .engineCommand) (decodeTens w l) := by
  refine (gives_need ..).mpr fun _ => ?_
  split
  iterate 2 exact (gives_ok ..).mpr ⟨rfl, rfl, rfl, rfl⟩
  · refine (gives_need ..).mpr fun _ => ?_
    split
    · exact (gives_ok ..).mpr ⟨rfl, rfl, rfl, rfl⟩
    · exact gives_error _ _
  · exact gives_error _ _

theorem decodeMx_shape (w l : Nat) : Gives (Shape (tagOf w) true .engineCommand) (decodeMx w l) := by
  unfold decodeMx; dsimp only; split <;> simp only [gives_ok, gives_error, gives_need]
  all_goals exact fun _ _ => ⟨rfl, rfl, rfl, rfl⟩

theorem decodeCp_shape (w l : Nat) : Gives (Shape (tagOf w) true .engineCommand) (decodeCp w l) := by
  refine (gives_need ..).mpr fun _ => ?_
  split <;> simp only [gives_ok, gives_error]
  all_goals exact ⟨rfl, rfl, rfl, rfl⟩

theorem decodeAtt_shape (w l : Nat) : Gives (Shape (tagOf w) true .engineCommand) (decodeAtt w l) := by
  simp only [decodeAtt, gives_need, gives_ok]
  exact fun _ _ => ⟨rfl, rfl, rfl, rfl⟩

theorem decodeCirc_shape (w l : Nat) : Gives (Shape (tagOf w) true .engineCommand) (decodeCirc w l) := by
  refine (gives_need ..).mpr fun _ => (gives_need ..).mpr fun _ => ?_
  split <;> simp only [gives_ok, gives_error, gives_need]
  all_goals exact fun _ => ⟨rfl, rfl, rfl, rfl⟩

theorem decodeTide_shape (w l : Nat) : Gives (Shape (tagOf w) true .engineCommand) (decodeTide w l) := by
  simp only [decodeTide, gives_need, gives_checked]
  exact fun _ _ hw => ⟨hw, rfl, rfl, rfl⟩

theorem decodeCollFn_shape {ct : Tag} {k : CollFn → Instr} (l : Nat) (hk : ∀ f, Shape ct true .engineCommand (k f)) :
    Gives (Shape ct true .engineCommand) (decodeCollFn l k) := by
  unfold decodeCollFn; split <;> simp only [gives_ok, gives_error]
  all_goals exact hk _

theorem decodeColl_shape (w l : Nat) : Gives (Shape (tagOf w) true .engineCommand) (decodeColl w l) := by
  refine (gives_need ..).mpr fun _ => ?_
  split <;> simp only [gives_ok, gives_error, gives_need]
  all_goals first
    | exact fun _ => ⟨rfl, rfl, rfl, rfl⟩
    | exact fun _ => decodeCollFn_shape l fun _ => ⟨rfl, rfl, rfl, rfl⟩

theorem decodeRota_shape (w l : Nat) : Gives (Shape (tagOf w) true .engineCommand) (decodeRota w l) := by
  simp only [decodeRota, gives_need, gives_ok]
  exact fun _ _ => ⟨rfl, rfl, rfl, rfl⟩

/-! ## The whole word -/

/-- The table of majors (R210): slot class, and whether XW may or must be set. -/
abbrev Major (op : Nat) (xw : Bool) (sl : Machine.Slot) : Prop :=
  (op ≤ 0x19 → sl = .scalar) ∧
  (op ∈ [0x20, 0x21, 0x22, 0x29, 0x2B, 0x50, 0x51, 0x52] → sl = .memoryRead) ∧
  (op ∈ [0x23, 0x24, 0x25, 0x26, 0x27, 0x28, 0x2A, 0x53, 0x54, 0x55] → sl = .memoryWrite) ∧
  (op = 0x30 → sl = .sync) ∧ (op = 0x31 → sl = .message) ∧
  (0x40 ≤ op → op ≤ 0x4B → sl = .vector) ∧ (0x60 ≤ op → sl = .engineCommand) ∧
  (op ≤ 0x19 ∨ (0x20 ≤ op ∧ op ≤ 0x2B) ∨ op = 0x30 ∨ op = 0x31 ∨ (0x40 ≤ op ∧ op ≤ 0x4B) ∨ (0x50 ≤ op ∧ op ≤ 0x55) ∨
    (0x60 ≤ op ∧ op ≤ 0x63) ∨ (0x70 ≤ op ∧ op ≤ 0x73)) ∧
  (xw = true →
    op ∉ [0x00, 0x01, 0x02, 0x03, 0x04, 0x12, 0x13, 0x17, 0x18, 0x19, 0x30, 0x31, 0x43, 0x44, 0x45, 0x46, 0x47, 0x4B]) ∧
  (xw = false → op ∉ [0x51, 0x52, 0x54, 0x55, 0x60, 0x61, 0x62, 0x63, 0x70, 0x71, 0x72, 0x73])

/-- The instruction has the tag of the word, a slot class of its major, and the words of XW. -/
def Says (op w : Nat) (x : Option Nat) (i : Instr) : Prop :=
  ∃ sl, Major op x.isSome sl ∧ Shape (tagOf w) x.isSome sl i

theorem says_any {op w : Nat} {x : Option Nat} {sl : Machine.Slot} {r : Except DecodeError Instr} (hf : Major op false sl) (ht : Major op true sl)
    (h : Gives (Shape (tagOf w) x.isSome sl) r) : Gives (Says op w x) r := by
  refine fun i hi => ⟨sl, ?_, h i hi⟩
  cases x with
  | none => exact hf
  | some l => exact ht

theorem says_noX {op w : Nat} {sl : Machine.Slot} {r : Except DecodeError Instr} (x : Option Nat) (hm : Major op false sl)
    (h : Gives (Shape (tagOf w) false sl) r) : Gives (Says op w x) (noX x r) := by
  cases x with
  | none => exact fun i hi => ⟨sl, hm, h i hi⟩
  | some l => exact gives_error _ _

theorem says_withX {op w : Nat} {sl : Machine.Slot} {r : Nat → Except DecodeError Instr} (x : Option Nat) (hm : Major op true sl)
    (h : ∀ l, Gives (Shape (tagOf w) true sl) (r l)) : Gives (Says op w x) (withX x r) := by
  cases x with
  | none => exact gives_error _ _
  | some l => exact fun i hi => ⟨sl, hm, h l i hi⟩

theorem decodeImm_says {op w : Nat} {k : ImmOp → Instr} (x : Option Nat) (hf : Major op false .scalar) (ht : Major op true .scalar)
    (hs : ∀ ct d a i, Shape ct false .scalar (k ⟨ct, d, a, .short i⟩))
    (hl : ∀ ct d a l, Shape ct true .scalar (k ⟨ct, d, a, .long l⟩)) : Gives (Says op w x) (decodeImm w x k) :=
  says_any hf ht (withImm_shape w x (fun _ => hs ..) fun _ => hl ..)

theorem decodeVmemX_says {op w : Nat} {k : VmemXOp → Instr} {sl : Machine.Slot} (x : Option Nat) (hm : Major op true sl)
    (ht : ∀ o, Machine.tagOfInstr (k o) = some o.ct) (hs : ∀ o, Machine.slotOf (k o) = some sl)
    (he : ∀ o, (encode (k o)).length = 2) : Gives (Says op w x) (decodeVmemX w x k) := by
  cases x with
  | none => exact gives_error _ _
  | some l => exact fun i hi => ⟨sl, hm, decodeVmemX_shape w l ht hs he i hi⟩

theorem decodeMajor_says (op w : Nat) (x : Option Nat) : Gives (Says op w x) (decodeMajor op w x) := by
  unfold decodeMajor
  split
  · exact says_noX x (by decide) (decodeAlu_shape w)
  · exact says_noX x (by decide) (decodeSel_shape w)
  · exact says_noX x (by decide) (decodeLea_shape w)
  · exact says_noX x (by decide) ((gives_checked ..).mpr fun hw => ⟨hw, rfl, rfl, rfl⟩)
  · exact says_noX x (by decide) ((gives_checked ..).mpr fun hw => ⟨hw, rfl, rfl, rfl⟩)
  · exact decodeImm_says x (by decide) (by decide) (fun _ _ _ _ => ⟨rfl, rfl, rfl, rfl⟩) fun _ _ _ _ => ⟨rfl, rfl, rfl, rfl⟩
  · exact decodeImm_says x (by decide) (by decide) (fun _ _ _ _ => ⟨rfl, rfl, rfl, rfl⟩) fun _ _ _ _ => ⟨rfl, rfl, rfl, rfl⟩
  · exact decodeImm_says x (by decide) (by decide) (fun _ _ _ _ => ⟨rfl, rfl, rfl, rfl⟩) fun _ _ _ _ => ⟨rfl, rfl, rfl, rfl⟩
  · exact decodeImm_says x (by decide) (by decide) (fun _ _ _ _ => ⟨rfl, rfl, rfl, rfl⟩) fun _ _ _ _ => ⟨rfl, rfl, rfl, rfl⟩
  · exact decodeImm_says x (by decide) (by decide) (fun _ _ _ _ => ⟨rfl, rfl, rfl, rfl⟩) fun _ _ _ _ => ⟨rfl, rfl, rfl, rfl⟩
  · exact says_any (by decide) (by decide) (decodeShift_shape w x fun _ _ _ _ xw => ⟨rfl, rfl, rfl, by cases xw <;> rfl⟩)
  · exact says_any (by decide) (by decide) (decodeShift_shape w x fun _ _ _ _ xw => ⟨rfl, rfl, rfl, by cases xw <;> rfl⟩)
  · exact says_any (by decide) (by decide) (decodeShift_shape w x fun _ _ _ _ xw => ⟨rfl, rfl, rfl, by cases xw <;> rfl⟩)
  · exact decodeImm_says x (by decide) (by decide) (fun _ _ _ _ => ⟨rfl, rfl, rfl, rfl⟩) fun _ _ _ _ => ⟨rfl, rfl, rfl, rfl⟩
  · exact decodeImm_says x (by decide) (by decide) (fun _ _ _ _ => ⟨rfl, rfl, rfl, rfl⟩) fun _ _ _ _ => ⟨rfl, rfl, rfl, rfl⟩
  · exact decodeImm_says x (by decide) (by decide) (fun _ _ _ _ => ⟨rfl, rfl, rfl, rfl⟩) fun _ _ _ _ => ⟨rfl, rfl, rfl, rfl⟩
  · exact says_any (by decide) (by decide) (withImm_shape w x (fun _ => ⟨rfl, rfl, rfl, rfl⟩) fun _ => ⟨rfl, rfl, rfl, rfl⟩)
  · exact decodeImm_says x (by decide) (by decide) (fun _ _ _ _ => ⟨rfl, rfl, rfl, rfl⟩) fun _ _ _ _ => ⟨rfl, rfl, rfl, rfl⟩
  · exact says_noX x (by decide) (decodeFp_shape w)
  · exact says_noX x (by decide) ((gives_ok ..).mpr ⟨rfl, rfl, rfl, rfl⟩)
  · exact says_any (by decide) (by decide) (decodeBr_shape w x)
  · exact says_any (by decide) (by decide) (decodeLoop_shape w x)
  · exact says_any (by decide) (by decide) (decodeCall_shape w x)
  · exact says_noX x (by decide) (decodeJump_shape w)
  · exact says_noX x (by decide) (decodeQueue_shape w)
  · exact says_noX x (by decide) (decodeSys_shape w)
  · exact says_any (by decide) (by decide) (decodeLoad_shape w x ⟨fun _ => rfl, fun _ => rfl, fun _ => ⟨_, rfl⟩⟩)
  · exact says_any (by decide) (by decide) (decodeLoad_shape w x ⟨fun _ => rfl, fun _ => rfl, fun _ => ⟨_, rfl⟩⟩)
  · exact says_any (by decide) (by decide) (decodeLoad_shape w x ⟨fun _ => rfl, fun _ => rfl, fun _ => ⟨_, rfl⟩⟩)
  · exact says_any (by decide) (by decide) (decodeStore_shape w x ⟨fun _ => rfl, fun _ => rfl, fun _ => ⟨_, rfl⟩⟩ fun _ => rfl)
  · exact says_any (by decide) (by decide) (decodeStore_shape w x ⟨fun _ => rfl, fun _ => rfl, fun _ => ⟨_, rfl⟩⟩ fun _ => rfl)
  · exact says_any (by decide) (by decide) (decodeAmo_shape w x ⟨fun _ => rfl, fun _ => rfl, fun _ => ⟨_, rfl⟩⟩)
  · exact says_any (by decide) (by decide) (decodeAmo_shape w x ⟨fun _ => rfl, fun _ => rfl, fun _ => ⟨_, rfl⟩⟩)
  · exact says_any (by decide) (by decide) (decodeCas_shape w x)
  · exact says_any (by decide) (by decide) (decodeRed_shape w x)
  · exact says_any (by decide) (by decide) (decodeAddr_shape w x ⟨fun _ => rfl, fun _ => rfl, fun _ => ⟨_, rfl⟩⟩ fun _ => rfl)
  · exact says_any (by decide) (by decide) (decodeAddr_shape w x ⟨fun _ => rfl, fun _ => rfl, fun _ => ⟨_, rfl⟩⟩ fun _ => rfl)
  · exact says_any (by decide) (by decide) (decodeAddr_shape w x ⟨fun _ => rfl, fun _ => rfl, fun _ => ⟨_, rfl⟩⟩ fun _ => rfl)
  · exact says_noX x (by decide) (decodeSync_shape w)
  · exact says_noX x (by decide) (decodeMsg_shape w)
  · exact says_any (by decide) (by decide) (withRnd_shape x (decodeVfF32_shape w))
  · exact says_any (by decide) (by decide) (withRnd_shape x (decodeVfBf16_shape w))
  · exact says_any (by decide) (by decide) (withRnd_shape x (decodeVfF16_shape w))
  · exact says_noX x (by decide) (decodeVi32_shape w)
  · exact says_noX x (by decide) (decodeVi16_shape w)
  · exact says_noX x (by decide) (decodeVcmp_shape w)
  · exact says_noX x (by decide) ((gives_need ..).mpr fun _ => (gives_ok ..).mpr ⟨rfl, rfl, rfl, rfl⟩)
  · exact says_noX x (by decide) (decodeMask_shape w)
  · exact says_any (by decide) (by decide) (withRnd_shape x (decodeVcvt_shape w))
  · exact says_any (by decide) (by decide) (withRnd_shape x (decodeVtrans_shape w))
  · exact says_any (by decide) (by decide) (withRnd_shape x (decodeVred_shape w))
  · exact says_noX x (by decide) (decodePerm_shape w)
  · exact says_any (by decide) (by decide) (decodeVmem_shape w x ⟨fun _ => rfl, fun _ => rfl, fun _ => ⟨_, rfl⟩⟩)
  · exact decodeVmemX_says x (by decide) (fun _ => rfl) (fun _ => rfl) fun _ => rfl
  · exact decodeVmemX_says x (by decide) (fun _ => rfl) (fun _ => rfl) fun _ => rfl
  · exact says_any (by decide) (by decide) (decodeVmem_shape w x ⟨fun _ => rfl, fun _ => rfl, fun _ => ⟨_, rfl⟩⟩)
  · exact decodeVmemX_says x (by decide) (fun _ => rfl) (fun _ => rfl) fun _ => rfl
  · exact decodeVmemX_says x (by decide) (fun _ => rfl) (fun _ => rfl) fun _ => rfl
  · exact says_withX x (by decide) (decodeTens_shape w)
  · exact says_withX x (by decide) (decodeMx_shape w)
  · exact says_withX x (by decide) (decodeCp_shape w)
  · exact says_withX x (by decide) (decodeAtt_shape w)
  · exact says_withX x (by decide) (decodeCirc_shape w)
  · exact says_withX x (by decide) (decodeTide_shape w)
  · exact says_withX x (by decide) (decodeColl_shape w)
  · exact says_withX x (by decide) (decodeRota_shape w)
  · exact gives_error _ _

theorem bitAt_eq_testBit (w k : Nat) : bitAt w k = w.testBit k := by
  rw [Nat.testBit_eq_decide_div_mod_eq]; unfold bitAt; rw [beq_eq_decide]

theorem decodeWord_says {w lit : Nat} {i : Instr} (h : decodeWord w lit = .ok i) :
    ∃ sl, Major (w / 2 ^ 22 % 128) (w.testBit 29) sl ∧ Shape (tagOf w) (w.testBit 29) sl i := by
  obtain ⟨sl, hm, hs⟩ := decodeMajor_says _ _ _ i h
  have hx : (if bitAt w 29 then some (lit % 2 ^ 32) else none).isSome = w.testBit 29 := by
    rw [← bitAt_eq_testBit]; split <;> simp [*]
  rw [hx] at hm hs
  exact ⟨sl, hm, hs⟩

/-- A word that decodes has a tag and a slot class. -/
theorem decodeWord_isWord {w lit : Nat} {i : Instr} (h : decodeWord w lit = .ok i) :
    ∃ t sl, Machine.tagOfInstr i = some t ∧ Machine.slotOf i = some sl := by
  obtain ⟨sl, -, hs⟩ := decodeWord_says h
  exact ⟨_, sl, hs.tag, hs.slot⟩

end Sys2Proof

namespace Sys2Proof.Proofs
open Sys2Proof.Machine Sys2Proof.Safety

/-- Settles O35: every arm of the major map gives an instruction of its slot class (`decodeMajor_says`). -/
theorem decodedWords : Obligations.DecodedWords := by
  unfold Obligations.DecodedWords
  refine ⟨fun w lit i h => ?_, fun w lit i h => ?_, fun w lit i h => ?_, fun w lit i h => ?_⟩
  all_goals
    obtain ⟨sl, ⟨hsc, hr, hw, hy, hm, hv, he, ha, hf, hq⟩, hs⟩ := decodeWord_says h
  · refine ⟨hs.wellFormed, hs.encodable, hs.tag, hs.words, ?_⟩
    rw [hs.slot]
    simp only [Option.some.injEq]
    exact ⟨hsc, hr, hw, hy, hm, hv, he⟩
  · exact ha
  · exact hf
  · exact hq

end Sys2Proof.Proofs

/-!
PROOFS. Every step answers (R35, R36, R50): each operation of the machine keeps the agenda, every word at its turn and every event goes on to a
next state, and the step leaves nothing but events on the agenda.
-/
namespace Sys2Proof.Machine

open Sys2Proof.Safety

/-! ## A state that keeps the agenda -/

/-- The outcome is a next state with the agenda of s. -/
def Goes (s : State) (o : Host.Outcome State Fault Refusal) : Prop := ∃ t, o = .next t ∧ t.agenda = s.agenda

@[simp] theorem goes_next (s t : State) : Goes s (.next t) ↔ t.agenda = s.agenda := by simp [Goes]

@[simp] theorem goes_ite (s : State) (p : Prop) [Decidable p] (a b : Host.Outcome State Fault Refusal) :
    Goes s (if p then a else b) ↔ if p then Goes s a else Goes s b := by split <;> rfl

/-- Every state that the verdict goes on with has the agenda of s. -/
def Verdict.Keeps (s : State) : Verdict → Prop
  | .hold t _ | .go t | .jump _ t => t.agenda = s.agenda
  | _ => True

/-- The same of an attempt to perform a part of an access. -/
def Tried.Keeps (s : State) : Tried → Prop
  | .done _ _ t => t.agenda = s.agenda
  | _ => True

@[simp] theorem keeps_trap (s : State) (a b : Nat) (w : Word) : Verdict.Keeps s (.trap a b w) := trivial
@[simp] theorem keeps_block (s : State) (b : Block) : Verdict.Keeps s (.block b) := trivial
@[simp] theorem keeps_go (s t : State) : Verdict.Keeps s (.go t) ↔ t.agenda = s.agenda := Iff.rfl
@[simp] theorem keeps_hold (s t : State) (b : Block) : Verdict.Keeps s (.hold t b) ↔ t.agenda = s.agenda := Iff.rfl
@[simp] theorem keeps_jump (s t : State) (w : Word) : Verdict.Keeps s (.jump w t) ↔ t.agenda = s.agenda := Iff.rfl
@[simp] theorem tkeeps_wait (s : State) : Tried.Keeps s .wait := trivial
@[simp] theorem tkeeps_nacked (s : State) : Tried.Keeps s .nacked := trivial
@[simp] theorem tkeeps_moving (s : State) (g : Nat) : Tried.Keeps s (.moving g) := trivial
@[simp] theorem tkeeps_done (s t : State) (v : Nat) (st : Status) : Tried.Keeps s (.done v st t) ↔ t.agenda = s.agenda := Iff.rfl

@[simp] theorem agenda_ite (p : Prop) [Decidable p] (a b : State) :
    (if p then a else b).agenda = if p then a.agenda else b.agenda := apply_ite _ _ _ _

@[simp] theorem foldl_agenda {β : Type} (f : State → β → State) (l : List β) (s : State) (h : ∀ s b, (f s b).agenda = s.agenda) :
    (l.foldl f s).agenda = s.agenda := by
  induction l generalizing s with
  | nil => rfl
  | cons b l ih => rw [List.foldl_cons, ih, h]

/-! ## The operations of the machine keep the agenda -/

/-! ### Base -/

@[simp] theorem countN_agenda (s : State) (block idx n : Nat) :
    (State.countN s block idx n).agenda = s.agenda := by simp [State.countN]

@[simp] theorem discardSpec_agenda (why : SpecEnd) (id : Nat) (s : State) :
    (discardSpec why id s).agenda = s.agenda := by unfold discardSpec; split <;> simp

/-! ### Memory -/

@[simp] theorem clearPoison_agenda (cells : List (Nat × Byte)) (s : State) :
    (clearPoison cells s).agenda = s.agenda := by simp [clearPoison]

@[simp] theorem setPoison_agenda (a : Nat) (s : State) : (setPoison a s).agenda = s.agenda := by simp [setPoison]
@[simp] theorem poisonLine_agenda (n : Nat) (s : State) : (poisonLine n s).agenda = s.agenda := by simp [poisonLine]

@[simp] theorem doomWritten_agenda (w : Writer) (cells : List (Nat × Byte)) (s : State) :
    (doomWritten w cells s).agenda = s.agenda := by simp [doomWritten]

@[simp] theorem markDirty_agenda (code : Nat) (cells : List (Nat × Byte)) (s : State) :
    (markDirty code cells s).agenda = s.agenda := by simp [markDirty]

@[simp] theorem putCells_agenda (cells : List (Nat × Byte)) (s : State) : (putCells cells s).agenda = s.agenda := by simp [putCells]

@[simp] theorem writeCells_agenda (w : Writer) (code : Nat) (cells : List (Nat × Byte)) (s : State) :
    (writeCells w code cells s).agenda = s.agenda := by simp [writeCells]

@[simp] theorem writeHome_agenda (cells : List (Nat × Byte)) (s : State) : (writeHome cells s).agenda = s.agenda := by simp [writeHome]

@[simp] theorem setGranule_agenda (s : State) (g : Nat) (x : Granule) :
    (State.setGranule s g x).agenda = s.agenda := by simp [State.setGranule]

@[simp] theorem ownPerform_agenda (a : Nat) (kind : ReqKind) (s : State) :
    (ownPerform a kind s).agenda = s.agenda := by unfold ownPerform; split <;> simp

@[simp] theorem ownRequest_agenda (a : Nat) (kind : ReqKind) (s : State) :
    (ownRequest a kind s).agenda = s.agenda := by unfold ownRequest; dsimp only; (repeat' split) <;> simp

@[simp] theorem ownWrite_agenda (cells : List (Nat × Byte)) (s : State) : (ownWrite cells s).agenda = s.agenda := by simp [ownWrite]

@[simp] theorem performHome_agenda (acc : Nat) (w : Writer) (code : Nat) (vis : BitVec 8) (cells : List (Nat × Byte)) (s : State) :
    (performHome acc w code vis cells s).agenda = s.agenda := by simp [performHome]

@[simp] theorem foldVersion_agenda (acc : Nat) (s : State) :
    (foldVersion acc s).agenda = s.agenda := by unfold foldVersion; split <;> simp

@[simp] theorem showVersion_agenda (acc : Nat) (d : Nat) (s : State) : (showVersion acc d s).agenda = s.agenda := by simp [showVersion]

/-! ### Region -/

@[simp] theorem recordEntry_agenda (a : Nat) (e : FaultEntry) (s : State) :
    (recordEntry a e s).agenda = s.agenda := by simp [recordEntry]

@[simp] theorem addStatus_agenda (id bits : Nat) (s : State) : (addStatus id bits s).agenda = s.agenda := by simp [addStatus]

@[simp] theorem launchFault_agenda (id : Nat) (e : FaultEntry) (s : State) :
    (launchFault id e s).agenda = s.agenda := by unfold launchFault; split <;> simp

@[simp] theorem instFault_agenda (uid launch : Nat) (e : FaultEntry) (s : State) :
    (instFault uid launch e s).agenda = s.agenda := by unfold instFault; dsimp only; split <;> simp

/-! ### Routes -/

@[simp] theorem dropXpts_agenda (c : CircuitRef) (s : State) : (dropXpts c s).agenda = s.agenda := by simp [dropXpts]
@[simp] theorem reserve_agenda (p : Prober) (w : Walk) (s : State) : (reserve p w s).agenda = s.agenda := by simp [reserve]
@[simp] theorem takeWay_agenda (p : Prober) (w : Walk) (s : State) : (takeWay p w s).agenda = s.agenda := by simp [takeWay]

@[simp] theorem sendFlow_agenda (here : Bool) (own : Loop) (out : Out) (s : State) :
    (sendFlow here own out s).agenda = s.agenda := by simp [sendFlow]

@[simp] theorem dropCircuitData_agenda (f : Flow) (kind : CircKind) (s : State) :
    (dropCircuitData f kind s).agenda = s.agenda := by simp [dropCircuitData]

@[simp] theorem tearStrait_agenda (k h : Nat) (x : Handle) (s : State) : (tearStrait k h x s).agenda = s.agenda := by simp [tearStrait]

/-! ### Packet -/

@[simp] theorem putOnPackets_agenda (part : Partition) (f : Flow) (cursor : Nat) (data : List Byte) (s : State) :
    (putOnPackets part f cursor data s).agenda = s.agenda := by simp [putOnPackets]

@[simp] theorem updMeter_agenda (s : State) (f : Flow) (g : Meter → Meter) :
    (State.updMeter s f g).agenda = s.agenda := by unfold State.updMeter; split <;> simp

@[simp] theorem resend_agenda (w : Sender) (part : Partition) (kind : Nat → AccKind) (f : Flow) (n : Nat) (bs : List (List Byte))
    (s : State) : (resend w part kind f n bs s).agenda = s.agenda := by
  induction bs generalizing n s with
  | nil => rfl
  | cons b bs ih => simp [resend, ih]

@[simp] theorem releasePacket_agenda (port : Nat) (f : Flow) (s : State) (p : SentPacket) :
    (releasePacket port f s p).agenda = s.agenda := by unfold releasePacket; split <;> simp

@[simp] theorem resendMeter_agenda (m : Meter) (s : State) : (resendMeter m s).agenda = s.agenda := by
  unfold resendMeter; split
  · rfl
  · split <;> simp

@[simp] theorem settleMeter_agenda (m : Meter) (s : State) : (settleMeter m s).agenda = s.agenda := by simp [settleMeter]
@[simp] theorem evictMeter_agenda (m : Meter) (s : State) : (evictMeter m s).agenda = s.agenda := by simp [evictMeter]

@[simp] theorem touchMeter_agenda (m : Meter) (s : State) :
    (touchMeter m s).agenda = s.agenda := by unfold touchMeter; dsimp only; (repeat' split) <;> simp

@[simp] theorem launchProbe_agenda (part : Partition) (prio : Nat) (f : Flow) (s : State) :
    (launchProbe part prio f s).agenda = s.agenda := by unfold launchProbe; dsimp only; split <;> simp

@[simp] theorem sendPromoted_agenda (part : Partition) (f : Flow) (off : Nat) (data : List Byte) (s : State) :
    (sendPromoted part f off data s).agenda = s.agenda := by simp [sendPromoted]

@[simp] theorem sendDemotion_agenda (here : Bool) (port : Nat) (f : Flow) (s : State) :
    (sendDemotion here port f s).agenda = s.agenda := by simp [sendDemotion]

@[simp] theorem meterPacket_agenda (part : Partition) (prio uid acc : Nat) (f : Flow) (cursor : Nat) (data : List Byte) (s : State) :
    (meterPacket part prio uid acc f cursor data s).agenda = s.agenda := by unfold meterPacket; dsimp only; (repeat' split) <;> simp

@[simp] theorem closePacket_agenda (k w : Nat) (pc va : Word) (s : State) :
    (closePacket k w pc va s).agenda = s.agenda := by unfold closePacket; (repeat' split) <;> simp

/-! ### Ops -/

@[simp] theorem finishTide_agenda (l : Nat) (status : Nat) (r : TideReq) (s : State) :
    (finishTide l status r s).agenda = s.agenda := by unfold finishTide; split <;> simp

@[simp] theorem withdrawTide_agenda (uid : Nat) (s : State) : (withdrawTide uid s).agenda = s.agenda := by simp [withdrawTide]

@[simp] theorem evalBarrier_agenda (id b : Nat) (s : State) :
    (evalBarrier id b s).agenda = s.agenda := by unfold evalBarrier; split <;> simp

@[simp] theorem evalBarriers_agenda (id : Nat) (s : State) : (evalBarriers id s).agenda = s.agenda := by simp [evalBarriers]

@[simp] theorem recordAmo_agenda (segs : List Seg) (part : Partition) (va : Nat) (f : AmoFn) (x : Nat) (s : State) :
    (recordAmo segs part va f x s).agenda = s.agenda := by unfold recordAmo; (repeat' split) <;> simp

@[simp] theorem completionAt_agenda (s : State) (segs : List Seg) (part : Partition) (caddr status : Nat) :
    (completionAt s segs part caddr status).agenda = s.agenda := by simp [completionAt]

@[simp] theorem settleLaunch_agenda (id : Nat) (s : State) :
    (settleLaunch id s).agenda = s.agenda := by unfold settleLaunch; split <;> simp

@[simp] theorem sweep_agenda (s : State) : (sweep s).agenda = s.agenda := by simp [sweep]
@[simp] theorem dropTokens_agenda (k : Nat) (s : State) : (dropTokens k s).agenda = s.agenda := by simp [dropTokens]
@[simp] theorem retireInst_agenda (k : Nat) (s : State) : (retireInst k s).agenda = s.agenda := by unfold retireInst; split <;> simp

@[simp] theorem failColl_agenda (k : Nat) (id detail : Nat) (s : State) :
    (failColl k id detail s).agenda = s.agenda := by unfold failColl; (repeat' split) <;> simp

@[simp] theorem failRota_agenda (k : Nat) (id detail : Nat) (s : State) :
    (failRota k id detail s).agenda = s.agenda := by unfold failRota; (repeat' split) <;> simp

@[simp] theorem failStarted_agenda (k dRota dColl : Nat) (s : State) :
    (failStarted k dRota dColl s).agenda = s.agenda := by unfold failStarted; split <;> simp

@[simp] theorem dropReads_agenda (uid : Nat) (s : State) : (dropReads uid s).agenda = s.agenda := by simp [dropReads]
@[simp] theorem stopInst_agenda (k : Nat) (s : State) : (stopInst k s).agenda = s.agenda := by unfold stopInst; split <;> simp
@[simp] theorem dropSaved_agenda (p : Inst → Bool) (s : State) : (dropSaved p s).agenda = s.agenda := by simp [dropSaved]
@[simp] theorem stopLaunch_agenda (id : Nat) (s : State) : (stopLaunch id s).agenda = s.agenda := by simp [stopLaunch]

@[simp] theorem takeTrap_agenda (k ctx cause detail : Nat) (pc addr : Word) (s : State) :
    (takeTrap k ctx cause detail pc addr s).agenda = s.agenda := by unfold takeTrap; (repeat' split) <;> simp

@[simp] theorem stopTrapped_agenda (s : State) : (stopTrapped s).agenda = s.agenda := by simp [stopTrapped]
@[simp] theorem endSubtree_agenda (dom : Nat) (s : State) : (endSubtree dom s).agenda = s.agenda := by simp [endSubtree]

@[simp] theorem abortDomain_agenda (dom detail : Nat) (asked : List Nat) (s : State) :
    (abortDomain dom detail asked s).agenda = s.agenda := by
  unfold abortDomain; dsimp only; rw [foldl_agenda]
  · simp
  · exact fun _ _ => rfl

/-! ### Operands -/

@[simp] theorem withChecked_keeps (e : Env) (gs dst vs : List (BitVec 5)) (chk : List (Option Word) → Option TrapOf) (k : List Word → Inst → Verdict)
    (h : ∀ vals i, (k vals i).Keeps e.s) : (withChecked e gs dst vs chk k).Keeps e.s := by
  unfold withChecked; split
  · trivial
  · split
    · trivial
    · split
      · split <;> trivial
      · exact h _ _
@[simp] theorem withSources_keeps (e : Env) (gs dst vs : List (BitVec 5)) (k : List Word → Inst → Verdict)
    (h : ∀ vals i, (k vals i).Keeps e.s) : (withSources e gs dst vs k).Keeps e.s := withChecked_keeps e gs dst vs _ k h
@[simp] theorem withVecChecked_keeps (e : Env) (gs dst vs : List (BitVec 5)) (ms : List (BitVec 3)) (chk : List (Option Word) → Option TrapOf)
    (k : List Word → Inst → Verdict) (h : ∀ vals i, (k vals i).Keeps e.s) : (withVecChecked e gs dst vs ms chk k).Keeps e.s := by
  unfold withVecChecked; split
  · trivial
  · exact withChecked_keeps e gs dst vs chk k h
@[simp] theorem withVec_keeps (e : Env) (gs dst vs : List (BitVec 5)) (ms : List (BitVec 3)) (k : List Word → Inst → Verdict)
    (h : ∀ vals i, (k vals i).Keeps e.s) : (withVec e gs dst vs ms k).Keeps e.s := withVecChecked_keeps e gs dst vs ms _ k h
@[simp] theorem withLaunch_keeps (e : Env) (b : Verdict) (k : Launch → Verdict) (hb : b.Keeps e.s) (h : ∀ l, (k l).Keeps e.s) :
    (e.withLaunch b k).Keeps e.s := by
  unfold Env.withLaunch; split
  · exact h _
  · exact hb

@[simp] theorem finishG_keeps (e : Env) (d : BitVec 5) (r : Res) (i : Inst) :
    (finishG e d r i).Keeps e.s := by unfold finishG; split <;> simp

@[simp] theorem scalarOp_keeps (gs : List (BitVec 5)) (d : BitVec 5) (f : List Word → Res) (e : Env) : (scalarOp gs d f e).Keeps e.s :=
  withSources_keeps e gs [d] [] _ fun _ _ => by simp

/-! ### Access -/

@[simp] theorem orHeld_keeps (e : Env) (l : Launch) (ts : List Tgt) (k : Verdict) (h : k.Keeps e.s) : (orHeld e l ts k).Keeps e.s := by
  unfold orHeld; split
  · trivial
  · exact h

@[simp] theorem addAccess_agenda (e : Env) (kind : AccKind) (acq : Bool) (parts : List Part) (s : State) :
    (addAccess e kind acq parts s).agenda = s.agenda := by simp [addAccess]

@[simp] theorem issueAccess_agenda (e : Env) (kind : AccKind) (acq : Bool) (parts : List Part) (ld : Option Landing)
    (i : Inst) (s : State) :
    (issueAccess e kind acq parts ld i s).agenda = s.agenda := by simp [issueAccess]

@[simp] theorem updUid_agenda (s : State) (uid : Nat) (f : Inst → Inst) :
    (State.updUid s uid f).agenda = s.agenda := by simp [State.updUid]

@[simp] theorem clearDrops_agenda (v : Nat) (s : State) : (clearDrops v s).agenda = s.agenda := by simp [clearDrops]

@[simp] theorem mmioRead_agenda (vf o n : Nat) (s : State) :
    (mmioRead vf o n s).2.2.agenda = s.agenda := by unfold mmioRead; (repeat' split) <;> simp

@[simp] theorem addRead_agenda (id a n : Nat) (s : State) : (addRead id a n s).agenda = s.agenda := by unfold addRead; split <;> simp

@[simp] theorem cellarWrite_agenda (id : Nat) (cells : List (Nat × Byte)) (s : State) :
    (cellarWrite id cells s).agenda = s.agenda := by unfold cellarWrite; dsimp only; split <;> simp

@[simp] theorem observe_agenda (a : Access) (ids : List Nat) (s : State) :
    (observe a ids s).agenda = s.agenda := by unfold observe; (repeat' split) <;> simp

@[simp] theorem cellRead_agenda (a : Access) (x n : Nat) (s : State) : (cellRead a x n s).2.2.agenda = s.agenda := by simp [cellRead]
@[simp] theorem poisonPad_agenda (uid o n : Nat) (s : State) : (poisonPad uid o n s).agenda = s.agenda := by simp [poisonPad]

@[simp] theorem engCells_agenda (a : Access) (cells : List (Nat × Byte)) (s : State) :
    (engCells a cells s).agenda = s.agenda := by simp [engCells]

@[simp] theorem engPad_agenda (a : Access) (uid : Nat) (cells : List (Nat × Byte)) (s : State) : (engPad a uid cells s).agenda = s.agenda := by
  simp [engPad]

@[simp] theorem cellAtomic_keeps (a : Access) (p : Part) (x : Nat) (s : State) :
    (cellAtomic a p x s).Keeps s := by unfold cellAtomic; dsimp only; (repeat' split) <;> simp

@[simp] theorem padPart_keeps (a : Access) (p : Part) (uid o : Nat) (s : State) :
    (padPart a p uid o s).Keeps s := by unfold padPart; dsimp only; (repeat' split) <;> simp

@[simp] theorem flushLine_agenda (x : Nat) (s : State) : (flushLine x s).agenda = s.agenda := by simp [flushLine]

@[simp] theorem cellPart_keeps (a : Access) (p : Part) (vis : BitVec 8) (x : Nat) (s : State) :
    (cellPart a p vis x s).Keeps s := by unfold cellPart; dsimp only; (repeat' split) <;> simp

@[simp] theorem outsideRead_agenda (a : Access) (p : Part) (s : State) :
    (outsideRead a p s).agenda = s.agenda := by unfold outsideRead; split <;> simp

@[simp] theorem tryPart_keeps (a : Access) (p : Part) (vis : BitVec 8) (ans : Option Answer) (s : State) :
    (tryPart a p vis ans s).Keeps s := by unfold tryPart; (repeat' split) <;> simp

@[simp] theorem recordAcc_agenda (a : Access) (cause detail : Nat) (addr : Word) (s : State) :
    (recordAcc a cause detail addr s).agenda = s.agenda := by simp [recordAcc]

/-! ### Perform -/

@[simp] theorem updAccess_agenda (s : State) (id : Nat) (f : Access → Access) :
    (State.updAccess s id f).agenda = s.agenda := by simp [State.updAccess]

@[simp] theorem dropAccess_agenda (s : State) (id : Nat) : (State.dropAccess s id).agenda = s.agenda := by simp [State.dropAccess]

@[simp] theorem nackAccess_agenda (id : Nat) (first : Nat) (s : State) :
    (nackAccess id first s).agenda = s.agenda := by simp [nackAccess]

@[simp] theorem holdAccess_agenda (g : Nat) (a : Access) (s : State) : (holdAccess g a s).agenda = s.agenda := by simp [holdAccess]
@[simp] theorem startRetry_agenda (id : Nat) (p : Part) (s : State) : (startRetry id p s).agenda = s.agenda := by simp [startRetry]

@[simp] theorem sendPart_agenda (l : Launch) (a : Access) (n : Nat) (p : Part) (s : State) :
    (sendPart l a n p s).agenda = s.agenda := by unfold sendPart; (repeat' split) <;> simp

@[simp] theorem sendFrom_agenda (l : Launch) (a : Access) (n : Nat) (before ps : List Part) (s : State) :
    (sendFrom l a n before ps s).agenda = s.agenda := by
  induction ps generalizing n before s with
  | nil => rfl
  | cons p ps ih => simp [sendFrom, ih]

@[simp] theorem sendAccess_agenda (id : Nat) (s : State) : (sendAccess id s).agenda = s.agenda := by
  unfold sendAccess; split
  · rfl
  · split <;> simp

@[simp] theorem sendReady_agenda (s : State) : (sendReady s).agenda = s.agenda := by simp [sendReady]

@[simp] theorem partStep_agenda (a : Access) (vis : BitVec 8) (go : Nat → Part → Bool) (answers : List (Nat × Answer)) (n : Nat) (p : Part)
    (g : Prog) : (partStep a vis go answers n p g).s.agenda = g.s.agenda := by
  have ht := tryPart_keeps a p vis (answerFor answers n) g.s
  unfold partStep; split
  · rfl
  · split
    · rfl
    · rfl
    · split
      · rfl
      · simp
      · simp
      · rename_i h; rw [h] at ht; exact ht

@[simp] theorem partsFrom_agenda (a : Access) (vis : BitVec 8) (go : Nat → Part → Bool) (answers : List (Nat × Answer)) (n : Nat)
    (ps : List Part) (g : Prog) : (partsFrom a vis go answers n ps g).s.agenda = g.s.agenda := by
  induction ps generalizing n g with
  | nil => rfl
  | cons p ps ih => simp [partsFrom, ih]

@[simp] theorem writePads_agenda (pads : List (Nat × Nat × Byte)) (s : State) : (writePads pads s).agenda = s.agenda :=
  by
  unfold writePads; exact foldl_agenda _ _ s fun _ _ => rfl

@[simp] theorem unlatchParts_agenda (a : Access) (new : List Part) (s : State) :
    (unlatchParts a new s).agenda = s.agenda := by unfold unlatchParts; split <;> simp

@[simp] theorem runParts_agenda (a : Access) (vis : BitVec 8) (only : Option Nat) (answers : List (Nat × Answer)) (s : State) :
    (runParts a vis only answers s).agenda = s.agenda := by simp [runParts]

@[simp] theorem fetchArrived_agenda (a : Access) (s : State) : (fetchArrived a s).agenda = s.agenda := by simp [fetchArrived]
@[simp] theorem engArrived_agenda (n : Nat) (a : Access) (s : State) : (engArrived n a s).agenda = s.agenda := by simp [engArrived]

@[simp] theorem finishLoad_agenda (id : Nat) (s : State) :
    (finishLoad id s).agenda = s.agenda := by unfold finishLoad; (repeat' split) <;> simp

@[simp] theorem performLoad_agenda (id : Nat) (only : Option Nat) (answers : List (Nat × Answer)) (s : State) :
    (performLoad id only answers s).agenda = s.agenda := by unfold performLoad; split <;> simp

@[simp] theorem noWriteElem_agenda (a : Access) (n : Nat) (p : Part) (s : State) :
    (noWriteElem a n p s).agenda = s.agenda := by simp [noWriteElem]

@[simp] theorem foldVersions_agenda (id : Nat) (s : State) : (foldVersions id s).agenda = s.agenda := by simp [foldVersions]

@[simp] theorem refuseContrib_agenda (a : Access) (n : Nat) (s : State) :
    (refuseContrib a n s).agenda = s.agenda := by unfold refuseContrib; split <;> simp

@[simp] theorem recordStore_agenda (a : Access) (s : State) :
    (recordStore a s).agenda = s.agenda := by unfold recordStore; (repeat' split) <;> simp

@[simp] theorem finishStore_agenda (id : Nat) (s : State) :
    (finishStore id s).agenda = s.agenda := by unfold finishStore; split <;> simp

@[simp] theorem performStore_agenda (id : Nat) (die : Option Nat) (answers : List (Nat × Answer)) (s : State) :
    (performStore id die answers s).agenda = s.agenda := by
  unfold performStore; split
  · rfl
  · cases die <;> dsimp only <;> split <;> simp

@[simp] theorem stopQueue_agenda (v q : Nat) (e : QErr) (s : State) : (stopQueue v q e s).agenda = s.agenda := by simp [stopQueue]

@[simp] theorem queueFault_agenda (a : Access) (q what : Nat) (s : State) :
    (queueFault a q what s).agenda = s.agenda := by simp [queueFault]

@[simp] theorem appendPacket_agenda (a : Access) (q : Nat) (st : Status) (pkt : Nat) (s : State) :
    (appendPacket a q st pkt s).agenda = s.agenda := by unfold appendPacket; dsimp only; (repeat' split) <;> simp

@[simp] theorem putTail_agenda (v q : Nat) (new : BitVec 32) (s : State) :
    (putTail v q new s).agenda = s.agenda := by unfold putTail; split <;> simp

@[simp] theorem publish_agenda (a : Access) (q : Nat) (s : State) :
    (publish a q s).agenda = s.agenda := by unfold publish; split <;> simp

@[simp] theorem performSlot_agenda (id q : Nat) (answers : List (Nat × Answer)) (s : State) :
    (performSlot id q answers s).agenda = s.agenda := by unfold performSlot; dsimp only; (repeat' split) <;> simp

@[simp] theorem appendTail_agenda (a : Access) (q new : Nat) (s : State) :
    (appendTail a q new s).agenda = s.agenda := by unfold appendTail; dsimp only; split <;> simp

@[simp] theorem performTail_agenda (id : Nat) (answers : List (Nat × Answer)) (s : State) :
    (performTail id answers s).agenda = s.agenda := by unfold performTail; dsimp only; (repeat' split) <;> simp

/-! ### MemOps -/

@[simp] theorem issueLanding_keeps (e : Env) (l : Launch) (kind : AccKind) (acq rel : Bool) (d : BitVec 5)
    (parts : List Part) (ld : Landing) (i : Inst) :
    (issueLanding e l kind acq rel d parts ld i).Keeps e.s := by unfold issueLanding; (repeat' split) <;> simp

@[simp] theorem loadOp_keeps (signed acq : Bool) (o : LoadOp) (e : Env) : (loadOp signed acq o e).Keeps e.s := by
  unfold loadOp; refine withVec_keeps _ _ _ _ _ _ fun v i => withLaunch_keeps _ _ _ trivial fun l => ?_
  dsimp only; split
  · trivial
  · split
    · trivial
    · exact issueLanding_keeps ..

@[simp] theorem windowStore_agenda (e : Env) (w off n x : Nat) (va : Word) (i : Inst) :
    (windowStore e w off n x va i).agenda = e.s.agenda := by simp [windowStore]

@[simp] theorem storeOp_keeps (rel : Bool) (o : StoreOp) (e : Env) : (storeOp rel o e).Keeps e.s := by
  unfold storeOp; refine withChecked_keeps _ _ _ _ _ _ fun v i => withLaunch_keeps _ _ _ trivial fun l => ?_
  dsimp only; split
  · trivial
  · split
    · trivial
    · split
      · trivial
      · refine orHeld_keeps _ _ _ _ ?_
        split
        · trivial
        · split <;> simp

@[simp] theorem atomicOp_keeps (kind : AccKind) (w : Want) (acq rel : Bool) (d : BitVec 5) (land n x y : Nat) (ea : Word) (e : Env)
    (i : Inst) : (atomicOp kind w acq rel d land n x y ea e i).Keeps e.s := by
  unfold atomicOp; split
  · trivial
  · refine withLaunch_keeps _ _ _ trivial fun l => ?_
    split
    · trivial
    · split
      · trivial
      · exact issueLanding_keeps ..

@[simp] theorem amoOpWord_keeps (acq rel : Bool) (o : AmoOp) (e : Env) : (amoOpWord acq rel o e).Keeps e.s := by simp [amoOpWord]

@[simp] theorem residencyRequest_agenda (vf rcb g va isle rank : Nat) (s : State) :
    (residencyRequest vf rcb g va isle rank s).agenda = s.agenda := by simp [residencyRequest]

/-! ### EngineWords -/

@[simp] theorem queueCmd_keeps (e : Env) (word : Instr) (ds : List (BitVec 256)) (gx gy : Word) (block : List Byte)
    (ops : List Opnd) (reads writes : List (Nat × Nat)) (i : Inst) :
    (queueCmd e word ds gx gy block ops reads writes i).Keeps e.s := by unfold queueCmd; (repeat' split) <;> simp

@[simp] theorem engineOp_keeps (word : Instr) (needMx stops : Bool) (ts : List (BitVec 6)) (gs : List (BitVec 5))
    (mk : List Desc → List Clause × List Opnd) (e : Env) : (engineOp word needMx stops ts gs mk e).Keeps e.s := by
  unfold engineOp; dsimp only
  repeat' first | trivial | split | refine withLaunch_keeps _ _ _ trivial fun l => ?_ | refine withSources_keeps _ _ _ _ _ fun v i => ?_
  exact queueCmd_keeps ..

/-! ### EngineData -/

@[simp] theorem addEngAccess_agenda (v : Eng) (kind : AccKind) (parts : List Part) (s : State) :
    (addEngAccess v kind parts s).agenda = s.agenda := by simp [addEngAccess]

@[simp] theorem askFor_agenda (v : Eng) (rs : List Span) (s : State) : (askFor v rs s).agenda = s.agenda := by simp [askFor]

@[simp] theorem engTouch_agenda (v : Eng) (us : List EUnit) (s : State) : (engTouch v us s).agenda = s.agenda := by
  unfold engTouch; exact foldl_agenda _ us s fun s u => by split <;> simp

@[simp] theorem engFault_agenda (v : Eng) (cause detail : Nat) (addr : Word) (s : State) :
    (engFault v cause detail addr s).agenda = s.agenda := by simp [engFault]

@[simp] theorem logRow_agenda (v : Eng) (e : EccName) (us : List (EUnit × Status)) (s : State) : (logRow v e us s).agenda = s.agenda := by
  unfold logRow; dsimp only; split
  · rw [engFault_agenda]; exact foldl_agenda _ us s fun t u => by split <;> rfl
  · exact foldl_agenda _ us s fun t u => by split <;> rfl

@[simp] theorem readUnits_agenda (v : Eng) (e : EccName) (us : List EUnit) (s : State) :
    ∀ x, readUnits v e us s = some x → x.2.agenda = s.agenda := by unfold readUnits; split <;> simp

theorem readRow_agenda {v : Eng} {e : EccName} {d : Desc} {r : Nat} {s : State} {t : State} {x : List Nat}
    (h : readRow v e d r s = some (x, t)) : t.agenda = s.agenda := by
  unfold readRow at h
  obtain ⟨y, hy, e⟩ := Option.map_eq_some_iff.mp h
  cases e; exact readUnits_agenda v _ _ s y hy

theorem readRows_agenda {v : Eng} {e : EccName} {d : Desc} {n r : Nat} {s t : State} {x : List (List Nat)}
    (h : readRows v e d n r s = some (x, t)) : t.agenda = s.agenda := by
  induction n generalizing r s x with
  | zero => cases h; rfl
  | succ n ih =>
    unfold readRows at h; split at h
    · cases h
    · rename_i hr
      obtain ⟨y, hy, e⟩ := Option.map_eq_some_iff.mp h
      cases e; exact (ih hy).trans (readRow_agenda hr)

theorem readScales_agenda {v : Eng} {e : EccName} {d : Desc} {use : Bool} {n r : Nat} {s t : State} {x : List (List Nat)}
    (h : readScales v e d use n r s = some (x, t)) : t.agenda = s.agenda := by
  induction n generalizing r s x with
  | zero => cases h; rfl
  | succ n ih =>
    unfold readScales at h; split at h
    · obtain ⟨y, hy, e⟩ := Option.map_eq_some_iff.mp h
      cases e; exact ih hy
    · split at h
      · cases h
      · rename_i hr
        obtain ⟨y, hy, e⟩ := Option.map_eq_some_iff.mp h
        cases e; exact (ih hy).trans (readUnits_agenda _ _ _ _ _ hr)

@[simp] theorem engSlice_agenda (v : Eng) (cells : List (Nat × Byte)) (s : State) :
    (engSlice v cells s).agenda = s.agenda := by simp [engSlice]

@[simp] theorem engStore_agenda (v : Eng) (kind : AccKind) (parts : List Part) (s : State) :
    (engStore v kind parts s).agenda = s.agenda := by simp [engStore]

@[simp] theorem writeBytes_agenda (v : Eng) (space : Nat) (a : Int) (bs : List Byte) (s : State) :
    ∀ t, writeBytes v space a bs s = some t → t.agenda = s.agenda := by unfold writeBytes; (repeat' split) <;> simp

theorem writeRow_agenda {v : Eng} {d : Desc} {r : Nat} {xs : List Nat} {s t : State} (h : writeRow v d r xs s = some t) :
    t.agenda = s.agenda := writeBytes_agenda v _ _ _ s t h

@[simp] theorem clearCovered_agenda (v : Eng) (space : Nat) (ranges : List (Nat × Nat)) (s : State) :
    (clearCovered v space ranges s).agenda = s.agenda := by simp [clearCovered]

@[simp] theorem logAcc_agenda (v : Eng) (e c : Nat) (xs : List (Nat × Nat)) (s : State) :
    (logAcc v e c xs s).agenda = s.agenda := by simp [logAcc]

/-! ### FabricWords -/

@[simp] theorem fabricOp_keeps (word : Instr) (needMx : Bool) (ts : List (BitVec 6)) (gs : List (BitVec 5)) (hs : List (BitVec 3))
    (judge : Env → Launch → Shown → Judged) (e : Env) : (fabricOp word needMx ts gs hs judge e).Keeps e.s := by
  unfold fabricOp; dsimp only
  repeat' first | trivial | split | refine withLaunch_keeps _ _ _ trivial fun l => ?_ | refine withChecked_keeps _ _ _ _ _ _ fun v i => ?_
  all_goals exact queueCmd_keeps ..

/-! ### Engines -/

theorem cpyRow_agenda {v : Eng} {o : CpyOp} {r : Nat} {s t : State} (h : cpyRow v o r s = some t) : t.agenda = s.agenda := by
  grind [cpyRow, → readRow_agenda, → writeRow_agenda]

theorem wloadRow_agenda {v : Eng} {o : CpyOp} {r : Nat} {s t : State} (h : wloadRow v o r s = some t) : t.agenda = s.agenda := by
  grind [wloadRow, → readRow_agenda, → readUnits_agenda, → writeRow_agenda, → writeBytes_agenda]

theorem foldl_option_agenda {β : Type} (f : State → β → Option State) (h : ∀ s b t, f s b = some t → t.agenda = s.agenda) (l : List β)
    (s t : State) (ht : l.foldl (fun o b => match o with
      | none => none
      | some s => f s b) (some s) = some t) : t.agenda = s.agenda := by
  induction l generalizing s with
  | nil => cases ht; rfl
  | cons b l ih =>
    rw [List.foldl_cons] at ht
    cases hb : f s b with
    | none =>
      have hn : l.foldl (fun o b => match o with
        | none => none
        | some s => f s b) none = none := List.foldl_fixed' (fun _ => rfl) l
      simp only [hb, hn] at ht; cases ht
    | some u => simp only [hb] at ht; exact (ih u ht).trans (h s b u hb)
theorem transAll_agenda {v : Eng} {o : CpyOp} {s t : State} (h : transAll v o s = some t) : t.agenda = s.agenda := by
  unfold transAll at h; dsimp only at h; split at h
  · cases h
  · rename_i xs u hx
    exact (foldl_option_agenda _ (fun _ _ _ => writeRow_agenda) _ u t h).trans (readRows_agenda hx)

theorem readIdx_agenda {v : Eng} {x : BitVec 6} {s t : State} (h : readIdx v x s = some t) : t.agenda = s.agenda := by
  unfold readIdx at h; dsimp only at h; split at h
  · cases h
  · cases h; simp

theorem gatherRow_agenda {v : Eng} {o : IdxOp} {r : Nat} {s t : State} (h : gatherRow v o r s = some t) : t.agenda = s.agenda := by
  grind [gatherRow, → readRow_agenda, → writeRow_agenda]

theorem scatterRow_agenda {v : Eng} {o : IdxOp} {r : Nat} {s t : State} (h : scatterRow v o r s = some t) : t.agenda = s.agenda := by
  grind [scatterRow, → readRow_agenda, → writeRow_agenda]

@[simp] theorem scaddPad_agenda (v : Eng) (o : IdxOp) (d : Desc) (row col x : Nat) (s : State) :
    ∀ t, scaddPad v o d row col x s = some t → t.agenda = s.agenda := by unfold scaddPad; dsimp only; (repeat' split) <;> simp

theorem scaddPads_agenda {v : Eng} {o : IdxOp} {d : Desc} {row k : Nat} {xs : List Nat} {s t : State}
    (h : scaddPads v o d row k xs s = some t) : t.agenda = s.agenda := by
  induction xs generalizing k s with
  | nil => grind [scaddPads]
  | cons x xs ih => grind [scaddPads, → scaddPad_agenda]

theorem scaddElems_agenda {v : Eng} {o : IdxOp} {d : Desc} {z : Nat} {xs : List Nat} {s t : State} (h : scaddElems v o d z xs s = some t) :
    t.agenda = s.agenda := by
  grind [scaddElems, → scaddPads_agenda, engStore_agenda]

theorem scaddRow_agenda {v : Eng} {o : IdxOp} {r : Nat} {s t : State} (h : scaddRow v o r s = some t) : t.agenda = s.agenda := by
  grind [scaddRow, → readRow_agenda, → scaddElems_agenda]

theorem copyRow_agenda {v : Eng} {r : Nat} {s t : State} (h : copyRow v r s = some t) : t.agenda = s.agenda := by
  grind [copyRow, → cpyRow_agenda, → wloadRow_agenda, → transAll_agenda, → gatherRow_agenda, → scatterRow_agenda, → scaddRow_agenda]

@[simp] theorem copyStep_agenda (k id : Nat) (s : State) : (copyStep k id s).1.agenda = s.agenda := by
  unfold copyStep; grind [→ copyRow_agenda, → readIdx_agenda, askFor_agenda, updInst_agenda]

@[simp] theorem latchedB_agenda (v : Eng) (o : MxmOp) (b : Desc) (l : Latch) (s : State) : (latchedB v o b l s).2.2.agenda = s.agenda := by
  simp [latchedB]

theorem readB_agenda {v : Eng} {o : MxmOp} {b : Desc} {s : State} {t : State} {x y : List (List Nat)}
    (h : readB v o b s = some (x, y, t)) : t.agenda = s.agenda := by
  grind [readB, → readRows_agenda, → readScales_agenda, latchedB_agenda, updUid_agenda]

theorem mxmAll_agenda {v : Eng} {o : MxmOp} {s t : State} (h : mxmAll v o s = some t) : t.agenda = s.agenda := by
  unfold mxmAll at h; dsimp only at h; split at h
  · cases h; rfl
  · split at h
    · cases h
    · rename_i hx
      split at h
      · cases h
      · rename_i hg
        split at h
        · cases h
        · rename_i hb
          cases h; simp [readB_agenda hb, readScales_agenda hg, readRows_agenda hx]

@[simp] theorem mxzAll_agenda (v : Eng) (o : MxzOp) (s : State) : (mxzAll v o s).agenda = s.agenda := by simp [mxzAll]

theorem mxdRows_agenda {v : Eng} {o : MxdOp} {n r : Nat} {s t : State} (h : mxdRows v o n r s = some t) : t.agenda = s.agenda := by
  induction n generalizing r s with
  | zero => grind [mxdRows]
  | succ n ih => grind [mxdRows, → writeRow_agenda]

theorem mxdAll_agenda {v : Eng} {o : MxdOp} {s t : State} (h : mxdAll v o s = some t) : t.agenda = s.agenda := by
  obtain ⟨u, hu, rfl⟩ := Option.map_eq_some_iff.mp h
  simp [mxdRows_agenda hu]

theorem attRead_agenda {v : Eng} {eq ek ev : EccName} {q k t : Desc} {s t' : State} {x y z : List (List Nat)}
    (h : attRead v eq ek ev q k t s = some (x, y, z, t')) : t'.agenda = s.agenda := by
  unfold attRead at h; split at h
  · cases h
  · split at h
    · cases h
    · rename_i hq _ _ _ hk
      obtain ⟨r, hr, e⟩ := Option.map_eq_some_iff.mp h
      cases e; exact (readRows_agenda hr).trans ((readRows_agenda hk).trans (readRows_agenda hq))

@[simp] theorem attApply_agenda (v : Eng) (x : AttIn) (o t : Nat) (s : State) :
    (attApply v x o t s).agenda = s.agenda := by simp [attApply]

theorem attAll_agenda {v : Eng} {o : AttOp} {s t : State} (h : attAll v o s = some t) : t.agenda = s.agenda := by
  grind [attAll, → attRead_agenda, attApply_agenda]

@[simp] theorem finishCmd_agenda (k id : Nat) (s : State) : (finishCmd k id s).agenda = s.agenda := by simp [finishCmd]
@[simp] theorem runPhase_agenda (k id : Nat) (p : Phase) (s : State) : (runPhase k id p s).agenda = s.agenda := by simp [runPhase]

@[simp] theorem endCmd_agenda (k id : Nat) (s : State) :
    (endCmd k id s).agenda = s.agenda := by unfold endCmd; (repeat' split) <;> simp

@[simp] theorem copySteps_agenda (n k id : Nat) (s : State) : (copySteps n k id s).agenda = s.agenda := by
  induction n generalizing s with
  | zero => rfl
  | succ n ih => grind [copySteps, copyStep_agenda]

/-- A command that may fail to read or write goes on from the state that it leaves, else from the one before it. -/
theorem getElse_agenda {s : State} (o : Option State) (f : State → State) (hf : ∀ t, (f t).agenda = t.agenda)
    (h : ∀ t, o = some t → t.agenda = s.agenda) : (match o with
      | none => s
      | some t => f t).agenda = s.agenda := by
  cases o with
  | none => rfl
  | some t => exact (hf t).trans (h t rfl)
@[simp] theorem runCmd_agenda (k : Nat) (i : Inst) (c : Cmd) (row : Option Nat) (s : State) : (runCmd k i c row s).agenda = s.agenda := by
  have hfin := fun o => getElse_agenda (s := s) o (endCmd k c.id) (by simp)
  unfold runCmd
  split
  · simp
  · split
    · rfl
    · split
      · split
        · rfl
        · split
          · split <;> simp
          · dsimp only; split <;> simp
      · split
        · rfl
        · split
          · exact hfin _ fun _ => mxmAll_agenda
          · exact hfin _ fun _ => mxmAll_agenda
          · simp
          · exact hfin _ fun _ => mxdAll_agenda
          · exact hfin _ fun _ => attAll_agenda
          · rfl

/-! ### Circuits -/

@[simp] theorem updHandle_agenda (k h : Nat) (f : Handle → Handle) (s : State) :
    (updHandle k h f s).agenda = s.agenda := by simp [updHandle]

@[simp] theorem copenFails_agenda (k h id : Nat) (s : State) : (copenFails k h id s).agenda = s.agenda := by simp [copenFails]

@[simp] theorem straitProbe_agenda (k h : Nat) (x : Handle) (part : Partition) (s : State) :
    ∀ t, straitProbe k h x part s = some t → t.agenda = s.agenda := by unfold straitProbe; dsimp only; (repeat' split) <;> simp

@[simp] theorem copenAct_agenda (k : Nat) (c : Cmd) (o : CopenOp) (s : State) : (copenAct k c o s).agenda = s.agenda := by
  unfold copenAct; split
  · rfl
  · rename_i i _
    dsimp only; split
    · simp
    · split
      · simp
      · split
        · simp
        · rename_i l _
          cases h : straitProbe k o.h.toNat (copenTake c (some l.eff) (i.handle o.h.toNat)) l.part
              (updHandle k o.h.toNat (fun _ => copenTake c (some l.eff) (i.handle o.h.toNat)) (runPhase k c.id .probing s)) with
          | none => simp
          | some t => simp [straitProbe_agenda _ _ _ _ _ _ h]

@[simp] theorem copenStart_agenda (k : Nat) (c : Cmd) (o : CopenOp) (s : State) :
    (copenStart k c o s).agenda = s.agenda := by unfold copenStart; split <;> simp

@[simp] theorem copenOpens_agenda (k : Nat) (c : Cmd) (h : Nat) (s : State) :
    (copenOpens k c h s).agenda = s.agenda := by simp [copenOpens]

@[simp] theorem addStrait_agenda (f : Flow) (h : Nat) (s : State) : (addStrait f h s).agenda = s.agenda := by simp [addStrait]

@[simp] theorem copenDone_agenda (k : Nat) (c : Cmd) (o : CopenOp) (ext : List (Nat × Answer)) (s : State) :
    (copenDone k c o ext s).agenda = s.agenda := by unfold copenDone; (repeat' split) <;> simp

@[simp] theorem choldStart_agenda (k : Nat) (c : Cmd) (o : HgOp) (s : State) :
    (choldStart k c o s).agenda = s.agenda := by simp [choldStart]

@[simp] theorem logStream_agenda (k a n : Nat) (s : State) :
    (logStream k a n s).agenda = s.agenda := by unfold logStream; split <;> simp

@[simp] theorem sendStrait_agenda (k h : Nat) (x : Handle) (part : Partition) (frm : Nat) (bs : List Byte) (s : State) :
    (sendStrait k h x part frm bs s).agenda = s.agenda := by simp [sendStrait]

@[simp] theorem csendStart_agenda (k : Nat) (c : Cmd) (o : HgOp) (resume : Bool) (s : State) :
    (csendStart k c o resume s).agenda = s.agenda := by unfold csendStart; dsimp only; (repeat' split) <;> simp

@[simp] theorem finishAll_agenda (k : Nat) (p : Cmd → Bool) (s : State) : (finishAll k p s).agenda = s.agenda := by
  unfold finishAll; split
  · rfl
  · rw [sweep_agenda]; exact foldl_agenda _ _ s fun _ _ => rfl

@[simp] theorem straitToken_agenda (k h at_ : Nat) (s : State) :
    (straitToken k h at_ s).agenda = s.agenda := by unfold straitToken; split <;> simp

@[simp] theorem breakStrait_agenda (k h : Nat) (cause : BitVec 4) (s : State) :
    (breakStrait k h cause s).agenda = s.agenda := by unfold breakStrait; dsimp only; (repeat' split) <;> simp

@[simp] theorem execFallbackDone_goes (isle h : Nat) (s : State) :
    Goes s (execFallbackDone isle h s) := by unfold execFallbackDone; (repeat' split) <;> simp

@[simp] theorem execLeaseExpiry_goes (isle h : Nat) (s : State) :
    Goes s (execLeaseExpiry isle h s) := by unfold execLeaseExpiry; (repeat' split) <;> simp

@[simp] theorem cshutDone_agenda (k : Nat) (c : Cmd) (o : HOp) (s : State) :
    (cshutDone k c o s).agenda = s.agenda := by unfold cshutDone; dsimp only; (repeat' split) <;> simp

@[simp] theorem cshutStart_agenda (k : Nat) (c : Cmd) (o : HOp) (s : State) :
    (cshutStart k c o s).agenda = s.agenda := by unfold cshutStart; split <;> simp

@[simp] theorem cstatStart_agenda (k : Nat) (c : Cmd) (o : HgOp) (s : State) :
    (cstatStart k c o s).agenda = s.agenda := by simp [cstatStart]

@[simp] theorem cstatDone_agenda (k : Nat) (i : Inst) (c : Cmd) (s : State) : (cstatDone k i c s).agenda = s.agenda := by
  unfold cstatDone; split
  · rfl
  · split
    · rfl
    · rename_i h; simp [writeBytes_agenda _ _ _ _ _ _ h]

@[simp] theorem ciStart_agenda (k : Nat) (i : Inst) (c : Cmd) (s : State) :
    (ciStart k i c s).agenda = s.agenda := by unfold ciStart; (repeat' split) <;> simp

@[simp] theorem ciDone_agenda (k : Nat) (i : Inst) (c : Cmd) (ext : List (Nat × Answer)) (s : State) :
    (ciDone k i c ext s).agenda = s.agenda := by unfold ciDone; split <;> simp

/-! ### Collect -/

@[simp] theorem treeWrite_agenda (k n : Nat) (i : Inst) (c : Cmd) (image : TreeEntry) (tenant : Nat) (s : State) :
    (treeWrite k n i c image tenant s).agenda = s.agenda := by unfold treeWrite; split <;> simp

@[simp] theorem treeStart_agenda (k : Nat) (i : Inst) (c : Cmd) (s : State) :
    (treeStart k i c s).agenda = s.agenda := by unfold treeStart; split <;> simp

@[simp] theorem sendContrib_agenda (v : Eng) (own : Contribution) (s : State) : (sendContrib v own s).agenda = s.agenda := by
  unfold sendContrib; exact foldl_agenda _ _ _ fun _ _ => rfl

@[simp] theorem collJudge_agenda (k id : Nat) (s : State) :
    (collJudge k id s).agenda = s.agenda := by unfold collJudge; dsimp only; (repeat' split) <;> simp

@[simp] theorem collStart_agenda (k : Nat) (i : Inst) (c : Cmd) (s : State) : (collStart k i c s).agenda = s.agenda := by
  unfold collStart; split
  · rfl
  · dsimp only; split
    · rfl
    · rename_i u hr
      have hu : u.agenda = s.agenda := by
        split_ifs at hr
        · exact readRows_agenda hr
        · cases hr; rfl
      simp [hu]

@[simp] theorem contribute_agenda (k : Nat) (c : Contribution) (s : State) :
    (contribute k c s).agenda = s.agenda := by unfold contribute; dsimp only; (repeat' split) <;> simp

@[simp] theorem execCollectiveContribution_goes (isle : Nat) (c : Contribution) (s : State) :
    Goes s (execCollectiveContribution isle c s) := by simp [execCollectiveContribution]

theorem collRows_agenda {v : Eng} {xs : List Nat} {n r : Nat} {s t : State} (h : collRows v xs n r s = some t) : t.agenda = s.agenda := by
  induction n generalizing r s with
  | zero => cases h; rfl
  | succ n ih =>
    unfold collRows at h; dsimp only at h; split at h
    · cases h
    · rename_i hw; exact (ih h).trans (writeRow_agenda hw)

@[simp] theorem collDone_agenda (k : Nat) (i : Inst) (c : Cmd) (s : State) : (collDone k i c s).agenda = s.agenda := by
  unfold collDone; split
  · rfl
  · split
    · rfl
    · rename_i h; simp [collRows_agenda h]

@[simp] theorem execMulticastForward_goes (tree tenant : Nat) (c : Contribution) (s : State) :
    Goes s (execMulticastForward tree tenant c s) := by unfold execMulticastForward; dsimp only; split <;> simp

@[simp] theorem updRing_agenda (k id : Nat) (f : Ring → Ring) (s : State) : (updRing k id f s).agenda = s.agenda := by simp [updRing]

@[simp] theorem logCask_agenda (k : Nat) (i : Inst) (c : Cmd) (base : Nat) (s : State) :
    (logCask k i c base s).agenda = s.agenda := by simp [logCask]

@[simp] theorem ringProbe_agenda (k : Nat) (c : Cmd) (l : Launch) (pre : Bool) (s : State) :
    ∀ t, ringProbe k c l pre s = some t → t.agenda = s.agenda := by unfold ringProbe; dsimp only; (repeat' split) <;> simp

@[simp] theorem askRing_agenda (k : Nat) (c : Cmd) (i : Inst) (s : State) : (askRing k c i s).agenda = s.agenda := by
  unfold askRing; dsimp only
  generalize hu : updRing k c.id (fun r => { r with asked := true, tried := s.time }) s = u
  have hs : u.agenda = s.agenda := by simp [← hu]
  cases h : (u.launch i.launch).bind (fun l => ringProbe k c l c.ring.pre u) with
  | none => exact hs
  | some t =>
    obtain ⟨l, -, ht⟩ := Option.bind_eq_some_iff.mp h
    exact (ringProbe_agenda _ _ _ _ _ t ht).trans hs

@[simp] theorem rotaSend_agenda (k : Nat) (c : Cmd) (i : Inst) (s : State) : (rotaSend k c i s).agenda = s.agenda := by simp [rotaSend]

@[simp] theorem returnTokens_agenda (k : Nat) (c : Cmd) (m : Nat) (s : State) : (returnTokens k c m s).agenda = s.agenda := by
  unfold returnTokens; exact foldl_agenda _ _ s fun _ _ => rfl

@[simp] theorem rotaReturn_agenda (k : Nat) (c : Cmd) (s : State) : (rotaReturn k c s).agenda = s.agenda := by simp [rotaReturn]
@[simp] theorem endRing_agenda (k : Nat) (c : Cmd) (s : State) : (endRing k c s).agenda = s.agenda := by simp [endRing]

@[simp] theorem rotaPump_agenda (fuel k id : Nat) (s : State) : (rotaPump fuel k id s).agenda = s.agenda := by
  induction fuel generalizing s with
  | zero => rfl
  | succ fuel ih =>
    unfold rotaPump; split
    · rfl
    · split
      · rfl
      · dsimp only; split
        · simp
        · split <;> simp [ih]

@[simp] theorem rotaStart_agenda (k : Nat) (i : Inst) (c : Cmd) (s : State) : (rotaStart k i c s).agenda = s.agenda := by
  unfold rotaStart; split
  · rfl
  · dsimp only; split
    · rfl
    · simp

theorem rotaCopy_agenda {v : Eng} {j : Nat} {s t : State} (h : rotaCopy v j s = some t) : t.agenda = s.agenda := by
  have := writeBytes_agenda _ _ _ _ _ t h
  simpa using this

theorem rotaAtt_agenda {v : Eng} {o : RotaOp} {j : Nat} {s t : State} (h : rotaAtt v o j s = some t) : t.agenda = s.agenda := by
  unfold rotaAtt at h; dsimp only at h; split at h
  · cases h
  · rename_i ha; cases h; simp [attRead_agenda ha]

@[simp] theorem execCaskConsumed_goes (isle : Nat) (s : State) : Goes s (execCaskConsumed isle s) := by
  unfold execCaskConsumed; split
  · simp
  · dsimp only; split
    · simp
    · split
      · simp
      · rename_i t ht
        have hs : t.agenda = s.agenda := by
          split at ht
          · split at ht
            · exact rotaAtt_agenda ht
            · exact rotaCopy_agenda ht
          · cases ht
        simp [hs]

@[simp] theorem execCaskArrival_goes (isle size n : Nat) (data : List Byte) (s : State) : Goes s (execCaskArrival isle size n data s) := by
  unfold execCaskArrival; split
  · simp
  · dsimp only; split
    · simp
    · split
      · simp
      · rename_i h; simp [writeBytes_agenda _ _ _ _ _ _ h]

@[simp] theorem execRackTokenArrival_goes (isle fromPeer label : Nat) (s : State) : Goes s (execRackTokenArrival isle fromPeer label s) := by
  unfold execRackTokenArrival; dsimp only; split
  · simp
  · rw [goes_ite]; simp

@[simp] theorem breakRing_agenda (k : Nat) (cause : BitVec 4) (s : State) :
    (breakRing k cause s).agenda = s.agenda := by unfold breakRing; split <;> simp

@[simp] theorem resumeCasks_agenda (k : Nat) (i : Inst) (c : Cmd) (s : State) : (resumeCasks k i c s).agenda = s.agenda := by
  unfold resumeCasks; exact foldl_agenda _ _ s fun _ _ => rfl

@[simp] theorem ringOpens_agenda (k : Nat) (i : Inst) (c : Cmd) (s : State) :
    (ringOpens k i c s).agenda = s.agenda := by simp [ringOpens]

@[simp] theorem reopenFails_agenda (k : Nat) (c : Cmd) (s : State) : (reopenFails k c s).agenda = s.agenda := by simp [reopenFails]

@[simp] theorem execRotaReopen_goes (isle : Nat) (opened : Bool) (s : State) : Goes s (execRotaReopen isle opened s) := by
  unfold execRotaReopen; split
  · simp
  · split
    · simp
    · rename_i h
      obtain ⟨l, -, ht⟩ := Option.bind_eq_some_iff.mp h
      split <;> simp [ringProbe_agenda _ _ _ _ _ _ ht]

@[simp] theorem execFailureMarkArrival_goes (isle label : Nat) (s : State) :
    Goes s (execFailureMarkArrival isle label s) := by unfold execFailureMarkArrival; dsimp only; split <;> simp

@[simp] theorem ringToken_agenda (k off : Nat) (s : State) : (ringToken k off s).agenda = s.agenda := by
  unfold ringToken; split <;> simp

@[simp] theorem clStart_agenda (k : Nat) (i : Inst) (c : Cmd) (s : State) :
    (clStart k i c s).agenda = s.agenda := by unfold clStart; split <;> simp

/-! ### Tide -/

@[simp] theorem supersede_agenda (l region : Nat) (s : State) : (supersede l region s).agenda = s.agenda := by simp [supersede]
@[simp] theorem grantReached_agenda (l : Nat) (s : State) : (grantReached l s).agenda = s.agenda := by simp [grantReached]

@[simp] theorem tideStart_agenda (k : Nat) (c : Cmd) (o : TideOp) (s : State) :
    (tideStart k c o s).agenda = s.agenda := by unfold tideStart; (repeat' split) <;> simp

@[simp] theorem execTurnStart_goes (link : Nat) (s : State) :
    Goes s (execTurnStart link s) := by unfold execTurnStart; dsimp only; (repeat' split) <;> simp

@[simp] theorem execTurnEnd_goes (link : Nat) (s : State) :
    Goes s (execTurnEnd link s) := by unfold execTurnEnd; dsimp only; (repeat' split) <;> simp

@[simp] theorem execTideExpired_goes (link region : Nat) (s : State) :
    Goes s (execTideExpired link region s) := by simp [execTideExpired]

/-! ### EngineEvents -/

@[simp] theorem startDataCmd_agenda (k : Nat) (c : Cmd) (s : State) : (startDataCmd k c s).agenda = s.agenda := by simp [startDataCmd]

@[simp] theorem startTide_agenda (k : Nat) (c : Cmd) (s : State) :
    (startTide k c s).agenda = s.agenda := by unfold startTide; split <;> simp

@[simp] theorem startCmd_agenda (e : Engine) (k : Nat) (i : Inst) (c : Cmd) (s : State) :
    (startCmd e k i c s).agenda = s.agenda := by unfold startCmd; split <;> simp

@[simp] theorem execEngineCommandStart_goes (isle : Nat) (engine : Engine) (cmd : Nat) (s : State) :
    Goes s (execEngineCommandStart isle engine cmd s) := by unfold execEngineCommandStart; (repeat' split) <;> simp

@[simp] theorem completeCmd_agenda (e : Engine) (k : Nat) (i : Inst) (c : Cmd) (row : Option Nat) (ext : List (Nat × Answer))
    (s : State) :
    (completeCmd e k i c row ext s).agenda = s.agenda := by unfold completeCmd; (repeat' split) <;> simp

@[simp] theorem execEngineCommandComplete_goes (isle : Nat) (engine : Engine) (cmd : Nat) (row : Option Nat) (ext : List
    (Nat × Answer)) (s : State) :
    Goes s (execEngineCommandComplete isle engine cmd row ext s) := by unfold execEngineCommandComplete; (repeat' split) <;> simp

/-! ### Ingress -/

@[simp] theorem cellRequest_agenda (as : List Nat) (kind : ReqKind) (s : State) :
    (cellRequest as kind s).2.2.agenda = s.agenda := by unfold cellRequest; dsimp only; (repeat' split) <;> simp

@[simp] theorem padRequest_agenda (k o : Nat) (kind : ReqKind) (s : State) :
    (padRequest k o kind s).2.2.agenda = s.agenda := by unfold padRequest; dsimp only; (repeat' split) <;> simp

@[simp] theorem performRequest_agenda (addr : Nat) (kind : ReqKind) (s : State) :
    (performRequest addr kind s).2.2.agenda = s.agenda := by unfold performRequest; split <;> simp

@[simp] theorem reply_agenda (src : Nat) (a : Answer) (value : Nat) (s : State) :
    (reply src a value s).agenda = s.agenda := by simp [reply]

@[simp] theorem answerRequest_agenda (r : IngressReq) (s : State) : (answerRequest r s).agenda = s.agenda := by simp [answerRequest]

@[simp] theorem holdRequest_agenda (g : Nat) (r : IngressReq) (s : State) :
    (holdRequest g r s).agenda = s.agenda := by simp [holdRequest]

@[simp] theorem forwardRequest_agenda (holder : Nat) (r : IngressReq) (s : State) :
    (forwardRequest holder r s).agenda = s.agenda := by simp [forwardRequest]

@[simp] theorem placeAt_agenda (g : Nat) (r : IngressReq) (s : State) :
    (placeAt g r s).agenda = s.agenda := by unfold placeAt; dsimp only; (repeat' split) <;> simp

@[simp] theorem placeRequest_agenda (r : IngressReq) (s : State) : (placeRequest r s).agenda = s.agenda := by
  unfold placeRequest; split
  · simp
  · simp
  · split
    · simp
    · exact foldl_agenda _ _ s fun s q => by split <;> simp

@[simp] theorem arriveRequest_agenda (r : IngressReq) (s : State) : (arriveRequest r s).agenda = s.agenda := by simp [arriveRequest]

@[simp] theorem guestRequest_agenda (h : Nat) (r : IngressReq) (s : State) :
    (guestRequest h r s).agenda = s.agenda := by unfold guestRequest; split <;> simp

@[simp] theorem arriveAny_agenda (r : IngressReq) (s : State) :
    (arriveAny r s).agenda = s.agenda := by unfold arriveAny; split <;> simp

@[simp] theorem execIngressRequest_goes (r : IngressReq) (s : State) :
    Goes s (execIngressRequest r s) := by unfold execIngressRequest; (repeat' split) <;> simp

/-! ### Promotion -/

@[simp] theorem deliver_agenda (k off : Nat) (data : List Byte) (s : State) :
    ∀ t, deliver k off data s = some t → t.agenda = s.agenda := by unfold deliver; split <;> simp

@[simp] theorem deliverCircuit_agenda (k off : Nat) (data : List Byte) (s : State) : (deliverCircuit k off data s).agenda = s.agenda := by
  unfold deliverCircuit
  cases h : deliver k off data s with
  | none => rfl
  | some t => exact deliver_agenda _ _ _ _ t h

@[simp] theorem deliverPacket_agenda (src k off : Nat) (data : List Byte) (s : State) : (deliverPacket src k off data s).agenda = s.agenda := by
  unfold deliverPacket; split
  · rename_i h; simp [deliver_agenda _ _ _ _ _ h]
  · rfl

@[simp] theorem updReceiver_agenda (s : State) (f : Flow) (g : Receiver → Receiver) :
    (State.updReceiver s f g).agenda = s.agenda := by simp [State.updReceiver]

@[simp] theorem execWindowPacketArrival_goes (p : WindowPacket) (s : State) :
    Goes s (execWindowPacketArrival p s) := by unfold execWindowPacketArrival; dsimp only; (repeat' split) <;> simp

@[simp] theorem sendToken_agenda (f : Flow) (kind : CircKind) (off : Nat) (s : State) :
    (sendToken f kind off s).agenda = s.agenda := by simp [sendToken]

@[simp] theorem sendTokens_agenda (f : Flow) (kind : CircKind) (n off : Nat) (s : State) : (sendTokens f kind n off s).agenda = s.agenda := by
  induction n generalizing off s with
  | zero => rfl
  | succ n ih => simp [sendTokens, ih]

@[simp] theorem addCircuit_agenda (f : Flow) (kind : CircKind) (s : State) :
    (addCircuit f kind s).agenda = s.agenda := by unfold addCircuit; split <;> simp

@[simp] theorem answerProbe_agenda (f : Flow) (kind : CircKind) (good : Bool) (backs : Nat) (s : State) :
    (answerProbe f kind good backs s).agenda = s.agenda := by simp [answerProbe]

@[simp] theorem probeArrives_agenda (p : Probe) (s : State) :
    (probeArrives p s).agenda = s.agenda := by unfold probeArrives; dsimp only; split <;> simp

@[simp] theorem execProbeArrival_goes (p : Probe) (s : State) : Goes s (execProbeArrival p s) := by simp [execProbeArrival]

@[simp] theorem circuitWrite_agenda (f : Flow) (off : Nat) (data : List Byte) (s : State) : (circuitWrite f off data s).agenda = s.agenda := by
  unfold circuitWrite; split <;> simp

@[simp] theorem straitData_agenda (f : Flow) (h : Nat) (d : CircuitData) (s : State) : (straitData f h d s).agenda = s.agenda := by
  unfold straitData; split
  · rfl
  · dsimp only; split <;> split <;> simp

@[simp] theorem promotedData_agenda (f : Flow) (d : CircuitData) (s : State) :
    (promotedData f d s).agenda = s.agenda := by unfold promotedData; (repeat' split) <;> simp

@[simp] theorem circuitArrives_agenda (d : CircuitData) (s : State) :
    (circuitArrives d s).agenda = s.agenda := by unfold circuitArrives; split <;> simp

@[simp] theorem execCircuitDataArrival_goes (c : CircuitSrc) (off : Nat) (data : List Byte) (s : State) :
    Goes s (execCircuitDataArrival c off data s) := by simp [execCircuitDataArrival]

@[simp] theorem markArrives_agenda (f : Flow) (off : Nat) (s : State) :
    (markArrives f off s).agenda = s.agenda := by unfold markArrives; split <;> simp

@[simp] theorem execMarkedPacketArrival_goes (f : Flow) (off : Nat) (s : State) :
    Goes s (execMarkedPacketArrival f off s) := by simp [execMarkedPacketArrival]

@[simp] theorem freeReceiver_agenda (f : Flow) (s : State) :
    (freeReceiver f s).agenda = s.agenda := by unfold freeReceiver; split <;> simp

@[simp] theorem demotionArrives_agenda (f : Flow) (s : State) :
    (demotionArrives f s).agenda = s.agenda := by unfold demotionArrives; split <;> simp

@[simp] theorem execDemotionMarkArrival_goes (f : Flow) (s : State) :
    Goes s (execDemotionMarkArrival f s) := by simp [execDemotionMarkArrival]

@[simp] theorem meterTo_agenda (f : Flow) (st : MeterSt) (s : State) : (meterTo f st s).agenda = s.agenda := by simp [meterTo]
@[simp] theorem execMeterIdle_goes (f : Flow) (s : State) : Goes s (execMeterIdle f s) := by simp [execMeterIdle]

@[simp] theorem promoted_agenda (f : Flow) (m : Meter) (backtracks : Nat) (s : State) :
    (promoted f m backtracks s).agenda = s.agenda := by simp [promoted]

@[simp] theorem probeFound_agenda (f : Flow) (backtracks : Nat) (s : State) :
    (probeFound f backtracks s).agenda = s.agenda := by unfold probeFound; (repeat' split) <;> simp

@[simp] theorem execProbeSuccess_goes (f : Flow) (backtracks : Nat) (s : State) :
    Goes s (execProbeSuccess f backtracks s) := by simp [execProbeSuccess]

@[simp] theorem probeFailed_agenda (f : Flow) (backtracks : Nat) (s : State) :
    (probeFailed f backtracks s).agenda = s.agenda := by unfold probeFailed; dsimp only; split <;> simp

@[simp] theorem execProbeFail_goes (f : Flow) (backtracks : Nat) (s : State) :
    Goes s (execProbeFail f backtracks s) := by simp [execProbeFail]

@[simp] theorem execHoldExpiry_goes (f : Flow) (s : State) : Goes s (execHoldExpiry f s) := by simp [execHoldExpiry]

@[simp] theorem execCircuitIdle_goes (f : Flow) (s : State) :
    Goes s (execCircuitIdle f s) := by unfold execCircuitIdle; (repeat' split) <;> simp

@[simp] theorem ackAccess_agenda (id : Nat) (s : State) : (ackAccess id s).agenda = s.agenda := by simp [ackAccess]

@[simp] theorem endDemotion_agenda (f : Flow) (s : State) :
    (endDemotion f s).agenda = s.agenda := by unfold endDemotion; split <;> simp

@[simp] theorem promotedToken_agenda (f : Flow) (off : Nat) (s : State) :
    (promotedToken f off s).agenda = s.agenda := by unfold promotedToken; (repeat' split) <;> simp

@[simp] theorem tokenArrives_agenda (c : CircuitRef) (off : Nat) (s : State) :
    (tokenArrives c off s).agenda = s.agenda := by unfold tokenArrives; split <;> simp

@[simp] theorem execTokenArrival_goes (c : CircuitRef) (off : Nat) (s : State) :
    Goes s (execTokenArrival c off s) := by simp [execTokenArrival]

@[simp] theorem breakPromoted_agenda (f : Flow) (cause : BitVec 4) (s : State) :
    (breakPromoted f cause s).agenda = s.agenda := by unfold breakPromoted; split <;> simp

@[simp] theorem breakArriving_agenda (f : Flow) (kind : CircKind) (s : State) :
    (breakArriving f kind s).agenda = s.agenda := by unfold breakArriving; split <;> simp

@[simp] theorem breakCircuit_agenda (c : CircuitRef) (cause : BitVec 4) (s : State) :
    (breakCircuit c cause s).agenda = s.agenda := by unfold breakCircuit; (repeat' split) <;> simp

@[simp] theorem execCircuitBreak_goes (c : CircuitRef) (cause : BitVec 4) (s : State) :
    Goes s (execCircuitBreak c cause s) := by simp [execCircuitBreak]

@[simp] theorem tornDown_agenda (f : Flow) (s : State) : (tornDown f s).agenda = s.agenda := by unfold tornDown; split <;> simp
@[simp] theorem execTeardownReported_goes (f : Flow) (s : State) : Goes s (execTeardownReported f s) := by simp [execTeardownReported]

@[simp] theorem loopArrives_agenda (m : Loop) (s : State) :
    (loopArrives m s).agenda = s.agenda := by unfold loopArrives; split <;> simp

@[simp] theorem loopStep_agenda (s : State) : (loopStep s).agenda = s.agenda := by unfold loopStep; split <;> simp

@[simp] theorem refuseParts_agenda (id : Nat) (step : BitVec 4) (p : Part → Bool) (s : State) :
    (refuseParts id step p s).agenda = s.agenda := by unfold refuseParts; dsimp only; split <;> simp

@[simp] theorem execLinkFailure_goes (port : Nat) (s : State) :
    Goes s (execLinkFailure port s) := by unfold execLinkFailure; split <;> simp

@[simp] theorem execLinkRetrain_goes (port : Nat) (s : State) : Goes s (execLinkRetrain port s) := by simp [execLinkRetrain]

/-! ### Moves -/

@[simp] theorem refusePart_agenda (id n : Nat) (step : BitVec 4) (s : State) :
    (refusePart id n step s).agenda = s.agenda := by unfold refusePart; (repeat' split) <;> simp

@[simp] theorem refuseStream_agenda (id : Nat) (step : BitVec 4) (s : State) :
    (refuseStream id step s).agenda = s.agenda := by unfold refuseStream; split <;> simp

@[simp] theorem execRefusedAccess_goes (id part : Nat) (step : BitVec 4) (s : State) :
    Goes s (execRefusedAccess id part step s) := by unfold execRefusedAccess; split <;> simp

@[simp] theorem execFabricTimeout_goes (id : Nat) (s : State) :
    Goes s (execFabricTimeout id s) := by unfold execFabricTimeout; (repeat' split) <;> simp

@[simp] theorem putForeign_agenda (f : Foreign) (s : State) : (putForeign f s).agenda = s.agenda := by simp [putForeign]

@[simp] theorem execForeignPeerTimeout_goes (part peer : Nat) (s : State) :
    Goes s (execForeignPeerTimeout part peer s) := by unfold execForeignPeerTimeout; dsimp only; split <;> simp

@[simp] theorem execGranuleMoveStart_goes (home : Option Nat) (granule : Nat) (holder : Option Nat) (s : State) :
    Goes s (execGranuleMoveStart home granule holder s) := by unfold execGranuleMoveStart; dsimp only; (repeat' split) <;> simp

@[simp] theorem retryHere_agenda (a : Access) (s : State) : (retryHere a s).agenda = s.agenda := by simp [retryHere]

@[simp] theorem performHeld_agenda (holder : Option Nat) (h : Nat ⊕ IngressReq) (s : State) :
    (performHeld holder h s).agenda = s.agenda := by unfold performHeld; (repeat' split) <;> simp

@[simp] theorem performAllHeld_agenda (holder : Option Nat) (hs : List (Nat ⊕ IngressReq)) (s : State) :
    (performAllHeld holder hs s).agenda = s.agenda := by
  induction hs generalizing s with
  | nil => rfl
  | cons h hs ih => simp [performAllHeld, ih]

@[simp] theorem endMove_agenda (g : Nat) (image : List (Nat × Byte)) (s : State) : (endMove g image s).agenda = s.agenda := by
  unfold endMove; dsimp only; split
  · rfl
  · split
    · split <;> simp
    · simp

@[simp] theorem guestMove_agenda (h g backing : Nat) (image : List (Nat × Byte)) (s : State) :
    (guestMove h g backing image s).agenda = s.agenda := by simp [guestMove]

@[simp] theorem execGranuleMoveEnd_goes (home : Option Nat) (granule backing : Nat) (image : List (Nat × Byte)) (s : State) :
    Goes s (execGranuleMoveEnd home granule backing image s) := by unfold execGranuleMoveEnd; split <;> simp

@[simp] theorem execContestPinEnd_goes (granule : Nat) (s : State) :
    Goes s (execContestPinEnd granule s) := by unfold execContestPinEnd; dsimp only; (repeat' split) <;> simp

@[simp] theorem acceptRetry_agenda (all : Bool) (id : Nat) (s : State) :
    (acceptRetry all id s).agenda = s.agenda := by simp [acceptRetry]

@[simp] theorem execMoveRetry_goes (req : Nat) (s : State) :
    Goes s (execMoveRetry req s) := by unfold execMoveRetry; dsimp only; (repeat' split) <;> simp

@[simp] theorem execMoveRetryLimit_goes (req : Nat) (s : State) :
    Goes s (execMoveRetryLimit req s) := by unfold execMoveRetryLimit; (repeat' split) <;> simp

/-! ### Queues -/

@[simp] theorem execQueueEnable_goes (vf q : Nat) (value : Word) (s : State) :
    Goes s (execQueueEnable vf q value s) := by unfold execQueueEnable; dsimp only; (repeat' split) <;> simp

@[simp] theorem execQueueDisable_goes (vf q : Nat) (value : Word) (s : State) :
    Goes s (execQueueDisable vf q value s) := by unfold execQueueDisable; dsimp only; (repeat' split) <;> simp

@[simp] theorem execTailWrite_goes (vf q : Nat) (value : Word) (s : State) :
    Goes s (execTailWrite vf q value s) := by unfold execTailWrite; split <;> simp

@[simp] theorem advanceHead_agenda (v q : Nat) (s : State) : (advanceHead v q s).agenda = s.agenda := by simp [advanceHead]

theorem parseAs_agenda (type v q : Nat) (ext : List (Nat × Byte)) (s : State) (k : List Seg → Partition → List Nat → List Byte → State)
    (h : ∀ segs part chain p, (k segs part chain p).agenda = s.agenda) : (parseAs type v q ext s k).agenda = s.agenda := by
  unfold parseAs; split
  · rfl
  · simp
  · split
    · simp
    · split
      · exact h ..
      · rfl

@[simp] theorem execParseNop_goes (vf q : Nat) (ext : List (Nat × Byte)) (s : State) : Goes s (execParseNop vf q ext s) :=
  (goes_next _ _).mpr (parseAs_agenda _ _ _ _ _ _ fun _ _ _ _ => by simp)

@[simp] theorem rejectLaunch_agenda (vf q cause : Nat) (p : List Byte) (own : Nat) (s : State) :
    (rejectLaunch vf q cause p own s).agenda = s.agenda := by unfold rejectLaunch; split <;> simp

@[simp] theorem execParseLaunch_goes (vf q : Nat) (ext : List (Nat × Byte)) (s : State) : Goes s (execParseLaunch vf q ext s) := by
  refine (goes_next _ _).mpr (parseAs_agenda _ _ _ _ _ _ fun _ _ chain p => ?_)
  split
  · simp
  · split <;> simp

@[simp] theorem readFence_agenda (v q : Nat) (ext : List (Nat × Byte)) (pairs : List (Nat × Tgt × Word)) (s : State) :
    (readFence v q ext pairs s).agenda = s.agenda := by simp [readFence]

@[simp] theorem execParseFence_goes (vf q : Nat) (ext : List (Nat × Byte)) (s : State) : Goes s (execParseFence vf q ext s) := by
  refine (goes_next _ _).mpr (parseAs_agenda _ _ _ _ _ _ fun _ _ _ p => ?_)
  split
  · simp
  · dsimp only; split
    · simp
    · rfl
    · split <;> simp

@[simp] theorem execFenceCounterRead_goes (vf q : Nat) (ext : List (Nat × Byte)) (s : State) :
    Goes s (execFenceCounterRead vf q ext s) := by unfold execFenceCounterRead; split <;> simp

@[simp] theorem execParseSignal_goes (vf q : Nat) (ext : List (Nat × Byte)) (s : State) : Goes s (execParseSignal vf q ext s) := by
  refine (goes_next _ _).mpr (parseAs_agenda _ _ _ _ _ _ fun _ _ _ p => ?_)
  split
  · simp
  · split
    · simp
    · split <;> simp

/-- The addition of a SIGNAL leaves a state with the agenda of s. -/
def Signalled.Keeps (s : State) : Signalled → Prop
  | .wait => True
  | .done t => t.agenda = s.agenda
  | .sent t => t.agenda = s.agenda
theorem signalAdd_keeps (w : SignalWait) (s : State) : (signalAdd w s).Keeps s := by
  unfold signalAdd; dsimp only
  split
  · split <;> simp [Signalled.Keeps]
  · split
    · split <;> simp [Signalled.Keeps]
    · split <;> simp [Signalled.Keeps]
  · simp [Signalled.Keeps]
  · simp [Signalled.Keeps]
@[simp] theorem execSignalAdd_goes (vf q : Nat) (s : State) : Goes s (execSignalAdd vf q s) := by
  unfold execSignalAdd; dsimp only; split
  · simp
  · rename_i w _
    split
    · simp
    · split
      · simp
      · have h := signalAdd_keeps w s
        split <;> rename_i he <;> rw [he] at h <;> simp_all [Signalled.Keeps]

/-! ### Placement -/

@[simp] theorem doomOn_agenda (ks : List Nat) (s : State) : (doomOn ks s).agenda = s.agenda := by
  unfold doomOn; refine foldl_agenda _ ks s fun s k => ?_
  split
  · split <;> simp
  · rfl

@[simp] theorem takeSlot_agenda (k : Nat) (s : State) :
    (takeSlot k s).agenda = s.agenda := by unfold takeSlot; (repeat' split) <;> simp

@[simp] theorem beginOrder_agenda (s : State) : (beginOrder s).agenda = s.agenda := by simp [beginOrder]

theorem orderStep_agenda (act : Action → State → State) (s : State) (h : ∀ a t, (act a t).agenda = t.agenda) :
    (orderStep act s).agenda = s.agenda := by
  unfold orderStep; dsimp only; split
  · simp
  · split <;> simp [h]

/-! ### Schedule -/

@[simp] theorem forgetRota_agenda (k : Nat) (s : State) : (forgetRota k s).agenda = s.agenda := by simp [forgetRota]

@[simp] theorem startInsts_agenda (l : Launch) (r : Nat) (ks : List Nat) (s : State) : (startInsts l r ks s).agenda = s.agenda := by
  induction ks generalizing r s with
  | nil => rfl
  | cons k ks ih => simp [startInsts, ih]

@[simp] theorem startLaunch_agenda (l : Launch) (s : State) : (startLaunch l s).agenda = s.agenda := by simp [startLaunch]

@[simp] theorem trySpec_agenda (v q : Nat) (s : State) :
    (trySpec v q s).agenda = s.agenda := by unfold trySpec; dsimp only; (repeat' split) <;> simp

@[simp] theorem trySpecs_agenda (s : State) : (trySpecs s).agenda = s.agenda := by simp [trySpecs]
@[simp] theorem beginCommit_agenda (l : Launch) (s : State) : (beginCommit l s).agenda = s.agenda := by simp [beginCommit]
@[simp] theorem claim_agenda (v q : Nat) (l new : Launch) (s : State) : (claim v q l new s).agenda = s.agenda := by simp [claim]

@[simp] theorem meetSpec_agenda (v q : Nat) (l : Launch) (args : List Byte) (s : State) :
    (meetSpec v q l args s).agenda = s.agenda := by unfold meetSpec; (repeat' split) <;> simp

@[simp] theorem endCommit_agenda (v q id : Nat) (s : State) : (endCommit v q id s).agenda = s.agenda := by simp [endCommit]

@[simp] theorem execCommitComplete_goes (vf q : Nat) (s : State) :
    Goes s (execCommitComplete vf q s) := by unfold execCommitComplete; (repeat' split) <;> simp

@[simp] theorem execSpeculationTimeout_goes (vf q : Nat) (s : State) :
    Goes s (execSpeculationTimeout vf q s) := by unfold execSpeculationTimeout; (repeat' split) <;> simp

@[simp] theorem abandonProbes_agenda (k : Nat) (s : State) : (abandonProbes k s).agenda = s.agenda := by
  unfold abandonProbes; split
  · rfl
  · exact foldl_agenda _ _ s fun s c => by split <;> simp

@[simp] theorem beginSave_agenda (k : Nat) (s : State) : (beginSave k s).agenda = s.agenda := by unfold beginSave; split <;> simp
@[simp] theorem takeOver_agenda (ks : List Nat) (s : State) : (takeOver ks s).agenda = s.agenda := by simp [takeOver]

@[simp] theorem giveIsles_agenda (v q : Nat) (ks : List Nat) (s : State) :
    (giveIsles v q ks s).agenda = s.agenda := by unfold giveIsles; split <;> simp

@[simp] theorem carryOut_agenda (a : Action) (s : State) : (carryOut a s).agenda = s.agenda := by unfold carryOut; split <;> simp

@[simp] theorem dispatchTo_agenda (v q : Nat) (l : Launch) (ext : List (Nat × Byte)) (s : State) :
    (dispatchTo v q l ext s).agenda = s.agenda := by unfold dispatchTo; (repeat' split) <;> simp

@[simp] theorem meetNext_agenda (v q : Nat) (ext : List (Nat × Byte)) (s : State) :
    (meetNext v q ext s).agenda = s.agenda := by unfold meetNext; (repeat' split) <;> simp

@[simp] theorem execLaunchDispatch_goes (vf q : Nat) (ext : List (Nat × Byte)) (s : State) : Goes s (execLaunchDispatch vf q ext s) := by
  have h : (orderStep carryOut (meetNext vf q ext s)).agenda = s.agenda := by
    simp [orderStep_agenda _ _ fun a t => carryOut_agenda a t]
  unfold execLaunchDispatch; dsimp only; split
  · split <;> simp [h]
  · simpa using h

/-- The write of a save and what follows it, for any cells: what the slot holds is never evaluated. -/
theorem saved_goes (cells : List (Nat × Byte)) (n k : Nat) (i : Inst) (s : State) : Goes s (
    let s := { ownWrite cells s with fresh := s.fresh + n, freed := true, respec := true }
    .next (sweep { s with slots := Assoc.del s.slots k, saved := s.saved ++ [i] })) := by
  simp
@[simp] theorem execSaveComplete_goes (isle : Nat) (s : State) : Goes s (execSaveComplete isle s) := by
  unfold execSaveComplete; split
  · simp
  · split
    · simp
    · exact saved_goes ..

@[simp] theorem restore_agenda (isle : Nat) (i : Inst) (s : State) : (restore isle i s).agenda = s.agenda := by simp [restore]

@[simp] theorem execInstanceResume_goes (inst isle : Nat) (s : State) : Goes s (execInstanceResume inst isle s) := by
  have h := orderStep_agenda _ s fun a t => carryOut_agenda a t
  unfold execInstanceResume; dsimp only; split
  · simpa using h
  · split <;> simp [h]

/-! ### Links -/

@[simp] theorem failVfs_agenda (s : State) : (failVfs s).agenda = s.agenda := by
  unfold failVfs; exact foldl_agenda _ _ s fun _ _ => rfl

@[simp] theorem signalFailure_agenda (s : State) : (signalFailure s).agenda = s.agenda := by
  unfold signalFailure; exact foldl_agenda _ _ s fun _ _ => rfl

@[simp] theorem deviceFailure_agenda (s : State) : (deviceFailure s).agenda = s.agenda := by simp [deviceFailure]
@[simp] theorem abortDie_agenda (d : Nat) (s : State) : (abortDie d s).agenda = s.agenda := by simp [abortDie]
@[simp] theorem doomCellars_agenda (d : Nat) (s : State) : (doomCellars d s).agenda = s.agenda := by simp [doomCellars]
@[simp] theorem resetLine_agenda (d : Nat) (p : Nat × Nat) (s : State) : (resetLine d p s).agenda = s.agenda := by simp [resetLine]
@[simp] theorem clearDie_agenda (d : Nat) (s : State) : (clearDie d s).agenda = s.agenda := by simp [clearDie]
@[simp] theorem execDieReset_goes (die : Nat) (s : State) : Goes s (execDieReset die s) := by unfold execDieReset; split <;> simp
@[simp] theorem releaseHeld_agenda (s : State) : (releaseHeld s).agenda = s.agenda := by simp [releaseHeld]

@[simp] theorem execDieReturnsToService_goes (die : Nat) (s : State) :
    Goes s (execDieReturnsToService die s) := by unfold execDieReturnsToService; split <;> simp

@[simp] theorem execDieResetTimeout_goes (die : Nat) (s : State) :
    Goes s (execDieResetTimeout die s) := by unfold execDieResetTimeout; (repeat' split) <;> simp

@[simp] theorem poisonPart_agenda (a : Access) (p : Part) (s : State) :
    (poisonPart a p s).agenda = s.agenda := by unfold poisonPart; split <;> simp

@[simp] theorem endParts_agenda (id : Nat) (st : Status) (p : Part → Bool) (s : State) :
    (endParts id st p s).agenda = s.agenda := by simp [endParts]

@[simp] theorem poisonLoad_agenda (id : Nat) (p : Part → Bool) (s : State) :
    (poisonLoad id p s).agenda = s.agenda := by unfold poisonLoad; dsimp only; split <;> simp

@[simp] theorem settleWrite_agenda (id : Nat) (s : State) :
    (settleWrite id s).agenda = s.agenda := by unfold settleWrite; split <;> simp

@[simp] theorem linkError_agenda (link home : Nat) (data : Bool) (a : Access) (va : Word) (s : State) :
    (linkError link home data a va s).agenda = s.agenda := by simp [linkError]

@[simp] theorem loseWrite_agenda (link id : Nat) (s : State) :
    (loseWrite link id s).agenda = s.agenda := by unfold loseWrite; dsimp only; (repeat' split) <;> simp

@[simp] theorem loseLine_agenda (id line : Nat) (write : Bool) (s : State) :
    (loseLine id line write s).agenda = s.agenda := by unfold loseLine; split <;> simp

@[simp] theorem loseEngWrite_agenda (link id line : Nat) (data : Bool) (s : State) :
    (loseEngWrite link id line data s).agenda = s.agenda := by unfold loseEngWrite; split <;> simp

@[simp] theorem poisonArriving_agenda (line : Nat) (s : State) :
    (poisonArriving line s).agenda = s.agenda := by unfold poisonArriving; (repeat' split) <;> simp

@[simp] theorem failAccess_agenda (link : Nat) (a : Access) (s : State) :
    (failAccess link a s).agenda = s.agenda := by unfold failAccess; split <;> simp

@[simp] theorem failCommand_agenda (link id : Nat) (lines : List Nat) (s : State) :
    (failCommand link id lines s).agenda = s.agenda := by unfold failCommand; split <;> simp

@[simp] theorem failTransaction_agenda (link : Nat) (lines : List Nat) (id : Nat) (s : State) :
    (failTransaction link lines id s).agenda = s.agenda := by unfold failTransaction; split <;> simp

@[simp] theorem execLinkFlitError_goes (link : Nat) (hit : FlitHit) (s : State) :
    Goes s (execLinkFlitError link hit s) := by unfold execLinkFlitError; (repeat' split) <;> simp

@[simp] theorem poisonOver_agenda (port id : Nat) (s : State) :
    (poisonOver port id s).agenda = s.agenda := by unfold poisonOver; split <;> simp

@[simp] theorem execFabricFlitError_goes (port : Nat) (hit : FlitHit) (s : State) :
    Goes s (execFabricFlitError port hit s) := by unfold execFabricFlitError; split <;> simp

/-! ### HostEvents -/

@[simp] theorem resetDevice_agenda (s : State) : (resetDevice s).agenda = s.agenda := by simp [resetDevice]
@[simp] theorem execDeviceReset_goes (s : State) : Goes s (execDeviceReset s) := by simp [execDeviceReset]
@[simp] theorem execSidebandResetRequest_goes (s : State) : Goes s (execSidebandResetRequest s) := by simp [execSidebandResetRequest]

@[simp] theorem execFirmwareLoad_goes (image signature : List Byte) (s : State) :
    Goes s (execFirmwareLoad image signature s) := by unfold execFirmwareLoad; (repeat' split) <;> simp

@[simp] theorem execAttestation_goes (nonce : List Byte) (s : State) :
    Goes s (execAttestation nonce s) := by unfold execAttestation; (repeat' split) <;> simp

@[simp] theorem execLifeCycleChange_goes (tgt : LifeCycle) (actor : LifeCycleActor) (s : State) :
    Goes s (execLifeCycleChange tgt actor s) := by unfold execLifeCycleChange; split <;> simp

@[simp] theorem execClockThrottle_goes (junction : Nat) (s : State) :
    Goes s (execClockThrottle junction s) := by unfold execClockThrottle; split <;> simp

@[simp] theorem execShutdown_goes (s : State) : Goes s (execShutdown s) := by simp [execShutdown]

@[simp] theorem abortRequest_agenda (vf : Nat) (value : Word) (s : State) :
    (abortRequest vf value s).agenda = s.agenda := by unfold abortRequest; (repeat' split) <;> simp

@[simp] theorem execAbortreq_goes (vf : Nat) (value : Word) (s : State) : Goes s (execAbortreq vf value s) := by simp [execAbortreq]

@[simp] theorem putRrqctl_agenda (vf : Nat) (value : Word) (s : State) :
    (putRrqctl vf value s).agenda = s.agenda := by simp [putRrqctl]

@[simp] theorem execRrqctlWrite_goes (vf : Nat) (value : Word) (s : State) :
    Goes s (execRrqctlWrite vf value s) := by simp [execRrqctlWrite]

@[simp] theorem execRrqctlRead_goes (vf : Nat) (s : State) : Goes s (execRrqctlRead vf s) := by unfold execRrqctlRead; split <;> simp

@[simp] theorem putQbase_agenda (vf q : Nat) (value : Word) (s : State) :
    (putQbase vf q value s).agenda = s.agenda := by simp [putQbase]

@[simp] theorem putQcfg_agenda (vf q : Nat) (value : Word) (s : State) : (putQcfg vf q value s).agenda = s.agenda := by simp [putQcfg]
@[simp] theorem putVf_agenda (vf : Nat) (f : Vf → Vf) (s : State) : (putVf vf f s).agenda = s.agenda := by simp [putVf]
@[simp] theorem putPort_agenda (p : Nat) (f : Port → Port) (s : State) : (putPort p f s).agenda = s.agenda := by simp [putPort]

@[simp] theorem putRole_agenda (port : Nat) (role : PortRole) (s : State) :
    (putRole port role s).agenda = s.agenda := by simp [putRole]

@[simp] theorem targetIsle_agenda (q k : Nat) (s : State) : (targetIsle q k s).agenda = s.agenda := by
  unfold targetIsle; dsimp only
  generalize hu : (upto 8).foldl _ s = u
  have hs : u.agenda = s.agenda := hu ▸ foldl_agenda _ (upto 8) s fun s h => by split <;> simp
  split <;> simp [hs]

@[simp] theorem targetChange_agenda (q : Nat) (s : State) : (targetChange q s).agenda = s.agenda := by simp [targetChange]

@[simp] theorem putFirmware_agenda (w : RegWrite) (s : State) :
    (putFirmware w s).agenda = s.agenda := by unfold putFirmware; split <;> simp

@[simp] theorem execRegisterWrite_goes (w : RegWrite) (s : State) :
    Goes s (execRegisterWrite w s) := by unfold execRegisterWrite; (repeat' split) <;> simp

@[simp] theorem pageWrite_goes (v r : Nat) (value : Word) (s : State) :
    Goes s (pageWrite v r value s) := by unfold pageWrite; (repeat' split) <;> simp

@[simp] theorem hostMmioWrite_goes (o : Nat) (data : List Byte) (s : State) :
    Goes s (hostMmioWrite o data s) := by unfold hostMmioWrite; split <;> simp

@[simp] theorem hostMmioRead_agenda (o n : Nat) (s : State) : (hostMmioRead o n s).agenda = s.agenda := by simp [hostMmioRead]

@[simp] theorem hostRequest_goes (pa : Nat) (kind : ReqKind) (s : State) :
    Goes s (hostRequest pa kind s) := by unfold hostRequest; (repeat' split) <;> simp

@[simp] theorem bitError_agenda (pa : Nat) (s : State) : (bitError pa s).agenda = s.agenda := by unfold bitError; split <;> simp

@[simp] theorem badElement_agenda (isle tile row col : Nat) (s : State) :
    (badElement isle tile row col s).agenda = s.agenda := by simp [badElement]

@[simp] theorem badLatched_agenda (isle index : Nat) (s : State) : (badLatched isle index s).agenda = s.agenda := by simp [badLatched]

@[simp] theorem execHostLinkRequest_goes (r : HostReq) (s : State) :
    Goes s (execHostLinkRequest r s) := by unfold execHostLinkRequest; (repeat' split) <;> simp

/-! ### Landing -/

@[simp] theorem landIsle_agenda (k : Nat) (s : State) :
    (landIsle k s).agenda = s.agenda := by unfold landIsle; dsimp only; (repeat' split) <;> simp

@[simp] theorem execTimedLanding_goes (isle : Nat) (s : State) : Goes s (execTimedLanding isle s) := by simp [execTimedLanding]
@[simp] theorem endVc_agenda (k : Nat) (s : State) : (endVc k s).agenda = s.agenda := by unfold endVc; split <;> simp
@[simp] theorem execVcAdvance_goes (isle : Nat) (s : State) : Goes s (execVcAdvance isle s) := by simp [execVcAdvance]

@[simp] theorem execLandingDataArrival_goes (isle id : Nat) (only : Option Nat) (answers : List (Nat × Answer)) (s : State) :
    Goes s (execLandingDataArrival isle id only answers s) := by unfold execLandingDataArrival; (repeat' split) <;> simp

@[simp] theorem execWriteAcknowledge_goes (id : Nat) (die : Option Nat) (answers : List (Nat × Answer)) (s : State) :
    Goes s (execWriteAcknowledge id die answers s) := by unfold execWriteAcknowledge; (repeat' split) <;> simp

@[simp] theorem execFreezeEnd_goes (isle : Nat) (s : State) :
    Goes s (execFreezeEnd isle s) := by unfold execFreezeEnd; (repeat' split) <;> simp

@[simp] theorem execWatchdog_goes (isle : Nat) (s : State) :
    Goes s (execWatchdog isle s) := by unfold execWatchdog; (repeat' split) <;> simp

@[simp] theorem execPageRefillDone_goes (isle page : Nat) (s : State) :
    Goes s (execPageRefillDone isle page s) := by simp [execPageRefillDone]

/-! ### Sync -/

theorem arrive_agenda {e : Env} {b : Nat} {s t : State} (h : arrive e b s = some t) : t.agenda = s.agenda := by
  unfold arrive Env.withLaunch at h; split at h
  · dsimp only at h; split at h
    · cases h; simp
    · split at h
      · cases h
      · cases h; simp
  · cases h

/-! ### System -/

@[simp] theorem pmarkEvent_agenda (k : Nat) (c : Ctx) (vcyc : Word) (marker : BitVec 12) (s : State) :
    (pmarkEvent k c vcyc marker s).agenda = s.agenda := by simp [pmarkEvent]

/-! ### Vector -/

@[simp] theorem writeLanes_keeps (e : Env) (v : BitVec 5) (p : Nat → Bool) (f : Nat → LaneRes) (i : Inst) :
    (writeLanes e v p f i).Keeps e.s := by simp [writeLanes]

@[simp] theorem laneOp_keeps (v : BitVec 5) (srcs : List (BitVec 5)) (m : BitVec 3) (f : Env → Nat → LaneRes) (e : Env) :
    (laneOp v srcs m f e).Keeps e.s := by simp [laneOp]

@[simp] theorem writeMask_keeps (e : Env) (md : BitVec 3) (val : Word) (f : BitVec 5) (i : Inst) :
    (writeMask e md val f i).Keeps e.s := by simp [writeMask]

@[simp] theorem maskOp_keeps (f : Word → Word → Word) (o : MmmOp) (e : Env) : (maskOp f o e).Keeps e.s := by simp [maskOp]

/-! ### VectorMem -/

@[simp] theorem vloadOp_keeps (v a : BitVec 5) (land : BitVec 6) (m : BitVec 3) (ad : VAddr) (e : Env) :
    (vloadOp v a land m ad e).Keeps e.s := by
  unfold vloadOp; refine withVecChecked_keeps _ _ _ _ _ _ _ fun v i => withLaunch_keeps _ _ _ trivial fun l => ?_
  dsimp only; split
  · trivial
  · split
    · trivial
    · refine orHeld_keeps _ _ _ _ ?_
      split
      · simp
      · split <;> simp

@[simp] theorem placeElems_agenda (e : Env) (val : Nat → Nat) (els : List Elem) (s : State) :
    (placeElems e val els s).agenda = s.agenda := by
  unfold placeElems; refine (foldl_agenda _ _ _ fun s w => ?_).trans (foldl_agenda _ _ s fun s x => ?_)
  · split <;> simp
  · split <;> simp

@[simp] theorem vstoreOp_keeps (v a : BitVec 5) (m : BitVec 3) (ad : VAddr) (e : Env) : (vstoreOp v a m ad e).Keeps e.s := by
  unfold vstoreOp; refine withVecChecked_keeps _ _ _ _ _ _ _ fun v i => withLaunch_keeps _ _ _ trivial fun l => ?_
  dsimp only; split
  · trivial
  · split
    · trivial
    · split
      · trivial
      · refine orHeld_keeps _ _ _ _ ?_
        split
        · simp
        · split <;> simp

/-! ### Fetch -/

@[simp] theorem askWords_agenda (e : Env) (l : Launch) (n : Nat) : (askWords e l n).agenda = e.s.agenda := by simp [askWords]

@[simp] theorem blockCtx_agenda (k : Nat) (c : Ctx) (b : Block) (s : State) :
    (blockCtx k c b s).agenda = s.agenda := by simp [blockCtx]

@[simp] theorem trapHere_agenda (k : Nat) (c : Ctx) (cause detail : Nat) (addr : Word) (s : State) :
    (trapHere k c cause detail addr s).agenda = s.agenda := by unfold trapHere; split <;> simp

/-! ### Auto -/

@[simp] theorem specMove_agenda (s : State) : ∀ t, specMove s = some t → t.agenda = s.agenda := by simp [specMove]

/-! ### Turns -/

@[simp] theorem countFrozen_agenda (s : State) : (countFrozen s).agenda = s.agenda := by simp [countFrozen]
@[simp] theorem startClock_agenda (s : State) : (startClock s).agenda = s.agenda := by simp [startClock]

/-! ## Instruction words and events -/

@[simp] theorem keeps_ite (s : State) (p : Prop) [Decidable p] (a b : Verdict) :
    (if p then a else b).Keeps s ↔ if p then a.Keeps s else b.Keeps s := by split <;> rfl

theorem jumpTo_keeps_of {s u : State} (t : Word) (h : u.agenda = s.agenda) : (jumpTo t u).Keeps s := by
  unfold jumpTo; split
  · trivial
  · split
    · trivial
    · exact h

/-- A context has its turn to issue. -/
def AtTurn (s : State) : Prop := ∃ k c i, s.turn = .issue k c ∧ s.inst k = some i ∧ i.acts c = true

/-- An instruction word: it has a tag and a slot class. -/
def IsWord (ins : Instr) : Prop := ∃ t sl, tagOfInstr ins = some t ∧ slotOf ins = some sl

theorem settleVerdict_agenda {e : Env} {n : Nat} {v : Verdict} (h : v.Keeps e.s) : (settleVerdict e n v).agenda = e.s.agenda := by
  cases v with
  | trap => exact takeTrap_agenda ..
  | block b => rfl
  | hold t b => exact h
  | go t => exact h
  | jump a t =>
    simp only [settleVerdict]; split
    · exact h
    · rfl
  | exit =>
    simp only [settleVerdict]; split
    · split <;> simp
    · rfl

theorem runWord_goes {ins : Instr} {s : State} {body : Env → Verdict} (ht : AtTurn s) (hw : IsWord ins)
    (h : ∀ e, (body e).Keeps e.s) : Goes s (runWord ins s body) := by
  obtain ⟨k, c, i, turn, inst, acts⟩ := ht
  obtain ⟨t, sl, tag, slot⟩ := hw
  have hb := settleVerdict_agenda (n := sizeOf ins) (h ⟨s, k, c, i⟩)
  have ht := fun d => settleVerdict_agenda (e := ⟨s, k, c, i⟩) (n := sizeOf ins) (v := .trap cILLEGAL d 0) trivial
  simp only [runWord, turn, inst, acts, tag, slot, Bool.not_true, Bool.false_eq_true, if_false, goes_ite, goes_next, updInst_agenda, hb, ht]
  simp

theorem exec_goes_of_body {ins : Instr} {s : State} {body : Env → Verdict} (ht : AtTurn s) (hw : IsWord ins)
    (he : exec ins s = runWord ins s body) (h : ∀ e, (body e).Keeps e.s) : Goes s (exec ins s) :=
  he ▸ runWord_goes ht hw h

theorem execTrap_goes (o : CodeOp) {s : State} (ht : AtTurn s) : Goes s (execTrap o s) :=
  runWord_goes ht ⟨_, _, rfl, rfl⟩ fun _ => trivial

theorem execExit_goes (o : TagOp) {s : State} (ht : AtTurn s) : Goes s (execExit o s) :=
  runWord_goes ht ⟨_, _, rfl, rfl⟩ fun _ => trivial

theorem execNop_goes (o : TagOp) {s : State} (ht : AtTurn s) : Goes s (execNop o s) :=
  runWord_goes ht ⟨_, _, rfl, rfl⟩ fun _ => rfl

theorem execHint_goes (o : CodeOp) {s : State} (ht : AtTurn s) : Goes s (execHint o s) :=
  runWord_goes ht ⟨_, _, rfl, rfl⟩ fun _ => rfl

theorem execSucc_goes (o : TagOp) {s : State} (ht : AtTurn s) : Goes s (execSucc o s) :=
  runWord_goes ht ⟨_, _, rfl, rfl⟩ fun _ => rfl

theorem execBr_goes (o : BrOp) {s : State} (ht : AtTurn s) : Goes s (execBr o s) :=
  runWord_goes ht ⟨_, _, rfl, rfl⟩ fun _ => rfl

theorem execVsel_goes (o : VOp) {s : State} (ht : AtTurn s) : Goes s (execVsel o s) :=
  runWord_goes ht ⟨_, _, rfl, rfl⟩ fun e => withVec_keeps e _ _ _ _ _ fun _ _ => by simp

theorem execMnot_goes (o : MmOp) {s : State} (ht : AtTurn s) : Goes s (execMnot o s) :=
  runWord_goes ht ⟨_, _, rfl, rfl⟩ fun e => withVec_keeps e _ _ _ _ _ fun _ _ => by simp

theorem execMpop_goes (o : GmOp) {s : State} (ht : AtTurn s) : Goes s (execMpop o s) :=
  runWord_goes ht ⟨_, _, rfl, rfl⟩ fun e => withVec_keeps e _ _ _ _ _ fun _ _ => by simp

theorem execMtog_goes (o : GmOp) {s : State} (ht : AtTurn s) : Goes s (execMtog o s) :=
  runWord_goes ht ⟨_, _, rfl, rfl⟩ fun e => withVec_keeps e _ _ _ _ _ fun _ _ => by simp

theorem execMfromg_goes (o : MgOp) {s : State} (ht : AtTurn s) : Goes s (execMfromg o s) :=
  runWord_goes ht ⟨_, _, rfl, rfl⟩ fun e => withVec_keeps e _ _ _ _ _ fun _ _ => by simp

theorem execVcmp_goes (o : VcmpOp) {s : State} (ht : AtTurn s) : Goes s (execVcmp o s) :=
  runWord_goes ht ⟨_, _, rfl, rfl⟩ fun e => withVec_keeps e _ _ _ _ _ fun _ _ => by simp

theorem execVl6pack_goes (o : Vf1Op) {s : State} (ht : AtTurn s) : Goes s (execVl6pack o s) :=
  runWord_goes ht ⟨_, _, rfl, rfl⟩ fun e => withVec_keeps e _ _ _ _ _ fun _ _ => by simp

theorem execVbcast_goes (o : VbcastOp) {s : State} (ht : AtTurn s) : Goes s (execVbcast o s) :=
  runWord_goes ht ⟨_, _, rfl, rfl⟩ fun e => withVec_keeps e _ _ _ _ _ fun _ _ => by simp

theorem execVred_goes (o : VredOp) {s : State} (ht : AtTurn s) : Goes s (execVred o s) :=
  runWord_goes ht ⟨_, _, rfl, rfl⟩ fun e => withVec_keeps e _ _ _ _ _ fun _ _ => by simp

theorem execQcnt_goes (o : QOp) {s : State} (ht : AtTurn s) : Goes s (execQcnt o s) :=
  runWord_goes ht ⟨_, _, rfl, rfl⟩ fun e => withSources_keeps e _ _ _ _ fun _ _ => by simp

theorem execBc_goes (o : BcOp) {s : State} (ht : AtTurn s) : Goes s (execBc o s) :=
  runWord_goes ht ⟨_, _, rfl, rfl⟩ fun e => withSources_keeps e _ _ _ _ fun _ _ => by simp

theorem execLoop_goes (o : LoopOp) {s : State} (ht : AtTurn s) : Goes s (execLoop o s) :=
  runWord_goes ht ⟨_, _, rfl, rfl⟩ fun e => withSources_keeps e _ _ _ _ fun _ _ => by simp

theorem execPref_goes (o : AddrOp) {s : State} (ht : AtTurn s) : Goes s (execPref o s) :=
  runWord_goes ht ⟨_, _, rfl, rfl⟩ fun e => withSources_keeps e _ _ _ _ fun _ _ => by simp

theorem execJr_goes (o : ROp) {s : State} (ht : AtTurn s) : Goes s (execJr o s) :=
  runWord_goes ht ⟨_, _, rfl, rfl⟩ fun e => withSources_keeps e _ _ _ _ fun _ _ => jumpTo_keeps_of _ rfl

theorem execCallr_goes (o : ROp) {s : State} (ht : AtTurn s) : Goes s (execCallr o s) := by
  refine runWord_goes ht ⟨_, _, rfl, rfl⟩ fun e => ?_
  rw [keeps_ite]; split
  · trivial
  · exact withSources_keeps e _ _ _ _ fun _ _ => jumpTo_keeps_of _ rfl

theorem execCall_goes (o : BrOp) {s : State} (ht : AtTurn s) : Goes s (execCall o s) :=
  runWord_goes ht ⟨_, _, rfl, rfl⟩ fun e => by simp

theorem execRet_goes (o : TagOp) {s : State} (ht : AtTurn s) : Goes s (execRet o s) := by
  refine runWord_goes ht ⟨_, _, rfl, rfl⟩ fun e => ?_
  split <;> simp

theorem execQpeek_goes (o : QOp) {s : State} (ht : AtTurn s) : Goes s (execQpeek o s) :=
  runWord_goes ht ⟨_, _, rfl, rfl⟩ fun e => withSources_keeps e _ _ _ _ fun _ i => by split <;> [trivial; (split <;> simp)]

theorem execLoc_goes (o : RR) {s : State} (ht : AtTurn s) : Goes s (execLoc o s) :=
  runWord_goes ht ⟨_, _, rfl, rfl⟩ fun e => scalarOp_keeps _ _ _ e

theorem execBarArr_goes (o : BarOp) {s : State} (ht : AtTurn s) : Goes s (execBarArr o s) := by
  refine runWord_goes ht ⟨_, _, rfl, rfl⟩ fun e => ?_
  rw [keeps_ite]; split
  · trivial
  · split
    · trivial
    · rename_i h; exact arrive_agenda h

theorem execBarWait_goes (o : BarOp) {s : State} (ht : AtTurn s) : Goes s (execBarWait o s) :=
  runWord_goes ht ⟨_, _, rfl, rfl⟩ fun e => by simp

theorem execFence_goes (o : FenceOp) {s : State} (ht : AtTurn s) : Goes s (execFence o s) :=
  runWord_goes ht ⟨_, _, rfl, rfl⟩ fun e => by simp

theorem execStep_goes (o : BarOp) {s : State} (ht : AtTurn s) : Goes s (execStep o s) := by
  refine runWord_goes ht ⟨_, _, rfl, rfl⟩ fun e => ?_
  simp only [keeps_ite, keeps_trap, keeps_block, keeps_go]
  split
  · trivial
  · split
    · simp
    · split
      · trivial
      · split
        · trivial
        · rename_i h; simp [arrive_agenda h]

theorem execCas_goes (o : CasOp) {s : State} (ht : AtTurn s) : Goes s (execCas o s) :=
  runWord_goes ht ⟨_, _, rfl, rfl⟩ fun e => withChecked_keeps e _ _ _ _ _ fun _ _ => atomicOp_keeps ..

theorem execRed_goes (o : RedOp) {s : State} (ht : AtTurn s) : Goes s (execRed o s) := by
  refine runWord_goes ht ⟨_, _, rfl, rfl⟩ fun e => ?_
  refine withChecked_keeps e _ _ _ _ _ fun _ _ => ?_
  rw [keeps_ite]; split
  · trivial
  · refine withLaunch_keeps _ _ _ trivial fun l => ?_
    dsimp only; split
    · trivial
    · simp

theorem execCflush_goes (o : AddrOp) {s : State} (ht : AtTurn s) : Goes s (execCflush o s) := by
  refine runWord_goes ht ⟨_, _, rfl, rfl⟩ fun e => ?_
  refine withSources_keeps e _ _ _ _ fun _ _ => ?_
  rw [keeps_ite]; split
  · trivial
  · refine withLaunch_keeps _ _ _ trivial fun l => ?_
    dsimp only; split
    · trivial
    · refine orHeld_keeps _ _ _ _ ?_
      split <;> simp

theorem execPgreq_goes (o : AddrOp) {s : State} (ht : AtTurn s) : Goes s (execPgreq o s) := by
  refine runWord_goes ht ⟨_, _, rfl, rfl⟩ fun e => ?_
  refine withSources_keeps e _ _ _ _ fun _ _ => ?_
  rw [keeps_ite]; split
  · trivial
  · refine withLaunch_keeps _ _ _ trivial fun l => ?_
    dsimp only; split
    · trivial
    · simp

theorem execTld_goes (o : TmemOp) {s : State} (ht : AtTurn s) : Goes s (execTld o s) := by
  refine runWord_goes ht ⟨_, _, rfl, rfl⟩ fun e => ?_
  simp only [keeps_ite, keeps_trap, keeps_block]; split
  · trivial
  · split
    · trivial
    · refine withSources_keeps e _ _ _ _ fun _ _ => withLaunch_keeps _ _ _ trivial fun l => ?_
      split
      · trivial
      · simp

theorem execTst_goes (o : TmemOp) {s : State} (ht : AtTurn s) : Goes s (execTst o s) := by
  refine runWord_goes ht ⟨_, _, rfl, rfl⟩ fun e => ?_
  simp only [keeps_ite, keeps_trap, keeps_block]; split
  · trivial
  · split
    · trivial
    · refine withSources_keeps e _ _ _ _ fun _ _ => withLaunch_keeps _ _ _ trivial fun l => ?_
      split
      · trivial
      · simp only [keeps_ite, keeps_block]; split
        · trivial
        · split
          · trivial
          · refine orHeld_keeps _ _ _ _ ?_
            split <;> simp

theorem execTmod_goes (o : TmodOp) {s : State} (ht : AtTurn s) : Goes s (execTmod o s) :=
  runWord_goes ht ⟨_, _, rfl, rfl⟩ fun e => by simp

theorem execTide_goes (o : TideOp) {s : State} (ht : AtTurn s) : Goes s (execTide o s) :=
  runWord_goes ht ⟨_, _, rfl, rfl⟩ fun e => by simp

theorem execRota_goes (o : RotaOp) {s : State} (ht : AtTurn s) : Goes s (execRota o s) := by
  refine runWord_goes ht ⟨_, _, rfl, rfl⟩ fun e => ?_
  split
  · simp
  · exact fabricOp_keeps ..

theorem execLaunch_goes (o : AbOp) {s : State} (ht : AtTurn s) : Goes s (execLaunch o s) := by
  refine runWord_goes ht ⟨_, _, rfl, rfl⟩ fun e => ?_
  refine withChecked_keeps e _ _ _ _ _ fun _ _ => ?_
  rw [keeps_ite]; split
  · trivial
  · refine withLaunch_keeps _ _ _ trivial fun l => ?_
    dsimp only; split
    · trivial
    · simp

theorem execQtail_goes (o : AbOp) {s : State} (ht : AtTurn s) : Goes s (execQtail o s) :=
  runWord_goes ht ⟨_, _, rfl, rfl⟩ fun e => withSources_keeps e _ _ _ _ fun _ _ => by simp

theorem execWaitvis_goes (o : TagOp) {s : State} (ht : AtTurn s) : Goes s (execWaitvis o s) := by
  refine runWord_goes ht ⟨_, _, rfl, rfl⟩ fun e => ?_
  rw [keeps_ite]; split
  · trivial
  · refine withLaunch_keeps _ _ _ rfl fun l => ?_
    split
    · rfl
    · simp

theorem execWait_goes (o : WaitOp) {s : State} (ht : AtTurn s) : Goes s (execWait o s) := by
  refine runWord_goes ht ⟨_, _, rfl, rfl⟩ fun e => ?_
  split
  · simp
  · exact withSources_keeps e _ _ _ _ fun _ _ => by simp

theorem execSrd_goes (o : SysOp) {s : State} (ht : AtTurn s) : Goes s (execSrd o s) :=
  runWord_goes ht ⟨_, _, rfl, rfl⟩ fun e => by simp

theorem execSwr_goes (o : SysOp) {s : State} (ht : AtTurn s) : Goes s (execSwr o s) := by
  refine runWord_goes ht ⟨_, _, rfl, rfl⟩ fun e => ?_
  rw [keeps_ite]; split
  · trivial
  · exact withSources_keeps e _ _ _ _ fun _ _ => by split <;> rfl

theorem execPmark_goes (o : CodeOp) {s : State} (ht : AtTurn s) : Goes s (execPmark o s) := by
  refine runWord_goes ht ⟨_, _, rfl, rfl⟩ fun e => ?_
  simp only [keeps_go, agenda_ite]; simp

theorem exec_word_goes {ins : Instr} {s : State} (ht : AtTurn s) (hw : IsWord ins) : Goes s (exec ins s) := by
  cases ins with
  | amo | amoRl => exact exec_goes_of_body ht hw rfl (amoOpWord_keeps _ _ _)
  | add | sub | mul | mulh | mulhu | div | divu | rem | remu | and | or | xor | andn | shl | shr | sar | rol | min | max |
      minu | maxu | slt | sltu | seq | fadd | fsub | fmul | fmin | fmax | fcmp | addImm | mulImm | andImm | orImm | xorImm |
      sltImm | sltuImm | seqImm | lui | sel | lea | bfx | bfi | li | ffma | shlImm | shrImm | sarImm | clz | ctz | popc |
      bswap | fcvtI32F32 | fcvtF32I32 | fcvtBf16F32 | fcvtF32Bf16 | fcvtF16F32 | fcvtF32F16 | fcvtL6F32 | fcvtF32L6 =>
    exact exec_goes_of_body ht hw rfl (scalarOp_keeps _ _ _)
  | mxm | mxmRb | mxz | mxd | cpy | cpyT8 | cpyT16 | gather | scatter | scadd | wload | att =>
    exact exec_goes_of_body ht hw rfl (engineOp_keeps _ _ _ _ _ _)
  | copen | chold | csend | csendResume | cshut | cstat | tree | ard | agt | rsc | bct =>
    exact exec_goes_of_body ht hw rfl (fabricOp_keeps _ _ _ _ _ _)
  | vl6unpk | vexp2 | vlog2 | vrcp | vrsq | vperm | vcvtF32I32 | vcvtI32F32 | vcvtF32Bf16 | vcvtBf16F32 | vcvtF32F16 |
      vcvtF16F32 | vaddF32 | vsubF32 | vmulF32 | vaddBf16 | vsubBf16 | vmulBf16 | vaddF16 | vsubF16 | vmulF16 | vfmaF32 |
      vfmaBf16 | vfmaF16 | vminF32 | vmaxF32 | vminBf16 | vmaxBf16 | vminF16 | vmaxF16 | vabsF32 | vnegF32 | vabsBf16 |
      vnegBf16 | vabsF16 | vnegF16 | vaddI16 | vsubI16 | vmulI16 | vaddsI16 | vsubsI16 | vminI16 | vmaxI16 | vaddI32 |
      vsubI32 | vmulI32 | vmulhI32 | vminI32 | vmaxI32 | vminuI32 | vmaxuI32 | vandI32 | vorI32 | vxorI32 | vandnI32 |
      vshlI32 | vshrI32 | vsarI32 => exact exec_goes_of_body ht hw rfl (laneOp_keeps _ _ _ _)
  | ld | lds | ldAq => exact exec_goes_of_body ht hw rfl (loadOp_keeps _ _ _)
  | mand | mor | mxor | mandn => exact exec_goes_of_body ht hw rfl (maskOp_keeps _ _)
  | st | stRl => exact exec_goes_of_body ht hw rfl (storeOp_keeps _ _)
  | vld | vlds | vldx => exact exec_goes_of_body ht hw rfl (vloadOp_keeps _ _ _ _ _)
  | vst | vsts | vstx => exact exec_goes_of_body ht hw rfl (vstoreOp_keeps _ _ _ _)
  | trap => exact execTrap_goes _ ht
  | exit => exact execExit_goes _ ht
  | nop => exact execNop_goes _ ht
  | hint => exact execHint_goes _ ht
  | succ => exact execSucc_goes _ ht
  | br => exact execBr_goes _ ht
  | vsel => exact execVsel_goes _ ht
  | mnot => exact execMnot_goes _ ht
  | mpop => exact execMpop_goes _ ht
  | mtog => exact execMtog_goes _ ht
  | mfromg => exact execMfromg_goes _ ht
  | vcmp => exact execVcmp_goes _ ht
  | vl6pack => exact execVl6pack_goes _ ht
  | vbcast => exact execVbcast_goes _ ht
  | vred => exact execVred_goes _ ht
  | qcnt => exact execQcnt_goes _ ht
  | bc => exact execBc_goes _ ht
  | loop => exact execLoop_goes _ ht
  | pref => exact execPref_goes _ ht
  | jr => exact execJr_goes _ ht
  | callr => exact execCallr_goes _ ht
  | call => exact execCall_goes _ ht
  | ret => exact execRet_goes _ ht
  | qpeek => exact execQpeek_goes _ ht
  | loc => exact execLoc_goes _ ht
  | barArr => exact execBarArr_goes _ ht
  | barWait => exact execBarWait_goes _ ht
  | fence => exact execFence_goes _ ht
  | step => exact execStep_goes _ ht
  | cas => exact execCas_goes _ ht
  | red => exact execRed_goes _ ht
  | cflush => exact execCflush_goes _ ht
  | pgreq => exact execPgreq_goes _ ht
  | tld => exact execTld_goes _ ht
  | tst => exact execTst_goes _ ht
  | tmod => exact execTmod_goes _ ht
  | tide => exact execTide_goes _ ht
  | rota => exact execRota_goes _ ht
  | launch => exact execLaunch_goes _ ht
  | qtail => exact execQtail_goes _ ht
  | waitvis => exact execWaitvis_goes _ ht
  | wait => exact execWait_goes _ ht
  | srd => exact execSrd_goes _ ht
  | swr => exact execSwr_goes _ ht
  | pmark => exact execPmark_goes _ ht
  | _ => obtain ⟨t, sl, h, -⟩ := hw; cases h

theorem exec_event_goes {ins : Instr} (s : State) (hs : slotOf ins = none) : Goes s (exec ins s) := by
  cases ins with
  | vcAdvance => exact execVcAdvance_goes _ _
  | timedLanding => exact execTimedLanding_goes _ _
  | landingDataArrival => exact execLandingDataArrival_goes _ _ _ _ _
  | freezeEnd => exact execFreezeEnd_goes _ _
  | watchdog => exact execWatchdog_goes _ _
  | pageRefillDone => exact execPageRefillDone_goes _ _ _
  | writeAcknowledge => exact execWriteAcknowledge_goes _ _ _ _
  | queueEnable => exact execQueueEnable_goes _ _ _ _
  | queueDisable => exact execQueueDisable_goes _ _ _ _
  | tailWrite => exact execTailWrite_goes _ _ _ _
  | parseNop => exact execParseNop_goes _ _ _ _
  | parseLaunch => exact execParseLaunch_goes _ _ _ _
  | parseFence => exact execParseFence_goes _ _ _ _
  | fenceCounterRead => exact execFenceCounterRead_goes _ _ _ _
  | parseSignal => exact execParseSignal_goes _ _ _ _
  | signalAdd => exact execSignalAdd_goes _ _ _
  | launchDispatch => exact execLaunchDispatch_goes _ _ _ _
  | saveComplete => exact execSaveComplete_goes _ _
  | instanceResume => exact execInstanceResume_goes _ _ _
  | speculationTimeout => exact execSpeculationTimeout_goes _ _ _
  | commitComplete => exact execCommitComplete_goes _ _ _
  | ingressRequest => exact execIngressRequest_goes _ _
  | refusedAccess => exact execRefusedAccess_goes _ _ _ _
  | fabricTimeout => exact execFabricTimeout_goes _ _
  | granuleMoveStart => exact execGranuleMoveStart_goes _ _ _ _
  | granuleMoveEnd => exact execGranuleMoveEnd_goes _ _ _ _ _
  | contestPinEnd => exact execContestPinEnd_goes _ _
  | moveRetry => exact execMoveRetry_goes _ _
  | moveRetryLimit => exact execMoveRetryLimit_goes _ _
  | foreignPeerTimeout => exact execForeignPeerTimeout_goes _ _ _
  | turnStart => exact execTurnStart_goes _ _
  | turnEnd => exact execTurnEnd_goes _ _
  | tideExpired => exact execTideExpired_goes _ _ _
  | windowPacketArrival => exact execWindowPacketArrival_goes _ _
  | meterIdle => exact execMeterIdle_goes _ _
  | probeArrival => exact execProbeArrival_goes _ _
  | probeSuccess => exact execProbeSuccess_goes _ _ _
  | probeFail => exact execProbeFail_goes _ _ _
  | circuitDataArrival => exact execCircuitDataArrival_goes _ _ _ _
  | markedPacketArrival => exact execMarkedPacketArrival_goes _ _ _
  | tokenArrival => exact execTokenArrival_goes _ _ _
  | circuitIdle => exact execCircuitIdle_goes _ _
  | demotionMarkArrival => exact execDemotionMarkArrival_goes _ _
  | circuitBreak => exact execCircuitBreak_goes _ _ _
  | teardownReported => exact execTeardownReported_goes _ _
  | holdExpiry => exact execHoldExpiry_goes _ _
  | leaseExpiry => exact execLeaseExpiry_goes _ _ _
  | fallbackDone => exact execFallbackDone_goes _ _ _
  | linkFailure => exact execLinkFailure_goes _ _
  | linkRetrain => exact execLinkRetrain_goes _ _
  | multicastForward => exact execMulticastForward_goes _ _ _ _
  | collectiveContribution => exact execCollectiveContribution_goes _ _ _
  | rackTokenArrival => exact execRackTokenArrival_goes _ _ _ _
  | caskArrival => exact execCaskArrival_goes _ _ _ _ _
  | rotaReopen => exact execRotaReopen_goes _ _ _
  | failureMarkArrival => exact execFailureMarkArrival_goes _ _ _
  | engineCommandStart => exact execEngineCommandStart_goes _ _ _ _
  | engineCommandComplete => exact execEngineCommandComplete_goes _ _ _ _ _ _
  | dieReset => exact execDieReset_goes _ _
  | dieResetTimeout => exact execDieResetTimeout_goes _ _
  | linkFlitError => exact execLinkFlitError_goes _ _ _
  | fabricFlitError => exact execFabricFlitError_goes _ _ _
  | clockThrottle => exact execClockThrottle_goes _ _
  | shutdown => exact execShutdown_goes _
  | deviceReset => exact execDeviceReset_goes _
  | firmwareLoad => exact execFirmwareLoad_goes _ _ _
  | attestation => exact execAttestation_goes _ _
  | lifeCycleChange => exact execLifeCycleChange_goes _ _ _
  | abortreq => exact execAbortreq_goes _ _ _
  | rrqctlWrite => exact execRrqctlWrite_goes _ _ _
  | rrqctlRead => exact execRrqctlRead_goes _ _
  | sidebandResetRequest => exact execSidebandResetRequest_goes _
  | registerWrite => exact execRegisterWrite_goes _ _
  | hostLinkRequest => exact execHostLinkRequest_goes _ _
  | dieReturnsToService => exact execDieReturnsToService_goes _ _
  | caskConsumed => exact execCaskConsumed_goes _ _
  | _ => cases hs

/-! ## Fetch and issue -/

/-- What a fetch leaves: the agenda and the turn. -/
def SamePlace (s t : State) : Prop := t.agenda = s.agenda ∧ t.turn = s.turn

theorem discardSpec_turn (why : SpecEnd) (id : Nat) (s : State) : (discardSpec why id s).turn = s.turn := by
  unfold discardSpec; split
  · rfl
  · cases why <;> rfl

theorem addRead_samePlace (id a n : Nat) (s : State) : SamePlace s (addRead id a n s) := by
  refine ⟨addRead_agenda .., ?_⟩
  unfold addRead; split
  · rfl
  · dsimp only; split
    · exact discardSpec_turn ..
    · rfl

/-- What a fetch leaves of the state before it, where it gives a word. -/
def WordAt.Keeps (s : State) : WordAt → Prop
  | .word _ t => SamePlace s t
  | _ => True

theorem outsideFetch_keeps (e : Env) (n : Nat) (t : Tgt) : (outsideFetch e n t).Keeps e.s := by
  unfold outsideFetch; split
  · trivial
  · exact ⟨rfl, rfl⟩
  · exact ⟨rfl, rfl⟩
  · split
    · trivial
    · split <;> trivial

theorem cellFetch_keeps (e : Env) (x : Nat) : (cellFetch e x).Keeps e.s := by
  unfold cellFetch; split
  · trivial
  · show SamePlace _ _
    split
    · exact addRead_samePlace ..
    · exact ⟨rfl, rfl⟩

theorem dramFetch_keeps (e : Env) (n x : Nat) (t : Tgt) : (dramFetch e n x t).Keeps e.s := by
  unfold dramFetch; split
  · exact cellFetch_keeps ..
  · exact outsideFetch_keeps ..
  · trivial

theorem fetchWord_keeps (e : Env) (l : Launch) (n : Nat) (va : Word) : (fetchWord e l n va).Keeps e.s := by
  unfold fetchWord; split
  · trivial
  · dsimp only; split
    · trivial
    · iterate 3 split; · trivial
      split
      · exact dramFetch_keeps ..
      · split
        · exact dramFetch_keeps ..
        · exact outsideFetch_keeps ..
      · exact outsideFetch_keeps ..

theorem fetchWord_samePlace {e : Env} {l : Launch} {n : Nat} {va : Word} {w : Nat} {t : State}
    (h : fetchWord e l n va = .word w t) : SamePlace e.s t := by
  have := fetchWord_keeps e l n va
  rwa [h] at this

@[simp] theorem reach_agenda (k : Nat) (c : Ctx) (fuel left : Nat) (s : State) : (reach k c fuel left s).1.agenda = s.agenda := by
  induction fuel generalizing left s with
  | zero => rfl
  | succ fuel ih =>
    unfold reach; split
    · rfl
    · split
      · rfl
      · split
        · rfl
        · split
          · rfl
          · split
            · simp
            · rfl
            · simp
            · rename_i h
              have hp := (fetchWord_samePlace h).1
              split
              · simpa using hp
              · split
                · exact hp
                · split
                  · exact hp
                  · rw [ih]; exact hp

theorem reach_turn {k : Nat} {c : Ctx} {fuel left : Nat} {s t : State} {w : Nat} (h : reach k c fuel left s = (t, .own w)) :
    t.turn = s.turn := by
  induction fuel generalizing left s with
  | zero => cases h
  | succ fuel ih =>
    unfold reach at h; split at h
    · cases h
    · split at h
      · cases h
      · split at h
        · cases h
        · split at h
          · cases h
          · split at h
            · cases h
            · cases h
            · cases h
            · rename_i hf
              have hp := (fetchWord_samePlace hf).2
              split at h
              · cases h
              · split at h
                · cases h; exact hp
                · split at h
                  · cases h
                  · exact (ih h).trans hp

theorem stillActs_atTurn {k : Nat} {c : Ctx} {s : State} (ht : s.turn = .issue k c) (h : stillActs k c s = true) : AtTurn s := by
  unfold stillActs at h; split at h
  · exact ⟨k, c, _, ht, by assumption, h⟩
  · cases h

theorem issueWords_goes {k : Nat} {c : Ctx} {s : State} (w lit : Nat) (ht : s.turn = .issue k c) : Goes s (issueWords k c w lit s) := by
  unfold issueWords; split
  · rename_i hd
    split
    · rename_i ha; exact exec_word_goes (stillActs_atTurn ht ha) (decodeWord_isWord hd)
    · exact (goes_next ..).mpr rfl
  · exact (goes_next ..).mpr (trapHere_agenda ..)

theorem Goes.of_agenda {s t : State} {o : Host.Outcome State Fault Refusal} (h : Goes t o) (he : t.agenda = s.agenda) : Goes s o := by
  obtain ⟨u, hu, ha⟩ := h
  exact ⟨u, hu, ha.trans he⟩

theorem issueLong_goes {k : Nat} {c : Ctx} {s : State} (w : Nat) (ht : s.turn = .issue k c) : Goes s (issueLong k c w s) := by
  unfold issueLong; split
  · simp
  · simp
  · split
    · simp
    · simp
    · dsimp only; split
      · split
        · simp
        · simp only [goes_next]; split <;> simp
      · simp
      · simp
      · rename_i hf
        obtain ⟨ha, hturn⟩ := fetchWord_samePlace hf
        exact (issueWords_goes w _ (hturn.trans ht)).of_agenda ha

theorem issueAt_goes {k : Nat} {c : Ctx} {s : State} (w : Nat) (ht : s.turn = .issue k c) : Goes s (issueAt k c w s) := by
  unfold issueAt; split
  · exact issueLong_goes w ht
  · exact issueWords_goes w 0 ht

theorem issueTurn_goes {k : Nat} {c : Ctx} {s : State} (ht : s.turn = .issue k c) : Goes s (issueTurn k c s) := by
  unfold issueTurn; split
  · simp
  · split
    · simp
    · have ha := reach_agenda k c 9 8 s
      split
      · rename_i hr; rw [hr] at ha; exact (goes_next ..).mpr ha
      · rename_i hr
        rw [hr] at ha
        exact (issueAt_goes _ ((reach_turn hr).trans ht)).of_agenda ha

/-! ## What the device does by itself -/

/-- A deed answers a state with the same agenda. -/
def DeedGoes (d : Deed) : Prop := ∀ s, Goes s (d s)

theorem deedOf_goes {f : State → State} (h : ∀ s, (f s).agenda = s.agenda) : DeedGoes (deedOf f) := fun s => (goes_next ..).mpr (h s)

theorem firstMove_agenda {ds : List Deed} {s t : State} (hd : ∀ d ∈ ds, DeedGoes d) (h : firstMove ds s = some t) :
    t.agenda = s.agenda := by
  induction ds with
  | nil => cases h
  | cons d ds ih =>
    obtain ⟨u, hu, ha⟩ := hd d (.head _) s
    rw [firstMove, hu] at h; dsimp only at h; split at h
    · exact ih (fun d hm => hd d (.tail _ hm)) h
    · cases h; exact ha

theorem flowDeeds_go : ∀ d ∈ flowDeeds, DeedGoes d := by
  simp only [flowDeeds, List.forall_mem_cons]
  exact ⟨deedOf_goes sendReady_agenda, deedOf_goes loopStep_agenda,
    deedOf_goes fun s => orderStep_agenda _ s fun a t => carryOut_agenda a t, by simp⟩

theorem isleDeeds_go (s : State) : ∀ d ∈ isleDeeds s, DeedGoes d := by
  simp only [isleDeeds, List.mem_flatMap, List.mem_append, List.mem_cons, List.mem_map]
  rintro d ⟨p, -, (rfl | rfl | rfl | h) | ⟨x, -, rfl⟩⟩
  · exact execFreezeEnd_goes _
  · exact execWatchdog_goes _
  · exact execSaveComplete_goes _
  · cases h
  · exact execLeaseExpiry_goes _ _

theorem linkDeeds_go (s : State) : ∀ d ∈ linkDeeds s, DeedGoes d := by
  simp only [linkDeeds, List.mem_append, List.mem_flatMap, List.mem_map, List.mem_cons, List.mem_ite_nil_left]
  rintro d (⟨p, -, ⟨r, -, rfl⟩ | ⟨-, rfl | h⟩⟩ | ⟨m, -, rfl | rfl | rfl | h⟩)
  · exact execTideExpired_goes _ _
  · exact execTurnStart_goes _
  · cases h
  · exact execMeterIdle_goes _
  · exact execCircuitIdle_goes _
  · exact execHoldExpiry_goes _
  · cases h

theorem waitDeeds_go (s : State) : ∀ d ∈ waitDeeds s, DeedGoes d := by
  simp only [waitDeeds, List.mem_append, List.mem_flatMap, List.mem_map, List.mem_ite_nil_right, List.mem_cons, List.not_mem_nil, or_false]
  rintro d ((⟨a, -, (⟨-, rfl | rfl⟩ | ⟨-, rfl⟩) | ⟨p, -, rfl⟩⟩ | ⟨p, -, rfl⟩) | ⟨p, -, rfl⟩)
  · exact execMoveRetryLimit_goes _
  · exact execMoveRetry_goes _
  · exact execFabricTimeout_goes _
  · exact execForeignPeerTimeout_goes _ _
  · exact execContestPinEnd_goes _
  · exact execDieResetTimeout_goes _

theorem fenceDeeds_go (s : State) (v q : Nat) : ∀ d ∈ fenceDeeds s v q, DeedGoes d := by
  unfold fenceDeeds; split
  · simp only [List.mem_ite_nil_right, List.mem_singleton]
    rintro d ⟨-, rfl⟩; exact execFenceCounterRead_goes _ _ _
  · simp

theorem queueDeeds_go (s : State) (v q : Nat) : ∀ d ∈ queueDeeds s v q, DeedGoes d := by
  simp only [queueDeeds, List.mem_append, List.mem_ite_nil_right, List.mem_cons, List.not_mem_nil, or_false]
  rintro d ((((⟨-, rfl | rfl⟩ | h) | ⟨-, rfl⟩) | ⟨-, rfl | rfl | rfl | rfl⟩) | ⟨-, rfl⟩)
  · exact execCommitComplete_goes _ _
  · exact execSpeculationTimeout_goes _ _
  · exact fenceDeeds_go s v q d h
  · exact execSignalAdd_goes _ _
  · exact execParseNop_goes _ _ _
  · exact execParseLaunch_goes _ _ _
  · exact execParseFence_goes _ _ _
  · exact execParseSignal_goes _ _ _
  · exact execLaunchDispatch_goes _ _ _

theorem resumeDeeds_go (s : State) : ∀ d ∈ resumeDeeds s, DeedGoes d := by
  simp only [resumeDeeds, List.mem_filterMap, Option.map_eq_some_iff]
  rintro d ⟨i, -, k, -, rfl⟩; exact execInstanceResume_goes _ _

theorem ownDeeds_go (s : State) : ∀ d ∈ ownDeeds s, DeedGoes d := by
  simp only [ownDeeds, List.mem_append, List.mem_flatMap]
  rintro d (((((h | h) | h) | h) | ⟨p, -, h⟩) | h)
  · exact flowDeeds_go d h
  · exact isleDeeds_go s d h
  · exact linkDeeds_go s d h
  · exact waitDeeds_go s d h
  · exact queueDeeds_go s _ _ d h
  · exact resumeDeeds_go s d h

theorem cmdDeed_go (k : Nat) (c : Cmd) : ∀ d ∈ cmdDeed k c, DeedGoes d.2 := by
  unfold cmdDeed; split
  · simp
  · split <;> simp only [List.mem_singleton, List.not_mem_nil, forall_eq, false_implies, implies_true]
    · exact execEngineCommandStart_goes _ _ _
    · exact execCaskConsumed_goes _
    · exact execEngineCommandComplete_goes _ _ _ _ _

theorem accessDeed_goes (a : Access) : DeedGoes (accessDeed a).2 := by
  unfold accessDeed; split
  · exact execLandingDataArrival_goes _ _ _ _
  · exact execWriteAcknowledge_goes _ _ _

theorem openDeeds_go (s : State) : ∀ d ∈ openDeeds s, DeedGoes d.2 := by
  simp only [openDeeds, List.mem_append, List.mem_map, List.mem_flatMap]
  rintro d (((⟨a, -, rfl⟩ | ⟨p, -, (⟨c, -, h⟩ | ⟨n, -, rfl⟩) | ⟨x, -, rfl⟩⟩) | ⟨p, -, rfl⟩) | ⟨p, -, rfl⟩)
  · exact accessDeed_goes a
  · exact cmdDeed_go _ c d h
  · exact execPageRefillDone_goes _ _
  · exact execFallbackDone_goes _ _
  · exact execTurnEnd_goes _
  · exact execSignalAdd_goes _ _

theorem autoMove_agenda {s t : State} (h : autoMove s = some t) : t.agenda = s.agenda := by
  unfold autoMove at h; split at h
  · rename_i hm; cases h; exact firstMove_agenda (ownDeeds_go s) hm
  · split at h
    · rename_i hm; cases h; exact specMove_agenda _ _ hm
    · refine firstMove_agenda (fun d hd => ?_) h
      obtain ⟨e, he, rfl⟩ := List.mem_map.mp hd
      exact openDeeds_go s e (List.mem_filter.mp he).1

/-! ## The step -/

theorem eventsOnly_of_agenda {s t : State} (h : EventsOnly s) (he : t.agenda = s.agenda) : EventsOnly t := by
  unfold EventsOnly; rwa [he]

theorem clockTurn_answers {s : State} (h : EventsOnly s) : ∃ t, clockTurn s = .next t ∧ EventsOnly t := by
  have auto : ∃ t, (match autoMove s with
      | some t => .next t
      | none => .next (startClock s) : Host.Outcome State Fault Refusal) = .next t ∧ EventsOnly t := by
    split
    · rename_i hm; exact ⟨_, rfl, eventsOnly_of_agenda h (autoMove_agenda hm)⟩
    · exact ⟨_, rfl, eventsOnly_of_agenda h (startClock_agenda s)⟩
  unfold clockTurn; split
  · exact ⟨_, rfl, eventsOnly_of_agenda h (stopTrapped_agenda s)⟩
  · split
    · rename_i e rest hs
      split
      · have he : slotOf e = none := h _ (by rw [hs]; exact List.mem_cons_self)
        obtain ⟨t, ht, ha⟩ := exec_event_goes { s with agenda := rest } he
        refine ⟨t, ht, fun p hp => h p ?_⟩
        rw [ha] at hp; rw [hs]; exact .tail _ hp
      · exact auto
    · exact auto

theorem thenTurn_goes {s : State} {o : Host.Outcome State Fault Refusal} (f : State → Turn) (h : Goes s o) : Goes s (thenTurn f o) := by
  obtain ⟨t, rfl, ha⟩ := h
  exact ⟨_, rfl, ha⟩

theorem takeTurn_answers {s : State} (h : EventsOnly s) : ∃ t, takeTurn s = .next t ∧ EventsOnly t := by
  have answer : ∀ {o}, Goes s o → ∃ t, o = .next t ∧ EventsOnly t := fun ⟨t, ht, ha⟩ => ⟨t, ht, eventsOnly_of_agenda h ha⟩
  unfold takeTurn; split
  · exact clockTurn_answers h
  · exact answer (thenTurn_goes _ (execTimedLanding_goes _ _))
  · rename_i ht; exact answer (thenTurn_goes _ (issueTurn_goes ht))
  · exact answer (thenTurn_goes _ (execVcAdvance_goes _ _))

end Sys2Proof.Machine

namespace Sys2Proof.Proofs
open Sys2Proof.Machine Sys2Proof.Safety

/-- Settles O39: each word and each event answers a next state with the agenda it began with (`exec_word_goes`, `exec_event_goes`), and so
does each turn. -/
theorem stepAnswers : Obligations.StepAnswers := by
  unfold Obligations.StepAnswers
  exact fun s h => takeTurn_answers h

end Sys2Proof.Proofs

/-!
PROOFS. A word that decodes with its literal decodes with the literal 0, to an instruction that differs at most in what the literal gives
(R205, R219): so the checks before the extension word is fetched see what the whole instruction shows.
-/
namespace Sys2Proof
open Machine

/-- The instruction is CALL. -/
def isCall : Instr → Bool
  | .call _ => true
  | _ => false

/-- The two instructions differ at most in what a literal gives: the checks of a word before its literal agree on them. -/
structure Like (i j : Instr) : Prop where
  tag : tagOfInstr j = tagOfInstr i
  slot : slotOf j = slotOf i
  mx : needsMx j = needsMx i
  call : isCall j = isCall i

/-- The decoder's result r gives an instruction like i. -/
def Mirror (r : Except DecodeError Instr) (i : Instr) : Prop := ∃ j, r = .ok j ∧ Like i j

theorem gives_mirror {i j : Instr} (h : Like i j) : Gives (Mirror (.ok j)) (.ok i) := (gives_ok ..).mpr ⟨j, rfl, h⟩

theorem gives_mirror_checked {i j : Instr} (e e' : DecodeError) (hw : i.wellFormed = true → j.wellFormed = true) (h : Like i j) :
    Gives (Mirror (checked j e')) (checked i e) := by
  refine (gives_checked ..).mpr fun hi => ⟨j, ?_, h⟩
  rw [checked, if_pos (hw hi)]

theorem gives_mirror_need {b b' : Bool} {e e' : DecodeError} {r r' : Except DecodeError Instr} (hb : b = true → b' = true)
    (h : Gives (Mirror r') r) : Gives (Mirror (need b' e' r')) (need b e r) := by
  cases b with
  | false => exact gives_error _ _
  | true => rw [hb rfl]; exact h

theorem field_zero (lo n : Nat) : field 0 lo n = 0 := by simp [field]

/-! ## A word that decodes with its literal decodes with the literal 0 -/

section
variable (w l : Nat)

theorem withImm_mirror {k : Imm → Instr} (hk : ∀ a b, Like (k (.long a)) (k (.long b))) :
    Gives (Mirror (withImm w (some 0) k)) (withImm w (some l) k) := gives_mirror_need id (gives_mirror (hk ..))

theorem withOff_mirror {k : Off → Instr} (hk : ∀ a b, Like (k (.long a)) (k (.long b))) :
    Gives (Mirror (withOff w (some 0) k)) (withOff w (some l) k) := gives_mirror_need id (gives_mirror (hk ..))

theorem decodeShift_mirror {k : ShiftOp → Instr} (hk : ∀ ct d a m n, Like (k ⟨ct, d, a, m, true⟩) (k ⟨ct, d, a, n, true⟩)) :
    Gives (Mirror (decodeShift w (some 0) k)) (decodeShift w (some l) k) :=
  gives_mirror_need (fun h => by simpa using (Bool.and_eq_true_iff.mp h).1) (gives_mirror (hk ..))

theorem withRnd_mirror {k : Option Rnd → Except DecodeError Instr} (hk : ∀ r, Gives (Mirror (k (some .rne))) (k (some r))) :
    Gives (Mirror (withRnd (some 0) k)) (withRnd (some l) k) := (gives_need ..).mpr fun _ => hk _

theorem decodeBr_mirror : Gives (Mirror (decodeBr w (some 0))) (decodeBr w (some l)) := by
  unfold decodeBr; split
  iterate 7 exact withOff_mirror w l fun _ _ => ⟨rfl, rfl, rfl, rfl⟩
  exact gives_error _ _

theorem decodeLoad_mirror {k : LoadOp → Instr}
    (hk : ∀ ct d a land sz m x y, let i := k ⟨ct, d, a, land, sz, m, x⟩; let j := k ⟨ct, d, a, land, sz, m, y⟩
      (i.wellFormed = true → j.wellFormed = true) ∧ Like i j) :
    Gives (Mirror (decodeLoad w (some 0) k)) (decodeLoad w (some l) k) := by
  refine gives_mirror_need id ?_
  obtain ⟨hw, hl⟩ := hk (tagOf w) (dOf w) (aOf w) (bv w 6 6) (szOf w) (bv w 0 3) (offOf (some l)) (offOf (some 0))
  exact gives_mirror_checked _ _ hw hl

theorem decodeStore_mirror {k : StoreOp → Instr} (hk : ∀ ct s a sz x y, Like (k ⟨ct, s, a, sz, x⟩) (k ⟨ct, s, a, sz, y⟩)) :
    Gives (Mirror (decodeStore w (some 0) k)) (decodeStore w (some l) k) :=
  gives_mirror_need id (gives_mirror_need id (gives_mirror (hk ..)))

theorem decodeAmo_mirror {k : AmoOp → Instr}
    (hk : ∀ ct d a land sz fn q x y, let i := k ⟨ct, d, a, land, sz, fn, q, x⟩; let j := k ⟨ct, d, a, land, sz, fn, q, y⟩
      (i.wellFormed = true → j.wellFormed = true) ∧ Like i j) :
    Gives (Mirror (decodeAmo w (some 0) k)) (decodeAmo w (some l) k) := by
  obtain ⟨hw, hl⟩ := hk (tagOf w) (dOf w) (aOf w) (bv w 6 6) (szOf w) (amoFnOf w) (bitAt w 3) (offOf (some l)) (offOf (some 0))
  exact gives_mirror_checked _ _ hw hl

theorem decodeAddr_mirror {k : AddrOp → Instr} (hk : ∀ ct a x y, Like (k ⟨ct, a, x⟩) (k ⟨ct, a, y⟩)) :
    Gives (Mirror (decodeAddr w (some 0) k)) (decodeAddr w (some l) k) :=
  gives_mirror_need id (gives_mirror_need id (gives_mirror (hk ..)))

theorem decodeVmem_mirror {k : VmemOp → Instr}
    (hk : ∀ ct v a land m x y, let i := k ⟨ct, v, a, land, m, x⟩; let j := k ⟨ct, v, a, land, m, y⟩
      (i.wellFormed = true → j.wellFormed = true) ∧ Like i j) :
    Gives (Mirror (decodeVmem w (some 0) k)) (decodeVmem w (some l) k) := by
  refine gives_mirror_need id ?_
  obtain ⟨hw, hl⟩ := hk (tagOf w) (dOf w) (aOf w) (bv w 6 6) (bv w 0 3) (offOf (some l)) (offOf (some 0))
  exact gives_mirror_checked _ _ hw hl

theorem decodeVmemX_mirror {k : VmemXOp → Instr}
    (hk : ∀ ct v a land m x y z u, let i := k ⟨ct, v, a, land, m, x, z⟩; let j := k ⟨ct, v, a, land, m, y, u⟩
      (i.wellFormed = true → j.wellFormed = true) ∧ Like i j) :
    Gives (Mirror (decodeVmemX w (some 0) k)) (decodeVmemX w (some l) k) := by
  refine gives_mirror_need id ?_
  obtain ⟨hw, hl⟩ := hk (tagOf w) (dOf w) (aOf w) (bv w 6 6) (bv w 0 3) (bv l 27 5) (bv 0 27 5) (bv l 0 27) (bv 0 0 27)
  exact gives_mirror_checked _ _ hw hl

theorem decodeVred_mirror (r : Rnd) : Gives (Mirror (decodeVred w (some .rne))) (decodeVred w (some r)) := by
  unfold decodeVred; dsimp only; split
  · exact gives_mirror_checked _ _ (fun _ => rfl) ⟨rfl, rfl, rfl, rfl⟩
  iterate 8 exact gives_mirror_checked _ _ (fun h => by cases h) ⟨rfl, rfl, rfl, rfl⟩
  exact gives_error _ _

theorem decodeVcvt_mirror (r : Rnd) : Gives (Mirror (decodeVcvt w (some .rne))) (decodeVcvt w (some r)) := by
  unfold decodeVcvt; split
  all_goals first
    | exact gives_mirror ⟨rfl, rfl, rfl, rfl⟩
    | exact gives_mirror_checked _ _ (fun _ => rfl) ⟨rfl, rfl, rfl, rfl⟩
    | exact gives_error _ _

theorem decodeVfF32_mirror (r : Rnd) : Gives (Mirror (decodeVfF32 w (some .rne))) (decodeVfF32 w (some r)) := by
  unfold decodeVfF32; split
  all_goals first
    | exact gives_mirror ⟨rfl, rfl, rfl, rfl⟩
    | exact gives_error _ _

theorem decodeVfBf16_mirror (r : Rnd) : Gives (Mirror (decodeVfBf16 w (some .rne))) (decodeVfBf16 w (some r)) := by
  unfold decodeVfBf16; split
  all_goals first
    | exact gives_mirror ⟨rfl, rfl, rfl, rfl⟩
    | exact gives_error _ _

theorem decodeVfF16_mirror (r : Rnd) : Gives (Mirror (decodeVfF16 w (some .rne))) (decodeVfF16 w (some r)) := by
  unfold decodeVfF16; split
  all_goals first
    | exact gives_mirror ⟨rfl, rfl, rfl, rfl⟩
    | exact gives_error _ _

theorem decodeVtrans_mirror (r : Rnd) : Gives (Mirror (decodeVtrans w (some .rne))) (decodeVtrans w (some r)) := by
  unfold decodeVtrans; split
  all_goals first
    | exact gives_mirror ⟨rfl, rfl, rfl, rfl⟩
    | exact gives_error _ _

theorem decodeTens_mirror : Gives (Mirror (decodeTens w 0)) (decodeTens w l) := by
  refine gives_mirror_need (fun _ => rfl) ?_
  split
  iterate 2 exact gives_mirror ⟨rfl, rfl, rfl, rfl⟩
  · refine gives_mirror_need (fun _ => rfl) ?_
    cases tmodFieldOf (field l 0 4) with
    | none => exact gives_error _ _
    | some f => exact gives_mirror ⟨rfl, rfl, rfl, rfl⟩
  · exact gives_error _ _

theorem decodeMx_mirror : Gives (Mirror (decodeMx w 0)) (decodeMx w l) := by
  unfold decodeMx; dsimp only; split
  iterate 4 exact gives_mirror_need (fun _ => rfl) (gives_mirror_need id (gives_mirror ⟨rfl, rfl, rfl, rfl⟩))
  exact gives_error _ _

theorem decodeCp_mirror : Gives (Mirror (decodeCp w 0)) (decodeCp w l) := by
  refine gives_mirror_need (fun _ => rfl) ?_
  split
  iterate 7 exact gives_mirror ⟨rfl, rfl, rfl, rfl⟩
  exact gives_error _ _

theorem decodeAtt_mirror : Gives (Mirror (decodeAtt w 0)) (decodeAtt w l) :=
  gives_mirror_need id (gives_mirror_need (fun _ => rfl) (gives_mirror ⟨rfl, rfl, rfl, rfl⟩))

theorem decodeCirc_mirror : Gives (Mirror (decodeCirc w 0)) (decodeCirc w l) := by
  refine gives_mirror_need id (gives_mirror_need id ?_)
  split
  iterate 6 exact gives_mirror_need (fun _ => rfl) (gives_mirror ⟨rfl, rfl, rfl, rfl⟩)
  exact gives_error _ _

theorem decodeTide_mirror : Gives (Mirror (decodeTide w 0)) (decodeTide w l) :=
  gives_mirror_need id (gives_mirror_need (fun h => by simpa [field_zero] using (Bool.and_eq_true_iff.mp h).1)
    (gives_mirror_checked _ _ (fun _ => rfl) ⟨rfl, rfl, rfl, rfl⟩))

theorem decodeCollFn_mirror {k : CollFn → Instr} {k' : CollFn → Instr} (hk : ∀ f, Like (k f) (k' .sum)) :
    Gives (Mirror (decodeCollFn 0 k')) (decodeCollFn l k) := by
  rw [show decodeCollFn 0 k' = .ok (k' .sum) from rfl]
  unfold decodeCollFn; split
  iterate 3 exact gives_mirror (hk _)
  exact gives_error _ _

theorem decodeColl_mirror : Gives (Mirror (decodeColl w 0)) (decodeColl w l) := by
  refine gives_mirror_need id ?_
  split
  · exact gives_mirror_need (fun _ => rfl) (decodeCollFn_mirror l fun _ => ⟨rfl, rfl, rfl, rfl⟩)
  · exact gives_mirror_need (fun _ => rfl) (gives_mirror ⟨rfl, rfl, rfl, rfl⟩)
  · exact gives_mirror_need (fun _ => rfl) (decodeCollFn_mirror l fun _ => ⟨rfl, rfl, rfl, rfl⟩)
  · exact gives_mirror_need (fun _ => rfl) (gives_mirror ⟨rfl, rfl, rfl, rfl⟩)
  · exact gives_mirror_need (fun h => by simpa [field_zero] using (Bool.and_eq_true_iff.mp h).2) (gives_mirror ⟨rfl, rfl, rfl, rfl⟩)
  · exact gives_error _ _

theorem decodeRota_mirror : Gives (Mirror (decodeRota w 0)) (decodeRota w l) :=
  gives_mirror_need id (gives_mirror_need (fun h => by simpa [field_zero] using (Bool.and_eq_true_iff.mp h).1)
    (gives_mirror ⟨rfl, rfl, rfl, rfl⟩))

theorem decodeMajor_mirror (op : Nat) : Gives (Mirror (decodeMajor op w (some 0))) (decodeMajor op w (some l)) := by
  unfold decodeMajor
  split
  · exact gives_error _ _
  · exact gives_error _ _
  · exact gives_error _ _
  · exact gives_error _ _
  · exact gives_error _ _
  · exact withImm_mirror w l fun _ _ => ⟨rfl, rfl, rfl, rfl⟩
  · exact withImm_mirror w l fun _ _ => ⟨rfl, rfl, rfl, rfl⟩
  · exact withImm_mirror w l fun _ _ => ⟨rfl, rfl, rfl, rfl⟩
  · exact withImm_mirror w l fun _ _ => ⟨rfl, rfl, rfl, rfl⟩
  · exact withImm_mirror w l fun _ _ => ⟨rfl, rfl, rfl, rfl⟩
  · exact decodeShift_mirror w l fun _ _ _ _ _ => ⟨rfl, rfl, rfl, rfl⟩
  · exact decodeShift_mirror w l fun _ _ _ _ _ => ⟨rfl, rfl, rfl, rfl⟩
  · exact decodeShift_mirror w l fun _ _ _ _ _ => ⟨rfl, rfl, rfl, rfl⟩
  · exact withImm_mirror w l fun _ _ => ⟨rfl, rfl, rfl, rfl⟩
  · exact withImm_mirror w l fun _ _ => ⟨rfl, rfl, rfl, rfl⟩
  · exact withImm_mirror w l fun _ _ => ⟨rfl, rfl, rfl, rfl⟩
  · exact withImm_mirror w l fun _ _ => ⟨rfl, rfl, rfl, rfl⟩
  · exact withImm_mirror w l fun _ _ => ⟨rfl, rfl, rfl, rfl⟩
  · exact gives_error _ _
  · exact gives_error _ _
  · exact decodeBr_mirror w l
  · exact gives_mirror_need id (gives_mirror_need id (withOff_mirror w l fun _ _ => ⟨rfl, rfl, rfl, rfl⟩))
  · exact gives_mirror_need id (withOff_mirror w l fun _ _ => ⟨rfl, rfl, rfl, rfl⟩)
  · exact gives_error _ _
  · exact gives_error _ _
  · exact gives_error _ _
  · exact decodeLoad_mirror w l fun _ _ _ _ _ _ _ _ => ⟨id, ⟨rfl, rfl, rfl, rfl⟩⟩
  · exact decodeLoad_mirror w l fun _ _ _ _ _ _ _ _ => ⟨id, ⟨rfl, rfl, rfl, rfl⟩⟩
  · exact decodeLoad_mirror w l fun _ _ _ _ _ _ _ _ => ⟨id, ⟨rfl, rfl, rfl, rfl⟩⟩
  · exact decodeStore_mirror w l fun _ _ _ _ _ _ => ⟨rfl, rfl, rfl, rfl⟩
  · exact decodeStore_mirror w l fun _ _ _ _ _ _ => ⟨rfl, rfl, rfl, rfl⟩
  · exact decodeAmo_mirror w l fun _ _ _ _ _ _ _ _ _ => ⟨id, ⟨rfl, rfl, rfl, rfl⟩⟩
  · exact decodeAmo_mirror w l fun _ _ _ _ _ _ _ _ _ => ⟨id, ⟨rfl, rfl, rfl, rfl⟩⟩
  · exact gives_mirror_need id (gives_mirror_checked _ _ id ⟨rfl, rfl, rfl, rfl⟩)
  · exact gives_mirror_need id (gives_mirror_checked _ _ id ⟨rfl, rfl, rfl, rfl⟩)
  · exact decodeAddr_mirror w l fun _ _ _ _ => ⟨rfl, rfl, rfl, rfl⟩
  · exact decodeAddr_mirror w l fun _ _ _ _ => ⟨rfl, rfl, rfl, rfl⟩
  · exact decodeAddr_mirror w l fun _ _ _ _ => ⟨rfl, rfl, rfl, rfl⟩
  · exact gives_error _ _
  · exact gives_error _ _
  · exact withRnd_mirror l (decodeVfF32_mirror w)
  · exact withRnd_mirror l (decodeVfBf16_mirror w)
  · exact withRnd_mirror l (decodeVfF16_mirror w)
  · exact gives_error _ _
  · exact gives_error _ _
  · exact gives_error _ _
  · exact gives_error _ _
  · exact gives_error _ _
  · exact withRnd_mirror l (decodeVcvt_mirror w)
  · exact withRnd_mirror l (decodeVtrans_mirror w)
  · exact withRnd_mirror l (decodeVred_mirror w)
  · exact gives_error _ _
  · exact decodeVmem_mirror w l fun _ _ _ _ _ _ _ => ⟨id, ⟨rfl, rfl, rfl, rfl⟩⟩
  · exact decodeVmemX_mirror w l fun _ _ _ _ _ _ _ _ _ => ⟨id, ⟨rfl, rfl, rfl, rfl⟩⟩
  · exact decodeVmemX_mirror w l fun _ _ _ _ _ _ _ _ _ => ⟨id, ⟨rfl, rfl, rfl, rfl⟩⟩
  · exact decodeVmem_mirror w l fun _ _ _ _ _ _ _ => ⟨id, ⟨rfl, rfl, rfl, rfl⟩⟩
  · exact decodeVmemX_mirror w l fun _ _ _ _ _ _ _ _ _ => ⟨id, ⟨rfl, rfl, rfl, rfl⟩⟩
  · exact decodeVmemX_mirror w l fun _ _ _ _ _ _ _ _ _ => ⟨id, ⟨rfl, rfl, rfl, rfl⟩⟩
  · exact decodeTens_mirror w l
  · exact decodeMx_mirror w l
  · exact decodeCp_mirror w l
  · exact decodeAtt_mirror w l
  · exact decodeCirc_mirror w l
  · exact decodeTide_mirror w l
  · exact decodeColl_mirror w l
  · exact decodeRota_mirror w l
  · exact gives_error _ _

end

/-- A word that decodes with its literal decodes with the literal 0, to an instruction like it. -/
theorem decodeWord_mirror {w lit : Nat} {i : Instr} (h : decodeWord w lit = .ok i) : ∃ j, decodeWord w 0 = .ok j ∧ Like i j := by
  unfold decodeWord at *
  cases hx : bitAt w 29 <;> rw [hx] at h
  · exact ⟨i, h, rfl, rfl, rfl, rfl⟩
  · exact decodeMajor_mirror w _ _ i h

end Sys2Proof

/-!
PROOFS. Passing over and issue (R35 to R37, R44, R206, R219): what a fetch gives in the text, how reach passes over words of other contexts, and
what becomes of the own word.
-/
namespace Sys2Proof.Machine
open Sys2Proof.Safety

/-! ## ILLEGAL that a word shows by itself -/

theorem headIllegal_eq (s : State) (k : Nat) (c : Ctx) (x : CtxState) {ins : Instr} {t : Tag} {sl : Slot}
    (ht : tagOfInstr ins = some t) (hs : slotOf ins = some sl) : headIllegal s k c x ins =
      if !slotLegal t c sl then some 2 else if needsMx ins && !hasMx s k then some 3
      else if isCall ins && decide (stackDepth ≤ x.stack.length) then some 4 else none := by
  unfold headIllegal
  simp only [ht, hs]
  split
  · rfl
  · split
    · rfl
    · cases ins <;> simp [isCall]

theorem headIllegal_of_like {s : State} {k : Nat} {c : Ctx} {x : CtxState} {i j : Instr} {t : Tag} {sl : Slot}
    (ht : tagOfInstr i = some t) (hs : slotOf i = some sl) (h : Like i j) : headIllegal s k c x j = headIllegal s k c x i := by
  rw [headIllegal_eq s k c x ht hs, headIllegal_eq s k c x (h.tag.trans ht) (h.slot.trans hs), h.mx, h.call]

theorem engineOp_noMx {word : Instr} {stops : Bool} {ts : List (BitVec 6)} {gs : List (BitVec 5)}
    {mk : List Desc → List Clause × List Opnd} {e : Env} (h : hasMx e.s e.k = false) :
    engineOp word true stops ts gs mk e = .trap cILLEGAL 3 0 := by
  simp [engineOp, h]

section
variable {ins : Instr} {s : State} {k : Nat} {c : Ctx} {i : Inst}

theorem traps_of_noMx (h : Reached ins s k c i) (hn : needsMx ins = true) (hm : hasMx s k = false) :
    Traps ins s k c i cILLEGAL 3 0 := by
  cases ins with
  | mxm o => exact traps_of_trap h ((exec_mxm o s).trans (execMxm.eq_1 o s)) (engineOp_noMx hm)
  | mxmRb o => exact traps_of_trap h ((exec_mxmRb o s).trans (execMxmRb.eq_1 o s)) (engineOp_noMx hm)
  | mxz o => exact traps_of_trap h ((exec_mxz o s).trans (execMxz.eq_1 o s)) (engineOp_noMx hm)
  | mxd o => exact traps_of_trap h ((exec_mxd o s).trans (execMxd.eq_1 o s)) (engineOp_noMx hm)
  | att o => exact traps_of_trap h ((exec_att o s).trans (execAtt.eq_1 o s)) (engineOp_noMx hm)
  | wload o => exact traps_of_trap h ((exec_wload o s).trans (execWload.eq_1 o s)) (engineOp_noMx hm)
  | _ => cases hn

theorem traps_of_fullStack (h : Reached ins s k c i) (hn : isCall ins = true) (hm : stackDepth ≤ (i.ctx c).stack.length) :
    Traps ins s k c i cILLEGAL 4 0 := by
  cases ins with
  | call o => exact traps_of_trap h ((exec_call o s).trans (execCall.eq_1 o s)) (if_pos hm)
  | _ => cases hn

theorem trapHere_eq (h : s.inst k = some i) (cause detail : Nat) (addr : Word) :
    trapHere k c cause detail addr s = takeTrap k (ctxCode c) cause detail (i.ctx c).pc addr s := by
  simp [trapHere, h]

/-- A word that shows an ILLEGAL by itself takes it. -/
theorem exec_of_headIllegal {t : Tag} {sl : Slot} {d : Nat} (turn : s.turn = .issue k c) (inst : s.inst k = some i)
    (acts : i.acts c = true) (wf : ins.wellFormed = true) (ht : tagOfInstr ins = some t) (hs : slotOf ins = some sl)
    (hf : tagFor t c = true) (h : headIllegal s k c (i.ctx c) ins = some d) :
    exec ins s = .next (trapHere k c cILLEGAL d 0 s) := by
  rw [headIllegal_eq s k c _ ht hs] at h
  rw [trapHere_eq inst]
  cases hl : slotLegal t c sl with
  | false =>
    rw [hl] at h; cases h
    obtain ⟨body, hb⟩ := exec_word ins (by simp [hs])
    rw [hb, runWord]
    simp [turn, inst, acts, ht, hs, hf, wf, hl, settleVerdict, Env.pc, Env.x]
  | true =>
    have hr : Reached ins s k c i := ⟨turn, inst, acts, wf, t, sl, ht, hs, hf, hl⟩
    simp only [hl, Bool.not_true, Bool.false_eq_true, if_false] at h
    split at h
    · rename_i hm
      cases h
      obtain ⟨hn, hm⟩ := Bool.and_eq_true_iff.mp hm
      exact traps_of_noMx hr hn (by simpa using hm)
    · split at h
      · rename_i hm
        cases h
        obtain ⟨hn, hm⟩ := Bool.and_eq_true_iff.mp hm
        exact traps_of_fullStack hr hn (of_decide_eq_true hm)
      · cases h

end

/-! ## A word of the text is fetched -/

theorem launchBytes_plain {s : State} {id : Nat} {l : Launch} (h : s.launch id = some l) (hp : l.spec = false) (d a n : Nat) :
    launchBytes s id d a n = dieBytes s d a n := by
  simp [launchBytes, dieBytes, h, hp]

theorem dramPlace_home {s : State} {x : Nat} (hd : dieIsDown s (homeDie x) = false) (hg : (granuleOf s (x / 2 ^ 21)).place = .home)
    (write : Bool) : dramPlace s write x = .cell x := by
  unfold dramPlace
  rw [if_neg (by simp [hd])]
  simp only [Granule.readsOut, hg]
  simp

section
variable {s : State} {k : Nat} {c : Ctx} {i : Inst} {l : Launch}

theorem spec_of_plain (hl : s.launch i.launch = some l) (hp : l.spec = false) : (Env.mk s k c i).spec = false := by
  simp [Env.spec, Env.launch, hl, hp]

theorem fetchWord_text {va : Word} {w : Nat} (hl : s.launch i.launch = some l) (hp : l.spec = false) (h : TextAt s k l va w) (n : Nat) :
    fetchWord ⟨s, k, c, i⟩ l n va = .word w s := by
  obtain ⟨g, x, seg, tgt, exe, res, up, home, clean, bytes⟩ := h
  simp [fetchWord, seg, tgt, structTgt, exe, res, dramFetch, dramPlace_home up home, cellFetch, clean, spec_of_plain hl hp,
    launchBytes_plain hl hp, dieOfIsle, bytes]

end

/-! ## Passing over words -/

theorem wordSize_eq (w : Nat) : wordSize w = wordsOf w := by
  unfold wordSize wordsOf hasXw; rw [bitAt_eq_testBit]

theorem one_le_wordsOf (w : Nat) : 1 ≤ wordsOf w := by unfold wordsOf; split <;> omega

theorem slipOk_mono {i : Inst} {c : Ctx} {m n : Nat} (h : slipOk i c n = true) (hm : m ≤ n) : slipOk i c m = true := by
  simp only [slipOk, Bool.or_eq_true, decide_eq_true_eq] at *
  exact h.imp_right (by omega)

theorem advance_advance (x : CtxState) (m n : Nat) : (x.advance m).advance n = x.advance (m + n) := by
  have hp : BitVec.ofNat 64 (4 * (m + n)) = BitVec.ofNat 64 (4 * m) + BitVec.ofNat 64 (4 * n) := by
    rw [Nat.mul_add, BitVec.ofNat_add]
  simp [CtxState.advance, hp, BitVec.ofNat_add, BitVec.add_assoc]

theorem updCtx_updCtx (i : Inst) (c : Ctx) (f g : CtxState → CtxState) : (i.updCtx c f).updCtx c g = i.updCtx c (fun x => g (f x)) := by
  cases c <;> rfl

theorem ctx_updCtx_self (i : Inst) (c : Ctx) (f : CtxState → CtxState) : (i.updCtx c f).ctx c = f (i.ctx c) := by cases c <;> rfl

theorem updInst_updInst (s : State) (k : Nat) (f g : Inst → Inst) : (s.updInst k f).updInst k g = s.updInst k (fun i => g (f i)) := by
  simp only [State.updInst, Assoc.upd, List.map_map]
  congr 2
  funext p
  by_cases h : p.1 = k <;> simp [h]

/-- What isle k holds once the context has passed n words. -/
def passedInst (i : Inst) (c : Ctx) (n : Nat) : Inst := if n = 0 then i else i.updCtx c (fun x => x.advance n)

section
variable {s : State} {k : Nat} {c : Ctx} {i : Inst} {l : Launch} {n : Nat}

theorem inst_passed (h : s.inst k = some i) : (passed s k c n).inst k = some (passedInst i c n) := by
  unfold passed passedInst; split
  · exact h
  · simp [h]

theorem passed_add (m : Nat) (hm : 1 ≤ m) :
    (passed s k c n).updInst k (fun i => i.updCtx c (fun x => x.advance m)) = passed s k c (n + m) := by
  unfold passed
  rw [if_neg (show n + m ≠ 0 by omega)]
  split
  · rename_i h; rw [h, Nat.zero_add]
  · rw [updInst_updInst]; simp only [updCtx_updCtx, advance_advance]

theorem acts_updCtx {f : CtxState → CtxState} (hf : ∀ x, (f x).live = x.live) : (i.updCtx c f).acts c = i.acts c := by
  unfold Inst.acts
  rw [ctx_updCtx_self, hf]
  congr 1
  cases c <;> rfl

theorem passedInst_acts : (passedInst i c n).acts c = i.acts c := by
  unfold passedInst; split
  · rfl
  · exact acts_updCtx fun _ => rfl

theorem passedInst_launch : (passedInst i c n).launch = i.launch := by
  unfold passedInst; split <;> simp

theorem passedInst_pc : ((passedInst i c n).ctx c).pc = (i.ctx c).pc + BitVec.ofNat 64 (4 * n) := by
  unfold passedInst; split
  · rename_i h; simp [h]
  · rw [ctx_updCtx_self]; rfl

theorem passedInst_stack : ((passedInst i c n).ctx c).stack = (i.ctx c).stack := by
  unfold passedInst; split
  · rfl
  · rw [ctx_updCtx_self]; rfl

theorem lowWalk_updCtx_advance_zero : (i.updCtx c (fun x => x.advance 0)).lowWalk = i.lowWalk := by
  have : ∀ d, ((i.updCtx c (fun x => x.advance 0)).ctx d).live = (i.ctx d).live ∧
      ((i.updCtx c (fun x => x.advance 0)).ctx d).walk = (i.ctx d).walk := by
    cases c <;> intro d <;> cases d <;> simp [Inst.updCtx, Inst.setCtx, Inst.ctx, CtxState.advance]
  simp only [Inst.lowWalk, Inst.liveCtxs, this]

theorem slipOk_passedInst (m : Nat) : slipOk (passedInst i c n) c m = slipOk (i.updCtx c (fun x => x.advance n)) c m := by
  unfold passedInst; split
  · rename_i h
    subst h
    simp only [slipOk, lowWalk_updCtx_advance_zero, ctx_updCtx_self, updCtx_win]
    simp [CtxState.advance]
  · rfl

theorem launch_passed (id : Nat) : (passed s k c n).launch id = s.launch id := by unfold passed; split <;> rfl

theorem turn_passed : (passed s k c n).turn = s.turn := by unfold passed; split <;> rfl

theorem hasMx_passed : hasMx (passed s k c n) k = hasMx s k := by unfold passed; split <;> rfl

theorem textAt_passed {va : Word} {w : Nat} (h : TextAt s k l va w) : TextAt (passed s k c n) k l va w := by
  unfold passed; split <;> exact h

/-- What reach does at a word of the text that the slip window admits. -/
theorem reach_text {w fuel left : Nat} (h : ToIssue s k c i l) (ht : TextAt s k l ((i.ctx c).pc + BitVec.ofNat 64 (4 * n)) w)
    (hs : slipOk (i.updCtx c (fun x => x.advance n)) c (wordsOf w) = true) :
    reach k c (fuel + 1) left (passed s k c n) =
      if tagFor (tagOf w) c then (passed s k c n, .own w) else if left < wordsOf w then (passed s k c n, .stop)
      else reach k c fuel (left - wordsOf w) (passed s k c (n + wordsOf w)) := by
  have hl : (passed s k c n).launch (passedInst i c n).launch = some l := by rw [launch_passed, passedInst_launch, h.launch]
  have hf : fetchWord ⟨passed s k c n, k, c, passedInst i c n⟩ l 0 ((passedInst i c n).ctx c).pc = .word w (passed s k c n) := by
    rw [passedInst_pc]; exact fetchWord_text hl h.plain (textAt_passed ht) 0
  have hs' : slipOk (passedInst i c n) c (wordsOf w) = true := (slipOk_passedInst _).trans hs
  have h1 := slipOk_mono hs' (one_le_wordsOf w)
  simp only [reach, inst_passed h.inst, hl, passedInst_acts, h.acts, Bool.not_true, Bool.false_eq_true, if_false, h1, hf, wordSize_eq,
    hs', passed_add _ (one_le_wordsOf w)]

/-- The context passes over the words ws, and goes on from there. -/
theorem reach_passes {ws : List Nat} {fuel left : Nat} (h : ToIssue s k c i l) (hp : MayPass s k c i l n ws) (hf : ws.length ≤ fuel)
    (hl : wordsIn ws ≤ left) : reach k c fuel left (passed s k c n) =
      reach k c (fuel - ws.length) (left - wordsIn ws) (passed s k c (n + wordsIn ws)) := by
  induction ws generalizing n fuel left with
  | nil => simp [wordsIn]
  | cons w ws ih =>
    obtain ⟨text, tag, slip, rest⟩ := hp
    have hw : wordsIn (w :: ws) = wordsOf w + wordsIn ws := by simp [wordsIn]
    obtain ⟨fuel, rfl⟩ : ∃ f, fuel = f + 1 := ⟨fuel - 1, by simp at hf; omega⟩
    rw [reach_text h text slip, if_neg (by simp [tag]), if_neg (by omega), ih rest (by simpa using hf) (by omega), hw, Nat.sub_sub,
      Nat.add_assoc, List.length_cons, Nat.add_sub_add_right]

theorem length_le_wordsIn (ws : List Nat) : ws.length ≤ wordsIn ws := by
  induction ws with
  | nil => simp [wordsIn]
  | cons w ws ih =>
    have := one_le_wordsOf w
    simp only [wordsIn, List.map_cons, List.sum_cons, List.length_cons] at *
    omega

end


/-! ## The own word -/

section
variable {s : State} {k : Nat} {c : Ctx} {i : Inst} {l : Launch} {w lit : Nat}

theorem toIssue_passed {n : Nat} (h : ToIssue s k c i l) : ToIssue (passed s k c n) k c (passedInst i c n) l :=
  ⟨turn_passed.trans h.turn, inst_passed h.inst, passedInst_acts.trans h.acts, by rw [launch_passed, passedInst_launch, h.launch],
    h.plain, h.free⟩

theorem headIllegal_passed {n : Nat} {ins : Instr} (h : decodeWord w 0 = .ok ins) :
    headIllegal (passed s k c n) k c ((passedInst i c n).ctx c) ins = headIllegal s k c (i.ctx c) ins := by
  obtain ⟨t, sl, tag, slot⟩ := decodeWord_isWord h
  rw [headIllegal_eq _ _ _ _ tag slot, headIllegal_eq _ _ _ _ tag slot, passedInst_stack, hasMx_passed]

theorem issueWords_decoded {ins : Instr} (h : ToIssue s k c i l) (hd : decodeWord w lit = .ok ins) :
    issueWords k c w lit s = exec ins s := by
  simp [issueWords, hd, stillActs, h.inst, h.acts]

theorem issueWords_refused {er : DecodeError} (hd : decodeWord w lit = .error er) :
    issueWords k c w lit s = .next (trapHere k c cILLEGAL 1 0 s) := by
  simp [issueWords, hd]

theorem decodeWord_short (h : w.testBit 29 = false) (a b : Nat) : decodeWord w a = decodeWord w b := by
  simp [decodeWord, bitAt_eq_testBit, h]

/-- The word with its literal decodes: it is executed, whether or not it shows an ILLEGAL before its literal is fetched. -/
theorem issueAt_decoded {ins : Instr} (h : ToIssue s k c i l) (tag : tagFor (tagOf w) c = true)
    (text : w.testBit 29 = true → TextAt s k l ((i.ctx c).pc + 4) lit) (hd : decodeWord w lit = .ok ins) :
    issueAt k c w s = exec ins s := by
  unfold issueAt
  rw [hasXw, bitAt_eq_testBit]
  cases hx : w.testBit 29 with
  | false =>
    rw [if_neg (by simp)]
    exact issueWords_decoded h ((decodeWord_short hx 0 lit).trans hd)
  | true =>
    obtain ⟨ins', hd', like⟩ := decodeWord_mirror hd
    obtain ⟨sl, -, shape⟩ := decodeWord_says hd
    rw [if_pos rfl, issueLong, hd', h.inst]
    dsimp only
    rw [h.launch, headIllegal_of_like shape.tag shape.slot like]
    cases hi : headIllegal s k c (i.ctx c) ins with
    | some d => exact (exec_of_headIllegal h.turn h.inst h.acts shape.wellFormed shape.tag shape.slot tag hi).symm
    | none =>
      dsimp only
      rw [fetchWord_text h.launch h.plain (text hx)]
      exact issueWords_decoded h hd

/-- The word does not decode, or shows no ILLEGAL by itself and does not decode with its literal: ILLEGAL with DETAIL 1. -/
theorem issueAt_refused {er : DecodeError} (h : ToIssue s k c i l)
    (text : w.testBit 29 = true → TextAt s k l ((i.ctx c).pc + 4) lit)
    (hd : decodeWord w 0 = .error er ∨ (decodeWord w lit = .error er ∧ w.testBit 29 = true ∧
      ∀ ins', decodeWord w 0 = .ok ins' → headIllegal s k c (i.ctx c) ins' = none)) :
    issueAt k c w s = .next (trapHere k c cILLEGAL 1 0 s) := by
  unfold issueAt
  rw [hasXw, bitAt_eq_testBit]
  split
  · rename_i hx
    unfold issueLong
    cases h0 : decodeWord w 0 with
    | error e => simp
    | ok ins' =>
      obtain hd | ⟨hl, -, clear⟩ := hd
      · rw [h0] at hd; cases hd
      · rw [h.inst]; dsimp only
        rw [h.launch, clear ins' h0]; dsimp only
        rw [fetchWord_text h.launch h.plain (text hx)]
        exact issueWords_refused hl
  · rename_i hx
    obtain hd | ⟨-, hx', -⟩ := hd
    · exact issueWords_refused hd
    · exact absurd hx' hx

theorem issueTurn_own {t : State} (h : ToIssue s k c i l) (hr : reach k c 9 8 s = (t, .own w)) : issueTurn k c s = issueAt k c w t := by
  simp [issueTurn, h.inst, h.acts, launchClaiming, h.launch, h.free, hr]

theorem issueTurn_stop {t : State} (h : ToIssue s k c i l) (hr : reach k c 9 8 s = (t, .stop)) : issueTurn k c s = .next t := by
  simp [issueTurn, h.inst, h.acts, launchClaiming, h.launch, h.free, hr]

theorem step_issue (h : ToIssue s k c i l) : step s = thenTurn (fun _ => afterIssue k c) (issueTurn k c s) := by
  simp [step, takeTurn, h.turn]

theorem passed_zero : passed s k c 0 = s := if_pos rfl

/-- The context has passed over ws and stands at its own word w. -/
theorem step_own {ws : List Nat} (h : ToIssue s k c i l) (hp : MayPass s k c i l 0 ws) (hn : wordsIn ws ≤ 8)
    (text : TextAt s k l ((i.ctx c).pc + BitVec.ofNat 64 (4 * wordsIn ws)) w) (tag : tagFor (tagOf w) c = true)
    (slip : slipOk (i.updCtx c (fun x => x.advance (wordsIn ws))) c (wordsOf w) = true) :
    step s = thenTurn (fun _ => afterIssue k c) (issueAt k c w (passed s k c (wordsIn ws))) := by
  have hlen := length_le_wordsIn ws
  have hr := reach_passes (fuel := 9) h hp (by omega) hn
  obtain ⟨f, hf⟩ : ∃ f, 9 - ws.length = f + 1 := ⟨8 - ws.length, by omega⟩
  rw [passed_zero, hf, Nat.zero_add, reach_text h text slip, if_pos tag] at hr
  rw [step_issue h, issueTurn_own h hr]

theorem mayPass_append {n : Nat} {ws : List Nat} (h : MayPass s k c i l n (ws ++ [w])) :
    MayPass s k c i l n ws ∧ MayPass s k c i l (n + wordsIn ws) [w] := by
  induction ws generalizing n with
  | nil => exact ⟨trivial, h⟩
  | cons v ws ih =>
    obtain ⟨text, tag, slip, rest⟩ := h
    obtain ⟨hp, hw⟩ := ih rest
    refine ⟨⟨text, tag, slip, hp⟩, ?_⟩
    rwa [wordsIn, List.map_cons, List.sum_cons, ← Nat.add_assoc]

/-- After ws the context stands at another word of others that it may not pass. -/
theorem step_over {ws : List Nat} (h : ToIssue s k c i l) (hp : MayPass s k c i l 0 (ws ++ [w])) (hn : wordsIn ws ≤ 8)
    (hw : 8 < wordsIn ws + wordsOf w) :
    step s = .next { passed s k c (wordsIn ws) with turn := afterIssue k c } := by
  obtain ⟨hp, text, tag, slip, -⟩ := mayPass_append hp
  rw [Nat.zero_add] at text slip
  have hlen := length_le_wordsIn ws
  have hr := reach_passes (fuel := 9) h hp (by omega) hn
  obtain ⟨f, hf⟩ : ∃ f, 9 - ws.length = f + 1 := ⟨8 - ws.length, by omega⟩
  rw [passed_zero, hf, Nat.zero_add, reach_text h text slip, if_neg (by simp [tag]), if_pos (by omega)] at hr
  rw [step_issue h, issueTurn_stop h hr]
  rfl

end
end Sys2Proof.Machine

namespace Sys2Proof.Proofs
open Sys2Proof.Machine Sys2Proof.Safety

/-- Settles O37: the context passes over no word, and its own word is issued (`step_own`, `issueAt_decoded`). -/
theorem stepRuns : Obligations.StepRuns := by
  unfold Obligations.StepRuns
  refine ⟨fun s k c i l w lit ins h text tag slip htext hd => ?_, fun s t e rest turn calm agenda due => ?_⟩
  · rw [show step s = thenTurn (fun _ => afterIssue k c) (exec ins s) from ?_]
    · cases c <;> rfl
    · have slip' : slipOk (i.updCtx c (fun x => x.advance (wordsIn []))) c (wordsOf w) = true := by
        rw [← slipOk_passedInst]; exact slip
      rw [step_own (ws := []) h trivial (by simp [wordsIn]) (by simpa [wordsIn] using text) tag slip']
      exact congrArg _ (issueAt_decoded h tag htext hd)
  · have hn : anyTrapped s = false := by simpa [anyTrapped] using calm
    simp [step, takeTurn, turn, clockTurn, hn, agenda, due]

/-- Settles O38: the context passes over the words before its own one by one (`reach_passes`) and issues that (`issueAt_decoded`,
`issueAt_refused`), or stops. -/
theorem passingOver : Obligations.PassingOver := by
  unfold Obligations.PassingOver
  refine ⟨fun s k c i l ws w lit ins h pass hn text tag slip htext => ?_, fun s k c i l ws w h pass hn hw => step_over h pass hn hw,
    fun s k c i l h slip => ?_⟩
  · have hp : ToIssue (passed s k c (wordsIn ws)) k c (passedInst i c (wordsIn ws)) l := toIssue_passed h
    have ht : w.testBit 29 = true →
        TextAt (passed s k c (wordsIn ws)) k l (((passedInst i c (wordsIn ws)).ctx c).pc + 4) lit := fun hx => by
      rw [passedInst_pc]; exact textAt_passed (htext hx)
    rw [step_own h pass hn text tag slip]
    refine ⟨fun hd => congrArg _ (issueAt_decoded hp tag ht hd), fun er hd => ?_⟩
    have hd' := hd.imp_right fun ⟨hl, hx, clear⟩ => And.intro hl (And.intro hx fun ins' h0 =>
      (headIllegal_passed (k := k) (n := wordsIn ws) h0).trans (clear ins' h0))
    rw [issueAt_refused hp ht hd', trapHere_eq hp.inst, passedInst_pc]
    rfl
  · have hr : reach k c 9 8 s = (blockCtx k c (.slip 1) s, .stop) := by simp [reach, h.inst, h.launch, h.acts, slip]
    rw [step_issue h, issueTurn_stop h hr]
    rfl

end Sys2Proof.Proofs

/-!
PROOFS. Issuing an access: it is recorded, with its landing, and no byte changes (O20).
-/
namespace Sys2Proof.Machine

open Sys2Proof.Safety

/-! ## Issuing an access (R54, R126, R287) -/

/-- The `Inst` once its context has written to the host link, where these parts do. -/
def markHost (c : Ctx) (kind : AccKind) (parts : List Part) (x : Inst) : Inst :=
  if writesHost kind parts then x.updCtx c (fun y => { y with hostWr := true }) else x

/-- The `Inst` with the landing request ld under number id, and the queue entry that it reserves. -/
def askLanding (e : Env) (id : Nat) (i : Inst) : Option Landing → Inst
  | none => i
  | some ld =>
    let i := { i with reqs := i.reqs ++ [landReq e id ld] }
    match ld.dst with
    | .q n _ => reserveQ e.c id n i
    | _ => i

/-- An access is issued by recording it for the `Inst` that has asked for its landing. -/
theorem issueAccess_eq (e : Env) (kind : AccKind) (acq : Bool) (parts : List Part) (ld : Option Landing) (i : Inst) (s : State) :
    issueAccess e kind acq parts ld i s = addAccess e kind acq parts (s.setInst e.k (askLanding e s.nextId i ld)) := by
  cases ld with
  | none => rfl
  | some ld => rfl

section

variable (e : Env) (kind : AccKind) (acq : Bool) (parts : List Part) (s : State)

/-- Recording an access changes the slots, the accesses and the numbering alone. -/
theorem addAccess_rest : addAccess e kind acq parts s =
    { s with slots := (addAccess e kind acq parts s).slots, acc := (addAccess e kind acq parts s).acc, nextId := s.nextId + 1 } := by
  unfold addAccess
  by_cases h : writesHost kind parts = true
  · simp only [h, if_true]; rfl
  · simp only [h]; rfl

/-- The access recorded joins those outstanding. -/
theorem addAccess_acc : ∃ x, (addAccess e kind acq parts s).acc = s.acc ++
    [{ id := s.nextId, isle := e.k, uid := e.i.uid, launch := e.i.launch, ctx := e.c, rank := e.i.rank, pc := e.pc, kind := kind,
       parts := parts, acq := acq, atHome := false, vis := 0, nack := none, after := x }] := by
  unfold addAccess
  by_cases h : writesHost kind parts = true
  · exact ⟨_, by simp only [h, if_true]; rfl⟩
  · exact ⟨_, by simp only [h]; rfl⟩

/-- The context that issues has written to the host link where the access writes there. -/
theorem addAccess_inst : (addAccess e kind acq parts s).inst e.k = (s.inst e.k).map (markHost e.c kind parts) := by
  unfold addAccess markHost
  by_cases h : writesHost kind parts = true
  · simp only [h, if_true]; exact inst_updInst_self s e.k (fun i => i.updCtx e.c (fun x => { x with hostWr := true }))
  · simp only [h]; exact (congrFun Option.map_id (s.inst e.k)).symm

theorem addAccess_inst_other (n : Nat) (h : n ≠ e.k) : (addAccess e kind acq parts s).inst n = s.inst n := by
  unfold addAccess
  by_cases hw : writesHost kind parts = true
  · simp only [hw, if_true]; exact inst_updInst_other s e.k n (fun i => i.updCtx e.c (fun x => { x with hostWr := true })) h
  · simp only [hw]; rfl

end

/-- A reserved entry joins the pushes of its queue, which is there. -/
theorem reserveQ_pushes (c : Ctx) (id n : Nat) (i : Inst) (h : n < i.qs.length) :
    ((reserveQ c id n i).fifo n).pushes = (i.fifo n).pushes ++ [⟨none, id, c, id⟩] := by
  simp [reserveQ, Inst.setFifo, Inst.fifo, h]

/-- What asking for a landing leaves of the `Inst`. -/
theorem askLanding_some (e : Env) (id : Nat) (i : Inst) (d : Landing) :
    (askLanding e id i (some d)).reqs = i.reqs ++ [landReq e id d] ∧
    askLanding e id i (some d) = { i with reqs := (askLanding e id i (some d)).reqs, qs := (askLanding e id i (some d)).qs } ∧
    (∀ n sx, d.dst = .q n sx → n < i.qs.length →
      ((askLanding e id i (some d)).fifo n).pushes = (i.fifo n).pushes ++ [⟨none, id, e.c, id⟩]) ∧
    ((∀ n sx, d.dst ≠ .q n sx) → (askLanding e id i (some d)).qs = i.qs) := by
  obtain ⟨dst, mask, land, detail⟩ := d
  cases dst with
  | q n sx =>
    refine ⟨rfl, rfl, fun m sx' hm hlen => ?_, fun h => absurd rfl (h n sx)⟩
    cases hm
    exact reserveQ_pushes e.c id n _ hlen
  | _ => exact ⟨rfl, rfl, nofun, fun _ => rfl⟩

end Sys2Proof.Machine

namespace Sys2Proof.Proofs

open Sys2Proof.Machine Sys2Proof.Safety

/-- Settles O20: the `Inst` asks for its landing, and the access is recorded. -/
theorem accessesAreRecorded : Obligations.AccessesAreRecorded := by
  unfold Obligations.AccessesAreRecorded
  intro s k c i kind acq parts ld j
  let e : Env := ⟨s, k, c, i⟩
  let u := s.setInst k (askLanding e s.nextId j ld)
  have ht : issueAccess e kind acq parts ld j s = addAccess e kind acq parts u := issueAccess_eq e kind acq parts ld j s
  have hinst : (addAccess e kind acq parts u).inst k = some (markHost c kind parts (askLanding e s.nextId j ld)) := by
    rw [addAccess_inst e kind acq parts u]
    exact congrArg (Option.map _) (inst_setInst_self s k _)
  have hrest := addAccess_rest e kind acq parts u
  obtain ⟨x, hacc⟩ := addAccess_acc e kind acq parts u
  simp only [show issueAccess ⟨s, k, c, i⟩ kind acq parts ld j s = addAccess e kind acq parts u from ht]
  refine ⟨⟨_, hacc, rfl, rfl, rfl, rfl, rfl, rfl, rfl, rfl, rfl, rfl, rfl⟩, hrest, fun n hn => ?_, fun d a => ?_, ?_, ?_⟩
  · exact (addAccess_inst_other e kind acq parts u n hn).trans (inst_setInst_other s k n _ hn)
  · rw [hrest]; rfl
  · rintro rfl; exact hinst
  · rintro d rfl
    exact ⟨_, hinst, askLanding_some e s.nextId j d⟩

end Sys2Proof.Proofs

/-!
PROOFS. EXIT, SUCC and PMARK (O15).
-/
namespace Sys2Proof.Machine

open Sys2Proof.Safety

/-! ## EXIT (R41, R251) -/

/-- The `Inst` whose context c has ended. -/
def Inst.ended (i : Inst) (c : Ctx) : Inst := i.updCtx c (fun x => { x.advance 1 with live := false, stack := [] })

/-- An EXIT ends its context; the `Inst` retires where none is left, outside a speculation. -/
theorem exec_exit_eq {o : TagOp} {s : State} {k : Nat} {c : Ctx} {i : Inst} (h : Reached (.exit o) s k c i) :
    exec (.exit o) s = .next (if (i.ended c).liveCtxs.isEmpty && !(Env.mk s k c i).spec
      then retireInst k (s.updInst k (fun i => i.ended c)) else s.updInst k (fun i => i.ended c)) := by
  rw [exec_exit, execExit, runWord_reached h]
  have hi : (s.updInst k (fun i => i.ended c)).inst k = some (i.ended c) := by rw [inst_updInst_self, h.inst]; rfl
  show Host.Outcome.next (match (s.updInst k (fun i => i.ended c)).inst k with
    | some i => _
    | none => _) = _
  rw [hi]
  rfl

/-- No context is live after EXIT where no other one was. -/
theorem ended_liveCtxs (i : Inst) (c : Ctx) : (i.ended c).liveCtxs.isEmpty = true ↔ ∀ d, d ≠ c → (i.ctx d).live = false := by
  unfold Inst.liveCtxs
  rw [List.isEmpty_iff, List.filter_eq_nil_iff]
  constructor
  · intro h d hd
    have := h d (by cases d <;> decide)
    rw [Inst.ended, updCtx_ctx_other i c d _ hd] at this
    simpa using this
  · intro h d _
    by_cases hd : d = c
    · subst hd; simp [Inst.ended]
    · rw [Inst.ended, updCtx_ctx_other i c d _ hd, h d hd]; decide

end Sys2Proof.Machine

namespace Sys2Proof.Proofs

open Sys2Proof.Machine Sys2Proof.Safety

/-- EXIT, by whether another context lives and whether the launch is a speculation (R41, R251). -/
theorem exit_ends (o : TagOp) (s : State) (k : Nat) (c : Ctx) (i : Inst) (h : Reached (.exit o) s k c i) :
    ((∃ d, d ≠ c ∧ (i.ctx d).live = true) →
      ∃ t, exec (.exit o) s = .next t ∧ OnlyIsle k s t ∧ t.inst k = some (i.ended c)) ∧
    ((∀ d, d ≠ c → (i.ctx d).live = false) → ∀ l, s.launch i.launch = some l →
      (l.spec = true → ∃ t, exec (.exit o) s = .next t ∧ OnlyIsle k s t ∧ t.inst k = some (i.ended c)) ∧
      (l.spec = false → ∃ t, OnlyIsle k s t ∧ t.inst k = some (i.ended c) ∧ exec (.exit o) s = .next (retireInst k t))) := by
  let u := s.updInst k (fun i => i.ended c)
  have ho : OnlyIsle k s u := onlyIsle_updInst k s s _ (onlyIsle_refl k s)
  have hi : u.inst k = some (i.ended c) := by
    show (s.updInst k (fun i => i.ended c)).inst k = _
    rw [inst_updInst_self, h.inst]; rfl
  have hx := exec_exit_eq h
  constructor
  · rintro ⟨d, hd, hl⟩
    have hne : (i.ended c).liveCtxs.isEmpty = false := by
      rw [← Bool.not_eq_true, ended_liveCtxs]
      intro hall; rw [hall d hd] at hl; cases hl
    exact ⟨u, by rw [hx, hne]; rfl, ho, hi⟩
  · intro hall l hl
    have he := (ended_liveCtxs i c).mpr hall
    have hspec : (Env.mk s k c i).spec = l.spec := by simp [Env.spec, Env.launch, hl]
    exact ⟨fun hs => ⟨u, by rw [hx, hspec, hs, Bool.not_true, Bool.and_false]; rfl, ho, hi⟩,
      fun hs => ⟨u, ho, hi, by rw [hx, he, hspec, hs]; rfl⟩⟩

/-- PMARK of a buffer with room adds its marker and is counted (R253, R310). -/
theorem pmark_marks (o : CodeOp) (s : State) (k : Nat) (c : Ctx) (i : Inst) (l : Launch) (h : Reached (.pmark o) s k c i)
    (hl : s.launch i.launch = some l) (hs : l.spec = false) (hroom : (Sparse.get [] s.pmark (k / 32)).length < 1024) :
    ∃ t, exec (.pmark o) s = .next t ∧
      t = { s with slots := t.slots, pmark := t.pmark, counters := (s.count (k / 32) 9).counters } ∧
      t.pmark = Sparse.set [] s.pmark (k / 32) (Sparse.get [] s.pmark (k / 32) ++ [⟨o.code, c, k, i.vcyc⟩]) ∧
      t.inst k = some (i.updCtx c (fun x => x.advance 1)) ∧ ∀ n, n ≠ k → t.inst n = s.inst n := by
  have hspec : (Env.mk s k c i).spec = false := spec_of_plain hl hs
  have hev : pmarkEvent k c i.vcyc o.code s = { s.count (k / 32) 9 with
      pmark := Sparse.set [] s.pmark (k / 32) (Sparse.get [] s.pmark (k / 32) ++ [⟨o.code, c, k, i.vcyc⟩]) } := by
    unfold pmarkEvent
    exact if_pos hroom
  have hx : exec (.pmark o) s = .next ((pmarkEvent k c i.vcyc o.code s).updInst k (fun i => i.updCtx c (fun x => x.advance 1))) := by
    rw [exec_pmark, execPmark, runWord_reached h]
    simp only [hspec]
    rfl
  rw [hev] at hx
  refine ⟨_, hx, rfl, rfl, ?_, fun n hn => ?_⟩
  · exact (inst_updInst_self _ k _).trans (congrArg (Option.map _) h.inst)
  · exact inst_updInst_other _ k n _ hn

/-- Settles O15: EXIT by the context's end, SUCC and PMARK by their bodies. -/
theorem exitAndMarks : Obligations.ExitAndMarks := by
  unfold Obligations.ExitAndMarks
  refine ⟨exit_ends, fun o s k c i h => ?_, fun o s k c i l h hl => ⟨fun hs => ?_, pmark_marks o s k c i l h hl⟩⟩
  · exact completes_of_go h (exec_succ o s) rfl
  · refine completes_of_same h (exec_pmark o s) ?_
    have hspec : (Env.mk s k c i).spec = true := by simp [Env.spec, Env.launch, hl, hs]
    simp [hspec]

end Sys2Proof.Proofs

/-!
PROOFS. Loads and stores whose checks pass or fail (O16).
-/
namespace Sys2Proof.Machine

open Sys2Proof.Safety

/-! ## Loads and stores (R287 to R293) -/

theorem withLaunch_some {α : Type} {e : Env} {l : Launch} (h : e.s.launch e.i.launch = some l) (b : α) (f : Launch → α) :
    e.withLaunch b f = f l := by
  unfold Env.withLaunch Env.launch; rw [h]

/-- Nothing holds an access that may issue. -/
theorem orHeld_ok {e : Env} {l : Launch} {ts : List Tgt} (h : MayIssue e.s e.i e.c l ts) (k : Verdict) : orHeld e l ts k = k := by
  obtain ⟨hacq, hfull⟩ := h
  simp [orHeld, accessHeld, hacq, hfull]

/-- The landing buffer has room for a G destination, which takes an entry unless it is G0 (R53). -/
theorem landingFull_landDst {i : Inst} {c : Ctx} {d : BitVec 5} {sx : Nat} (h : d ≠ 0 → i.landingUsed < 48) :
    landingFull i (landDst c d sx) = false := by
  unfold landDst
  split
  case isTrue hq =>
    have : d ≠ 0 := by rintro rfl; simp at hq
    simpa [landingFull] using h this
  case isFalse =>
    split
    · rfl
    case isFalse hd => simpa [landingFull] using h hd

/-- An access with a landing issues where nothing holds it and its landing has room. -/
theorem issueLanding_ok {e : Env} {l : Launch} {kind : AccKind} {acq rel : Bool} {d : BitVec 5} {parts : List Part} {ld : Landing}
    {i : Inst} (hm : MayIssue e.s e.i e.c l (parts.map (fun p => p.tgt))) (hrel : rel = true → releaseReady e.s e.i.uid e.c e.x = true)
    (hroom : pushRoom e.i i d = true) (hfull : landingFull i ld.dst = false) :
    issueLanding e l kind acq rel d parts ld i = .go (issueAccess e kind acq parts (some ld) i e.s) := by
  unfold issueLanding
  rw [orHeld_ok hm]
  cases rel <;> simp_all

/-- An element that passes stands at the address and lane asked for. -/
theorem checkElem_part {s : State} {k : Nat} {i : Inst} {l : Launch} {w : Want} {n lane : Nat} {va : Word} {el : Elem}
    (h : checkElem s k i l w n lane va = .ok el) (x y : Nat) :
    el.part n x y = ⟨lane, va, el.tgt, n, el.ord, el.apl, none, x, y, decide (el.st = .nonres), 0, el.st⟩ := by
  unfold checkElem at h
  split at h
  · cases h
  · split at h
    · cases h
    · cases h; rfl

section Bodies

variable {s : State} {k : Nat} {c : Ctx} {i j : Inst} {l : Launch} {o : LoadOp} {x : Word} {signed acq : Bool}

/-- A load whose element fails its checks takes that trap (R42). -/
theorem loadOp_trap {t : ElemTrap} (hl : s.launch i.launch = some l) (hs : Sources i c [o.a] [o.d] [x] j) (hv : VFree i [] [o.m])
    (ht : checkElem s k i l (.load (decide (o.m ≠ 0))) (Sz.bytes o.sz) 0 (x + offOf o.off) = .error t) :
    loadOp signed acq o ⟨s, k, c, i⟩ = .trap t.cause t.detail (x + offOf o.off) := by
  unfold loadOp
  rw [withVec_ok (e := ⟨s, k, c, i⟩) hs hv, withLaunch_some (e := ⟨s, k, c, i⟩) hl]
  simp only [src, List.getD_cons_zero, ht]

/-- A load whose checks pass issues its read (R290). -/
theorem loadOp_issues {el : Elem} (hl : s.launch i.launch = some l) (hs : Sources i c [o.a] [o.d] [x] j) (hv : VFree i [] [o.m])
    (hok : checkElem s k i l (.load (decide (o.m ≠ 0))) (Sz.bytes o.sz) 0 (x + offOf o.off) = .ok el)
    (hstop : l.spec = true → stopsAt (.load (decide (o.m ≠ 0))) el = false) (hm : MayIssue s i c l [el.tgt])
    (hroom : pushRoom i j o.d = true) (hfull : o.d ≠ 0 → j.landingUsed < 48) :
    loadOp signed acq o ⟨s, k, c, i⟩ = .go (issueAccess ⟨s, k, c, i⟩ .load acq
      [⟨0, x + offOf o.off, el.tgt, Sz.bytes o.sz, el.ord, el.apl, none, 0, 0, decide (el.st = .nonres), 0, el.st⟩]
      (some ⟨landDst c o.d (if signed then 8 * Sz.bytes o.sz else 0), o.m.toNat, o.land.toNat, 1⟩) j s) := by
  have hpart := checkElem_part hok 0 0
  have hst : (l.spec && stopsAt (.load (decide (o.m ≠ 0))) el) = false := by
    cases h : l.spec
    · rfl
    · exact hstop h
  unfold loadOp
  rw [withVec_ok (e := ⟨s, k, c, i⟩) hs hv, withLaunch_some (e := ⟨s, k, c, i⟩) hl]
  simp only [src, List.getD_cons_zero, hok, hst, hpart, Bool.false_eq_true, if_false]
  exact issueLanding_ok hm (by simp) hroom (landingFull_landDst hfull)

/-- A store whose element fails its checks takes that trap (R42, R293). -/
theorem storeOp_trap {rel : Bool} {o : StoreOp} {y : Word} {t : ElemTrap} (hl : s.launch i.launch = some l)
    (hs : Sources i c [o.a, o.s] [] [x, y] j) (ht : checkElem s k i l .store (Sz.bytes o.sz) 0 (x + offOf o.off) = .error t) :
    storeOp rel o ⟨s, k, c, i⟩ = .trap t.cause t.detail (x + offOf o.off) := by
  unfold storeOp
  rw [withChecked_ok (e := ⟨s, k, c, i⟩) hs (by simp), withLaunch_some (e := ⟨s, k, c, i⟩) hl]
  simp only [src, List.getD_cons_zero, ht]

end Bodies

end Sys2Proof.Machine

namespace Sys2Proof.Proofs

open Sys2Proof.Machine Sys2Proof.Safety

/-- Settles O16: each of the three words runs the shared load. -/
theorem loadsIssue : Obligations.LoadsIssue := by
  unfold Obligations.LoadsIssue
  intro o s k c i l x j el n sx acq mk _ hkind h hl hs hv hn hok hstop hm hroom hfull
  subst hn
  obtain ⟨rfl, rfl, rfl⟩ | ⟨rfl, rfl, rfl⟩ | ⟨rfl, rfl, rfl⟩ := hkind
  · exact issues_of_go h (exec_ld o s) (loadOp_issues hl hs hv hok hstop hm hroom hfull)
  · exact issues_of_go h (exec_lds o s) (loadOp_issues hl hs hv hok hstop hm hroom hfull)
  · exact issues_of_go h (exec_ldAq o s) (loadOp_issues hl hs hv hok hstop hm hroom hfull)

end Sys2Proof.Proofs

/-!
PROOFS. The checks of an element at local DRAM (O21).
-/
namespace Sys2Proof.Machine

open Sys2Proof.Safety

/-! ## The checks of an element at local DRAM (R64, R115 to R118) -/

/-- The wants of loads and stores: the checks ask these things of them alone. -/
structure Want.Simple (w : Want) : Prop where
  permits : ∀ e : Seg, w.permits e = if w = .store then e.w else e.r
  atomic : w.isAtomic = false
  flush : w ≠ .cflush

theorem simple_of_cases {w : Want} (h : w = .store ∨ w = .load true ∨ w = .load false) : w.Simple := by
  obtain rfl | rfl | rfl := h <;>
    exact ⟨fun e => by simp [Want.permits, Want.reads, Want.writes], rfl, by decide⟩

section

variable {s : State} {k : Nat} {i : Inst} {l : Launch} {w : Want} {n m a b d : Nat} {va : Word} {e : Seg} {lane : Nat}

/-- No entry maps the byte: SEGV with the detail of the look-up. -/
theorem elemAt_noSeg (h : findSeg l.segs m = .error d) : elemAt s k i l w n m = .error ⟨5, cSEGV, d⟩ := by
  simp [elemAt, h]

/-- At local DRAM the checks are those of `segvOf`. -/
theorem elemAt_dram (h : findSeg l.segs m = .ok e) (ht : segTgt (selfOf l.part) e m = .dram a) :
    elemAt s k i l w n m = match segvOf s k i l w e m (.dram a) with
      | some d => .error ⟨5, cSEGV, d⟩
      | none => .ok (e, .dram a) := by
  simp only [elemAt, h, ht, ownName]
  rfl

/-- For a load or store at local DRAM: its permission, then residency (R116, R118). -/
theorem segvOf_dram (hw : w.Simple) : segvOf s k i l w e m (.dram a) =
    if (if w = .store then e.w else e.r) = false then some dPERM
    else if w ≠ .load true ∧ resident s l.eff e m = false then some dNONRES
    else none := by
  have hf := hw.flush
  cases hp : (if w = .store then e.w else e.r) <;> cases hr : resident s l.eff e m <;>
    simp [segvOf, unmappedAt, badTarget, hw.permits, hw.atomic, hp, hr, hf]

/-- An element whose first byte fails a check of rank 5 takes it, where its last byte fails none that comes before. -/
theorem checkElem_first (hw : w.Simple) (h : elemAt s k i l w n va.toNat = .error ⟨5, cSEGV, d⟩)
    (hlast : va.toNat % n ≠ 0 → ∀ t, elemAt s k i l w 1 (va.toNat + n - 1) = .error t → 5 ≤ t.rank) :
    checkElem s k i l w n lane va = .error ⟨5, 0x04, d⟩ := by
  have hall : elemAll s k i l w n va.toNat = .error ⟨5, cSEGV, d⟩ := by
    unfold elemAll
    by_cases hz : va.toNat % n = 0
    · rw [if_pos (Or.inl hz), h]
    · rw [if_neg (by simp [hz, hw.flush]), h]
      cases ht : elemAt s k i l w 1 (va.toNat + n - 1) with
      | ok x => rfl
      | error t =>
        have := hlast hz t ht
        exact congrArg Except.error (if_neg (by simp only; omega))
  unfold checkElem
  rw [hall]
  rfl

/-- A misaligned element whose first byte passes takes the trap of its last byte. -/
theorem checkElem_last {x : Seg × Tgt} {t : ElemTrap} (hw : w.Simple) (hz : va.toNat % n ≠ 0)
    (h : elemAt s k i l w n va.toNat = .ok x) (hlast : elemAt s k i l w 1 (va.toNat + n - 1) = .error t) :
    checkElem s k i l w n lane va = .error t := by
  unfold checkElem elemAll
  rw [if_neg (by simp [hz, hw.flush]), h, hlast]

/-- A misaligned element both of whose ends pass takes ALIGN. -/
theorem checkElem_align {x y : Seg × Tgt} (hw : w.Simple) (hz : va.toNat % n ≠ 0)
    (h : elemAt s k i l w n va.toNat = .ok x) (hlast : elemAt s k i l w 1 (va.toNat + n - 1) = .ok y) :
    checkElem s k i l w n lane va = .error ⟨6, 0x06, 0⟩ := by
  unfold checkElem elemAll
  rw [if_neg (by simp [hz, hw.flush]), h, hlast]
  have hm : misaligned w va.toNat n x.2 = true := by simp [misaligned, hw.flush, hz]
  simp only [hm, if_true]
  rfl

/-- An aligned element at local DRAM that passes has the target, the page kind and the placement of its entry. -/
theorem checkElem_aligned (hz : va.toNat % n = 0) (h : elemAt s k i l w n va.toNat = .ok (e, .dram a)) :
    checkElem s k i l w n lane va =
      .ok ⟨lane, va, .dram a, e.ord, if e.rem then .mem else e.apl, if resident s l.eff e va.toNat then .ok else .nonres⟩ := by
  unfold checkElem elemAll
  rw [if_pos (Or.inl hz), h]
  have hm : misaligned w va.toNat n (.dram a) = false := by simp [misaligned, hz]
  simp only [hm]
  rfl

/-- The byte at local DRAM passes where the entry permits it and its granule is there or a masked load meets it. -/
theorem elemAt_passes (hw : w.Simple) (h : findSeg l.segs m = .ok e) (ht : segTgt (selfOf l.part) e m = .dram a)
    (hp : (if w = .store then e.w else e.r) = true) (hr : resident s l.eff e m = true ∨ w = .load true) :
    elemAt s k i l w n m = .ok (e, .dram a) := by
  rw [elemAt_dram h ht, segvOf_dram hw, if_neg (by simp [hp]), if_neg (fun hc => ?_)]
  obtain ⟨hne, hno⟩ := hc
  obtain hr | hr := hr
  · rw [hr] at hno; cases hno
  · exact hne hr

theorem elemAt_perm (hw : w.Simple) (h : findSeg l.segs m = .ok e) (ht : segTgt (selfOf l.part) e m = .dram a)
    (hp : (if w = .store then e.w else e.r) = false) : elemAt s k i l w n m = .error ⟨5, cSEGV, 3⟩ := by
  rw [elemAt_dram h ht, segvOf_dram hw, if_pos hp]
  rfl

theorem elemAt_nonres (hw : w.Simple) (h : findSeg l.segs m = .ok e) (ht : segTgt (selfOf l.part) e m = .dram a)
    (hp : (if w = .store then e.w else e.r) = true) (hr : resident s l.eff e m = false) (hne : w ≠ .load true) :
    elemAt s k i l w n m = .error ⟨5, cSEGV, 4⟩ := by
  rw [elemAt_dram h ht, segvOf_dram hw, if_neg (by simp [hp]), if_pos ⟨hne, hr⟩]
  rfl

end

end Sys2Proof.Machine

namespace Sys2Proof.Proofs

open Sys2Proof.Machine Sys2Proof.Safety

/-- The checks of one element at local DRAM, in the order of R64. -/
theorem dram_checks (s : State) (k : Nat) (i : Inst) (l : Launch) (w : Want) (n : Nat) (va : Word)
    (hw : w = .store ∨ w = .load true ∨ w = .load false)
    (hlast : va.toNat % n ≠ 0 → ∀ t, elemAt s k i l w 1 (va.toNat + n - 1) = .error t → 5 ≤ t.rank) (e : Seg) (a : Nat)
    (he : findSeg l.segs va.toNat = .ok e) (ht : segTgt (selfOf l.part) e va.toNat = .dram a) :
    let allowed := if w = .store then e.w else e.r
    let here := resident s l.eff e va.toNat
    (allowed = false → checkElem s k i l w n 0 va = .error ⟨5, 0x04, 3⟩) ∧
    (allowed = true → here = false → w ≠ .load true → checkElem s k i l w n 0 va = .error ⟨5, 0x04, 4⟩) ∧
    (allowed = true → (here = true ∨ w = .load true) → va.toNat % n ≠ 0 →
      (∀ d, findSeg l.segs (va.toNat + n - 1) = .error d → checkElem s k i l w n 0 va = .error ⟨5, 0x04, d⟩) ∧
      (∀ b, findSeg l.segs (va.toNat + n - 1) = .ok e → segTgt (selfOf l.part) e (va.toNat + n - 1) = .dram b →
        (resident s l.eff e (va.toNat + n - 1) = true ∨ w = .load true) →
        checkElem s k i l w n 0 va = .error ⟨6, 0x06, 0⟩)) ∧
    (allowed = true → (here = true ∨ w = .load true) → va.toNat % n = 0 →
      checkElem s k i l w n 0 va = .ok ⟨0, va, .dram a, e.ord, if e.rem then .mem else e.apl, if here then .ok else .nonres⟩) := by
  have hs := simple_of_cases hw
  refine ⟨fun hp => ?_, fun hp hr hne => ?_, fun hp hr hz => ⟨fun d hd => ?_, fun b hb htb hrb => ?_⟩, fun hp hr hz => ?_⟩
  · exact checkElem_first hs (elemAt_perm hs he ht hp) hlast
  · exact checkElem_first hs (elemAt_nonres hs he ht hp hr hne) hlast
  · exact checkElem_last hs hz (elemAt_passes hs he ht hp hr) (elemAt_noSeg hd)
  · exact checkElem_align hs hz (elemAt_passes hs he ht hp hr) (elemAt_passes hs hb htb hp hrb)
  · exact checkElem_aligned hz (elemAt_passes hs he ht hp hr)

/-- Settles O21: the element's checks, and the words that take their trap. -/
theorem elementChecks : Obligations.ElementChecks := by
  unfold Obligations.ElementChecks
  refine ⟨fun s k i l w n va hw hlast => ⟨fun d hd => ?_, dram_checks s k i l w n va hw hlast⟩, ?_, ?_⟩
  · exact checkElem_first (simple_of_cases hw) (elemAt_noSeg hd) hlast
  · intro o s k c i l x j t mk hmk h hl hs hv ht
    simp only [List.mem_cons, List.not_mem_nil, or_false] at hmk
    obtain rfl | rfl | rfl := hmk
    · exact traps_of_trap h (exec_ld o s) (loadOp_trap hl hs hv ht)
    · exact traps_of_trap h (exec_lds o s) (loadOp_trap hl hs hv ht)
    · exact traps_of_trap h (exec_ldAq o s) (loadOp_trap hl hs hv ht)
  · intro o s k c i l x y j t mk hmk h hl hs ht
    simp only [List.mem_cons, List.not_mem_nil, or_false] at hmk
    obtain rfl | rfl := hmk
    · exact traps_of_trap h (exec_st o s) (storeOp_trap hl hs ht)
    · exact traps_of_trap h (exec_stRl o s) (storeOp_trap hl hs ht)

end Sys2Proof.Proofs

/-!
PROOFS. Reading source fields; QPEEK and QCNT (O41).
-/
namespace Sys2Proof.Machine

open Sys2Proof.Safety

/-! ## Reading source fields (R46, R226) -/

/-- The `Inst` after context c has popped the head h of queue n, whose other entries are rest: the hand-off bound of the push joins
those of c (R136, R226). -/
def Inst.pops (i : Inst) (c : Ctx) (n : Nat) (h : QEnt) (rest : List QEnt) : Inst :=
  (i.setFifo n { i.fifo n with ents := rest, popped := (i.fifo n).popped + 1 }).updCtx c (fun y =>
    { y with after := joinAfter y.after (boundOf h.by_ h.bound) })

/-- Adds a value to what the later fields give: they wait, or their values follow it. -/
def Fetched.after (v : Word) : Fetched → Fetched
  | .wait b => .wait b
  | .ok vs j => .ok (v :: vs) j

section

variable (c : Ctx) (i : Inst) (f : BitVec 5) (fs : List (BitVec 5))

/-- A register field gives its register before the later fields are read. -/
theorem readG_reg (hf : f.toNat < 24) : readG c i (f :: fs) = (readG c i fs).after ((i.ctx c).gGet f.toNat) := by
  rw [readG, if_neg (by omega)]
  cases readG c i fs <;> rfl

/-- A queue field by the head of its queue. -/
theorem readG_queue (hf : 24 ≤ f.toNat) : readG c i (f :: fs) = match (i.fifo (f.toNat - 24)).ents with
    | [] => .wait (.queue (f.toNat - 24))
    | h :: rest => match h.data with
      | none => .wait .interlock
      | some v => (readG c (i.pops c (f.toNat - 24) h rest) fs).after v := by
  rw [readG, if_pos hf]
  dsimp only
  cases (i.fifo (f.toNat - 24)).ents with
  | nil => rfl
  | cons h rest =>
    cases hd : h.data with
    | none => simp only [hd]
    | some v =>
      simp only [hd]
      unfold Inst.pops
      cases readG c _ fs <;> rfl

end

/-- G0 reads zero, any other register what the context holds. -/
theorem gGet_field (x : CtxState) (f : BitVec 5) : x.gGet f.toNat = if f = 0 then 0 else Sparse.get 0 x.g f.toNat := by
  have : f.toNat = 0 ↔ f = 0 := by
    constructor
    · exact fun h => BitVec.eq_of_toNat_eq h
    · rintro rfl; rfl
  simp only [CtxState.gGet, this]

/-- The word of QCNT: the count of entries, and 8 where the head holds data (R246). -/
theorem queueCount_eq (q : Fifo) : queueCount q = BitVec.ofNat 64 (q.ents.length + (match q.ents with
    | h :: _ => if h.data.isSome then 8 else 0
    | [] => 0)) := by
  unfold queueCount
  cases q.ents with
  | nil => rfl
  | cons h rest => cases h.data <;> simp [b2n, Nat.add_comm]

end Sys2Proof.Machine

namespace Sys2Proof.Proofs

open Sys2Proof.Machine Sys2Proof.Safety

/-- QPEEK, by the head of its queue (R245). -/
theorem qpeek_reads (o : QOp) (s : State) (k : Nat) (c : Ctx) (i : Inst) (h : Reached (.qpeek o) s k c i)
    (hs : Sources i c [] [o.d] [] i) :
    ((i.fifo o.q.toNat).ents = [] → Waits (.qpeek o) s k c i (.queue o.q.toNat)) ∧
    (∀ q rest, (i.fifo o.q.toNat).ents = q :: rest →
      (q.data = none → Waits (.qpeek o) s k c i .interlock) ∧
      (∀ x, q.data = some x → pushRoom i i o.d = true → Completes (.qpeek o) s k c (writeG c s.nextId o.d x i))) := by
  have hsrc := fun body => withSources_ok (e := ⟨s, k, c, i⟩) (vs := []) hs (by simp) body
  refine ⟨fun he => ?_, fun q rest he => ⟨fun hd => ?_, fun x hd hr => ?_⟩⟩
  · refine waits_of_block h (exec_qpeek o s) ((hsrc _).trans ?_)
    simp only [he]
  · refine waits_of_block h (exec_qpeek o s) ((hsrc _).trans ?_)
    simp only [he, hd]
  · refine completes_of_go h (exec_qpeek o s) ((hsrc _).trans ?_)
    simp only [he, hd]
    exact finishG_ok hr

/-- Settles O41: each field is read before the later ones. -/
theorem sourceReads : Obligations.SourceReads := by
  unfold Obligations.SourceReads
  refine ⟨fun c i => rfl, fun c i f fs hf => ?_, fun c i f fs hf => ?_, qpeek_reads, fun o s k c i h hs hr => ?_⟩
  · rw [readG_reg c i f fs hf, gGet_field]
    exact ⟨fun b hb => by rw [hb]; rfl, fun vs j hj => by rw [hj]; rfl⟩
  · rw [readG_queue c i f fs hf]
    refine ⟨fun he => by rw [he], fun h rest he => ⟨fun hd => by rw [he]; simp only [hd], fun x hd => ?_⟩⟩
    rw [he]
    simp only [hd]
    exact ⟨fun b hb => congrArg (Fetched.after x) hb, fun vs j hj => congrArg (Fetched.after x) hj⟩
  · refine completes_of_go h (exec_qcnt o s) ((withSources_ok (e := ⟨s, k, c, i⟩) hs (by simp) _).trans ?_)
    rw [queueCount_eq]
    exact finishG_ok hr

end Sys2Proof.Proofs

/-!
PROOFS. Where results go and when they apply (O43).
-/
namespace Sys2Proof.Machine

open Sys2Proof.Safety

/-! ## Results of the vc before (R49, R52) -/

/-- Every result applied in the order L, C, S, each context's in issue order (R52). -/
def Inst.applyAll (i : Inst) : Inst :=
  ((i.wb.filter (fun w => w.ctx = .L)) ++ (i.wb.filter (fun w => w.ctx = .C)) ++ (i.wb.filter (fun w => w.ctx = .S))).foldl
    (fun i w => i.applyWb w) { i with wb := [] }

/-- Without landing requests the results alone apply. -/
theorem landInst_noReqs (u : Word) (i : Inst) (h : i.reqs = []) : landInst u i = i.applyAll := by
  have hi : { i with reqs := [], wb := [] } = { i with wb := [] } := by rw [← h]
  unfold Inst.applyAll
  rw [List.foldl_append, List.foldl_append, ← hi]
  simp only [landInst, landCtx, landAll, h]
  rfl

theorem landIsle_noReqs {s : State} {k : Nat} {i : Inst} (hi : s.inst k = some i) (hl : i.life = .running) (hf : i.frozen = none)
    (h : i.reqs = []) : landIsle k s = s.setInst k i.applyAll := by
  have hr : i.runs = true := by simp [Inst.runs, hl]
  simp [landIsle, hi, hr, hf, h, landInst_noReqs]

theorem fifo_setFifo_self {i : Inst} {n : Nat} (h : n < i.qs.length) (f : Fifo) : (i.setFifo n f).fifo n = f := by
  simp [Inst.fifo, Inst.setFifo, h]

theorem fifo_setFifo_other {i : Inst} {n m : Nat} (h : m ≠ n) (f : Fifo) : (i.setFifo n f).fifo m = i.fifo m := by
  simp [Inst.fifo, Inst.setFifo, List.getD_eq_getElem?_getD, List.getElem?_set_ne h.symm]

/-! ## Each result sets the one register it names -/

theorem gGet_gSet_self {x : CtxState} {n : Nat} (hn : 0 < n) (h : Sparse.wf 0 x.g = true) (v : Word) : (x.gSet n v).gGet n = v := by
  have : n ≠ 0 := by omega
  rw [CtxState.gSet, if_neg this, CtxState.gGet, if_neg this]
  exact Sparse.get_set_self 0 x.g n v h

theorem gGet_gSet_other {x : CtxState} {n m : Nat} (h : m ≠ n) (v : Word) : (x.gSet n v).gGet m = x.gGet m := by
  unfold CtxState.gSet
  split
  · rfl
  · unfold CtxState.gGet
    dsimp only
    rw [Sparse.get_set_other 0 x.g n m v h]

/-- The number of lane l of V n tells both. -/
theorem laneKey_inj {n l m r : Nat} (hl : l < 64) (hr : r < 64) (h : 64 * m + r = 64 * n + l) : (m, r) = (n, l) := by
  rw [Prod.mk.injEq]; omega

end Sys2Proof.Machine

namespace Sys2Proof.Proofs

open Sys2Proof.Machine Sys2Proof.Safety

/-- A result for a queue register joins its pushes (R226). -/
theorem writeG_queue (c : Ctx) (n : Nat) (d : BitVec 5) (v : Word) (i : Inst) (hd : 24 ≤ d.toNat) (hq : i.qs.length = 8) :
    ∃ j : Inst, writeG c n d v i = j ∧ j = { i with qs := j.qs } ∧ (∀ m, m ≠ d.toNat - 24 → j.fifo m = i.fifo m) ∧
      j.fifo (d.toNat - 24) = { i.fifo (d.toNat - 24) with pushes := (i.fifo (d.toNat - 24)).pushes ++ [⟨some v, 0, c, n⟩] } := by
  have hlt : d.toNat - 24 < i.qs.length := by have := d.isLt; omega
  refine ⟨_, if_pos hd, rfl, fun m hm => fifo_setFifo_other hm _, fifo_setFifo_self hlt _⟩

/-- A result for a G register sets that register of that context (R49). -/
theorem applyWb_g (i : Inst) (c c' : Ctx) (n : Nat) (x : BitVec 256) (hn : 0 < n) (hw : Sparse.wf 0 (i.ctx c).g = true) :
    ((i.applyWb ⟨c', .g c n, x⟩).ctx c).gGet n = x.setWidth 64 ∧
    (∀ d m, (d, m) ≠ (c, n) → ((i.applyWb ⟨c', .g c n, x⟩).ctx d).gGet m = (i.ctx d).gGet m) := by
  have ha : i.applyWb ⟨c', .g c n, x⟩ = i.updCtx c (fun y => y.gSet n (x.setWidth 64)) := rfl
  rw [ha]
  refine ⟨by rw [updCtx_ctx, gGet_gSet_self hn hw], fun d m hne => ?_⟩
  by_cases hd : d = c
  · subst hd
    rw [updCtx_ctx, gGet_gSet_other (fun hm => hne (by rw [hm]))]
  · rw [updCtx_ctx_other i c d _ hd]

/-- A result for a lane sets that lane (R49). -/
theorem applyWb_v (i : Inst) (c : Ctx) (n l : Nat) (x : BitVec 256) (hl : l < 64) (hw : Sparse.wf 0 i.v = true) :
    (i.applyWb ⟨c, .v n l, x⟩).vGet n l = x.setWidth 32 ∧
    (∀ m r, r < 64 → (m, r) ≠ (n, l) → (i.applyWb ⟨c, .v n l, x⟩).vGet m r = i.vGet m r) :=
  ⟨Sparse.get_set_self 0 i.v _ _ hw, fun _ _ hr hne => Sparse.get_set_other 0 i.v _ _ _ (fun h => hne (laneKey_inj hl hr h))⟩

/-- A result for a mask register sets that register (R49). -/
theorem applyWb_m (i : Inst) (c : Ctx) (n : Nat) (x : BitVec 256) (hn : n ≠ 0) (hw : Sparse.wf 0 i.m = true) :
    (i.applyWb ⟨c, .m n, x⟩).mGet 64 n = x.setWidth 64 ∧
    (∀ m lanes, m ≠ n → (i.applyWb ⟨c, .m n, x⟩).mGet lanes m = i.mGet lanes m) := by
  have ha : i.applyWb ⟨c, .m n, x⟩ = { i with m := Sparse.set 0 i.m n (x.setWidth 64) } := if_neg hn
  have hones : onesMask 64 = BitVec.allOnes 64 := by decide
  rw [ha]
  refine ⟨?_, fun m lanes hm => ?_⟩
  · unfold Inst.mGet
    dsimp only
    rw [if_neg hn, Sparse.get_set_self 0 i.m n _ hw, hones, BitVec.and_allOnes]
  · unfold Inst.mGet
    dsimp only
    rw [Sparse.get_set_other 0 i.m n m _ hm]

/-- Settles O43: where a result goes, when it applies, and the one register that it sets. -/
theorem resultsAppear : Obligations.ResultsAppear := by
  unfold Obligations.ResultsAppear
  refine ⟨fun c n v i => rfl, fun c n d v i hd hlt => ?_, writeG_queue, fun s k i hi hl hf hr => ?_, applyWb_g, applyWb_v, applyWb_m,
    fun i c n x hw => ⟨Sparse.get_set_self 0 i.t n x hw, fun m hm => Sparse.get_set_other 0 i.t n m x hm⟩⟩
  · unfold writeG
    rw [if_neg (by omega), if_neg hd]
    rfl
  · refine ⟨_, congrArg Host.Outcome.next (landIsle_noReqs hi hl hf hr), ?_, inst_setInst_self s k _⟩
    exact onlyIsle_setInst k s s _ (onlyIsle_refl k s)

end Sys2Proof.Proofs

/-!
PROOFS. The end of a virtual cycle, and QDEAD (O44).
-/
namespace Sys2Proof.Machine

open Sys2Proof.Safety

/-! ## The end of a vc (R50, R58, R227, R247) -/

/-- A context is stuck where its block counts and began in an earlier vc. -/
theorem stuck_iff (i : Inst) (c : Ctx) : stuck i c = true ↔
    ((∃ q, (i.ctx c).block = .queue q) ∨ ∃ n, (i.ctx c).block = .slip n ∧ slipOk i c n = false) ∧
      (i.ctx c).blockVc.toNat < i.vcyc.toNat := by
  unfold stuck stillCounts
  cases (i.ctx c).block <;> simp

theorem mem_liveCtxs (i : Inst) (c : Ctx) : c ∈ i.liveCtxs ↔ (i.ctx c).live = true := by
  simp [Inst.liveCtxs, show c ∈ ctxs by cases c <;> decide]

theorem isQueue_iff (b : Block) : b.isQueue = true ↔ ∃ q, b = .queue q := by
  cases b <;> simp [Block.isQueue]

/-- QDEAD does not hold where a live context is not stuck, or none is queue-blocked. -/
theorem qdead_false {i : Inst} (h : (∃ c, (i.ctx c).live = true ∧ stuck i c = false) ∨
    ∀ c, (i.ctx c).live = true → ∀ q, (i.ctx c).block ≠ .queue q) : qdead i = false := by
  obtain ⟨c, hc, hs⟩ | h := h
  · have : i.liveCtxs.all (stuck i) = false := by
      rw [List.all_eq_false]
      exact ⟨c, (mem_liveCtxs i c).mpr hc, by simp [hs]⟩
    simp [qdead, this]
  · have : i.liveCtxs.any (fun c => (i.ctx c).block.isQueue) = false := by
      rw [List.any_eq_false]
      intro c hc hq
      obtain ⟨q, hq⟩ := (isQueue_iff _).mp hq
      exact h c ((mem_liveCtxs i c).mp hc) q hq
    simp [qdead, this]

/-- QDEAD holds where every live context is stuck and one is queue-blocked. -/
theorem qdead_true {i : Inst} {d : Ctx} {q : Nat} (hd : (i.ctx d).live = true) (hq : (i.ctx d).block = .queue q)
    (h : ∀ c, (i.ctx c).live = true → stuck i c = true) : qdead i = true := by
  have hmem := (mem_liveCtxs i d).mpr hd
  have hne : i.liveCtxs.isEmpty = false := by rw [List.isEmpty_eq_false_iff]; exact List.ne_nil_of_mem hmem
  have hall : i.liveCtxs.all (stuck i) = true := List.all_eq_true.mpr (fun c hc => h c ((mem_liveCtxs i c).mp hc))
  have hany : i.liveCtxs.any (fun c => (i.ctx c).block.isQueue) = true :=
    List.any_eq_true.mpr ⟨d, hmem, (isQueue_iff _).mpr ⟨q, hq⟩⟩
  simp [qdead, hne, hall, hany]

/-- The choice between the candidate b and the next live context c (R50). -/
def laterBlocked (i : Inst) (b c : Ctx) : Ctx :=
  if (i.ctx b).blockVc.toNat ≤ (i.ctx c).blockVc.toNat || !(i.ctx b).live then c else b

/-- A live candidate stays where all that follow entered their block earlier. -/
theorem laterBlocked_stays {i : Inst} {c : Ctx} (hc : (i.ctx c).live = true) (cs : List Ctx)
    (h : ∀ d ∈ cs, (i.ctx d).blockVc.toNat < (i.ctx c).blockVc.toNat) : cs.foldl (laterBlocked i) c = c := by
  induction cs with
  | nil => rfl
  | cons d ds ih =>
    have hd := h d (List.mem_cons_self ..)
    have hstep : laterBlocked i c d = c := by
      unfold laterBlocked
      rw [if_neg]
      simp [hc]; omega
    rw [List.foldl_cons, hstep]
    exact ih (fun x hx => h x (List.mem_cons_of_mem _ hx))

/-- Over live contexts in the order L, C, S the choice ends at the one that entered last, the later among equals. -/
theorem foldl_laterBlocked {i : Inst} {c : Ctx} (cs : List Ctx) (hc : c ∈ cs) (hs : cs.Pairwise (fun a b => ctxRank a < ctxRank b))
    (hlive : ∀ d ∈ cs, (i.ctx d).live = true)
    (h : ∀ d, (i.ctx d).live = true → (i.ctx d).blockVc.toNat ≤ (i.ctx c).blockVc.toNat ∧
      ((i.ctx d).blockVc.toNat = (i.ctx c).blockVc.toNat → ctxRank d ≤ ctxRank c)) (b : Ctx) : cs.foldl (laterBlocked i) b = c := by
  induction cs generalizing b with
  | nil => cases hc
  | cons a as ih =>
    obtain ⟨hfirst, hrest⟩ := List.pairwise_cons.mp hs
    rw [List.foldl_cons]
    obtain rfl | hmem := List.mem_cons.mp hc
    · have hstep : laterBlocked i b c = c := by
        unfold laterBlocked
        cases hb : (i.ctx b).live
        · simp
        · simp [(h b hb).1]
      rw [hstep]
      refine laterBlocked_stays (hlive c hc) as (fun d hd => ?_)
      obtain ⟨hle, heq⟩ := h d (hlive d (List.mem_cons_of_mem _ hd))
      have := hfirst d hd
      omega
    · exact ih hmem hrest (fun d hd => hlive d (List.mem_cons_of_mem _ hd)) _

/-- The context that entered its block last, the later of L, C, S among equals. -/
theorem lastBlocked_eq {i : Inst} {c : Ctx} (hc : (i.ctx c).live = true)
    (h : ∀ d, (i.ctx d).live = true → (i.ctx d).blockVc.toNat ≤ (i.ctx c).blockVc.toNat ∧
      ((i.ctx d).blockVc.toNat = (i.ctx c).blockVc.toNat → ctxRank d ≤ ctxRank c)) : lastBlocked i = c :=
  foldl_laterBlocked i.liveCtxs ((mem_liveCtxs i c).mpr hc)
    (List.Pairwise.filter _ (by decide : ctxs.Pairwise (fun a b => ctxRank a < ctxRank b)))
    (fun d hd => (mem_liveCtxs i d).mp hd) h .L

end Sys2Proof.Machine

namespace Sys2Proof.Sparse

/-- A function of the values that keeps the default, kept in canonical form, reads as the function of what was read. -/
theorem get_map_filter {α : Type} [DecidableEq α] (d : α) (g : α → α) (hg : g d = d) (b : Option Nat) (m : List (Nat × α))
    (h : wfAbove d b m = true) (k : Nat) :
    get d ((m.map (fun p => (p.1, g p.2))).filter (fun p => p.2 ≠ d)) k = g (get d m k) := by
  induction m generalizing b with
  | nil => exact hg.symm
  | cons p rest ih =>
    simp only [wfAbove, Bool.and_eq_true] at h
    obtain ⟨_, hrest⟩ := h
    have hi := ih (some p.1) hrest
    rw [List.map_cons, List.filter_cons]
    by_cases hk : p.1 = k
    · have hget : get d (p :: rest) k = p.2 := by simp [get, hk]
      rw [hget]
      split
      case isTrue => simp [get, hk]
      case isFalse hv =>
        rw [hi, get_above d rest p.1 k (by omega) hrest, hg]
        exact (by simpa using hv : g p.2 = d).symm
    · have hget : get d (p :: rest) k = get d rest k := by simp [get, hk]
      rw [hget]
      split
      · simpa [get, hk] using hi
      · exact hi

end Sys2Proof.Sparse

namespace Sys2Proof.Machine

/-- The windows whose cursors SRD sees (R247). -/
theorem showCursors_win (i : Inst) (h : Sparse.wf .start i.wins = true) (w : Nat) :
    Sparse.get .start i.showCursors.wins w = { i.msgWin w with shown := (i.msgWin w).cursor } :=
  Sparse.get_map_filter MsgWin.start (fun x => { x with shown := x.cursor }) rfl none i.wins h w

section

variable {s : State} {k : Nat} {i : Inst}

/-- A vc that ends without QDEAD. -/
theorem endVc_advances (hi : s.inst k = some i) (hl : i.life = .running) (hf : i.frozen = none) (hq : qdead i = false) :
    endVc k s = (s.setInst k { i.showCursors with vcyc := i.vcyc + 1, qs := i.qs.map Fifo.turn }).count (k / 32) 0 := by
  have hr : i.runs = true := by simp [Inst.runs, hl]
  simp [endVc, hi, hr, hf, hq, blkDie, dieOfIsle, idxBUSY]

/-- A vc that ends with QDEAD. -/
theorem endVc_qdead (hi : s.inst k = some i) (hl : i.life = .running) (hf : i.frozen = none) (hq : qdead i = true) {c : Ctx}
    (hc : lastBlocked i = c) :
    endVc k s = takeTrap k (ctxCode c) cQDEAD (qdeadDetail (i.ctx c).block) (i.ctx c).pc 0 s := by
  have hr : i.runs = true := by simp [Inst.runs, hl]
  simp [endVc, hi, hr, hf, hq, hc]

/-- Nothing ends on an isle that does not run. -/
theorem endVc_idle (hi : s.inst k = some i) (h : i.life ≠ .running ∨ i.frozen ≠ none) : endVc k s = s := by
  have : (!i.runs || i.frozen.isSome) = true := by
    obtain h | h := h
    · simp [Inst.runs, h]
    · simp [Option.isSome_iff_ne_none, h]
  simp only [endVc, hi, this, if_true]

end

end Sys2Proof.Machine

namespace Sys2Proof.Proofs

open Sys2Proof.Machine Sys2Proof.Safety

/-- Settles O44: the vc ends, or QDEAD is taken at the context that entered its block last. -/
theorem virtualCycles : Obligations.VirtualCycles := by
  unfold Obligations.VirtualCycles
  intro held
  have hheld : ∀ i c, held i c ↔ stuck i c = true := fun i c => (stuck_iff i c).symm
  refine ⟨fun s k i hi hl hf h => ?_, fun s k i c hi hl hf hc h hq => ?_, fun s k i hi h => ?_⟩
  · have hq : qdead i = false := by
      refine qdead_false (h.imp_left ?_)
      rintro ⟨c, hc, hn⟩
      rw [hheld] at hn
      exact ⟨c, hc, by simpa using hn⟩
    refine ⟨_, congrArg Host.Outcome.next (endVc_advances hi hl hf hq), rfl, fun n hn => inst_setInst_other s k n _ hn,
      i.showCursors.wins, inst_setInst_self s k _, showCursors_win i⟩
  · obtain ⟨d, q, hd, hdq⟩ := hq
    have hall : ∀ d, (i.ctx d).live = true → stuck i d = true := fun d hd => (hheld i d).mp (h d hd).1
    have hx := endVc_qdead hi hl hf (qdead_true hd hdq hall) (lastBlocked_eq hc (fun d hd => (h d hd).2))
    refine ⟨fun q hb => ?_, fun n hb => ?_⟩
    · rw [hb] at hx; exact congrArg Host.Outcome.next hx
    · rw [hb] at hx; exact congrArg Host.Outcome.next hx
  · exact congrArg Host.Outcome.next (endVc_idle hi h)

end Sys2Proof.Proofs

/-!
PROOFS. Taking a precise trap: the stop of a holder, and the discard of a speculation (O45).
-/
namespace Sys2Proof.Assoc

/-- A look-up in a table whose values alone have changed. -/
theorem find_mapValues {α : Type} (p : Nat × α → Prop) [DecidablePred p] (f : Nat × α → α) (t : List (Nat × α)) (k : Nat) :
    find (t.map (fun q => if p q then (q.1, f q) else q)) k = (find t k).map (fun v => if p (k, v) then f (k, v) else v) := by
  induction t with
  | nil => rfl
  | cons q rest ih =>
    obtain ⟨n, v⟩ := q
    by_cases hk : n = k
    · subst hk
      by_cases hp : p (n, v) <;> simp [find, hp]
    · by_cases hp : p (n, v) <;> simpa [find, hp, hk] using ih

end Sys2Proof.Assoc

namespace Sys2Proof.Machine

open Sys2Proof.Safety

/-! ## Who holds an isle: the operations that stop a holder leave its number -/

/-- The number of the holder of isle k. -/
def State.uidAt (s : State) (k : Nat) : Option Nat := (s.inst k).map Inst.uid

section

variable (n : Nat)

theorem saved_uidAt (s : State) (is : List Inst) : State.uidAt { s with saved := is } n = s.uidAt n := rfl
theorem addStatus_uidAt (id bits : Nat) (s : State) : (addStatus id bits s).uidAt n = s.uidAt n := rfl
theorem send_uidAt (m : Out) (s : State) : (s.send m).uidAt n = s.uidAt n := rfl
theorem dropXpts_uidAt (c : CircuitRef) (s : State) : (dropXpts c s).uidAt n = s.uidAt n := rfl
theorem setLink_uidAt (l : Nat) (x : Link) (s : State) : (s.setLink l x).uidAt n = s.uidAt n := rfl

theorem uidAt_ite (p : Prop) [Decidable p] (a b : State) : (if p then a else b).uidAt n = if p then a.uidAt n else b.uidAt n :=
  apply_ite (fun s : State => s.uidAt n) p a b

theorem foldl_uidAt {β : Type} (f : State → β → State) (l : List β) (s : State) (h : ∀ s b, (f s b).uidAt n = s.uidAt n) :
    (l.foldl f s).uidAt n = s.uidAt n := by
  induction l generalizing s with
  | nil => rfl
  | cons b l ih => rw [List.foldl_cons, ih, h]

theorem updInst_uidAt (s : State) (k : Nat) (f : Inst → Inst) (h : ∀ i, (f i).uid = i.uid) : (s.updInst k f).uidAt n = s.uidAt n := by
  unfold State.uidAt
  by_cases hk : n = k
  · subst hk
    rw [inst_updInst_self, Option.map_map]
    exact congrArg (fun g => (s.inst n).map g) (funext h)
  · rw [inst_updInst_other s k n f hk]

theorem discardSpec_uidAt (why : SpecEnd) (id : Nat) (s : State) : (discardSpec why id s).uidAt n = s.uidAt n := by
  unfold discardSpec
  split
  · rfl
  · unfold State.uidAt State.inst
    dsimp only
    rw [Assoc.find_mapValues, Option.map_map]
    refine congrArg (fun g => (Assoc.find s.slots n).map g) (funext fun i => ?_)
    dsimp only [Function.comp]
    split <;> rfl

theorem writeCells_uidAt (w : Writer) (code : Nat) (cells : List (Nat × Byte)) (s : State) :
    (writeCells w code cells s).uidAt n = s.uidAt n := by
  unfold writeCells
  split
  · rfl
  · exact foldl_uidAt n _ _ _ (fun s id => discardSpec_uidAt n .doom id s)

theorem ownRequest_uidAt (a : Nat) (kind : ReqKind) (s : State) : (ownRequest a kind s).uidAt n = s.uidAt n := by
  have hperform : (ownPerform a kind s).uidAt n = s.uidAt n := by
    unfold ownPerform writeHome
    split
    · exact writeCells_uidAt n ..
    · exact writeCells_uidAt n ..
    · exact writeCells_uidAt n ..
    · rfl
  unfold ownRequest
  dsimp only
  split
  · rfl
  · split
    · rfl
    · rfl
    · exact hperform

theorem recordEntry_uidAt (a : Nat) (e : FaultEntry) (s : State) : (recordEntry a e s).uidAt n = s.uidAt n := by
  have hwrite : ∀ cells s, (ownWrite cells s).uidAt n = s.uidAt n :=
    fun cells s => foldl_uidAt n _ _ _ (fun s r => ownRequest_uidAt n r.1 (.store r.2) s)
  simp only [recordEntry, hwrite, uidAt_ite, ownRequest_uidAt, ite_self]

theorem launchFault_uidAt (id : Nat) (e : FaultEntry) (s : State) : (launchFault id e s).uidAt n = s.uidAt n := by
  unfold launchFault
  cases s.launch id with
  | none => rfl
  | some l => simp only [uidAt_ite, addStatus_uidAt, recordEntry_uidAt, ite_self]

theorem noteFault_uid (e : FaultEntry) (i : Inst) : (noteFault e i).uid = i.uid := by
  unfold noteFault
  rfl

theorem instFault_uidAt (uid launch : Nat) (e : FaultEntry) (s : State) : (instFault uid launch e s).uidAt n = s.uidAt n := by
  unfold instFault
  dsimp only
  split
  · exact (updInst_uidAt n _ _ _ (fun i => by rw [apply_ite Inst.uid, noteFault_uid, ite_self])).trans (launchFault_uidAt n ..)
  · exact (saved_uidAt n _ _).trans (launchFault_uidAt n ..)

end

/-! ## Counting a finished command (R328) -/

/-- What counting leaves of an `Inst`: its number, its life, its results, handles, windows and requests. -/
structure Inst.Alike (i j : Inst) : Prop where
  uid : j.uid = i.uid
  life : j.life = i.life
  wb : j.wb = i.wb
  h : j.h = i.h
  wins : j.wins = i.wins
  reqs : j.reqs = i.reqs

theorem Inst.Alike.refl (i : Inst) : i.Alike i := ⟨rfl, rfl, rfl, rfl, rfl, rfl⟩

theorem Inst.Alike.trans {i j k : Inst} (h : i.Alike j) (g : j.Alike k) : i.Alike k :=
  ⟨g.uid.trans h.uid, g.life.trans h.life, g.wb.trans h.wb, g.h.trans h.h, g.wins.trans h.wins, g.reqs.trans h.reqs⟩

theorem addCnt_alike (i : Inst) (e : Engine) : i.Alike (i.addCnt e) := by
  cases e <;> exact ⟨rfl, rfl, rfl, rfl, rfl, rfl⟩

theorem countFinished_alike (e : Engine) (cs : List Cmd) (i : Inst) (kept : List Cmd) : i.Alike (countFinished e cs i kept) := by
  induction cs generalizing i kept with
  | nil => exact ⟨rfl, rfl, rfl, rfl, rfl, rfl⟩
  | cons c cs ih =>
    unfold countFinished
    split
    · split
      · refine Inst.Alike.trans (addCnt_alike i e) (Inst.Alike.trans ?_ (ih _ kept))
        split <;> exact ⟨rfl, rfl, rfl, rfl, rfl, rfl⟩
      · exact ⟨rfl, rfl, rfl, rfl, rfl, rfl⟩
    · exact ih i (c :: kept)

/-- Counting only takes commands away. -/
theorem countFinished_cmds (e : Engine) (cs : List Cmd) (i : Inst) (kept : List Cmd) :
    ∀ c ∈ (countFinished e cs i kept).cmds, c ∈ kept ∨ c ∈ cs := by
  induction cs generalizing i kept with
  | nil => intro c hc; exact .inl (List.mem_reverse.mp hc)
  | cons d cs ih =>
    intro c hc
    unfold countFinished at hc
    split at hc
    · split at hc
      · exact (ih _ kept c hc).imp_right (List.mem_cons_of_mem _)
      · rcases List.mem_append.mp hc with h | h
        · exact .inl (List.mem_reverse.mp h)
        · exact .inr h
    · rcases ih i (d :: kept) c hc with h | h
      · rcases List.mem_cons.mp h with rfl | h
        · exact .inr List.mem_cons_self
        · exact .inl h
      · exact .inr (List.mem_cons_of_mem _ h)

theorem finish_alike (i : Inst) (id : Nat) : i.Alike (i.finish id) := by
  unfold Inst.finish
  split
  · exact .refl i
  · dsimp only
    split
    · exact Inst.Alike.trans (j := i.updCmd id _) ⟨rfl, rfl, rfl, rfl, rfl, rfl⟩ (countFinished_alike _ _ _ [])
    · exact ⟨rfl, rfl, rfl, rfl, rfl, rfl⟩

/-- Finishing a command queues none. -/
theorem finish_phases {i : Inst} (h : ∀ c ∈ i.cmds, c.phase ≠ .queued) (id : Nat) : ∀ c ∈ (i.finish id).cmds, c.phase ≠ .queued := by
  have hupd : ∀ c ∈ (i.updCmd id (fun c => { c with phase := .finished })).cmds, c.phase ≠ .queued := by
    intro c hc
    obtain ⟨d, hd, rfl⟩ := List.mem_map.mp hc
    split
    · exact nofun
    · exact h d hd
  unfold Inst.finish
  split
  · exact h
  · dsimp only
    split
    · intro c hc
      rcases countFinished_cmds _ _ _ _ c hc with hc | hc
      · cases hc
      · exact hupd c hc
    · exact hupd

/-! ## Stopping a holder (R376) -/

section

variable (n : Nat)

theorem withdrawTide_uidAt (uid : Nat) (s : State) : (withdrawTide uid s).uidAt n = s.uidAt n := by
  have hfinish : ∀ l status r s, (finishTide l status r s).uidAt n = s.uidAt n := by
    intro l status r s
    unfold finishTide
    dsimp only
    split
    · exact updInst_uidAt n _ _ _ (fun i => (finish_alike _ _).uid)
    · rfl
  exact foldl_uidAt n _ _ _ (fun s p => (foldl_uidAt n _ _ _ (fun s r => hfinish p.1 tsWITHDRAWN r s)).trans (setLink_uidAt n p.1 _ s))

theorem failRota_uidAt (k id detail : Nat) (s : State) : (failRota k id detail s).uidAt n = s.uidAt n := by
  unfold failRota
  split
  · rfl
  · split
    · rfl
    · refine (dropXpts_uidAt n _ _).trans ((updInst_uidAt n _ _ _ (fun i => (finish_alike (i.endRota _) _).uid)).trans ?_)
      rw [uidAt_ite, send_uidAt, ite_self, instFault_uidAt]

theorem failColl_uidAt (k id detail : Nat) (s : State) : (failColl k id detail s).uidAt n = s.uidAt n := by
  unfold failColl
  split
  · rfl
  · split
    · rfl
    · exact (updInst_uidAt n _ _ _ (fun i => (finish_alike i id).uid)).trans ((send_uidAt n _ _).trans (instFault_uidAt n ..))

theorem failStarted_uidAt (k dRota dColl : Nat) (s : State) : (failStarted k dRota dColl s).uidAt n = s.uidAt n := by
  unfold failStarted
  split
  · rfl
  · exact (foldl_uidAt n _ _ _ (fun s (c : Cmd) => failColl_uidAt n k c.id dColl s)).trans
      (foldl_uidAt n _ _ _ (fun s (c : Cmd) => failRota_uidAt n k c.id dRota s))

theorem tearStrait_uidAt (k h : Nat) (x : Handle) (s : State) : (tearStrait k h x s).uidAt n = s.uidAt n := by
  unfold tearStrait
  dsimp only
  split <;> rfl

end

/-- The `Inst` that has stopped: nothing of the word in issue or of its queued commands is left, and its landings go nowhere (R376). -/
def Inst.halt (i : Inst) : Inst :=
  { i with
    life := .stopped, wb := [], wins := [], h := []
    reqs := (i.reqs.filter (fun r => !r.arrived)).map (fun r => { r with dst := .discard, mask := 0 })
    cmds := (i.cmds.filter (fun c => c.phase ≠ .queued)).map (fun c => if c.isCopy && !c.isDone then { c with phase := .writing } else c) }

theorem halt_reqs (i : Inst) : ∀ r ∈ i.halt.reqs, r.arrived = false ∧ r.dst = .discard ∧ r.mask = 0 := by
  intro r hr
  obtain ⟨q, hq, rfl⟩ := List.mem_map.mp hr
  exact ⟨by simpa using (List.mem_filter.mp hq).2, rfl, rfl⟩

theorem halt_phases (i : Inst) : ∀ c ∈ i.halt.cmds, c.phase ≠ .queued := by
  intro c hc
  obtain ⟨d, hd, rfl⟩ := List.mem_map.mp hc
  have := (List.mem_filter.mp hd).2
  split
  · exact nofun
  · simpa using this

theorem foldl_finish (cs : List Cmd) (i : Inst) (hi : ∀ c ∈ i.cmds, c.phase ≠ .queued) :
    i.Alike (cs.foldl (fun i c => i.finish c.id) i) ∧ ∀ c ∈ (cs.foldl (fun i c => i.finish c.id) i).cmds, c.phase ≠ .queued := by
  induction cs generalizing i with
  | nil => exact ⟨.refl i, hi⟩
  | cons c cs ih =>
    obtain ⟨ha, hp⟩ := ih (i.finish c.id) (finish_phases hi c.id)
    exact ⟨(finish_alike i c.id).trans ha, hp⟩

theorem evalBarrier_slots (id b : Nat) (s : State) : (evalBarrier id b s).slots = s.slots := by
  unfold evalBarrier
  split
  · rfl
  · dsimp only; split <;> rfl

theorem evalBarriers_slots (id : Nat) (s : State) : (evalBarriers id s).slots = s.slots := by
  unfold evalBarriers
  generalize upto 32 = bs
  induction bs generalizing s with
  | nil => rfl
  | cons b bs ih => exact (ih _).trans (evalBarrier_slots id b s)

/-- Stopping the holder of an isle halts it, whatever its circuits, tides and collectives did first (R376). -/
theorem stopInst_halts {s : State} {k : Nat} {i : Inst} (hi : s.inst k = some i) (hl : i.life = .running ∨ i.life = .saving) :
    ∃ i' j : Inst, i'.uid = i.uid ∧ (stopInst k s).inst k = some j ∧ i'.halt.Alike j ∧ ∀ c ∈ j.cmds, c.phase ≠ .queued := by
  let u := i.h.foldl (fun s p => if p.2.st = .opened || p.2.st = .opening then tearStrait k p.1 p.2 s else s)
    (failStarted k 4 5 (withdrawTide i.uid s))
  have hu : u.uidAt k = some i.uid := by
    have hfold : u.uidAt k = (failStarted k 4 5 (withdrawTide i.uid s)).uidAt k :=
      foldl_uidAt k _ _ _ (fun s p => by rw [uidAt_ite, tearStrait_uidAt, ite_self])
    rw [hfold, failStarted_uidAt, withdrawTide_uidAt, State.uidAt, hi]
    rfl
  obtain ⟨i', hi', huid⟩ := Option.map_eq_some_iff.mp hu
  let f (i : Inst) : Inst := (i.cmds.filter (fun c => c.isOf .ci)).foldl (fun i c => i.finish c.id) i
  have hstop : (stopInst k s).inst k = ((dropReads i.uid (u.updInst k Inst.halt)).updInst k f).inst k := by
    unfold stopInst
    simp only [hi]
    rw [if_pos hl]
    unfold State.inst
    rw [evalBarriers_slots]
    rfl
  have hj : (stopInst k s).inst k = some (f i'.halt) := by
    rw [hstop, inst_updInst_self]
    show Option.map f ((u.updInst k Inst.halt).inst k) = _
    rw [inst_updInst_self, hi']
    rfl
  obtain ⟨ha, hp⟩ := foldl_finish (i'.halt.cmds.filter (fun c => c.isOf .ci)) i'.halt (halt_phases i')
  exact ⟨i', _, huid, hj, ha, hp⟩

/-! ## Discarding a speculation (R101) -/

theorem launchFault_plain {s : State} {id : Nat} {l : Launch} (hl : s.launch id = some l) (hs : l.spec = false) (hr : l.retired = false)
    (e : FaultEntry) : launchFault id e s = recordEntry (l.chain.headD 0) { e with late := false } s := by
  simp [launchFault, hl, hs, hr]

section

variable {s : State} {id : Nat} {l : Launch}

/-- A doomed speculation is counted, its launch and its accesses go, and its holders act no more. -/
theorem discardSpec_doom (hl : s.launch id = some l) : discardSpec .doom id s =
    { s.setVf l.vf ({ s.vf l.vf with predDoom := (s.vf l.vf).predDoom + 1 }.setQueue l.q { (s.vf l.vf).queue l.q with spec := none }) with
      launches := Assoc.del s.launches id
      acc := s.acc.filter (fun a => a.launch ≠ id)
      slots := s.slots.map (fun p => if p.2.launch = id then
        (p.1, { p.2 with life := .discarded, wb := [], reqs := [], cmds := p.2.cmds.filter (fun c => c.phase != .queued) }) else p) } := by
  unfold discardSpec
  rw [hl]
  rfl

theorem discardSpec_acts (hl : s.launch id = some l) {k : Nat} {i : Inst} (hi : (discardSpec .doom id s).inst k = some i)
    (hid : i.launch = id) (c : Ctx) : i.acts c = false := by
  rw [discardSpec_doom hl] at hi
  unfold State.inst at hi
  dsimp only at hi
  rw [Assoc.find_mapValues] at hi
  obtain ⟨j, _, rfl⟩ := Option.map_eq_some_iff.mp hi
  by_cases hj : j.launch = id
  · simp [Inst.acts, Inst.runs, hj]
  · rw [if_neg hj] at hid; exact absurd hid hj

end

end Sys2Proof.Machine

namespace Sys2Proof.Proofs

open Sys2Proof.Machine Sys2Proof.Safety

/-- Settles O45: the trap's entry, the stop and the discard. -/
theorem takingATrap : Obligations.TakingATrap := by
  unfold Obligations.TakingATrap
  refine ⟨fun s k ctx cause detail pc addr i l hi hl hla hs hr => ?_, fun s k ctx cause detail pc addr i l hi hl hla hs => ?_,
    fun s k i hi hl => ?_, fun s ht hp => ?_, fun s id l hla hs hq => ?_⟩
  · simp only [takeTrap, hi, hl, hla, hs, true_or, if_true, Bool.false_eq_true, if_false, launchFault_plain hla hs hr]
    rfl
  · simp [takeTrap, hi, hl, hla, hs]
  · obtain ⟨i', j, huid, hj, ha, hp⟩ := stopInst_halts hi hl
    have hlife : j.life = .stopped := ha.life
    refine ⟨j, hj, hlife, fun c => by simp [Inst.acts, Inst.runs, hlife], ha.uid.trans huid, ha.wb, ha.h, ha.wins, ?_, hp⟩
    rw [ha.reqs]
    exact halt_reqs i'
  · have ha : anyTrapped s = true := by
      obtain ⟨p, hp, htr⟩ := hp
      exact List.any_eq_true.mpr ⟨p, hp, htr⟩
    show takeTurn s = _
    simp only [takeTurn, ht, clockTurn, ha, if_true]
  · have heq := discardSpec_doom hla
    have hvf := vf_setVf_self s l.vf ({ s.vf l.vf with predDoom := (s.vf l.vf).predDoom + 1 }.setQueue l.q
      { (s.vf l.vf).queue l.q with spec := none }) hq.1
    have htvf : (discardSpec .doom id s).vf l.vf = { s.vf l.vf with predDoom := (s.vf l.vf).predDoom + 1 }.setQueue l.q
        { (s.vf l.vf).queue l.q with spec := none } := by rw [heq]; exact hvf
    refine ⟨by rw [heq]; rfl, by rw [heq]; rfl, fun a ha => ?_, by rw [htvf]; rfl, ?_, fun k i c hi hid => discardSpec_acts hla hi hid c⟩
    · rw [heq] at ha
      simpa using (List.mem_filter.mp ha).2
    · unfold State.queue
      rw [htvf]
      exact congrArg HwQueue.spec (Sparse.get_set_self HwQueue.reset (s.vf l.vf).queues l.q _ (queuesWf_vf s l.vf hq))

end Sys2Proof.Proofs

/-!
PROOFS. One landing request at the start of a vc, freezes and WATCHDOG (O48).
-/
namespace Sys2Proof.Machine

open Sys2Proof.Safety

/-! ## One landing request at the start of a vc (R51 to R54) -/

/-- The signed value of the low bits. -/
theorem sextInt_eq {n : Nat} (hn : n ≠ 0) (v : Nat) : sextInt n v = (BitVec.ofNat n v).toInt := by
  obtain ⟨m, rfl⟩ := Nat.exists_eq_succ_of_ne_zero hn
  rw [BitVec.toInt_eq_toNat_cond, BitVec.toNat_ofNat]
  unfold sextInt
  have : v % 2 ^ (m + 1) < 2 ^ m ↔ 2 * (v % 2 ^ (m + 1)) < 2 ^ (m + 1) := by rw [Nat.pow_succ]; omega
  simp only [Nat.succ_eq_add_one, Nat.add_sub_cancel, this]

/-- Sign extension as the machine words have it (R290). -/
theorem extend_eq (n v : Nat) : extend n v = if n = 0 then BitVec.ofNat 64 v else (BitVec.ofNat n v).signExtend 64 := by
  unfold extend
  split
  · rfl
  case isFalse hn =>
    rw [sext64, sextInt_eq hn]
    rfl

section

variable {s : State} {k : Nat} {i : Inst} {r : Req}

theorem landAll_one (r : Req) (p : Req → Bool) (i : Inst) : landAll [r] p i = if p r then writeDst r i else i := by
  unfold landAll
  cases h : p r <;> simp [List.filter, h]

theorem landCtx_one (u : Word) (r : Req) (c : Ctx) (i : Inst) :
    landCtx u [r] [] c i = if r.ctx = c ∧ u.toNat ≤ r.issued.toNat + 1 then writeDst r i else i := by
  unfold landCtx
  rw [landAll_one]
  simp

/-- A lone request that lands is written once, and raises its flags (R52). -/
theorem landInst_one (hr : i.reqs = [r]) (hw : i.wb = []) (hl : r.lands i.vcyc = true) :
    landInst i.vcyc i = raiseFlags r (writeDst r { i with reqs := [] }) := by
  have hi : { i with reqs := [], wb := [] } = { i with reqs := [] } := by rw [← hw]
  unfold landInst
  simp only [hr, hw, List.filter_cons, hl, List.filter_nil, Bool.not_true, Bool.false_eq_true, if_true, if_false, List.map_nil,
    landAll_one, landCtx_one, hi, List.foldl_cons, List.foldl_nil]
  by_cases h : r.issued.toNat + 1 < i.vcyc.toNat
  · have h' : ¬ i.vcyc.toNat ≤ r.issued.toNat + 1 := by omega
    simp [h, h']
  · have h' : i.vcyc.toNat ≤ r.issued.toNat + 1 := by omega
    cases hc : r.ctx <;> simp [h, h']

/-- A lone request that does not land yet stays, and nothing else applies. -/
theorem landInst_stays (hr : i.reqs = [r]) (hw : i.wb = []) (hl : r.lands i.vcyc = false) (hd : r.isDue i.vcyc = false)
    (hk : r.timed = true ∨ r.arrived = false) : landInst i.vcyc i = i := by
  have hi : { i with reqs := [r], wb := [] } = i := by rw [← hr, ← hw]
  have hkeep : (r.timed || !(r.arrived && r.poisoned)) = true := by
    obtain h | h := hk <;> simp [h]
  unfold landInst
  simp only [hr, hw, List.filter_cons, hl, List.filter_nil, Bool.not_false, Bool.false_eq_true, if_true, if_false, List.map_cons, List.map_nil,
    hd, hkeep, hi, List.foldl_nil]
  rfl

/-! ## The isle whose holder has one landing request -/

/-- A request is written now where it is interlocked or its vc has begun. -/
theorem lands_now (hnow : r.timed = false ∨ r.due.toNat ≤ i.vcyc.toNat) (ha : r.arrived = true) (hp : r.poisoned = false) :
    r.lands i.vcyc = true := by
  unfold Req.lands Req.isDue
  obtain h | h := hnow <;> cases ht : r.timed <;> simp_all

section

variable (hi : s.inst k = some i) (hl : i.life = .running) (hf : i.frozen = none) (hr : i.reqs = [r])

include hi hl hf hr

/-- Nothing is late and nothing poisoned: the landing is written. -/
theorem landIsle_lands (hlate : (r.isDue i.vcyc && !r.arrived && !r.idle i) = false) (hp : r.poisonsAt i i.vcyc = false) :
    landIsle k s = s.setInst k (landInst i.vcyc i) := by
  have hrun : i.runs = true := by simp [Inst.runs, hl]
  simp only [landIsle, hi, hrun, hf, hr, List.find?_cons, hlate, hp, List.find?_nil]
  rfl

/-- A late landing freezes the isle, or takes SCHEDMISS in trap mode (R55, R56). -/
theorem landIsle_late (hlate : (r.isDue i.vcyc && !r.arrived && !r.idle i) = true) :
    landIsle k s = if i.tmode then takeTrap k (ctxCode r.ctx) cSCHEDMISS 0 r.pc 0 s
      else s.setInst k { i with frozen := some s.time } := by
  have hrun : i.runs = true := by simp [Inst.runs, hl]
  simp only [landIsle, hi, hrun, hf, hr, List.find?_cons, hlate]
  rfl

/-- Poisoned data takes POISON (R291). -/
theorem landIsle_poison (hlate : (r.isDue i.vcyc && !r.arrived && !r.idle i) = false) (hp : r.poisonsAt i i.vcyc = true) :
    landIsle k s = takeTrap k (ctxCode r.ctx) cPOISON r.poisonDetail r.pc r.va s := by
  have hrun : i.runs = true := by simp [Inst.runs, hl]
  simp only [landIsle, hi, hrun, hf, hr, List.find?_cons, hlate, hp, List.find?_nil]
  rfl

/-- Data that has come unpoisoned is written. -/
theorem landIsle_arrived (hw : i.wb = []) (hnow : r.timed = false ∨ r.due.toNat ≤ i.vcyc.toNat) (ha : r.arrived = true)
    (hp : r.poisoned = false) : landIsle k s = s.setInst k (raiseFlags r (writeDst r { i with reqs := [] })) := by
  rw [landIsle_lands hi hl hf hr (by simp [ha]) (by simp [Req.poisonsAt, hp]), landInst_one hr hw (lands_now hnow ha hp)]

end

/-- Writing a destination leaves the masks, the flags and the requests. -/
theorem writeDst_keeps (r : Req) (i : Inst) : (writeDst r i).m = i.m ∧ (writeDst r i).mflags = i.mflags ∧ (writeDst r i).reqs = i.reqs := by
  unfold writeDst
  cases r.dst with
  | v n =>
    dsimp only
    generalize r.data = ds
    induction ds generalizing i with
    | nil => exact ⟨rfl, rfl, rfl⟩
    | cons d ds ih => exact ih (i.vSet n d.1 (BitVec.ofNat 32 d.2))
  | g c n sx =>
    dsimp only
    split
    · cases c <;> exact ⟨rfl, rfl, rfl⟩
    · exact ⟨rfl, rfl, rfl⟩
  | _ => exact ⟨rfl, rfl, rfl⟩

/-- A masked failure sets its lane's flag, and its bit of MFLAGS (R120). -/
theorem raiseFlags_masked (r : Req) (i : Inst) (l : Nat) (st : Status) (hm : r.mask ≠ 0) (hf : r.fails = [(l, st)])
    (hw : Sparse.wf 0 i.m = true) : (raiseFlags r i).reqs = i.reqs ∧
      Sparse.get 0 (raiseFlags r i).m r.mask = Sparse.get 0 i.m r.mask ||| BitVec.ofNat 64 (2 ^ l) ∧
      (raiseFlags r i).mflags = i.mflags ||| mflagOf st := by
  have hflag : flagBits r.fails = BitVec.ofNat 64 (2 ^ l) := by rw [hf]; exact BitVec.zero_or
  have hmf : mflagBits r.fails = mflagOf st := by rw [hf]; exact BitVec.zero_or
  unfold raiseFlags
  rw [if_neg hm, hflag, hmf]
  exact ⟨rfl, Sparse.get_set_self 0 i.m r.mask _ hw, rfl⟩

/-- The PC of the one late request. -/
theorem latePc_one (hr : i.reqs = [r]) (hlate : (r.isDue i.vcyc && !r.arrived && !r.idle i) = true) : latePc i = r.pc := by
  simp only [latePc, hr, List.find?_cons, hlate]

end

end Sys2Proof.Machine

namespace Sys2Proof.Proofs

open Sys2Proof.Machine Sys2Proof.Safety

section

variable {s : State} {k : Nat} {i : Inst} {r : Req} (hi : s.inst k = some i) (hl : i.life = .running) (hf : i.frozen = none)
  (hr : i.reqs = [r]) (hw : i.wb = [])

include hi hl hf hr hw

/-- Nothing is written before its time (R51). -/
theorem landing_waits (ht : r.timed = true → i.vcyc.toNat < r.due.toNat) (ha : r.timed = false → r.arrived = false) :
    After (.timedLanding k) s (fun t => OnlyIsle k s t ∧ t.inst k = some i) := by
  have hd : r.isDue i.vcyc = false := by
    unfold Req.isDue
    cases h : r.timed
    · rfl
    · have := ht h; simp; omega
  have hlands : r.lands i.vcyc = false := by
    unfold Req.lands
    cases h : r.timed
    · simp [ha h]
    · simp [hd]
  have hp : r.poisonsAt i i.vcyc = false := by
    unfold Req.poisonsAt
    cases h : r.timed
    · simp [ha h]
    · simp [hd]
  have hk : r.timed = true ∨ r.arrived = false := by
    cases h : r.timed
    · exact .inr (ha h)
    · exact .inl rfl
  have hx := landIsle_lands hi hl hf hr (by simp [hd]) hp
  rw [landInst_stays hr hw hlands hd hk] at hx
  exact ⟨_, congrArg Host.Outcome.next hx, onlyIsle_setInst k s s i (onlyIsle_refl k s), inst_setInst_self s k i⟩

/-- A masked load that lands sets the flags of its failure (R120, R121). -/
theorem landing_flags (l : Nat) (st : Status) (hnow : r.timed = false ∨ r.due.toNat ≤ i.vcyc.toNat) (ha : r.arrived = true)
    (hm : r.mask ≠ 0) (hfails : r.fails = [(l, st)]) (hwf : Sparse.wf 0 i.m = true) :
    After (.timedLanding k) s (fun t => OnlyIsle k s t ∧ ∃ j, t.inst k = some j ∧ j.reqs = [] ∧
      Sparse.get 0 j.m r.mask = Sparse.get 0 i.m r.mask ||| BitVec.ofNat 64 (2 ^ l) ∧ j.mflags = i.mflags ||| mflagOf st) := by
  have hp : r.poisoned = false := by simp [Req.poisoned, hm]
  obtain ⟨hdm, hdf, hdr⟩ := writeDst_keeps r { i with reqs := [] }
  obtain ⟨hrr, hrm, hrf⟩ := raiseFlags_masked r (writeDst r { i with reqs := [] }) l st hm hfails (by rw [hdm]; exact hwf)
  refine ⟨_, congrArg Host.Outcome.next (landIsle_arrived hi hl hf hr hw hnow ha hp),
    onlyIsle_setInst k s s _ (onlyIsle_refl k s), _, inst_setInst_self s k _, hrr.trans hdr, ?_, ?_⟩
  · rw [hrm, hdm]
  · rw [hrf, hdf]

/-- A load that lands in a G register sets that register of that context, sign- or zero-extended (R290). -/
theorem landing_g (c : Ctx) (n sx l v : Nat) (hnow : r.timed = false ∨ r.due.toNat ≤ i.vcyc.toNat) (ha : r.arrived = true)
    (hm : r.mask = 0) (hfails : ∀ f ∈ r.fails, f.2 ≠ .poison) (hdata : r.data = [(l, v)]) (hdst : r.dst = .g c n sx)
    (hlive : (i.ctx c).live = true) (hn : n ≠ 0) (hwf : Sparse.wf 0 (i.ctx c).g = true) :
    After (.timedLanding k) s (fun t => OnlyIsle k s t ∧ ∃ j, t.inst k = some j ∧ j.reqs = [] ∧
      (j.ctx c).gGet n = (if sx = 0 then BitVec.ofNat 64 v else (BitVec.ofNat sx v).signExtend 64) ∧
      ∀ d m, (d, m) ≠ (c, n) → (j.ctx d).gGet m = (i.ctx d).gGet m) := by
  have hp : r.poisoned = false := by
    have : r.fails.any (fun f => f.2 = .poison) = false := List.any_eq_false.mpr (fun f hf => by simpa using hfails f hf)
    simp [Req.poisoned, this]
  have hlive' : (Inst.ctx { i with reqs := [] } c).live = true := by cases c <;> exact hlive
  have hdst' : raiseFlags r (writeDst r { i with reqs := [] }) = Inst.gSet { i with reqs := [] } c n (extend sx v) := by
    unfold raiseFlags
    rw [if_pos hm]
    simp only [writeDst, hdst, hlive', hdata, if_true, List.map_cons, List.headD_cons]
  refine ⟨_, congrArg Host.Outcome.next (landIsle_arrived hi hl hf hr hw hnow ha hp),
    onlyIsle_setInst k s s _ (onlyIsle_refl k s), _, inst_setInst_self s k _, ?_⟩
  rw [hdst', ← extend_eq]
  have hctx : ∀ d, Inst.ctx { i with reqs := [] } d = i.ctx d := by intro d; cases d <;> rfl
  refine ⟨by cases c <;> rfl, ?_, fun d m hne => ?_⟩
  · unfold Inst.gSet
    rw [updCtx_ctx, gGet_gSet_self (Nat.pos_of_ne_zero hn) (by rw [hctx]; exact hwf)]
  · unfold Inst.gSet
    by_cases hd : d = c
    · subst hd
      rw [updCtx_ctx, gGet_gSet_other (fun h => hne (by rw [h])), hctx]
    · rw [updCtx_ctx_other _ c d _ hd, hctx]

end

/-- A landing for a live context is awaited. -/
theorem not_idle {i : Inst} {r : Req} {c : Ctx} {n sx : Nat} (hdst : r.dst = .g c n sx) (hlive : (i.ctx c).live = true) :
    r.idle i = false := by
  simp [Req.idle, hdst, hlive]

/-- WATCHDOG for a holder whose only landing is late (R57). -/
theorem watchdog_raises {s : State} {k : Nat} {i : Inst} {l : Launch} {t0 : Nat} {r : Req} (hi : s.inst k = some i)
    (hf : i.frozen = some t0) (hla : s.launch i.launch = some l) (hret : l.retired = false)
    (hlong : t0 + l.eff.frzlim * Config.ticksPerUs < s.time) (hpc : latePc i = r.pc) :
    (l.spec = false →
      let t := stopInst k ((recordEntry (l.chain.headD 0) ⟨0x09, 0, 0, i.rank, k, r.pc, 0, false⟩ s).updLaunch i.launch
        (fun l => { l with status := l.status ||| 16 }))
      exec (.watchdog k) s = .next (abortDomain l.dom 1 [] t)) ∧
    (l.spec = true → exec (.watchdog k) s = .next (sweep (discardSpec .doom i.launch s))) := by
  have hlong' : frozenTooLong s i = true := by
    simp only [frozenTooLong, hf, hla]
    exact decide_eq_true hlong
  have hx : exec (.watchdog k) s = execWatchdog k s := rfl
  rw [hx]
  constructor
  · intro hs
    simp only [execWatchdog, hi, hlong', hla, hs, Bool.not_true, Bool.false_eq_true, if_false, launchFault_plain hla hs hret, hpc]
    rfl
  · intro hs
    simp only [execWatchdog, hi, hlong', hla, hs, Bool.not_true, Bool.false_eq_true, if_false, if_true]

/-- Settles O48: the landing's five outcomes, the end of a freeze, WATCHDOG and refills. -/
theorem landingsAndFreezes : Obligations.LandingsAndFreezes := by
  unfold Obligations.LandingsAndFreezes
  refine ⟨fun s k i r hi hl hf hr hw => ?_, fun s k i t0 hi hf hall => ?_, ?_, fun s k i p hi => ?_⟩
  · refine ⟨landing_waits hi hl hf hr hw, ?_, landing_g hi hl hf hr hw, fun c n sx ht hdue ha hdst hlive => ?_,
      fun c n sx l hnow ha hm hfails hdst hlr hlive => ?_⟩
    · intro l st hnow ha hm hfails _ hwf
      have h := landing_flags hi hl hf hr hw l st hnow ha hm hfails hwf
      cases st <;> exact h
    · have hlate : (r.isDue i.vcyc && !r.arrived && !r.idle i) = true := by simp [Req.isDue, ht, hdue, ha, not_idle hdst hlive]
      have hx := landIsle_late hi hl hf hr hlate
      refine ⟨fun htm => ?_, fun htm => ?_⟩
      · rw [if_neg (by simp [htm])] at hx
        exact ⟨_, congrArg Host.Outcome.next hx, onlyIsle_setInst k s s _ (onlyIsle_refl k s), inst_setInst_self s k _⟩
      · rw [if_pos htm] at hx
        exact congrArg Host.Outcome.next hx
    · have hp : r.poisonsAt i i.vcyc = true := by
        have hpois : r.poisoned = true := by simp [Req.poisoned, hm, hfails]
        have hdue : (r.isDue i.vcyc || !r.timed) = true := by
          unfold Req.isDue
          obtain h | h := hnow <;> simp [h]
        simp [Req.poisonsAt, ha, hpois, hdue, hdst, hlr]
      exact congrArg Host.Outcome.next (landIsle_poison hi hl hf hr (by simp [ha]) hp)
  · have hlate : stillLate i = false := by
      refine List.any_eq_false.mpr (fun r hr hc => ?_)
      simp only [Req.isDue, Bool.and_eq_true, decide_eq_true_eq, Bool.not_eq_true'] at hc
      obtain ⟨⟨⟨ht, hdue⟩, hna⟩, _⟩ := hc
      rcases hall r hr ht with h | h
      · omega
      · rw [h] at hna; cases hna
    refine ⟨s.setInst k { i with frozen := none }, ?_, onlyIsle_setInst k s s _ (onlyIsle_refl k s), inst_setInst_self s k _⟩
    show execFreezeEnd k s = _
    simp [execFreezeEnd, hi, hf, hlate]
  · intro s k i l t0 r hi hf hla hret hlong hr ht hdue ha hdst
    obtain ⟨c, n, sx, hdst, hlive⟩ := hdst
    have hlate : (r.isDue i.vcyc && !r.arrived && !r.idle i) = true := by simp [Req.isDue, ht, hdue, ha, not_idle hdst hlive]
    exact watchdog_raises hi hf hla hret hlong (latePc_one hr hlate)
  · exact ⟨_, rfl, onlyIsle_updInst k s s _ (onlyIsle_refl k s), (inst_updInst_self s k _).trans (by rw [hi]; rfl)⟩

end Sys2Proof.Proofs

/-!
PROOFS. What a write of one launch spares of the others: holders, accesses, granules.
-/
namespace Sys2Proof.Machine

open Sys2Proof.Safety

/-! ## The holder with a number, across updates (R54) -/

/-- The `Inst` with number u is still there, with the requests, the life and the launch of i. -/
def Held (u : Nat) (i : Inst) (t : State) : Prop :=
  ∃ j, t.instOf u = some j ∧ j.reqs = i.reqs ∧ j.life = i.life ∧ j.launch = i.launch

theorem Held.refl {u : Nat} {i : Inst} {s : State} (h : s.instOf u = some i) : Held u i s := ⟨i, h, rfl, rfl, rfl⟩

/-- A look-up by number in a table whose values changed but not their numbers. -/
theorem find_uid_map (u : Nat) (g : Nat × Inst → Nat × Inst) (h : ∀ p, (g p).2.uid = p.2.uid) (l : List (Nat × Inst)) :
    (l.map g).find? (fun p => p.2.uid = u) = (l.find? (fun p => p.2.uid = u)).map g := by
  rw [List.find?_map]
  congr 2
  exact funext fun p => by simp [Function.comp, h p]

theorem instOf_updUid (s : State) (u : Nat) (f : Inst → Inst) (h : ∀ i, (f i).uid = i.uid) :
    (s.updUid u f).instOf u = (s.instOf u).map f := by
  have hslots : (s.slots.map (fun p => if p.2.uid = u then (p.1, f p.2) else p)).find? (fun p => p.2.uid = u) =
      (s.slots.find? (fun p => p.2.uid = u)).map (fun p => (p.1, f p.2)) := by
    rw [find_uid_map u _ (fun p => by split <;> simp [h])]
    cases hf : s.slots.find? (fun p => p.2.uid = u) with
    | none => rfl
    | some p =>
      have hp : p.2.uid = u := by simpa using List.find?_some hf
      simp [hp]
  have hsaved : (s.saved.map (fun i => if i.uid = u then f i else i)).find? (fun i => i.uid = u) =
      (s.saved.find? (fun i => i.uid = u)).map f := by
    rw [List.find?_map]
    have : ((fun i : Inst => decide (i.uid = u)) ∘ fun i => if i.uid = u then f i else i) = fun i => decide (i.uid = u) := by
      funext i
      by_cases hi : i.uid = u <;> simp [hi, h]
    rw [this]
    cases hf : s.saved.find? (fun i => i.uid = u) with
    | none => rfl
    | some i =>
      have hi : i.uid = u := by simpa using List.find?_some hf
      simp [hi]
  unfold State.instOf State.updUid
  rw [hslots, hsaved]
  cases s.slots.find? (fun p => p.2.uid = u) <;> rfl

theorem Held.updUid {u : Nat} {i : Inst} {t : State} (h : Held u i t) (f : Inst → Inst)
    (hf : ∀ j, (f j).uid = j.uid ∧ (f j).reqs = j.reqs ∧ (f j).life = j.life ∧ (f j).launch = j.launch) : Held u i (t.updUid u f) := by
  obtain ⟨j, hj, hr, hl, hla⟩ := h
  obtain ⟨_, fr, fl, fla⟩ := hf j
  exact ⟨f j, by rw [instOf_updUid t u f (fun j => (hf j).1), hj]; rfl, fr.trans hr, fl.trans hl, fla.trans hla⟩

/-- A change that leaves both tables of holders. -/
theorem Held.congr {u : Nat} {i : Inst} {s t : State} (h : Held u i s) (hs : t.slots = s.slots) (hv : t.saved = s.saved) : Held u i t := by
  unfold Held State.instOf at h ⊢
  rw [hs, hv]
  exact h

/-- A discard of another launch. -/
theorem Held.discardSpec {u : Nat} {i : Inst} {t : State} (h : Held u i t) (why : SpecEnd) (id : Nat) (hne : i.launch ≠ id) :
    Held u i (discardSpec why id t) := by
  unfold Machine.discardSpec
  split
  · exact h
  · obtain ⟨j, hj, hr, hl, hla⟩ := h
    refine ⟨j, ?_, hr, hl, hla⟩
    unfold State.instOf at hj ⊢
    simp only [setVf_slots, setVf_saved]
    rw [find_uid_map u _ (fun p => by split <;> rfl)]
    cases hf : t.slots.find? (fun p => p.2.uid = u) with
    | none => rw [hf] at hj; exact hj
    | some p =>
      rw [hf] at hj
      cases hj
      have : ¬ p.2.launch = id := by rw [hla]; exact hne
      simp [this]

/-! ## Speculations that a write dooms (R99) -/

/-- None of them is the writer's own. -/
theorem doomedBy_ne {s : State} {n id : Nat} {cells : List (Nat × Byte)} (h : id ∈ doomedBy s (some n) cells) : id ≠ n := by
  unfold doomedBy at h
  obtain ⟨p, hp, rfl⟩ := List.mem_map.mp h
  have := (List.mem_filter.mp hp).2
  simp only [Bool.and_eq_true] at this
  have hw := this.1.2
  intro e
  subst e
  simp at hw

/-- What the discard of other launches leaves of a launch, its accesses and its holder. -/
structure Spared (n : Nat) (s t : State) : Prop where
  launch : t.launch n = s.launch n
  access : ∀ id b, s.access id = some b → b.launch = n → t.access id = some b
  gone : ∀ id, s.access id = none → t.access id = none
  dies : t.dieDown = s.dieDown
  granules : t.granules = s.granules
  held : ∀ u i, i.launch = n → Held u i s → Held u i t

theorem Spared.refl (n : Nat) (s : State) : Spared n s s := ⟨rfl, fun _ _ h _ => h, fun _ h => h, rfl, rfl, fun _ _ _ h => h⟩

theorem Spared.trans {n : Nat} {s t u : State} (h : Spared n s t) (g : Spared n t u) : Spared n s u :=
  ⟨g.launch.trans h.launch, fun id b hb hn => g.access id b (h.access id b hb hn) hn, fun id hn => g.gone id (h.gone id hn),
    g.dies.trans h.dies, g.granules.trans h.granules, fun w i hi hh => g.held w i hi (h.held w i hi hh)⟩

/-- A change of other fields spares everything. -/
theorem Spared.of_eq {n : Nat} {s t : State} (hl : t.launches = s.launches) (ha : t.acc = s.acc) (hd : t.dieDown = s.dieDown)
    (hg : t.granules = s.granules) (hs : t.slots = s.slots) (hv : t.saved = s.saved) : Spared n s t := by
  refine ⟨by unfold State.launch; rw [hl], fun id b hb _ => ?_, fun id hb => ?_, hd, hg, fun u i _ hh => hh.congr hs hv⟩
  · unfold State.access; rw [ha]; exact hb
  · unfold State.access; rw [ha]; exact hb

theorem find_del_other {α : Type} (t : List (Nat × α)) (k j : Nat) (h : j ≠ k) : Assoc.find (Assoc.del t k) j = Assoc.find t j := by
  unfold Assoc.del
  induction t with
  | nil => rfl
  | cons p rest ih =>
    unfold Sparse.erase
    split
    case isTrue hp => simp [Assoc.find, hp, h.symm]
    case isFalse hp => simp [Assoc.find, ih]

/-- A find passes a filter that keeps what is found. -/
theorem find_filter_spared {α : Type} (l : List α) (p q : α → Bool) (x : α) (h : l.find? p = some x) (hx : q x = true) :
    (l.filter q).find? p = some x := by
  induction l with
  | nil => cases h
  | cons y ys ih =>
    rw [List.find?_cons] at h
    split at h
    case h_1 hp =>
      cases h
      simp [hx, hp]
    case h_2 hp =>
      rw [List.filter_cons]
      split
      · rw [List.find?_cons, hp]; exact ih h
      · exact ih h

theorem spared_discardSpec (why : SpecEnd) (n id : Nat) (s : State) (h : id ≠ n) : Spared n s (discardSpec why id s) := by
  obtain ⟨hd, hg⟩ := discardSpec_places why id s
  refine ⟨?_, fun x b hb hn => ?_, fun x hx => ?_, hd, hg, fun u i hi hh => hh.discardSpec why id (by rw [hi]; exact h.symm)⟩
  · unfold discardSpec
    split
    · rfl
    · exact find_del_other _ _ _ h.symm
  · unfold discardSpec
    split
    · exact hb
    · exact find_filter_spared _ _ _ _ hb (by simp [hn, h.symm])
  · unfold discardSpec
    split
    · exact hx
    · unfold State.access at hx ⊢
      rw [List.find?_eq_none] at hx ⊢
      exact fun y hy => hx y (List.mem_of_mem_filter hy)

theorem spared_doomWritten (n : Nat) (cells : List (Nat × Byte)) (s : State) : Spared n s (doomWritten (some n) cells s) := by
  unfold doomWritten
  have h : ∀ id ∈ doomedBy s (some n) cells, id ≠ n := fun id hid => doomedBy_ne hid
  generalize doomedBy s (some n) cells = ids at h
  induction ids generalizing s with
  | nil => exact .refl n s
  | cons id ids ih =>
    exact (spared_discardSpec .doom n id s (h id List.mem_cons_self)).trans (ih _ (fun x hx => h x (List.mem_cons_of_mem _ hx)))

theorem spared_writeCells (n code : Nat) (cells : List (Nat × Byte)) (s : State) : Spared n s (writeCells (some n) code cells s) := by
  unfold writeCells
  split
  · exact .refl n s
  · exact Spared.trans (t := markDirty code cells (clearPoison cells (putCells cells s))) (.of_eq rfl rfl rfl rfl rfl rfl)
      (spared_doomWritten n cells _)

theorem spared_performHome (acc n code : Nat) (vis : BitVec 8) (cells : List (Nat × Byte)) (s : State) :
    Spared n s (performHome acc (some n) code vis cells s) := by
  unfold performHome
  split
  · exact .refl n s
  · have h : Spared n s (markDirty code cells { clearPoison cells s with versions := s.versions ++ [⟨acc, vis ||| homeDies cells, cells⟩] }) :=
      .of_eq rfl rfl rfl rfl rfl rfl
    exact h.trans (spared_doomWritten n cells _)

end Sys2Proof.Machine

/-!
PROOFS. Versions of stores, the bytes that dies see, and folding.
-/
namespace Sys2Proof.Machine

open Sys2Proof.Safety

/-! ## Versions and the bytes that dies see (R128, R132) -/

theorem newestByte_append (us vs : List Version) (y : Nat) :
    newestByte (us ++ vs) y = match newestByte vs y with
      | some b => some b
      | none => newestByte us y := by
  induction us with
  | nil => cases h : newestByte vs y <;> simp [newestByte, h]
  | cons u us ih => cases h : newestByte vs y <;> simp_all [newestByte]

theorem newestByte_one (v : Version) (y : Nat) : newestByte [v] y = Assoc.find v.cells y := rfl

theorem versionByte_append (d : Nat) (us vs : List Version) (y : Nat) :
    versionByte d (us ++ vs) y = match versionByte d vs y with
      | some b => some b
      | none => versionByte d us y := by
  induction us with
  | nil => cases h : versionByte d vs y <;> simp [versionByte, h]
  | cons u us ih => cases h : versionByte d vs y <;> simp_all [versionByte]

theorem versionByte_one (d : Nat) (v : Version) (y : Nat) :
    versionByte d [v] y = if v.vis.getLsbD d then Assoc.find v.cells y else none := rfl

theorem find_none {cs : List (Nat × Byte)} {y : Nat} (h : ∀ c ∈ cs, c.1 ≠ y) : Assoc.find cs y = none :=
  (Assoc.find_eq_none _ _).mpr h

/-- Bytes that no version names. -/
theorem versionByte_none {vs : List Version} {y : Nat} (h : ∀ v ∈ vs, ∀ c ∈ v.cells, c.1 ≠ y) (d : Nat) : versionByte d vs y = none := by
  induction vs with
  | nil => rfl
  | cons v vs ih =>
    rw [show v :: vs = [v] ++ vs from rfl, versionByte_append, ih (fun u hu => h u (List.mem_cons_of_mem _ hu)), versionByte_one,
      find_none (h v List.mem_cons_self), ite_self]

theorem newestByte_none {vs : List Version} {y : Nat} (h : ∀ v ∈ vs, ∀ c ∈ v.cells, c.1 ≠ y) : newestByte vs y = none := by
  induction vs with
  | nil => rfl
  | cons v vs ih =>
    rw [show v :: vs = [v] ++ vs from rfl, newestByte_append, ih (fun u hu => h u (List.mem_cons_of_mem _ hu)), newestByte_one,
      find_none (h v List.mem_cons_self)]

/-- Further versions leave the bytes that they do not name. -/
theorem dieByte_more {s t : State} {vs : List Version} (hm : t.mem = s.mem) (hv : t.versions = s.versions ++ vs) {y : Nat}
    (h : ∀ v ∈ vs, ∀ c ∈ v.cells, c.1 ≠ y) (d : Nat) : dieByte t d y = dieByte s d y := by
  unfold dieByte memByte
  rw [hm, hv, versionByte_append, versionByte_none h]

theorem homeByte_more {s t : State} {vs : List Version} (hm : t.mem = s.mem) (hv : t.versions = s.versions ++ vs) {y : Nat}
    (h : ∀ v ∈ vs, ∀ c ∈ v.cells, c.1 ≠ y) : homeByte t y = homeByte s y := by
  unfold homeByte memByte
  rw [hm, hv, newestByte_append, newestByte_none h]

/-- The memory and the versions of t are those of s. -/
structure SameBytes (s t : State) : Prop where
  mem : t.mem = s.mem
  versions : t.versions = s.versions

theorem SameBytes.dieByte {s t : State} (h : SameBytes s t) (d y : Nat) : dieByte t d y = dieByte s d y := by
  unfold Machine.dieByte memByte; rw [h.mem, h.versions]

theorem SameBytes.homeByte {s t : State} (h : SameBytes s t) (y : Nat) : homeByte t y = homeByte s y := by
  unfold Machine.homeByte memByte; rw [h.mem, h.versions]

theorem SameBytes.homeNat {s t : State} (h : SameBytes s t) (x n : Nat) : homeNat t x n = homeNat s x n :=
  homeNat_congr s t x n (fun k _ => h.homeByte (x + k))

theorem SameBytes.trans {s t u : State} (h : SameBytes s t) (g : SameBytes t u) : SameBytes s u :=
  ⟨g.mem.trans h.mem, g.versions.trans h.versions⟩

theorem SameBytes.symm {s t : State} (h : SameBytes s t) : SameBytes t s := ⟨h.mem.symm, h.versions.symm⟩

/-! ## Folding a version that every die sees -/

section

variable {s : State} {id : Nat} {old rest : List Version} {v : Version}

/-- The first version of a store gives its bytes to memory, and the older versions give them up. -/
theorem foldVersion_split (hs : s.versions = old ++ v :: rest) (hold : ∀ u ∈ old, u.acc ≠ id) (hv : v.acc = id) :
    foldVersion id s = { s with mem := Sparse.setAll memDefault s.mem v.cells, versions := stripped v.cells old ++ rest } := by
  have hfind : s.versions.find? (fun v => v.acc = id) = some v := by
    rw [hs, List.find?_append, List.find?_eq_none.mpr (fun u hu => by simpa using hold u hu)]
    simp [hv]
  have htake : s.versions.takeWhile (fun u => u.acc ≠ id) = old := by
    rw [hs, List.takeWhile_append_of_pos (fun u hu => by simpa using hold u hu)]
    simp [hv]
  have hdrop : s.versions.dropWhile (fun u => u.acc ≠ id) = v :: rest := by
    rw [hs, List.dropWhile_append_of_pos (fun u hu => by simpa using hold u hu)]
    simp [hv]
  unfold foldVersion
  rw [hfind]
  dsimp only
  rw [htake, hdrop]
  rfl

/-- A byte that the version does not name reads as before. -/
theorem dieByte_foldVersion_out (hs : s.versions = old ++ v :: rest) (hold : ∀ u ∈ old, u.acc ≠ id) (hv : v.acc = id) (d y : Nat)
    (hy : ∀ c ∈ v.cells, c.1 ≠ y) : dieByte (foldVersion id s) d y = dieByte s d y := by
  have hany : ¬ v.cells.any (fun c => c.1 = y) = true := by
    rw [List.any_eq_true]; rintro ⟨c, hc, e⟩; exact hy c hc (by simpa using e)
  have hone : versionByte d (v :: rest) y = versionByte d rest y := by
    rw [show v :: rest = [v] ++ rest from rfl, versionByte_append, versionByte_one, find_none hy, ite_self]
    cases versionByte d rest y <;> rfl
  rw [foldVersion_split hs hold hv]
  unfold dieByte memByte
  rw [hs]
  dsimp only
  rw [versionByte_append, versionByte_append, hone, versionByte_stripped, if_neg hany, Sparse.get_setAll_other _ _ _ _ hy]

end

/-- Folding every version of a store keeps the bytes that none of them names. -/
theorem dieByte_foldl_foldVersion {id : Nat} (news : List Version) (s : State) (old : List Version) (hs : s.versions = old ++ news)
    (hold : ∀ u ∈ old, u.acc ≠ id) (hnew : ∀ u ∈ news, u.acc = id) (d y : Nat) (hy : ∀ u ∈ news, ∀ c ∈ u.cells, c.1 ≠ y) :
    dieByte (news.foldl (fun s _ => foldVersion id s) s) d y = dieByte s d y := by
  induction news generalizing s old with
  | nil => rfl
  | cons v vs ih =>
    have hv := hnew v List.mem_cons_self
    have hstep := foldVersion_split hs hold hv
    refine (ih (foldVersion id s) (stripped v.cells old) (by rw [hstep]) (fun u hu => ?_)
      (fun u hu => hnew u (List.mem_cons_of_mem _ hu)) (fun u hu => hy u (List.mem_cons_of_mem _ hu))).trans
      (dieByte_foldVersion_out hs hold hv d y (hy v List.mem_cons_self))
    obtain ⟨w, hw, rfl⟩ := List.mem_map.mp hu
    exact hold w hw

theorem foldVersions_eq {id : Nat} {s : State} {old news : List Version} (hs : s.versions = old ++ news)
    (hold : ∀ u ∈ old, u.acc ≠ id) (hnew : ∀ u ∈ news, u.acc = id) :
    foldVersions id s = news.foldl (fun s _ => foldVersion id s) s := by
  have : s.versions.filter (fun v => v.acc = id) = news := by
    rw [hs, List.filter_append, List.filter_eq_nil_iff.mpr (fun u hu => by simpa using hold u hu),
      List.filter_eq_self.mpr (fun u hu => by simpa using hnew u hu)]
    rfl
  unfold foldVersions
  rw [this]

/-- After the fold of a store's only version its bytes stand in memory, and every die reads them. -/
theorem dieByte_foldVersions_one {id : Nat} {s : State} {old : List Version} {v : Version} (hs : s.versions = old ++ [v])
    (hold : ∀ u ∈ old, u.acc ≠ id) (hv : v.acc = id) (hn : (v.cells.map Prod.fst).Nodup) (hm : MemWf s.mem) (d y : Nat) (b : Byte)
    (hb : Assoc.find v.cells y = some b) : dieByte (foldVersions id s) d y = b := by
  rw [foldVersions_eq hs hold (by simpa using hv)]
  show dieByte (foldVersion id s) d y = b
  obtain ⟨pre, post, hcells, hpost⟩ := find_split v.cells y b hn hb
  have hany : v.cells.any (fun c => c.1 = y) = true := by rw [hcells]; simp
  rw [foldVersion_split hs hold hv]
  unfold dieByte memByte
  dsimp only
  rw [List.append_nil, versionByte_stripped, if_pos hany, hcells, get_setAll_cell _ _ _ _ _ hm hpost]
  rfl

/-! ## A store performed at its home -/

theorem performHome_versions (acc : Nat) (w : Writer) (code : Nat) (vis : BitVec 8) (cells : List (Nat × Byte)) (s : State) :
    (performHome acc w code vis cells s).versions =
      s.versions ++ if cells = [] then [] else [⟨acc, vis ||| homeDies cells, cells⟩] := by
  unfold performHome
  split
  · simp
  · exact (doomWritten_mem _ _ _).2

/-- What a store has performed: a version for each list of cells, beside what its write dooms. -/
structure Stored (a : Access) (vis : BitVec 8) (css : List (List (Nat × Byte))) (s t : State) : Prop where
  spared : Spared a.launch s t
  mem : t.mem = s.mem
  versions : t.versions = s.versions ++ css.map (fun cs => ⟨a.id, vis ||| homeDies cs, cs⟩)

theorem Stored.refl (a : Access) (vis : BitVec 8) (s : State) : Stored a vis [] s s := ⟨.refl _ s, rfl, by simp⟩

theorem Stored.trans {a : Access} {vis : BitVec 8} {cs ds : List (List (Nat × Byte))} {s t u : State} (h : Stored a vis cs s t)
    (g : Stored a vis ds t u) : Stored a vis (cs ++ ds) s u :=
  ⟨h.spared.trans g.spared, g.mem.trans h.mem, by rw [g.versions, h.versions, List.map_append, List.append_assoc]⟩

/-- The lists of cells that are written: none where there is no cell. -/
def nonEmpty (cells : List (Nat × Byte)) : List (List (Nat × Byte)) := if cells = [] then [] else [cells]

theorem stored_performHome (a : Access) (code : Nat) (vis : BitVec 8) (cells : List (Nat × Byte)) (s : State) :
    Stored a vis (nonEmpty cells) s (performHome a.id (some a.launch) code vis cells s) := by
  refine ⟨spared_performHome .., performHome_mem .., ?_⟩
  rw [performHome_versions]
  unfold nonEmpty
  split <;> rfl

/-! ## Merged cells -/

theorem mem_put {t : List (Nat × Byte)} {k : Nat} {v : Byte} {c : Nat × Byte} (h : c ∈ Assoc.put t k v) : c = (k, v) ∨ c ∈ t := by
  unfold Assoc.put at h
  induction t with
  | nil => exact .inl (by simpa [Sparse.insert] using h)
  | cons p rest ih =>
    unfold Sparse.insert at h
    split at h
    · exact List.mem_cons.mp h
    · split at h
      · exact (List.mem_cons.mp h).imp_right (List.mem_cons_of_mem _)
      · rcases List.mem_cons.mp h with e | e
        · exact .inr (e ▸ List.mem_cons_self)
        · exact (ih e).imp_right (List.mem_cons_of_mem _)

/-- A merged cell is one of the cells. -/
theorem mem_mergeCells {cells : List (Nat × Byte)} {c : Nat × Byte} (h : c ∈ mergeCells cells) : c ∈ cells := by
  have hall : ∀ (cs m : List (Nat × Byte)), c ∈ cs.foldl (fun m c => Assoc.put m c.1 c.2) m → c ∈ m ∨ c ∈ cs := by
    intro cs
    induction cs with
    | nil => exact fun m h => .inl h
    | cons d ds ih =>
      intro m h
      rcases ih _ h with h | h
      · rcases mem_put h with e | h
        · exact .inr (e ▸ List.mem_cons_self)
        · exact .inl h
      · exact .inr (List.mem_cons_of_mem _ h)
  exact (hall cells [] h).resolve_left (by simp)

/-- A cell above all others is put at the end. -/
theorem put_above {t : List (Nat × Byte)} {k : Nat} (h : ∀ c ∈ t, c.1 < k) (v : Byte) : Assoc.put t k v = t ++ [(k, v)] := by
  unfold Assoc.put
  induction t with
  | nil => rfl
  | cons p rest ih =>
    have hp := h p List.mem_cons_self
    unfold Sparse.insert
    rw [if_neg (by omega), if_neg (by omega), ih (fun c hc => h c (List.mem_cons_of_mem _ hc))]
    rfl

/-- The bytes of a number are merged already. -/
theorem mergeCells_cellsOf (x n v : Nat) : mergeCells (cellsOf x n v) = cellsOf x n v := by
  induction n with
  | zero => rfl
  | succ n ih =>
    have hs : cellsOf x (n + 1) v = cellsOf x n v ++ [(x + n, byteOf v n)] := by
      simp [cellsOf, upto, List.range_succ, byteOf]
    rw [hs]
    unfold mergeCells at ih ⊢
    rw [List.foldl_append, ih]
    refine put_above (fun c hc => ?_) _
    simp only [cellsOf, List.mem_map, upto, List.mem_range] at hc
    obtain ⟨k, hk, rfl⟩ := hc
    show x + k < x + n
    omega

theorem mem_cellsOf {x n v : Nat} {c : Nat × Byte} (h : c ∈ cellsOf x n v) : x ≤ c.1 ∧ c.1 < x + n := by
  simp only [cellsOf, List.mem_map, upto, List.mem_range] at h
  obtain ⟨k, hk, rfl⟩ := h
  exact ⟨Nat.le_add_right x k, by show x + k < x + n; omega⟩

theorem nodup_cellsOf (x n v : Nat) : ((cellsOf x n v).map Prod.fst).Nodup := by
  rw [map_fst_cellsOf]; exact List.nodup_range'

theorem cellsOf_ne_nil {x n v : Nat} (h : 0 < n) : cellsOf x n v ≠ [] := by
  intro e
  have := congrArg List.length e
  simp [cellsOf, upto] at this
  omega

end Sys2Proof.Machine

/-!
PROOFS. The parts of an access: where they are performed, and the stores among them.
-/
namespace Sys2Proof.Machine

open Sys2Proof.Safety

/-! ## The access that is performed -/

section

variable {s : State} {id : Nat}

theorem access_id {a : Access} (h : s.access id = some a) : a.id = id := by
  simpa using List.find?_some h

theorem access_updAccess (f : Access → Access) (hf : ∀ b, (f b).id = b.id) : (s.updAccess id f).access id = (s.access id).map f := by
  unfold State.access State.updAccess
  dsimp only
  rw [List.find?_map]
  have : ((fun a : Access => decide (a.id = id)) ∘ fun a => if a.id = id then f a else a) = fun a => decide (a.id = id) := by
    funext b
    by_cases hb : b.id = id <;> simp [hb, hf]
  rw [this]
  cases h : s.acc.find? (fun a => decide (a.id = id)) with
  | none => rfl
  | some b =>
    have hb : b.id = id := by simpa using List.find?_some h
    simp [hb]

theorem access_dropAccess : (s.dropAccess id).access id = none := by
  unfold State.access State.dropAccess
  rw [List.find?_eq_none]
  intro b hb
  simpa using (List.mem_filter.mp hb).2

/-- Updates of holders leave the accesses. -/
theorem access_updUid (u : Nat) (f : Inst → Inst) : (s.updUid u f).access id = s.access id := rfl

end

/-- The access belongs to a launch that is no speculation and commits nothing. -/
def PlainAccess (s : State) (a : Access) : Prop := ∃ l, s.launch a.launch = some l ∧ l.spec = false ∧ l.claiming = false

/-- The access belongs to a launch that is no speculation. -/
def Committed (s : State) (a : Access) : Prop := ∃ l, s.launch a.launch = some l ∧ l.spec = false

section

variable {s : State} {a : Access} {p : Part} {x : Nat}

theorem PlainAccess.committed (h : PlainAccess s a) : Committed s a := by
  obtain ⟨l, hl, hs, _⟩ := h
  exact ⟨l, hl, hs⟩

theorem committed_launchSpec (h : Committed s a) : launchSpec s a.launch = false := by
  obtain ⟨l, hl, hs⟩ := h
  simp [launchSpec, hl, hs]

theorem plain_launchSpec (h : PlainAccess s a) : launchSpec s a.launch = false := committed_launchSpec h.committed

theorem plain_launchClaiming (h : PlainAccess s a) : launchClaiming s a.launch = false := by
  obtain ⟨l, hl, _, hc⟩ := h
  simp [launchClaiming, hl, hc]

theorem plain_spared {t : State} (h : PlainAccess s a) (g : Spared a.launch s t) : PlainAccess t a := by
  unfold PlainAccess; rw [g.launch]; exact h

theorem dramPart_spared {n : Nat} {t : State} (h : DramPart s p x) (g : Spared n s t) : DramPart t p x := by
  unfold DramPart AtHome dieIsDown granuleOf at h ⊢
  rw [g.dies, g.granules]
  exact h

/-- A part at DRAM at its home is performed at its cell. -/
theorem placeOf_dram (h : Committed s a) (hp : DramPart s p x) : placeOf s a p = .cell x := by
  have hspec := committed_launchSpec h
  obtain ⟨l, hl, hs⟩ := h
  obtain ⟨_, _, hsent, htgt, hup, hhome, hnack⟩ := hp
  have hcellar : inCellar s a.launch x p.len = false := by simp [inCellar, hl, hs]
  have hturn : (granuleOf s (x / 2 ^ 21)).turnsAway (localFlow a.isle) (.inl a.id) = false := by rw [Granule.turnsAway, hnack]; rfl
  have htp : tgtPlace s a p = .cell x := by
    simp only [tgtPlace, htgt, hspec, hcellar, hturn, Bool.false_and, Bool.or_self, Bool.and_false, Bool.false_eq_true, if_false]
    exact dramPlace_home hup hhome _
  simp [placeOf, hl, hsent, htp]

end

/-! ## Trying the parts -/

/-- The part is performed with value v and status st. -/
def Part.finish (p : Part) (v : Nat) (st : Status) : Part := { p with done := true, res := v, st := st }

/-- The bytes that a store part at DRAM writes. -/
def Part.storeCells (p : Part) : List (Nat × Byte) :=
  match p.tgt with
  | .dram x => cellsOf x p.len p.x
  | _ => []

section

variable {a : Access} {vis : BitVec 8} {s : State} {p : Part} {n : Nat} {g : Prog}

/-- A part that may go, none before it pending, gathered for the write of the whole access. -/
theorem partStep_gathered {go : Nat → Part → Bool} {cs : List (Nat × Byte)} (hgo : go n p = true)
    (hb : ∀ q ∈ g.parts, q.done = true) (hg : gathers g.s a p = some (.inl cs)) :
    partStep a vis go [] n p g = { g with parts := g.parts ++ [{ p with done := true }], cells := g.cells ++ cs } := by
  have hw : g.parts.any (waitsSibling p) = false := List.any_eq_false.mpr (fun q hq => by simp [waitsSibling, hb q hq])
  unfold partStep
  simp only [hgo, hw, hg, Bool.not_true, Bool.or_self, Bool.false_eq_true, if_false]

/-- A part that may go, none before it pending, performed by itself. -/
theorem partStep_done {go : Nat → Part → Bool} {v : Nat} {st : Status} {t : State} (hgo : go n p = true)
    (hb : ∀ q ∈ g.parts, q.done = true) (hg : gathers g.s a p = none) (ht : tryPart a p vis none g.s = .done v st t) :
    partStep a vis go [] n p g = { g with s := t, parts := g.parts ++ [p.finish v st] } := by
  have hw : g.parts.any (waitsSibling p) = false := List.any_eq_false.mpr (fun q hq => by simp [waitsSibling, hb q hq])
  unfold partStep
  simp only [hgo, hw, hg, Bool.not_true, Bool.or_self, Bool.false_eq_true, if_false]
  rw [show answerFor [] n = none from rfl, ht]
  rfl

/-- The parts that may go: all of an access that may be performed. -/
theorem tries_of_mayPerform (h : mayPerform s a = true) (hp : p ∈ a.parts) (hd : p.done = false) : tries a none s n p = true := by
  have := List.all_eq_true.mp h p hp
  simpa [tries, hd] using this

/-- Whether a store part is gathered: unless its L1 code is that of an L2. -/
theorem gathers_store {x : Nat} (hk : a.kind = .store) (h : PlainAccess s a) (hp : DramPart s p x) :
    gathers s a p = if 1 + a.isle = 257 then none else some (.inl p.storeCells) := by
  have htgt : p.tgt = .dram x := hp.2.2.2.1
  have hcode : p.storeCode a.isle = 1 + a.isle := by simp [Part.storeCode, htgt]
  have hcells : p.storeCells = cellsOf x p.len p.x := by simp [Part.storeCells, htgt]
  simp only [gathers, hk, placeOf_dram h.committed hp, plain_launchSpec h, plain_launchClaiming h, hcode, hcells, Bool.false_or]
  by_cases hi : 1 + a.isle = 257 <;> simp [hi]

theorem tryPart_store {x : Nat} (hk : a.kind = .store) (h : PlainAccess s a) (hp : DramPart s p x) :
    tryPart a p vis none s = .done 0 .ok (performHome a.id (some a.launch) (p.storeCode a.isle) vis p.storeCells s) := by
  have hcells : p.storeCells = cellsOf x p.len p.x := by simp [Part.storeCells, hp.2.2.2.1]
  simp only [tryPart, placeOf_dram h.committed hp, cellPart, plain_launchSpec h, plain_launchClaiming h, hk, hcells, Bool.false_and,
    Bool.false_eq_true, if_false]

/-- A part whose bytes have been stored. -/
def Part.Stood (p : Part) : Prop := p.done = true ∧ p.st = .ok

/-- All parts of a store at DRAM are gathered, or each is performed by itself where its code is that of an L2. -/
theorem partsFrom_store (hk : a.kind = .store) (go : Nat → Part → Bool) (ps : List Part) (n : Nat) (g : Prog)
    (hgo : ∀ n, ∀ p ∈ ps, go n p = true) (hd : ∀ p ∈ ps, ∃ x, DramPart g.s p x) (hpl : PlainAccess g.s a)
    (hb : ∀ q ∈ g.parts, q.Stood) :
    let r := partsFrom a vis go [] n ps g
    (∀ q ∈ r.parts, q.Stood) ∧ r.pads = g.pads ∧
      ((1 + a.isle ≠ 257 ∧ r.s = g.s ∧ r.cells = g.cells ++ ps.flatMap Part.storeCells) ∨
        (1 + a.isle = 257 ∧ r.cells = g.cells ∧ Stored a vis (ps.flatMap (fun p => nonEmpty p.storeCells)) g.s r.s)) := by
  induction ps generalizing n g with
  | nil =>
    refine ⟨hb, rfl, ?_⟩
    by_cases hi : 1 + a.isle = 257
    · exact .inr ⟨hi, rfl, .refl a vis g.s⟩
    · exact .inl ⟨hi, rfl, (List.append_nil _).symm⟩
  | cons p ps ih =>
    obtain ⟨x, hx⟩ := hd p List.mem_cons_self
    have hgop := hgo n p List.mem_cons_self
    have hgos : ∀ n, ∀ q ∈ ps, go n q = true := fun n q hq => hgo n q (List.mem_cons_of_mem _ hq)
    have hds : ∀ q ∈ ps, ∃ x, DramPart g.s q x := fun q hq => hd q (List.mem_cons_of_mem _ hq)
    have hdone : ∀ q ∈ g.parts, q.done = true := fun q hq => (hb q hq).1
    have hgat := gathers_store hk hpl hx
    have hgrow : ∀ q, q.Stood → ∀ r ∈ g.parts ++ [q], r.Stood := by
      intro q hq r hr
      rcases List.mem_append.mp hr with h | h
      · exact hb r h
      · rw [List.mem_singleton.mp h]; exact hq
    have hstep : partsFrom a vis go [] n (p :: ps) g = partsFrom a vis go [] (n + 1) ps (partStep a vis go [] n p g) := rfl
    rw [hstep]
    by_cases hi : 1 + a.isle = 257
    · rw [if_pos hi] at hgat
      rw [partStep_done (vis := vis) hgop hdone hgat (tryPart_store hk hpl hx)]
      have hst := stored_performHome a (p.storeCode a.isle) vis p.storeCells g.s
      obtain ⟨hq, hpads, hres⟩ := ih (n + 1) { g with s := _, parts := g.parts ++ [p.finish 0 .ok] } hgos
        (fun q hq => (hds q hq).imp fun y hy => dramPart_spared hy hst.spared) (plain_spared hpl hst.spared) (hgrow (p.finish 0 .ok) ⟨rfl, rfl⟩)
      refine ⟨hq, hpads, .inr ?_⟩
      obtain ⟨hn, _⟩ | ⟨_, hcells, hstored⟩ := hres
      · exact absurd hi hn
      · exact ⟨hi, hcells, by rw [List.flatMap_cons]; exact hst.trans hstored⟩
    · rw [if_neg hi] at hgat
      rw [partStep_gathered (vis := vis) hgop hdone hgat]
      obtain ⟨hq, hpads, hres⟩ := ih (n + 1) { g with parts := g.parts ++ [{ p with done := true }], cells := g.cells ++ p.storeCells } hgos hds
        hpl (hgrow { p with done := true } ⟨rfl, hx.2.1⟩)
      refine ⟨hq, hpads, .inl ?_⟩
      obtain ⟨_, hs, hcells⟩ | ⟨hn, _⟩ := hres
      · exact ⟨hi, hs, by rw [hcells, List.flatMap_cons, List.append_assoc]⟩
      · exact absurd hn hi

end

/-! ## Running the parts of an access -/

/-- Unlatching changes the holder's latch alone (R336). -/
theorem unlatchPart_keeps (a : Access) (p : Part) (i : Inst) :
    (unlatchPart a p i).uid = i.uid ∧ (unlatchPart a p i).reqs = i.reqs ∧ (unlatchPart a p i).life = i.life ∧
      (unlatchPart a p i).launch = i.launch := by
  have hun : ∀ sp lo hi, (i.unlatch sp lo hi).uid = i.uid ∧ (i.unlatch sp lo hi).reqs = i.reqs ∧ (i.unlatch sp lo hi).life = i.life ∧
      (i.unlatch sp lo hi).launch = i.launch := by
    intro sp lo hi
    unfold Inst.unlatch
    split
    · exact ⟨rfl, rfl, rfl, rfl⟩
    · split <;> exact ⟨rfl, rfl, rfl, rfl⟩
  unfold unlatchPart
  split
  · exact hun ..
  · split
    · exact hun ..
    · exact ⟨rfl, rfl, rfl, rfl⟩
  · exact ⟨rfl, rfl, rfl, rfl⟩

theorem foldl_unlatch_keeps (a : Access) (zs : List (Part × Part)) (c : Part × Part → Bool) (i : Inst) :
    let j := zs.foldl (fun i p => if c p then unlatchPart a p.2 i else i) i
    j.uid = i.uid ∧ j.reqs = i.reqs ∧ j.life = i.life ∧ j.launch = i.launch := by
  induction zs generalizing i with
  | nil => exact ⟨rfl, rfl, rfl, rfl⟩
  | cons z zs ih =>
    obtain ⟨hu, hr, hl, hla⟩ := ih (if c z then unlatchPart a z.2 i else i)
    obtain ⟨ku, kr, kl, kla⟩ := unlatchPart_keeps a z.2 i
    rw [List.foldl_cons]
    by_cases hc : c z = true
    · simp only [hc, if_true] at hu hr hl hla ⊢
      exact ⟨hu.trans ku, hr.trans kr, hl.trans kl, hla.trans kla⟩
    · simp only [hc, Bool.false_eq_true, if_false] at hu hr hl hla ⊢
      exact ⟨hu, hr, hl, hla⟩

/-- What unlatching leaves of the state. -/
structure HolderOnly (a : Access) (s t : State) : Prop where
  rest : t = { s with slots := t.slots, saved := t.saved }
  held : ∀ i, Held a.uid i s → Held a.uid i t

theorem HolderOnly.refl (a : Access) (s : State) : HolderOnly a s s := ⟨rfl, fun _ h => h⟩

theorem HolderOnly.same {a : Access} {s t : State} (h : HolderOnly a s t) : SameBytes s t := ⟨by rw [h.rest], by rw [h.rest]⟩

theorem HolderOnly.access {a : Access} {s t : State} (h : HolderOnly a s t) (id : Nat) : t.access id = s.access id := by
  unfold State.access; rw [h.rest]

theorem holderOnly_updUid (a : Access) (s : State) (f : Inst → Inst)
    (hf : ∀ j, (f j).uid = j.uid ∧ (f j).reqs = j.reqs ∧ (f j).life = j.life ∧ (f j).launch = j.launch) :
    HolderOnly a s (s.updUid a.uid f) := ⟨rfl, fun _ h => h.updUid f hf⟩

theorem holderOnly_unlatch (a : Access) (ps : List Part) (s : State) : HolderOnly a s (unlatchParts a ps s) := by
  unfold unlatchParts
  split
  case h_5 => exact .refl a s
  all_goals exact holderOnly_updUid a s _ (foldl_unlatch_keeps a _ _)

theorem holderOnly_observe (a : Access) (ids : List Nat) (s : State) : HolderOnly a s (observe a ids s) := by
  unfold observe
  split
  · exact .refl a s
  · split
    · exact holderOnly_updUid a s _ (fun j => ⟨rfl, rfl, rfl, rfl⟩)
    · exact holderOnly_updUid a s _ (fun j => by cases a.ctx <;> exact ⟨rfl, rfl, rfl, rfl⟩)

end Sys2Proof.Machine

/-!
PROOFS. Stores: shown to a die, acknowledged by all, and folded.
-/
namespace Sys2Proof.Machine

open Sys2Proof.Safety

/-! ## The state after the parts of a store -/

/-- The parts of a store have been performed: its cells are versions, shown to the dies of vis and to their home dies. -/
structure StoreRun (s : State) (a : Access) (vis : BitVec 8) (css : List (List (Nat × Byte))) (t : State) : Prop where
  access : ∃ ps, t.access a.id = some { a with parts := ps } ∧ ∀ p ∈ ps, p.Stood
  mem : t.mem = s.mem
  versions : t.versions = s.versions ++ css.map (fun cs => ⟨a.id, vis ||| homeDies cs, cs⟩)
  covered : ∀ cs ∈ css, ∀ c ∈ cs, ∃ p ∈ a.parts, c ∈ p.storeCells
  whole : ∀ p x, a.parts = [p] → p.tgt = .dram x → 0 < p.len → css = [cellsOf x p.len p.x]

theorem nonEmpty_cellsOf {x n v : Nat} (h : 0 < n) : nonEmpty (cellsOf x n v) = [cellsOf x n v] := if_neg (cellsOf_ne_nil h)

theorem mem_nonEmpty {cs cells : List (Nat × Byte)} (h : cs ∈ nonEmpty cells) : cs = cells := by
  unfold nonEmpty at h
  split at h
  · cases h
  · exact List.mem_singleton.mp h

section

variable {s : State} {a : Access}

/-- Running the parts of a store at DRAM (R132). -/
theorem runParts_store (hf : s.access a.id = some a) (hpl : PlainAccess s a) (hmay : mayPerform s a = true) (hk : a.kind = .store)
    (hd : ∀ p ∈ a.parts, ∃ x, DramPart s p x) (vis : BitVec 8) :
    ∃ css, StoreRun s a vis css (runParts a vis none [] s) := by
  let g := partsFrom a vis (tries a none s) [] 0 a.parts ⟨s, [], [], []⟩
  obtain ⟨hstood, hpads, hres⟩ : (∀ q ∈ g.parts, q.Stood) ∧ g.pads = [] ∧
      ((1 + a.isle ≠ 257 ∧ g.s = s ∧ g.cells = [] ++ a.parts.flatMap Part.storeCells) ∨
        (1 + a.isle = 257 ∧ g.cells = [] ∧ Stored a vis (a.parts.flatMap (fun p => nonEmpty p.storeCells)) s g.s)) :=
    partsFrom_store hk (tries a none s) a.parts 0 ⟨s, [], [], []⟩
      (fun n p hp => tries_of_mayPerform hmay hp (by obtain ⟨x, hx⟩ := hd p hp; exact hx.1)) hd hpl (by simp)
  -- the accesses, the memory and the versions once the parts are written back and the latch is cleared
  let u := unlatchParts a g.parts (g.s.updAccess a.id (fun a => { a with parts := g.parts }))
  have hu : HolderOnly a (g.s.updAccess a.id (fun a => { a with parts := g.parts })) u := holderOnly_unlatch a g.parts _
  have hacc (h : g.s.access a.id = some a) : u.access a.id = some { a with parts := g.parts } := by
    rw [hu.access, access_updAccess (s := g.s) (fun a => { a with parts := g.parts }) (fun _ => rfl), h]
    rfl
  have hbytes : SameBytes g.s u := SameBytes.trans (t := g.s.updAccess a.id (fun a => { a with parts := g.parts })) ⟨rfl, rfl⟩ hu.same
  have hst := stored_performHome a (1 + a.isle) vis (mergeCells g.cells) u
  have hrun : runParts a vis none [] s = performHome a.id (some a.launch) (1 + a.isle) vis (mergeCells g.cells) u := by
    show writePads g.pads (performHome a.id (some a.launch) (1 + a.isle) vis (mergeCells g.cells) u) = _
    rw [hpads]; rfl
  rw [hrun]
  obtain ⟨_, hs, hcells⟩ | ⟨_, hcells, hstored⟩ := hres
  · refine ⟨nonEmpty (mergeCells g.cells), ⟨g.parts, hst.spared.access _ _ (hacc (by rw [hs]; exact hf)) rfl, hstood⟩, ?_, ?_, ?_, ?_⟩
    · rw [hst.mem, hbytes.mem, hs]
    · rw [hst.versions, hbytes.versions, hs]
    · intro cs hcs c hc
      rw [mem_nonEmpty hcs] at hc
      have := mem_mergeCells hc
      rw [hcells, List.nil_append] at this
      exact List.mem_flatMap.mp this
    · intro p x hp htgt hlen
      have : g.cells = cellsOf x p.len p.x := by rw [hcells, hp]; simp [Part.storeCells, htgt]
      rw [this, mergeCells_cellsOf, nonEmpty_cellsOf hlen]
  · have hcells' : mergeCells g.cells = [] := by rw [hcells]; rfl
    rw [hcells'] at hst ⊢
    refine ⟨a.parts.flatMap (fun p => nonEmpty p.storeCells),
      ⟨g.parts, hst.spared.access _ _ (hacc (hstored.spared.access _ _ hf rfl)) rfl, hstood⟩, ?_, ?_, ?_, ?_⟩
    · rw [hst.mem, hbytes.mem, hstored.mem]
    · rw [hst.versions, hbytes.versions, hstored.versions]
      exact List.append_nil _
    · intro cs hcs c hc
      obtain ⟨p, hp, hin⟩ := List.mem_flatMap.mp hcs
      rw [mem_nonEmpty hin] at hc
      exact ⟨p, hp, hc⟩
    · intro p x hp htgt hlen
      rw [hp]
      simp [Part.storeCells, htgt, nonEmpty_cellsOf hlen]

end

/-! ## The acknowledgement of a store by all (R78) -/

/-- The failures of an access whose parts all stand are none. -/
theorem recordStore_stood {b : Access} (hk : b.kind = .store ∨ b.kind = .commit ∨ ∃ fn, b.kind = .red fn) (hp : ∀ p ∈ b.parts, p.Stood)
    (s : State) : recordStore b s = s := by
  have href : b.refusedPart = none := by
    unfold Access.refusedPart
    rw [List.findSome?_eq_none_iff]
    intro p hp'
    rw [(hp p hp').2]
  have hpoi : b.poisonedPart = none := by
    unfold Access.poisonedPart
    rw [List.find?_eq_none]
    intro p hp'
    rw [(hp p hp').2]
    decide
  unfold recordStore
  obtain hk | hk | ⟨fn, hk⟩ := hk <;> simp only [href, hpoi, hk]

theorem allDone_stood {b : Access} (hp : ∀ p ∈ b.parts, p.Stood) : b.allDone = true :=
  List.all_eq_true.mpr (fun p h => (hp p h).1)

/-- A store, commit write or RED whose parts stand and which every die sees is acknowledged: its versions are folded and it is gone. -/
theorem finishStore_stood {id : Nat} {s : State} {b : Access} (hf : s.access id = some b)
    (hk : b.kind = .store ∨ b.kind = .commit ∨ ∃ fn, b.kind = .red fn) (hp : ∀ p ∈ b.parts, p.Stood) :
    finishStore id s = sweep ((foldVersions id s).dropAccess id) := by
  unfold finishStore
  rw [hf]
  dsimp only
  rw [if_pos (allDone_stood hp), recordStore_stood hk hp]

/-- The last of `performStore`, for an access that is at its home. -/
def settleStore (id : Nat) (s : State) : State :=
  match s.access id with
  | none => s
  | some a =>
    if !a.atHome then s
    else
      let seen := (s.versions.filter (fun v => v.acc = id)).all (fun v => v.vis = BitVec.allOnes 8)
      let s := s.updAccess id (fun a => { a with
        vis := (s.versions.filter (fun v => v.acc = id)).foldl (fun m v => m &&& v.vis) (BitVec.allOnes 8) })
      if seen then finishStore id s else s

/-- An access at its home whose versions every die sees. -/
theorem settleStore_seen {id : Nat} {s : State} {b : Access} (hf : s.access id = some b) (hh : b.atHome = true)
    (hk : b.kind = .store ∨ b.kind = .commit ∨ ∃ fn, b.kind = .red fn) (hp : ∀ p ∈ b.parts, p.Stood)
    (hv : ∀ v ∈ s.versions, v.acc = id → v.vis = BitVec.allOnes 8) :
    ∃ u, settleStore id s = sweep ((foldVersions id u).dropAccess id) ∧ SameBytes s u := by
  let m := (s.versions.filter (fun v => v.acc = id)).foldl (fun m v => m &&& v.vis) (BitVec.allOnes 8)
  have hseen : (s.versions.filter (fun v => v.acc = id)).all (fun v => v.vis = BitVec.allOnes 8) = true := by
    refine List.all_eq_true.mpr (fun v hv' => ?_)
    obtain ⟨hmem, hacc⟩ := List.mem_filter.mp hv'
    exact decide_eq_true (hv v hmem (by simpa using hacc))
  have hu : (s.updAccess id (fun a => { a with vis := m })).access id = some { b with vis := m } := by
    rw [access_updAccess (s := s) (fun a => { a with vis := m }) (fun _ => rfl), hf]; rfl
  refine ⟨s.updAccess id (fun a => { a with vis := m }), ?_, ⟨rfl, rfl⟩⟩
  unfold settleStore
  rw [hf]
  simp only [hh, hseen, Bool.not_true, Bool.false_eq_true, if_false, if_true]
  exact finishStore_stood hu hk hp

/-- An access at its home with a version that some die does not see yet stays. -/
theorem settleStore_unseen {id : Nat} {s : State} {b : Access} (hf : s.access id = some b) (hh : b.atHome = true)
    (hv : ∃ v ∈ s.versions, v.acc = id ∧ v.vis ≠ BitVec.allOnes 8) :
    SameBytes s (settleStore id s) ∧ ∃ c, (settleStore id s).access id = some c ∧ c.atHome = true := by
  let m := (s.versions.filter (fun v => v.acc = id)).foldl (fun m v => m &&& v.vis) (BitVec.allOnes 8)
  have hseen : (s.versions.filter (fun v => v.acc = id)).all (fun v => v.vis = BitVec.allOnes 8) = false := by
    obtain ⟨v, hmem, hacc, hne⟩ := hv
    refine List.all_eq_false.mpr ⟨v, List.mem_filter.mpr ⟨hmem, by simpa using hacc⟩, by simpa using hne⟩
  have hx : settleStore id s = s.updAccess id (fun a => { a with vis := m }) := by
    unfold settleStore
    rw [hf]
    simp only [hh, hseen, Bool.not_true, Bool.false_eq_true, if_false]
    rfl
  rw [hx]
  exact ⟨⟨rfl, rfl⟩, { b with vis := m }, by rw [access_updAccess (s := s) (fun a => { a with vis := m }) (fun _ => rfl), hf]; rfl, hh⟩

/-- The access after its parts have run is at its home where all are done. -/
theorem performStore_runs {id : Nat} {s : State} {a : Access} (hf : s.access id = some a) (hh : a.atHome = false)
    (hpp : onPacketPlane s a = true) (die : Option Nat) :
    performStore id die [] s = settleStore id ((runParts a (visOf die) none [] s).updAccess id
      (fun a => if a.allDone then { a with atHome := true } else a)) := by
  unfold performStore
  rw [hf]
  simp only [hh, hpp, Bool.false_eq_true, if_false, if_true]
  rfl

/-! ## The dies of one line (R104, R132) -/

/-- The bytes of a line have one home die. -/
theorem homeDie_line {x k : Nat} (h : x % 64 + k < 64) : homeDie (x + k) = homeDie x := by
  unfold homeDie vaultOf wsIsle field wsBase
  have h31 : (x + k) / 2 ^ 31 = x / 2 ^ 31 := by omega
  have hb : x + k < 0x10000000000 ↔ x < 0x10000000000 := by omega
  simp only [hb]
  split
  · rw [h31]
  · have h30 : (x + k - 0x10000000000) / 2 ^ 30 = (x - 0x10000000000) / 2 ^ 30 := by omega
    have h25 : (x + k - 0x10000000000) / 2 ^ 25 = (x - 0x10000000000) / 2 ^ 25 := by omega
    rw [h30, h25]

theorem homeDie_lt (x : Nat) : homeDie x < 8 := by
  unfold homeDie vaultOf wsIsle field
  split <;> omega

/-- The home dies of the cells of one die. -/
theorem homeDies_one {cells : List (Nat × Byte)} {h : Nat} (hne : cells ≠ []) (hd : ∀ c ∈ cells, homeDie c.1 = h) :
    homeDies cells = BitVec.ofNat 8 (2 ^ h) := by
  have hfold : ∀ (cs : List (Nat × Byte)) (m : BitVec 8), (∀ c ∈ cs, homeDie c.1 = h) → cs ≠ [] →
      cs.foldl (fun m c => m ||| BitVec.ofNat 8 (2 ^ homeDie c.1)) m = m ||| BitVec.ofNat 8 (2 ^ h) := by
    intro cs
    induction cs with
    | nil => exact fun m _ hne => absurd rfl hne
    | cons c cs ih =>
      intro m hall _
      rw [List.foldl_cons, hall c List.mem_cons_self]
      by_cases hcs : cs = []
      · rw [hcs]; rfl
      · rw [ih _ (fun d hd => hall d (List.mem_cons_of_mem _ hd)) hcs, BitVec.or_assoc, BitVec.or_self]
  unfold homeDies
  rw [hfold cells 0 hd hne]
  exact BitVec.zero_or

/-- Two dies are not all of them. -/
theorem two_dies_ne_all {d h : Nat} (hd : d < 8) (hh : h < 8) : BitVec.ofNat 8 (2 ^ d) ||| BitVec.ofNat 8 (2 ^ h) ≠ BitVec.allOnes 8 := by
  have : ∀ d < 8, ∀ h < 8, BitVec.ofNat 8 (2 ^ d) ||| BitVec.ofNat 8 (2 ^ h) ≠ BitVec.allOnes 8 := by decide
  exact this d hd h hh

/-- The dies of two marks are those two. -/
theorem getLsbD_two_dies {d h e : Nat} (he : e < 8) :
    (BitVec.ofNat 8 (2 ^ d) ||| BitVec.ofNat 8 (2 ^ h)).getLsbD e = (decide (d = e) || decide (h = e)) := by
  rw [BitVec.getLsbD_or, BitVec.getLsbD_ofNat, BitVec.getLsbD_ofNat, Nat.testBit_two_pow, Nat.testBit_two_pow]
  simp [he]

end Sys2Proof.Machine

namespace Sys2Proof.Proofs

open Sys2Proof.Machine Sys2Proof.Safety

theorem due_plain {s : State} {a : Access} (h : Due s a) : PlainAccess s a := h.launch

section

variable {s : State} {a : Access}

/-- A cell of a store part lies at the part's bytes. -/
theorem storeCells_at {p : Part} {c : Nat × Byte} (h : c ∈ p.storeCells) : ∃ x, p.tgt = .dram x ∧ x ≤ c.1 ∧ c.1 < x + p.len := by
  unfold Part.storeCells at h
  split at h
  case h_1 x htgt => exact ⟨x, htgt, mem_cellsOf h⟩
  case h_2 => cases h

/-- The state of a store whose parts have run, at its home. -/
theorem storeRun_atHome {css : List (List (Nat × Byte))} {vis : BitVec 8} {r : State} (h : StoreRun s a vis css r) (hk : a.kind = .store) :
    ∃ b, (r.updAccess a.id (fun a => if a.allDone then { a with atHome := true } else a)).access a.id = some b ∧ b.atHome = true ∧
      b.kind = .store ∧ ∀ p ∈ b.parts, p.Stood := by
  obtain ⟨ps, hacc, hps⟩ := h.access
  refine ⟨{ { a with parts := ps } with atHome := true }, ?_, rfl, hk, hps⟩
  rw [access_updAccess _ (fun b => by split <;> rfl), hacc]
  have : Access.allDone { a with parts := ps } = true := allDone_stood hps
  simp [this]

/-- A store acknowledged by all dies (R78, R132). -/
theorem store_acknowledged (hdue : Due s a) (hk : a.kind = .store) (hh : a.atHome = false) (hpp : onPacketPlane s a = true)
    (hnew : ∀ v ∈ s.versions, v.acc ≠ a.id) (hm : MemWf s.mem) (hd : ∀ p ∈ a.parts, ∃ x, DramPart s p x) :
    Swept (.writeAcknowledge a.id none []) s (fun t => t.access a.id = none ∧
      (∀ d y, (∀ p ∈ a.parts, ∀ x, p.tgt = .dram x → (y < x ∨ x + p.len ≤ y)) → dieByte t d y = dieByte s d y) ∧
      (∀ p x, a.parts = [p] → p.tgt = .dram x → ∀ d n, n < p.len → dieByte t d (x + n) = BitVec.ofNat 8 (p.x / 2 ^ (8 * n)))) := by
  obtain ⟨css, hrun⟩ := runParts_store hdue.found (due_plain hdue) hdue.first hk hd (visOf none)
  obtain ⟨b, hb, hbh, hbk, hbp⟩ := storeRun_atHome hrun hk
  let news : List Version := css.map (fun cs => ⟨a.id, visOf none ||| homeDies cs, cs⟩)
  have hnews : ∀ v ∈ news, v.acc = a.id ∧ v.vis = BitVec.allOnes 8 := by
    intro v hv
    obtain ⟨cs, _, rfl⟩ := List.mem_map.mp hv
    exact ⟨rfl, BitVec.allOnes_or⟩
  have hseen : ∀ v ∈ s.versions ++ news, v.acc = a.id → v.vis = BitVec.allOnes 8 := by
    intro v hv hacc
    rcases List.mem_append.mp hv with h | h
    · exact absurd hacc (hnew v h)
    · exact (hnews v h).2
  obtain ⟨u, hu, hsame⟩ := settleStore_seen hb hbh (.inl hbk) hbp (fun v hv => hseen v (hrun.versions ▸ hv))
  have hmem : u.mem = s.mem := hsame.mem.trans hrun.mem
  have hver : u.versions = s.versions ++ news := hsame.versions.trans hrun.versions
  refine ⟨(foldVersions a.id u).dropAccess a.id, ?_, access_dropAccess, fun d y hy => ?_, fun p x hp htgt d n hn => ?_⟩
  · have hx : exec (.writeAcknowledge a.id none []) s = .next (performStore a.id none [] s) := by
      rw [exec_writeAcknowledge]
      simp only [execWriteAcknowledge, hdue.found, hk]
      rfl
    rw [hx, performStore_runs hdue.found hh hpp, hu]
  · have hout : ∀ v ∈ news, ∀ c ∈ v.cells, c.1 ≠ y := by
      intro v hv c hc
      obtain ⟨cs, hcs, rfl⟩ := List.mem_map.mp hv
      obtain ⟨p, hp, hin⟩ := hrun.covered cs hcs c hc
      obtain ⟨x, htgt, hlo, hhi⟩ := storeCells_at hin
      have := hy p hp x htgt
      omega
    show dieByte (foldVersions a.id u) d y = _
    rw [foldVersions_eq hver hnew (fun v hv => (hnews v hv).1),
      dieByte_foldl_foldVersion news u s.versions hver hnew (fun v hv => (hnews v hv).1) d y hout, dieByte_more hmem hver hout]
  · have hcss := hrun.whole p x hp htgt (by omega)
    have hnews1 : news = [⟨a.id, visOf none ||| homeDies (cellsOf x p.len p.x), cellsOf x p.len p.x⟩] := by
      show css.map _ = _
      rw [hcss]; rfl
    rw [hnews1] at hver
    show dieByte (foldVersions a.id u) d (x + n) = _
    rw [dieByte_foldVersions_one hver hnew rfl (nodup_cellsOf ..) (by rw [hmem]; exact hm) d (x + n) _
      (find_cellsOf_in x p.len p.x (x + n) (Nat.le_add_right x n) (by omega)), Nat.add_sub_cancel_left]
    rfl

/-- A store shown to one die and its home die (R132). -/
theorem store_shown {p : Part} {x d : Nat} (hdue : Due s a) (hline : x % 64 + p.len ≤ 64) (hk : a.kind = .store) (hh : a.atHome = false)
    (hpp : onPacketPlane s a = true) (hp : a.parts = [p]) (hd : DramPart s p x) (hlen : 0 < p.len) (hd8 : d < 8) :
    After (.writeAcknowledge a.id (some d) []) s (fun t => (∃ b, t.access a.id = some b ∧ b.atHome = true) ∧
      (∀ n, n < p.len → dieByte t d (x + n) = BitVec.ofNat 8 (p.x / 2 ^ (8 * n))) ∧
      (∀ n, n < p.len → homeByte t (x + n) = BitVec.ofNat 8 (p.x / 2 ^ (8 * n))) ∧
      (∀ e y, e < 8 → e ≠ d → (∀ n, n < p.len → homeDie (x + n) ≠ e) → dieByte t e y = dieByte s e y) ∧ KeepsOutside s t x p.len) := by
  obtain ⟨css, hrun⟩ := runParts_store hdue.found (due_plain hdue) hdue.first hk
    (fun q hq => ⟨x, by rw [hp] at hq; rw [List.mem_singleton.mp hq]; exact hd⟩) (visOf (some d))
  obtain ⟨b, hb, hbh, _, _⟩ := storeRun_atHome hrun hk
  have hcss := hrun.whole p x hp hd.2.2.2.1 hlen
  let v : Version := ⟨a.id, visOf (some d) ||| homeDies (cellsOf x p.len p.x), cellsOf x p.len p.x⟩
  have hver := hrun.versions
  rw [hcss] at hver
  have hdies : v.vis = BitVec.ofNat 8 (2 ^ d) ||| BitVec.ofNat 8 (2 ^ homeDie x) := by
    show visOf (some d) ||| homeDies (cellsOf x p.len p.x) = _
    rw [homeDies_one (cellsOf_ne_nil hlen) (fun c hc => ?_)]
    · rfl
    · obtain ⟨hlo, hhi⟩ := mem_cellsOf hc
      rw [show c.1 = x + (c.1 - x) by omega]
      exact homeDie_line (by omega)
  obtain ⟨hsame, c, hc, hch⟩ := settleStore_unseen hb hbh ⟨v, by
    show v ∈ (runParts a (visOf (some d)) none [] s).versions
    rw [hver]; exact List.mem_append_right _ (List.mem_singleton.mpr rfl), rfl, by rw [hdies]; exact two_dies_ne_all hd8 (homeDie_lt x)⟩
  let t := settleStore a.id ((runParts a (visOf (some d)) none [] s).updAccess a.id (fun a => if a.allDone then { a with atHome := true } else a))
  have hmem : t.mem = s.mem := hsame.mem.trans hrun.mem
  have htver : t.versions = s.versions ++ [v] := hsame.versions.trans hver
  have hin : ∀ n, n < p.len → Assoc.find v.cells (x + n) = some (BitVec.ofNat 8 (p.x / 2 ^ (8 * n))) := by
    intro n hn
    rw [find_cellsOf_in x p.len p.x (x + n) (Nat.le_add_right x n) (by omega), Nat.add_sub_cancel_left]
    rfl
  have hout : ∀ y, (y < x ∨ x + p.len ≤ y) → ∀ w ∈ [v], ∀ c ∈ w.cells, c.1 ≠ y := by
    intro y hy w hw c hc
    rw [List.mem_singleton.mp hw] at hc
    have := mem_cellsOf hc
    omega
  refine ⟨t, ?_, ⟨c, hc, hch⟩, fun n hn => ?_, fun n hn => ?_, fun e y he hne hhome => ?_, fun y hy => ⟨?_, fun e => ?_⟩⟩
  · have hx : exec (.writeAcknowledge a.id (some d) []) s = .next (performStore a.id (some d) [] s) := by
      rw [exec_writeAcknowledge]
      simp only [execWriteAcknowledge, hdue.found, hk]
      rfl
    rw [hx, performStore_runs hdue.found hh hpp]
  · unfold dieByte
    rw [htver, versionByte_append, versionByte_one, hdies, getLsbD_two_dies hd8, hin n hn]
    simp
  · unfold homeByte
    rw [htver, newestByte_append, newestByte_one, hin n hn]
    rfl
  · have hbit : v.vis.getLsbD e = false := by
      rw [hdies, getLsbD_two_dies he]
      have := hhome 0 hlen
      simp only [Nat.add_zero] at this
      simp [hne.symm, this]
    unfold dieByte memByte
    rw [hmem, htver, versionByte_append, versionByte_one, hbit]
    rfl
  · exact homeByte_more hmem htver (hout y hy)
  · exact dieByte_more hmem htver (hout y hy) e

/-- A store at its home is acknowledged by all: its version becomes memory (R78). -/
theorem store_folded {v : Version} (hf : s.access a.id = some a) (hk : a.kind = .store) (hh : a.atHome = true)
    (hp : ∀ p ∈ a.parts, p.done = true ∧ p.st = .ok) (hv : s.versions = [v]) (hacc : v.acc = a.id) (hn : (v.cells.map Prod.fst).Nodup)
    (hm : MemWf s.mem) :
    Swept (.writeAcknowledge a.id none []) s (fun t => t.access a.id = none ∧ ∀ d y, dieByte t d y = homeByte s y) := by
  let r := (upto 8).foldl (fun s d => showVersion a.id d s) s
  have hall : ∀ b : BitVec 8, (upto 8).foldl (fun m d => m ||| BitVec.ofNat 8 (2 ^ d)) b = BitVec.allOnes 8 := by decide
  have hr : ∀ (ds : List Nat) (t : State) (w : Version), t.versions = [w] → w.acc = a.id →
      let q := ds.foldl (fun s d => showVersion a.id d s) t
      q.mem = t.mem ∧ q.acc = t.acc ∧ q.versions = [{ w with vis := ds.foldl (fun m d => m ||| BitVec.ofNat 8 (2 ^ d)) w.vis }] := by
    intro ds
    induction ds with
    | nil => exact fun t w hw _ => ⟨rfl, rfl, hw⟩
    | cons d ds ih =>
      intro t w hw ha
      exact ih (showVersion a.id d t) { w with vis := w.vis ||| BitVec.ofNat 8 (2 ^ d) } (by simp [showVersion, hw, ha]) ha
  obtain ⟨hmem, hracc, hver⟩ := hr (upto 8) s v hv hacc
  rw [hall] at hver
  have hfr : r.access a.id = some a := by
    show r.acc.find? _ = _
    rw [hracc]; exact hf
  obtain ⟨u, hu, hsame⟩ := settleStore_seen hfr hh (.inl hk) hp (fun w hw _ => by rw [hver] at hw; rw [List.mem_singleton.mp hw])
  have hmemu : u.mem = s.mem := hsame.mem.trans hmem
  have hveru : u.versions = [] ++ [{ v with vis := BitVec.allOnes 8 }] := hsame.versions.trans hver
  refine ⟨(foldVersions a.id u).dropAccess a.id, ?_, access_dropAccess, fun d y => ?_⟩
  · have hx : exec (.writeAcknowledge a.id none []) s = .next (performStore a.id none [] s) := by
      rw [exec_writeAcknowledge]
      simp only [execWriteAcknowledge, hf, hk]
      rfl
    have hps : performStore a.id none [] s = settleStore a.id r := by
      unfold performStore
      rw [hf]
      simp only [hh, if_true]
      rfl
    rw [hx, hps, hu]
  · show dieByte (foldVersions a.id u) d y = _
    have hhome : homeByte s y = (Assoc.find v.cells y).getD (memByte s y) := by unfold homeByte; rw [hv, newestByte_one]
    rw [hhome]
    cases hfind : Assoc.find v.cells y with
    | some b =>
      exact dieByte_foldVersions_one hveru (by simp) hacc hn (by rw [hmemu]; exact hm) d y b hfind
    | none =>
      have hout : ∀ w ∈ [{ v with vis := BitVec.allOnes 8 }], ∀ c ∈ w.cells, c.1 ≠ y := by
        intro w hw c hc
        rw [List.mem_singleton.mp hw] at hc
        exact (Assoc.find_eq_none _ _).mp hfind c hc
      rw [foldVersions_eq hveru (by simp) (by simpa using hacc),
        dieByte_foldl_foldVersion _ u [] hveru (by simp) (by simpa using hacc) d y hout]
      unfold dieByte memByte
      rw [hmemu, hveru, List.nil_append, versionByte_none hout]

end

end Sys2Proof.Proofs

/-!
PROOFS. Loads and atomics performed at DRAM (O49).
-/
namespace Sys2Proof.Machine

open Sys2Proof.Safety

/-! ## Results of an atomic (R295) -/

theorem sign_le (f : Fmt) (neg : Bool) : f.sign neg ≤ 2 ^ (f.eb + f.mb) := by
  cases neg <;> simp [Fmt.sign, b2n]

theorem inf_add (f : Fmt) : f.inf + 2 ^ f.mb = 2 ^ (f.eb + f.mb) := by
  unfold Fmt.inf
  have := Nat.one_le_two_pow (n := f.eb)
  rw [Nat.sub_mul, one_mul, Nat.pow_add]
  have : 2 ^ f.mb ≤ 2 ^ f.eb * 2 ^ f.mb := Nat.le_mul_of_pos_left _ (by omega)
  omega

/-- Sign and magnitude up to infinity fit the format. -/
theorem sign_add_lt (f : Fmt) (neg : Bool) {b : Nat} (h : b ≤ f.inf) : f.sign neg + b < 2 ^ (1 + f.eb + f.mb) := by
  have h1 := sign_le f neg
  have h2 := inf_add f
  have h3 : 0 < 2 ^ f.mb := Nat.two_pow_pos _
  have h4 : 2 ^ (1 + f.eb + f.mb) = 2 * 2 ^ (f.eb + f.mb) := by rw [Nat.add_assoc, Nat.pow_add, Nat.pow_one]
  omega

theorem overflowBits_lt (f : Fmt) (r : Rnd) (neg : Bool) : overflowBits f r neg < 2 ^ (1 + f.eb + f.mb) := by
  have h : ∀ c : Bool, (if c then f.inf else f.inf - 1) ≤ f.inf := by intro c; split <;> omega
  exact sign_add_lt f neg (h _)

/-- Overflow or the magnitude itself. -/
theorem pickBits_lt (f : Fmt) (r : Rnd) (neg : Bool) (bits : Nat) (fl fl' : BitVec 5) :
    (if f.inf ≤ bits then (overflowBits f r neg, fl) else (f.sign neg + bits, fl')).1 < 2 ^ (1 + f.eb + f.mb) := by
  split
  · exact overflowBits_lt f r neg
  case isFalse h => exact sign_add_lt f neg (by omega)

theorem roundFp_lt (f : Fmt) (r : Rnd) (neg : Bool) (m : Nat) (e : Int) : (roundFp f r neg m e).1 < 2 ^ (1 + f.eb + f.mb) := by
  by_cases hm : m = 0
  · rw [roundFp, if_pos hm]
    exact sign_add_lt f neg (Nat.zero_le _)
  · rw [roundFp, if_neg hm]
    dsimp only
    by_cases htop : (f.bias : Int) < ((clampLow (f.emin - f.mb) m e).1.log2 : Int) + (clampLow (f.emin - f.mb) m e).2
    · rw [if_pos htop]
      exact overflowBits_lt f r neg
    · rw [if_neg htop]
      exact pickBits_lt f r neg _ _ _

/-- A rounded value fits its format. -/
theorem roundVal_lt (f : Fmt) (r : Rnd) (v : FVal) : (roundVal f r v).1 < 2 ^ (1 + f.eb + f.mb) := by
  cases v with
  | nan sig =>
    show f.nan < _
    have h := inf_add f
    have hp : 2 ^ (f.mb - 1) ≤ 2 ^ f.mb := Nat.pow_le_pow_right (by omega) (by omega)
    have h2 : 2 ^ (1 + f.eb + f.mb) = 2 * 2 ^ (f.eb + f.mb) := by rw [Nat.add_assoc, Nat.pow_add, Nat.pow_one]
    have h3 : 0 < 2 ^ (f.eb + f.mb) := Nat.two_pow_pos _
    unfold Fmt.nan
    omega
  | inf neg => exact sign_add_lt f neg (Nat.le_refl _)
  | fin neg m e => exact roundFp_lt f r neg m e

/-- The machine's operation on 4 or 8 bytes is that of R295. -/
theorem amoOp_eq (fn : AmoFn) (old x n : Nat) (hn : n = 4 ∨ n = 8) : amoOp fn old x n = atomicResult fn n old x := by
  have h8 : 8 * n ≠ 0 := by omega
  have h2 : n ≠ 2 := by omega
  cases fn with
  | add => simp [amoOp, atomicResult, h2]
  | min => simp only [amoOp, atomicResult, sextInt_eq h8]
  | max => simp only [amoOp, atomicResult, sextInt_eq h8]
  | addf => simp [amoOp, atomicResult, h2]
  | _ => rfl

/-- It fits the bytes. -/
theorem atomicResult_lt (fn : AmoFn) (old x n : Nat) (hn : n = 4 ∨ n = 8) (ho : old < 2 ^ (8 * n)) :
    atomicResult fn n old x < 2 ^ (8 * n) := by
  have hm : x % 2 ^ (8 * n) < 2 ^ (8 * n) := Nat.mod_lt _ (Nat.two_pow_pos _)
  cases fn with
  | add => exact Nat.mod_lt _ (Nat.two_pow_pos _)
  | min => unfold atomicResult; dsimp only; split <;> assumption
  | max => unfold atomicResult; dsimp only; split <;> assumption
  | and => exact Nat.and_lt_two_pow _ hm
  | or => exact Nat.or_lt_two_pow ho hm
  | xor => exact Nat.xor_lt_two_pow ho hm
  | swap => exact hm
  | addf =>
    have h : (roundVal fF32 .rne (addExact (zeroNeg .rne) (decodeF fF32 old) (decodeF fF32 x))).1 < 2 ^ 32 := roundVal_lt fF32 .rne _
    exact Nat.lt_of_lt_of_le h (Nat.pow_le_pow_right (by omega) (by omega))

theorem leNat_lt (bs : List Byte) : leNat bs < 2 ^ (8 * bs.length) := by
  induction bs with
  | nil => exact Nat.one_pos
  | cons b bs ih =>
    have hb := b.isLt
    rw [leNat, List.length_cons, show 8 * (bs.length + 1) = 8 + 8 * bs.length by ring, Nat.pow_add]
    have : (2 : Nat) ^ 8 = 256 := rfl
    omega

theorem homeNat_lt (s : State) (x n : Nat) : homeNat s x n < 2 ^ (8 * n) := by
  have := leNat_lt (homeBytes s x n)
  simpa [homeNat, homeBytes, upto] using this

/-! ## An access of one part -/

section

variable {s t : State} {a : Access} {p : Part} {x : Nat} {v : Nat} {st : Status}

/-- The one part of an access runs by itself; its latch may be cleared, and nothing is gathered. -/
theorem runParts_one (hmay : mayPerform s a = true) (hp : a.parts = [p]) (hd : p.done = false) (hg : gathers s a p = none)
    {vis : BitVec 8} (ht : tryPart a p vis none s = .done v st t) : runParts a vis none [] s =
      unlatchParts a [p.finish v st] (t.updAccess a.id (fun a => { a with parts := [p.finish v st] })) := by
  have hgo : tries a none s 0 p = true := tries_of_mayPerform hmay (by rw [hp]; exact List.mem_singleton.mpr rfl) hd
  have hstep := partStep_done (vis := vis) (g := ⟨s, [], [], []⟩) hgo (by simp) hg ht
  unfold runParts
  rw [hp]
  simp only [partsFrom, hstep]
  rfl

/-- The access and the holder after its one part. -/
theorem runParts_one_access (ha : t.access a.id = some a) :
    (unlatchParts a [p.finish v st] (t.updAccess a.id (fun a => { a with parts := [p.finish v st] }))).access a.id =
      some { a with parts := [p.finish v st] } := by
  rw [(holderOnly_unlatch a _ _).access, access_updAccess (s := t) (fun a => { a with parts := [p.finish v st] }) (fun _ => rfl), ha]
  rfl

theorem runParts_one_same :
    SameBytes t (unlatchParts a [p.finish v st] (t.updAccess a.id (fun a => { a with parts := [p.finish v st] }))) :=
  SameBytes.trans (t := t.updAccess a.id (fun a => { a with parts := [p.finish v st] })) ⟨rfl, rfl⟩ (holderOnly_unlatch a _ _).same

theorem runParts_one_held (i : Inst) (h : Held a.uid i t) :
    Held a.uid i (unlatchParts a [p.finish v st] (t.updAccess a.id (fun a => { a with parts := [p.finish v st] }))) :=
  (holderOnly_unlatch a _ _).held i (h.congr rfl rfl)

/-- A load reads the bytes that its die sees, and observes the stores among them (R130, R290). -/
theorem tryPart_load (hk : a.kind = .load) (h : PlainAccess s a) (hp : DramPart s p x) (hpois : memPoison s x p.len = false)
    (vis : BitVec 8) : tryPart a p vis none s = .done (leNat (dieBytes s (a.isle / 32) x p.len)) .ok
      (observe a (seenVersions s (a.isle / 32) x p.len) s) := by
  have hbytes : launchBytes s a.launch (a.isle / 32) x p.len = dieBytes s (a.isle / 32) x p.len := by
    obtain ⟨l, hl, hs, _⟩ := h
    simp [launchBytes, dieBytes, hl, hs]
  simp only [tryPart, placeOf_dram h.committed hp, cellPart, plain_launchClaiming h, hk, cellRead, plain_launchSpec h, hpois, dieOfIsle, hbytes,
    Bool.false_and, Bool.false_eq_true, if_false]
  rfl

/-- An atomic: AMO, CAS or RED. -/
def AccKind.Atomic (k : AccKind) : Prop := (∃ fn, k = .amo fn) ∨ k = .cas ∨ ∃ fn, k = .red fn

/-- The state in which an atomic has written what it writes (R295, R297). -/
def atomicState (a : Access) (p : Part) (x : Nat) (s : State) : State :=
  let u := observe a (seenVersions s (a.isle / 32) x p.len) s
  match atomicNew a.kind (homeNat s x p.len) p with
  | none => u
  | some v => writeCells (some a.launch) (p.atomicCode a.isle) (cellsOf x p.len v) u

theorem tryPart_atomic (hk : AccKind.Atomic a.kind) (h : PlainAccess s a) (hp : DramPart s p x) (hpois : memPoison s x p.len = false)
    (vis : BitVec 8) : tryPart a p vis none s = .done (homeNat s x p.len) .ok (atomicState a p x s) := by
  have hcmd : a.kind.cmd = none := by obtain ⟨fn, hk⟩ | hk | ⟨fn, hk⟩ := hk <;> rw [hk] <;> rfl
  have hctx : a.kind.ofCtx = true := by obtain ⟨fn, hk⟩ | hk | ⟨fn, hk⟩ := hk <;> rw [hk] <;> rfl
  have hlost : lostFor s a (lineOf x) true = false := by simp [lostFor, Machine.cmdOf, hcmd]
  have hcell : cellPart a p vis x s = cellAtomic a p x s := by
    obtain ⟨fn, hk⟩ | hk | ⟨fn, hk⟩ := hk <;>
      simp only [cellPart, plain_launchClaiming h, hk, Bool.false_and, Bool.false_eq_true, if_false]
  have hplace : tryPart a p vis none s = cellPart a p vis x s := by simp only [tryPart, placeOf_dram h.committed hp]
  rw [hplace, hcell]
  unfold cellAtomic atomicState
  simp only [hlost, hpois, hctx, dieOfIsle, Bool.false_eq_true, if_false, if_true]
  cases atomicNew a.kind (homeNat s x p.len) p <;> rfl

theorem gathers_none (hk : a.kind = .load ∨ AccKind.Atomic a.kind) : gathers s a p = none := by
  unfold gathers
  obtain hk | ⟨fn, hk⟩ | hk | ⟨fn, hk⟩ := hk <;> rw [hk]

/-- What an atomic leaves of its access and of its holder. -/
theorem atomicState_access (ha : s.access a.id = some a) : (atomicState a p x s).access a.id = some a := by
  unfold atomicState
  dsimp only
  split
  · rw [(holderOnly_observe a _ s).access]; exact ha
  · exact (spared_writeCells a.launch _ _ _).access _ _ (by rw [(holderOnly_observe a _ s).access]; exact ha) rfl

theorem atomicState_held {i : Inst} (hi : i.launch = a.launch) (h : Held a.uid i s) : Held a.uid i (atomicState a p x s) := by
  unfold atomicState
  dsimp only
  split
  · exact (holderOnly_observe a _ s).held i h
  · exact (spared_writeCells a.launch _ _ _).held _ _ hi ((holderOnly_observe a _ s).held i h)

/-- A byte at its home after a write of cells with distinct addresses. -/
theorem homeByte_writeCells (w : Writer) (code : Nat) (cells : List (Nat × Byte)) (s : State) (hm : MemWf s.mem)
    (hn : (cells.map Prod.fst).Nodup) (y : Nat) :
    homeByte (writeCells w code cells s) y = (Assoc.find cells y).getD (homeByte s y) := by
  cases hf : Assoc.find cells y with
  | none => exact homeByte_writeCells_other w code cells s y ((Assoc.find_eq_none _ _).mp hf)
  | some b =>
    obtain ⟨pre, post, rfl, hpost⟩ := find_split cells y b hn hf
    exact (byte_writeCells_self w code pre post s y b hm hpost).1

/-- The number that an atomic leaves at its bytes, where it writes v there. -/
theorem atomicState_writes {v : Nat} (hm : MemWf s.mem) (hv : atomicNew a.kind (homeNat s x p.len) p = some v) :
    homeNat (atomicState a p x s) x p.len = v % 2 ^ (8 * p.len) := by
  have hob := (holderOnly_observe a (seenVersions s (a.isle / 32) x p.len) s).same
  refine homeNat_of_bytes _ x p.len v (fun k hk => ?_)
  unfold atomicState
  dsimp only
  rw [hv]
  dsimp only
  rw [homeByte_writeCells _ _ _ _ (by rw [hob.mem]; exact hm) (nodup_cellsOf ..),
    find_cellsOf_in x p.len v (x + k) (Nat.le_add_right x k) (by omega), Nat.add_sub_cancel_left]
  rfl

/-- Where it writes nothing the number stays. -/
theorem atomicState_keeps (hv : atomicNew a.kind (homeNat s x p.len) p = none) :
    homeNat (atomicState a p x s) x p.len = homeNat s x p.len := by
  unfold atomicState
  dsimp only
  rw [hv]
  exact (holderOnly_observe a _ s).same.homeNat x p.len

/-- Every other byte stays (R297). -/
theorem atomicState_outside : KeepsOutside s (atomicState a p x s) x p.len := by
  have hob := (holderOnly_observe a (seenVersions s (a.isle / 32) x p.len) s).same
  intro y hy
  unfold atomicState
  dsimp only
  split
  · exact ⟨hob.homeByte y, fun d => hob.dieByte d y⟩
  · have hout : ∀ v : Nat, ∀ c ∈ cellsOf x p.len v, c.1 ≠ y := by
      intro v c hc
      have := mem_cellsOf hc
      omega
    exact ⟨(homeByte_writeCells_other _ _ _ _ y (hout _)).trans (hob.homeByte y),
      fun d => (dieByte_writeCells_other _ _ _ _ d y (hout _)).trans (hob.dieByte d y)⟩

/-- A write at once leaves the stores that the versions are of. -/
theorem writeCells_versions {id : Nat} (w : Writer) (code : Nat) (cells : List (Nat × Byte)) (h : ∀ v ∈ s.versions, v.acc ≠ id) :
    ∀ v ∈ (writeCells w code cells s).versions, v.acc ≠ id := by
  by_cases hc : cells = []
  · unfold writeCells
    rw [if_pos hc]
    exact h
  · rw [(writeCells_mem w code cells s hc).2]
    intro v hv
    obtain ⟨u, hu, rfl⟩ := List.mem_map.mp hv
    exact h u hu

/-- The versions of an atomic's state are of the stores there were. -/
theorem atomicState_versions (h : ∀ w ∈ s.versions, w.acc ≠ a.id) : ∀ w ∈ (atomicState a p x s).versions, w.acc ≠ a.id := by
  have hob := (holderOnly_observe a (seenVersions s (a.isle / 32) x p.len) s).same
  rw [← hob.versions] at h
  unfold atomicState
  dsimp only
  split
  · exact h
  · exact writeCells_versions _ _ _ h

end

/-! ## Data that has come (R54) -/

theorem reqArrived_uid (id : Nat) (data : List (Nat × Nat)) (fails : List (Nat × Status)) (va : Word) (i : Inst) :
    (reqArrived id data fails va i).uid = i.uid := by
  unfold reqArrived
  split
  · rfl
  · dsimp only; split <;> rfl

/-- A read or returning atomic whose one part stands hands its value to the request. -/
theorem finishLoad_one {id : Nat} {s : State} {b : Access} {q : Part} (hf : s.access id = some b) (hp : b.parts = [q]) (hq : q.Stood)
    (hk : b.kind = .load ∨ b.kind = .cas ∨ ∃ fn, b.kind = .amo fn) :
    finishLoad id s = sweep ((s.dropAccess id).updUid b.uid (reqArrived id [(q.lane, q.res)] [] 0)) := by
  obtain ⟨hdone, hst⟩ := hq
  have hall : b.allDone = true := by simp [Access.allDone, hp, hdone]
  have href : b.refusedPart = none := by simp [Access.refusedPart, hp, hst]
  have hpoi : b.poisonedPart = none := by simp [Access.poisonedPart, hp, hst]
  unfold finishLoad
  rw [hf]
  obtain hk | hk | ⟨fn, hk⟩ := hk <;>
    simp only [hall, href, hpoi, hk, hp, hst, List.map_cons, List.map_nil, List.filter_cons, List.filter_nil, ne_eq, not_true_eq_false,
      decide_false, Bool.false_eq_true, if_false, Bool.not_true]

/-- The value stands in the request of a running holder. -/
theorem arrived_lands {u id : Nat} {i : Inst} {t : State} {r : Req} (hid : r.id = id) (h : Held u i t) (hlife : i.life = .running)
    (hr : i.reqs.find? (fun q => q.id = r.id) = some r) (data : List (Nat × Nat)) :
    ∃ j, (t.updUid u (reqArrived id data [] 0)).instOf u = some j ∧
      { r with arrived := true, data := data, fails := [], va := 0 } ∈ j.reqs := by
  subst hid
  obtain ⟨j, hj, hreqs, hl, _⟩ := h
  refine ⟨reqArrived _ data [] 0 j, by rw [instOf_updUid t u _ (fun i => reqArrived_uid ..), hj]; rfl, ?_⟩
  unfold reqArrived
  rw [hreqs, hr]
  simp only [hl, hlife, decide_true, Bool.true_or, Bool.not_true, Bool.false_eq_true, if_false]
  exact List.mem_map.mpr ⟨r, List.mem_of_find?_eq_some hr, if_pos rfl⟩

end Sys2Proof.Machine

namespace Sys2Proof.Proofs

open Sys2Proof.Machine Sys2Proof.Safety

section

variable {s : State} {a : Access} {p : Part} {x : Nat}

/-- A read or returning atomic of one part whose value is v: performed, gone, and its value stands in its request (R54). -/
theorem data_arrives {v : Nat} {t : State} (hdue : Due s a) (hk : a.kind = .load ∨ a.kind = .cas ∨ ∃ fn, a.kind = .amo fn)
    (hp : a.parts = [p]) (hd : p.done = false) (hg : gathers s a p = none) (ht : tryPart a p 0 none s = .done v .ok t)
    (hacc : t.access a.id = some a) : ∃ u, exec (.landingDataArrival a.isle a.id none []) s = .next (sweep u) ∧
      u.access a.id = none ∧ SameBytes t u ∧
      ∀ r i, r.id = a.id → Held a.uid i t → i.life = .running → i.reqs.find? (fun q => q.id = r.id) = some r →
        ∃ j, u.instOf a.uid = some j ∧ { r with arrived := true, data := [(p.lane, v)], fails := [], va := 0 } ∈ j.reqs := by
  let w := unlatchParts a [p.finish v .ok] (t.updAccess a.id (fun a => { a with parts := [p.finish v .ok] }))
  have hreturns : a.kind.returns = true := by obtain hk | hk | ⟨fn, hk⟩ := hk <;> rw [hk] <;> rfl
  have hw : w.access a.id = some { a with parts := [p.finish v .ok] } := runParts_one_access hacc
  have hfin := finishLoad_one hw (q := p.finish v .ok) rfl ⟨rfl, rfl⟩ hk
  refine ⟨(w.dropAccess a.id).updUid a.uid (reqArrived a.id [(p.lane, v)] [] 0), ?_, ?_, ?_, fun r i hr hh hlife hfind => ?_⟩
  · have hx : exec (.landingDataArrival a.isle a.id none []) s = .next (performLoad a.id none [] s) := by
      rw [exec_landingDataArrival]
      simp [execLandingDataArrival, hdue.found, hreturns]
    have hperf : performLoad a.id none [] s = finishLoad a.id (runParts a 0 none [] s) := by
      unfold performLoad; rw [hdue.found]
    rw [hx, hperf, runParts_one hdue.first hp hd hg ht, hfin]
    rfl
  · rw [access_updUid]; exact access_dropAccess
  · exact SameBytes.trans (t := w) runParts_one_same ⟨rfl, rfl⟩
  · have hheld : Held a.uid i (w.dropAccess a.id) := (runParts_one_held i hh).congr rfl rfl
    exact arrived_lands hr hheld hlife hfind [(p.lane, v)]

/-- A load gets the bytes that its die sees (R54, R132). -/
theorem load_performed {r : Req} (hdue : Due s a) (hk : a.kind = .load) (hp : a.parts = [p]) (hd : DramPart s p x)
    (hpois : memPoison s x p.len = false) (hr : r.id = a.id) :
    Swept (.landingDataArrival a.isle a.id none []) s (fun t => t.access a.id = none ∧ KeepsMemory s t ∧
      Lands s t a.uid r p.lane (leNat (dieBytes s (a.isle / 32) x p.len))) := by
  have hob := holderOnly_observe a (seenVersions s (a.isle / 32) x p.len) s
  obtain ⟨u, hx, hacc, hsame, hlands⟩ := data_arrives hdue (.inl hk) hp hd.1 (gathers_none (.inl hk))
    (tryPart_load hk (due_plain hdue) hd hpois 0) (by rw [hob.access]; exact hdue.found)
  have hbytes := hob.same.trans hsame
  exact ⟨u, hx, hacc, fun y => ⟨hbytes.homeByte y, fun d => hbytes.dieByte d y⟩,
    fun i hi hlife hfind => hlands r i hr (hob.held i (.refl hi)) hlife hfind⟩

/-- A returning atomic leaves new at its bytes and returns the old value (R294 to R297). -/
theorem atomic_returns {r : Req} {new : Nat} (hdue : Due s a) (hk : a.kind = .cas ∨ ∃ fn, a.kind = .amo fn)
    (hown : ∀ i, s.instOf a.uid = some i → i.launch = a.launch) (hp : a.parts = [p]) (hd : DramPart s p x)
    (hpois : memPoison s x p.len = false) (hnew : homeNat (atomicState a p x s) x p.len = new) (hr : r.id = a.id) :
    Swept (.landingDataArrival a.isle a.id none []) s (fun t => t.access a.id = none ∧ homeNat t x p.len = new ∧
      KeepsOutside s t x p.len ∧ Lands s t a.uid r p.lane (homeNat s x p.len)) := by
  have hat : AccKind.Atomic a.kind := by
    obtain hk | hk := hk
    · exact .inr (.inl hk)
    · exact .inl hk
  obtain ⟨u, hx, hacc, hsame, hlands⟩ := data_arrives hdue (.inr hk) hp hd.1 (gathers_none (.inr hat))
    (tryPart_atomic hat (due_plain hdue) hd hpois 0) (atomicState_access hdue.found)
  refine ⟨u, hx, hacc, (hsame.homeNat x p.len).trans hnew, fun y hy => ?_, fun i hi hlife hfind => ?_⟩
  · obtain ⟨hhome, hdie⟩ := atomicState_outside (s := s) (a := a) y hy
    exact ⟨(hsame.homeByte y).trans hhome, fun d => (hsame.dieByte d y).trans (hdie d)⟩
  · exact hlands r i hr (atomicState_held (hown i hi) (.refl hi)) hlife hfind

/-- A write of one part that is performed at once, leaving t, is acknowledged and gone. -/
theorem write_acknowledged {t : State} {v : Nat} (hf : s.access a.id = some a) (hmay : mayPerform s a = true)
    (hk : a.kind = .commit ∨ ∃ fn, a.kind = .red fn) (hh : a.atHome = false) (hpp : onPacketPlane s a = true) (hp : a.parts = [p])
    (hd : p.done = false) (hg : gathers s a p = none) (ht : tryPart a p (visOf none) none s = .done v .ok t)
    (hacc : t.access a.id = some a) (hver : ∀ w ∈ t.versions, w.acc ≠ a.id) :
    ∃ u, exec (.writeAcknowledge a.id none []) s = .next (sweep u) ∧ u.access a.id = none ∧ SameBytes t u := by
  have hrun := runParts_one hmay hp hd hg ht
  let q := p.finish v .ok
  let w := unlatchParts a [q] (t.updAccess a.id (fun a => { a with parts := [q] }))
  have hw : w.access a.id = some { a with parts := [q] } := runParts_one_access hacc
  have hwb : SameBytes t w := runParts_one_same
  let w' := w.updAccess a.id (fun a => if a.allDone then { a with atHome := true } else a)
  have hw' : w'.access a.id = some { a with parts := [q], atHome := true } := by
    show (w.updAccess a.id _).access a.id = _
    rw [access_updAccess _ (fun b => by split <;> rfl), hw]
    rfl
  have hnone : ∀ z ∈ w'.versions, z.acc ≠ a.id := by
    intro z hz
    have hsame : w'.versions = t.versions := hwb.versions
    exact hver z (hsame ▸ hz)
  obtain ⟨u, hu, hsame⟩ := settleStore_seen hw' rfl (.inr hk)
    (by intro z hz; rw [List.mem_singleton.mp hz]; exact ⟨rfl, rfl⟩) (fun z hz h => absurd h (hnone z hz))
  have hfold : foldVersions a.id u = u :=
    foldVersions_eq (old := u.versions) (news := []) (List.append_nil _).symm (by rw [hsame.versions]; exact hnone) (by simp)
  refine ⟨u.dropAccess a.id, ?_, access_dropAccess, hwb.trans (SameBytes.trans (t := w') ⟨rfl, rfl⟩ (hsame.trans ⟨rfl, rfl⟩))⟩
  have hx : exec (.writeAcknowledge a.id none []) s = .next (performStore a.id none [] s) := by
    rw [exec_writeAcknowledge]
    obtain hk | ⟨fn, hk⟩ := hk <;> simp only [execWriteAcknowledge, hf, hk] <;> rfl
  rw [hx, performStore_runs hf hh hpp, hrun]
  rw [hfold] at hu
  exact congrArg Host.Outcome.next hu

/-- A RED leaves its result at its bytes and is acknowledged (R298, R299). -/
theorem red_performed {fn : AmoFn} (hdue : Due s a) (hk : a.kind = .red fn) (hh : a.atHome = false) (hpp : onPacketPlane s a = true)
    (hver : ∀ v ∈ s.versions, v.acc ≠ a.id) (hp : a.parts = [p]) (hd : DramPart s p x) (hpois : memPoison s x p.len = false) {new : Nat}
    (hnew : homeNat (atomicState a p x s) x p.len = new) :
    Swept (.writeAcknowledge a.id none []) s (fun t =>
      t.access a.id = none ∧ homeNat t x p.len = new ∧ KeepsOutside s t x p.len) := by
  have hat : AccKind.Atomic a.kind := .inr (.inr ⟨fn, hk⟩)
  obtain ⟨u, hx, hacc, hbytes⟩ := write_acknowledged hdue.found hdue.first (.inr ⟨fn, hk⟩) hh hpp hp hd.1 (gathers_none (.inr hat))
    (tryPart_atomic hat (due_plain hdue) hd hpois (visOf none)) (atomicState_access hdue.found) (atomicState_versions hver)
  refine ⟨u, hx, hacc, (hbytes.homeNat x p.len).trans hnew, fun y hy => ?_⟩
  obtain ⟨hhome, hdie⟩ := atomicState_outside (s := s) (a := a) y hy
  exact ⟨(hbytes.homeByte y).trans hhome, fun d => (hbytes.dieByte d y).trans (hdie d)⟩

/-- The number after an AMO or RED (R295). -/
theorem amo_result {fn : AmoFn} (hk : a.kind = .amo fn ∨ a.kind = .red fn) (hm : MemWf s.mem) (hlen : p.len = 4 ∨ p.len = 8) :
    homeNat (atomicState a p x s) x p.len = atomicResult fn p.len (homeNat s x p.len) p.x := by
  have hv : atomicNew a.kind (homeNat s x p.len) p = some (atomicResult fn p.len (homeNat s x p.len) p.x) := by
    rw [← amoOp_eq fn _ _ _ hlen]
    obtain hk | hk := hk <;> rw [hk] <;> rfl
  rw [atomicState_writes hm hv, Nat.mod_eq_of_lt (atomicResult_lt fn _ _ _ hlen (homeNat_lt s x p.len))]

/-- The number after a CAS (R296). -/
theorem cas_result (hk : a.kind = .cas) (hm : MemWf s.mem) : homeNat (atomicState a p x s) x p.len =
    (if homeNat s x p.len = p.x % 2 ^ (8 * p.len) then p.y % 2 ^ (8 * p.len) else homeNat s x p.len) := by
  by_cases h : homeNat s x p.len = p.x % 2 ^ (8 * p.len)
  · rw [if_pos h]
    exact atomicState_writes hm (by rw [hk]; exact if_pos h)
  · rw [if_neg h]
    exact atomicState_keeps (by rw [hk]; exact if_neg h)

end

/-- Settles O49: the load, the store in its three events, and the atomics. -/
theorem memoryIsPerformed : Obligations.MemoryIsPerformed := by
  unfold Obligations.MemoryIsPerformed
  refine ⟨fun s a p x r hdue hk hp hd hpois hr => load_performed hdue hk hp hd hpois hr,
    fun s a hdue hk hh hpp hnew hm hd => store_acknowledged hdue hk hh hpp hnew hm hd,
    fun s a p x d hdue hline hk hh hpp _ hp hd hlen hd8 => store_shown hdue hline hk hh hpp hp hd hlen hd8,
    fun s a v hf hk hh hp hv hacc hn hm => store_folded hf hk hh hp hv hacc hn hm,
    fun s a p x hdue hown hp hd hlen hpois hm => ⟨fun fn r hk hr => ?_, fun r hk hr => ?_, fun fn hk hh hpp hver => ?_⟩⟩
  · exact atomic_returns hdue (.inr ⟨fn, hk⟩) hown hp hd hpois (amo_result (.inl hk) hm hlen) hr
  · exact atomic_returns hdue (.inl hk) hown hp hd hpois (cas_result hk hm) hr
  · exact red_performed hdue hk hh hpp hver hp hd hpois (amo_result (.inr hk) hm hlen)

end Sys2Proof.Proofs

/-!
PROOFS. The save slot: what lies in it, and what a save leaves (R92, R93).
-/
namespace Sys2Proof.Machine

open Sys2Proof.Safety

/-! ## The cells of a save slot (R93) -/

/-- Every cell lies among the n bytes from a on. -/
def Within (a n : Nat) (l : List (Nat × Byte)) : Prop := ∀ c ∈ l, a ≤ c.1 ∧ c.1 < a + n

theorem within_nil (a n : Nat) : Within a n [] := fun _ h => absurd h List.not_mem_nil

theorem Within.append {a n : Nat} {l m : List (Nat × Byte)} (h : Within a n l) (g : Within a n m) : Within a n (l ++ m) :=
  fun c hc => (List.mem_append.mp hc).elim (h c) (g c)

theorem Within.mono {a n b m : Nat} {l : List (Nat × Byte)} (h : Within a n l) (hb : b ≤ a) (hm : a + n ≤ b + m) : Within b m l :=
  fun c hc => ⟨hb.trans (h c hc).1, (h c hc).2.trans_le hm⟩

/-- A byte at a given offset of a slot. -/
theorem Within.at {a o n m : Nat} {l : List (Nat × Byte)} (h : Within (a + o) n l) (hm : o + n ≤ m) : Within a m l :=
  h.mono (Nat.le_add_right a o) (by omega)

theorem within_flatMap {α : Type} {a n : Nat} {f : α → List (Nat × Byte)} {l : List α} (h : ∀ x ∈ l, Within a n (f x)) :
    Within a n (l.flatMap f) := by
  intro c hc
  obtain ⟨x, hx, hcx⟩ := List.mem_flatMap.mp hc
  exact h x hx c hcx

theorem within_cellsOf (a n x : Nat) : Within a n (cellsOf a n x) := fun _ hc => mem_cellsOf hc

theorem within_cellsAt {a n : Nat} {bs : List Byte} (h : bs.length ≤ n) : Within a n (cellsAt a bs) := by
  intro c hc
  have hm : c.1 ∈ List.range' a bs.length := map_fst_cellsAt a bs ▸ List.mem_map_of_mem hc
  rw [List.mem_range'_1] at hm
  omega

theorem within_wordCells (a : Nat) (ws : List Nat) : Within a (8 * ws.length) (wordCells a ws) := by
  induction ws generalizing a with
  | nil => exact within_nil _ _
  | cons w ws ih =>
    have hlen : (w :: ws).length = ws.length + 1 := rfl
    exact ((within_cellsOf a 8 w).mono le_rfl (by omega)).append ((ih (a + 8)).mono (by omega) (by omega))

theorem upto_length (n : Nat) : (upto n).length = n := List.length_range

theorem within_wordCells_upto (a n : Nat) (f : Nat → Nat) : Within a (8 * n) (wordCells a ((upto n).map f)) := by
  have h := within_wordCells a ((upto n).map f)
  rwa [List.length_map, upto_length] at h

theorem within_freeCells (fresh a n : Nat) : Within a (8 * n) (freeCells fresh a n) := within_wordCells_upto a n _

theorem within_ctxCells (fresh a : Nat) (x : CtxState) : Within a 512 (ctxCells fresh a x) := by
  unfold ctxCells
  have hg := within_wordCells_upto a 24 (fun n => (x.gGet n).toNat)
  have hpc := within_wordCells (a + 192) [x.pc.toNat, x.walk.toNat]
  have hfree := within_freeCells fresh (a + 208) 1
  have hstack := within_wordCells (a + 216) ((upto 7).map (oldestEntry x.stack) ++ [x.stack.length])
  exact (((hg.mono le_rfl (by omega)).append (hpc.at (by simp))).append (hfree.at (by omega))).append (hstack.at (by simp [upto_length]))

theorem handle_bytes_length (h : Handle) (now : Nat) : (h.bytes now).length = 32 := by simp [Handle.bytes]

theorem req_bytes_length (r : Req) : r.bytes.length = 256 := by
  unfold Req.bytes
  dsimp only
  split
  · rw [List.length_flatMap]
    simp only [Laws.leBytes_length, List.map_const', upto_length, List.sum_replicate, smul_eq_mul, Nat.reduceMul]
  · rw [Laws.leBytes_length]

theorem within_landCells (fresh a : Nat) (rs : List Req) : Within a (272 * 48) (landCells fresh a rs) := by
  unfold landCells
  refine within_flatMap (fun r hr => ?_)
  have hpos : r.2 < ((rs.filter Req.buffered).take 48).length := by
    have := (List.mem_zipIdx hr).2.1; omega
  have hlen : ((rs.filter Req.buffered).take 48).length ≤ 48 := List.length_take_le _ _
  have hfree := within_freeCells (fresh + 2 * r.2) (a + 272 * r.2) 2
  have hdata : Within (a + 272 * r.2 + 16) 256 (cellsAt (a + 272 * r.2 + 16) r.1.bytes) := within_cellsAt (req_bytes_length _).le
  exact (hfree.at (by omega)).append (hdata.mono (by omega) (by omega))

theorem within_extCells (a : Nat) (cs : List Cmd) (h : ∀ c ∈ cs, c.block.length ≤ 256) : Within a (256 * 16) (extCells a cs) := by
  unfold extCells
  refine within_flatMap (fun c hc => ?_)
  have hpos : c.2 < ((cs.filter (fun c => c.isOf .cl)).take 16).length := by
    have := (List.mem_zipIdx hc).2.1; omega
  have hlen : ((cs.filter (fun c => c.isOf .cl)).take 16).length ≤ 16 := List.length_take_le _ _
  have hmem : c.1 ∈ cs := List.mem_of_mem_filter (List.mem_of_mem_take (List.fst_mem_of_mem_zipIdx hc))
  have hcells : Within (a + 256 * c.2) 256 (cellsAt (a + 256 * c.2) (if c.1.isRota then c.1.block else List.replicate 256 0)) := by
    apply within_cellsAt
    split
    · exact h _ hmem
    · rw [List.length_replicate]
  exact hcells.at (by omega)

theorem within_winCells (a : Nat) (i : Inst) : Within a 0xA0000 (winCells a i) := by
  unfold winCells
  refine within_flatMap (fun w hw => ?_)
  have hw : w < 16 := List.mem_range.mp hw
  have hstate := within_wordCells (a + 0x8A000 + 32 * w)
    [(i.msgWin w).cfg.toNat, (i.msgWin w).cursor.toNat, if (i.msgWin w).len = 0 then 0 else 2 ^ 63 + ((i.msgWin w).len - 1), 0]
  refine (hstate.mono (by omega) (by simp only [List.length_cons, List.length_nil]; omega)).append ?_
  split
  · exact within_nil _ _
  · intro c hc
    obtain ⟨n, hn, rfl⟩ := List.mem_map.mp hc
    have hn : n < 2048 := List.mem_range.mp hn
    dsimp only
    omega

/-- The areas whose layout the spec leaves open, one after the other. -/
theorem within_openCells (a n : Nat) (areas : List (Nat × Nat)) (h : ∀ x ∈ areas, x.1 + 8 * x.2 ≤ n) (l : List (Nat × Byte))
    (hl : Within a n l) (fresh : Nat) :
    Within a n (areas.foldl (fun (r : List (Nat × Byte) × Nat) x => (r.1 ++ freeCells r.2 (a + x.1) x.2, r.2 + x.2)) (l, fresh)).1 := by
  induction areas generalizing l fresh with
  | nil => exact hl
  | cons x xs ih =>
    exact ih (fun y hy => h y (List.mem_cons_of_mem _ hy)) _
      (hl.append ((within_freeCells fresh (a + x.1) x.2).at (h x List.mem_cons_self))) _

/-- Every byte that a save writes lies in its slot. -/
theorem within_saveCells (s : State) (i : Inst) (a : Nat) (h : ∀ c ∈ i.cmds, c.block.length ≤ 256) : Within a 0xA0000 (saveCells s i a) := by
  unfold saveCells
  refine .append (.append (.append (.append (.append (.append (.append (.append (.append (.append (.append (.append (.append ?_ ?_) ?_)
    ?_) ?_) ?_) ?_) ?_) ?_) ?_) ?_) ?_) ?_) ?_
  · exact (within_ctxCells _ _ _).at (by omega)
  · exact (within_ctxCells _ _ _).at (by omega)
  · exact (within_ctxCells _ _ _).at (by omega)
  · exact (within_wordCells_upto _ _ _).at (by omega)
  · exact (within_wordCells_upto _ _ _).at (by omega)
  · refine within_flatMap (fun n hn => ?_)
    have hn : n < 8 := List.mem_range.mp hn
    exact (within_cellsAt (n := 32) (handle_bytes_length _ _).le).mono (by omega) (by omega)
  · refine within_flatMap (fun n hn => ?_)
    have hn : n < 64 := List.mem_range.mp hn
    exact (within_cellsOf _ _ _).mono (by omega) (by omega)
  · refine within_flatMap (fun n hn => within_flatMap (fun l hl => ?_))
    have hn : n < 32 := List.mem_range.mp hn
    have hl : l < 64 := List.mem_range.mp hl
    exact (within_cellsOf _ _ _).mono (by omega) (by omega)
  · exact (within_landCells _ _ _).at (by omega)
  · exact (within_wordCells _ _).at (by simp)
  · split
    · refine within_flatMap (fun n hn => ?_)
      have hn : n < 131072 := List.mem_range.mp hn
      exact (within_cellsOf _ _ _).mono (by omega) (by omega)
    · exact within_nil _ _
  · exact within_winCells _ _
  · exact (within_extCells _ _ h).at (by omega)
  · exact within_openCells _ _ _ (by decide) _ (within_nil _ _) _

/-! ## Where the registers of a context stand in its slot (R93) -/

theorem mem_cellsOf_byte (a x b : Nat) (hb : b < 8) : (a + b, BitVec.ofNat 8 (x / 2 ^ (8 * b))) ∈ cellsOf a 8 x :=
  List.mem_map.mpr ⟨b, List.mem_range.mpr hb, rfl⟩

theorem mem_wordCells (a x b : Nat) (hb : b < 8) (ws : List Nat) (n : Nat) (h : ws[n]? = some x) :
    (a + 8 * n + b, BitVec.ofNat 8 (x / 2 ^ (8 * b))) ∈ wordCells a ws := by
  induction ws generalizing a n with
  | nil => cases h
  | cons w ws ih =>
    cases n with
    | zero =>
      have hw : w = x := by simpa using h
      subst hw
      exact List.mem_append_left _ (mem_cellsOf_byte a w b hb)
    | succ n =>
      refine List.mem_append_right _ ?_
      rw [show a + 8 * (n + 1) + b = a + 8 + 8 * n + b by omega]
      exact ih (a + 8) n (by simpa using h)

theorem g_mem_ctxCells (fresh a : Nat) (x : CtxState) (n b : Nat) (hn : n < 24) (hb : b < 8) :
    (a + 8 * n + b, BitVec.ofNat 8 ((x.gGet n).toNat / 2 ^ (8 * b))) ∈ ctxCells fresh a x := by
  unfold ctxCells
  exact List.mem_append_left _ (List.mem_append_left _ (List.mem_append_left _
    (mem_wordCells a _ b hb _ n (by simp [upto, hn]))))

theorem pc_mem_ctxCells (fresh a : Nat) (x : CtxState) (b : Nat) (hb : b < 8) :
    (a + 192 + b, BitVec.ofNat 8 (x.pc.toNat / 2 ^ (8 * b))) ∈ ctxCells fresh a x := by
  unfold ctxCells
  exact List.mem_append_left _ (List.mem_append_left _ (List.mem_append_right _
    (mem_wordCells (a + 192) x.pc.toNat b hb [x.pc.toNat, x.walk.toNat] 0 rfl)))

/-- The three context areas are part of the slot. -/
theorem ctxCells_subset_saveCells (s : State) (i : Inst) (a : Nat) :
    ctxCells s.fresh (a + 0x100) i.ctxL ⊆ saveCells s i a ∧ ctxCells (s.fresh + 1) (a + 0x300) i.ctxC ⊆ saveCells s i a ∧
      ctxCells (s.fresh + 2) (a + 0x500) i.ctxS ⊆ saveCells s i a := by
  unfold saveCells
  simp only [List.append_assoc]
  exact ⟨List.subset_append_left _ _, List.subset_append_of_subset_right _ (List.subset_append_left _ _),
    List.subset_append_of_subset_right _ (List.subset_append_of_subset_right _ (List.subset_append_left _ _))⟩

/-! ## A write of the device stays within its cells -/

theorem keepsOutside_refl (s : State) (x n : Nat) : KeepsOutside s s x n := fun _ _ => ⟨rfl, fun _ => rfl⟩

theorem keepsOutside_trans {s t u : State} {x n : Nat} (h : KeepsOutside s t x n) (g : KeepsOutside t u x n) : KeepsOutside s u x n :=
  fun y hy => ⟨(g y hy).1.trans (h y hy).1, fun d => ((g y hy).2 d).trans ((h y hy).2 d)⟩

theorem SameBytes.keepsOutside {s t : State} (h : SameBytes s t) (x n : Nat) : KeepsOutside s t x n :=
  fun y _ => ⟨h.homeByte y, fun d => h.dieByte d y⟩

theorem SameBytes.keepsMemory {s t : State} (h : SameBytes s t) : KeepsMemory s t := fun y => ⟨h.homeByte y, fun d => h.dieByte d y⟩

theorem keepsOutside_writeCells (w : Writer) (code : Nat) (cells : List (Nat × Byte)) (s : State) {x n : Nat} (h : Within x n cells) :
    KeepsOutside s (writeCells w code cells s) x n := by
  intro y hy
  have hout : ∀ c ∈ cells, c.1 ≠ y := fun c hc => by have := h c hc; omega
  exact ⟨homeByte_writeCells_other w code cells s y hout, fun d => dieByte_writeCells_other w code cells s d y hout⟩

theorem keepsOutside_ownRequest (a : Nat) (bs : List Byte) (s : State) {x n : Nat} (h : Within x n (cellsAt a bs)) :
    KeepsOutside s (ownRequest a (.store bs) s) x n := by
  unfold ownRequest
  dsimp only
  split
  · exact SameBytes.keepsOutside ⟨rfl, rfl⟩ x n
  · split
    · exact SameBytes.keepsOutside ⟨rfl, rfl⟩ x n
    · exact SameBytes.keepsOutside ⟨rfl, rfl⟩ x n
    · exact keepsOutside_writeCells none 257 _ s h

theorem keepsOutside_runs {x n : Nat} (rs : List (Nat × List Byte)) (s : State) (h : Within x n (runCells rs)) :
    KeepsOutside s (rs.foldl (fun s r => ownRequest r.1 (.store r.2) s) s) x n := by
  induction rs generalizing s with
  | nil => exact keepsOutside_refl s x n
  | cons r rs ih =>
    have hr : Within x n (cellsAt r.1 r.2) := fun c hc => h c (List.mem_append_left _ hc)
    have hrs : Within x n (runCells rs) := fun c hc => h c (List.mem_append_right _ hc)
    exact keepsOutside_trans (keepsOutside_ownRequest r.1 r.2 s hr) (ih _ hrs)

/-- Wherever its granules and dies stand, a write of the device changes no byte outside its cells (R144, R388). -/
theorem keepsOutside_ownWrite {x n : Nat} (cells : List (Nat × Byte)) (s : State) (h : Within x n cells) :
    KeepsOutside s (ownWrite cells s) x n := keepsOutside_runs (runsOf cells) s (by rwa [runCells_runsOf])

/-! ## What a write of the device leaves of the saved and of the isles that hold nothing -/

theorem discardSpec_saved (why : SpecEnd) (id : Nat) (s : State) : (discardSpec why id s).saved = s.saved := by
  unfold discardSpec
  split
  · rfl
  · cases why <;> rfl

theorem foldl_discardSpec_saved (ids : List Nat) (s : State) : (ids.foldl (fun s id => discardSpec .doom id s) s).saved = s.saved := by
  induction ids generalizing s with
  | nil => rfl
  | cons id ids ih => exact (ih _).trans (discardSpec_saved .doom id s)

theorem discardSpec_isles (why : SpecEnd) (id : Nat) (s : State) :
    (discardSpec why id s).slots.map Prod.fst = s.slots.map Prod.fst := by
  have hmap : ∀ l : List (Nat × Inst), (l.map (fun p => if p.2.launch = id then
      (p.1, { p.2 with life := .discarded, wb := [], reqs := [], cmds := p.2.cmds.filter (fun c => c.phase != .queued) }) else p)).map
        Prod.fst = l.map Prod.fst := by
    intro l
    rw [List.map_map]
    refine List.map_congr_left (fun p _ => ?_)
    dsimp only [Function.comp]
    split <;> rfl
  unfold discardSpec
  split
  · rfl
  · cases why <;> exact hmap s.slots

theorem foldl_discardSpec_isles (ids : List Nat) (s : State) :
    (ids.foldl (fun s id => discardSpec .doom id s) s).slots.map Prod.fst = s.slots.map Prod.fst := by
  induction ids generalizing s with
  | nil => rfl
  | cons id ids ih => exact (ih _).trans (discardSpec_isles .doom id s)

/-- The saved stay, and each isle that held something holds something. -/
structure SameIsles (s t : State) : Prop where
  saved : t.saved = s.saved
  isles : t.slots.map Prod.fst = s.slots.map Prod.fst

theorem sameIsles_writeCells (w : Writer) (code : Nat) (cells : List (Nat × Byte)) (s : State) : SameIsles s (writeCells w code cells s) := by
  unfold writeCells
  split
  · exact ⟨rfl, rfl⟩
  · exact ⟨foldl_discardSpec_saved _ _, foldl_discardSpec_isles _ _⟩

theorem sameIsles_ownRequest (a : Nat) (bs : List Byte) (s : State) : SameIsles s (ownRequest a (.store bs) s) := by
  unfold ownRequest
  dsimp only
  split
  · exact ⟨rfl, rfl⟩
  · split
    · exact ⟨rfl, rfl⟩
    · exact ⟨rfl, rfl⟩
    · exact sameIsles_writeCells none 257 _ s

theorem sameIsles_ownWrite (cells : List (Nat × Byte)) (s : State) : SameIsles s (ownWrite cells s) := by
  unfold ownWrite
  generalize runsOf cells = rs
  induction rs generalizing s with
  | nil => exact ⟨rfl, rfl⟩
  | cons r rs ih =>
    obtain ⟨hs, hi⟩ := sameIsles_ownRequest r.1 r.2 s
    exact ⟨(ih _).saved.trans hs, (ih _).isles.trans hi⟩

/-- A key that is deleted from a table without double keys is gone. -/
theorem find_del_self {α : Type} (l : List (Nat × α)) (k : Nat) (h : (l.map Prod.fst).Nodup) : Assoc.find (Assoc.del l k) k = none := by
  show Assoc.find (Sparse.erase l k) k = none
  induction l with
  | nil => rfl
  | cons p l ih =>
    obtain ⟨hk, hl⟩ := List.nodup_cons.mp h
    unfold Sparse.erase
    split
    case isTrue e =>
      exact (Assoc.find_eq_none _ _).mpr (fun c hc hck => hk (by rw [e, ← hck]; exact List.mem_map_of_mem hc))
    case isFalse e =>
      unfold Assoc.find
      rw [if_neg e]
      exact ih hl

/-- The holder i of isle k is saved, n being the next free word. -/
def leavesIsle (k : Nat) (i : Inst) (n : Nat) (u : State) : State :=
  let s : State := { u with fresh := n, freed := true, respec := true }
  { s with slots := Assoc.del s.slots k, saved := s.saved ++ [i.parked] }

theorem leavesIsle_inst {k n : Nat} {i : Inst} {u : State} (h : (u.slots.map Prod.fst).Nodup) : (leavesIsle k i n u).inst k = none :=
  find_del_self u.slots k h

theorem leavesIsle_saved (k n : Nat) (i : Inst) (u : State) : (leavesIsle k i n u).saved = u.saved ++ [i.parked] := rfl

theorem leavesIsle_freed (k n : Nat) (i : Inst) (u : State) : (leavesIsle k i n u).freed = true := rfl

theorem leavesIsle_same (k n : Nat) (i : Inst) (u : State) : SameBytes u (leavesIsle k i n u) := ⟨rfl, rfl⟩

end Sys2Proof.Machine

namespace Sys2Proof.Proofs

open Sys2Proof.Machine Sys2Proof.Safety

theorem exec_saveComplete (k : Nat) (s : State) : exec (.saveComplete k) s = execSaveComplete k s := rfl

/-- The state in which a save ends, before the sweep. -/
def saveEnd (k : Nat) (i : Inst) (s : State) : State :=
  leavesIsle k i (s.fresh + saveFree) (ownWrite (saveCells s i (i.slotBase + 0xA0000 * i.slotNo)) s)

theorem exec_saveEnd (s : State) (k : Nat) (i : Inst) (hi : s.inst k = some i) (hlife : i.life = .saving) (hb : atBoundary s i = true) :
    exec (.saveComplete k) s = .next (sweep (saveEnd k i s)) := by
  have hcase : execSaveComplete k s = match s.inst k with
      | none => .next s
      | some i => if i.life ≠ .saving ∨ !atBoundary s i then .next s else .next (sweep (saveEnd k i s)) := rfl
  rw [exec_saveComplete, hcase, hi]
  exact if_neg (by simp [hlife, hb])

/-- A victim at its boundary leaves its isle, and its save writes within its slot (R92, R93). -/
theorem save_completes (s : State) (k : Nat) (i : Inst) (hi : s.inst k = some i) (hlife : i.life = .saving) (hb : atBoundary s i = true)
    (hblocks : ∀ c ∈ i.cmds, c.block.length ≤ 256) (hn : (s.slots.map Prod.fst).Nodup) :
    Swept (.saveComplete k) s (fun t => t.inst k = none ∧ t.saved = s.saved ++ [i.parked] ∧ t.freed = true ∧
      KeepsOutside s t (i.slotBase + 0xA0000 * i.slotNo) 0xA0000) := by
  have hw := sameIsles_ownWrite (saveCells s i (i.slotBase + 0xA0000 * i.slotNo)) s
  have hout := keepsOutside_ownWrite _ s (within_saveCells s i (i.slotBase + 0xA0000 * i.slotNo) hblocks)
  refine ⟨saveEnd k i s, exec_saveEnd s k i hi hlife hb, ?_, ?_, ?_, ?_⟩
  · exact leavesIsle_inst (by rw [hw.isles]; exact hn)
  · rw [saveEnd, leavesIsle_saved, hw.saved]
  · rw [saveEnd, leavesIsle_freed]
  · rw [saveEnd]
    exact keepsOutside_trans hout ((leavesIsle_same ..).keepsOutside _ _)

/-- The registers and the PC of each context stand in its area of the slot (R93). -/
theorem registers_in_slot (s : State) (i : Inst) (a n b : Nat) (hn : n < 24) (hb : b < 8) :
    let byte (x : Word) : Byte := BitVec.ofNat 8 (x.toNat / 2 ^ (8 * b))
    (a + 0x100 + 8 * n + b, byte (i.ctxL.gGet n)) ∈ saveCells s i a ∧ (a + 0x300 + 8 * n + b, byte (i.ctxC.gGet n)) ∈ saveCells s i a ∧
      (a + 0x500 + 8 * n + b, byte (i.ctxS.gGet n)) ∈ saveCells s i a ∧ (a + 0x1C0 + b, byte i.ctxL.pc) ∈ saveCells s i a ∧
      (a + 0x3C0 + b, byte i.ctxC.pc) ∈ saveCells s i a ∧ (a + 0x5C0 + b, byte i.ctxS.pc) ∈ saveCells s i a := by
  obtain ⟨hL, hC, hS⟩ := ctxCells_subset_saveCells s i a
  exact ⟨hL (g_mem_ctxCells _ _ _ n b hn hb), hC (g_mem_ctxCells _ _ _ n b hn hb), hS (g_mem_ctxCells _ _ _ n b hn hb),
    hL (pc_mem_ctxCells _ _ _ b hb), hC (pc_mem_ctxCells _ _ _ b hb), hS (pc_mem_ctxCells _ _ _ b hb)⟩

end Sys2Proof.Proofs

/-!
PROOFS. Commit writes, the end of a claim, and the timeout of a speculation (R99, R100).
-/
namespace Sys2Proof.Machine

open Sys2Proof.Safety

/-- A table whose values change where c holds of them. -/
theorem find_map_where {α : Type} (l : List (Nat × α)) (c : α → Prop) [DecidablePred c] (f : α → α) (k : Nat) :
    Assoc.find (l.map (fun p => if c p.2 then (p.1, f p.2) else p)) k = (Assoc.find l k).map (fun x => if c x then f x else x) := by
  induction l with
  | nil => rfl
  | cons p l ih =>
    rw [List.map_cons, Assoc.find, Assoc.find, apply_ite Prod.fst, apply_ite Prod.snd, ite_self, ih]
    split <;> rfl

/-! ## The end of a commit (R100) -/

/-- The queue of a commit that ends: it counts as dispatched where the launch still stands at its head. -/
def HwQueue.committed (q : HwQueue) (l : Launch) : HwQueue :=
  { (match q.held with
      | some h => if h.id = l.id then q.dispatched l else q
      | none => q) with spec := none }

/-- The launch of a commit that ends (R99, R100). -/
def Launch.claimed (l : Launch) (now : Nat) : Launch := { l with claiming := false, cellar := [], readset := [], since := now }

/-- The state at the end of a commit of launch l of queue (v, q), before the sweep. -/
def commitEnd (v q : Nat) (l : Launch) (s : State) : State :=
  let t : State := { s.updLaunch l.id (fun l => l.claimed s.time) with
    slots := s.slots.map (fun (p : Nat × Inst) => if p.2.launch = l.id then (p.1, { p.2 with since := s.time }) else p) }
  t.setQueue v q ((s.queue v q).committed (l.claimed s.time))

theorem endCommit_eq {v q : Nat} {l : Launch} {s : State} (hl : s.launch l.id = some l) :
    endCommit v q l.id s = trySpec v q (sweep (commitEnd v q l s)) := by
  let u := s.updLaunch l.id (fun l => l.claimed s.time)
  have hlaunch : u.launch l.id = some (l.claimed s.time) :=
    (Assoc.find_upd_self s.launches l.id (fun l => l.claimed s.time)).trans (congrArg (Option.map _) hl)
  have hqueue : ({ (match (s.queue v q).held, u.launch l.id with
      | some h, some m => if h.id = l.id then (s.queue v q).dispatched m else s.queue v q
      | _, _ => s.queue v q) with spec := none } : HwQueue) = (s.queue v q).committed (l.claimed s.time) := by
    rw [hlaunch]
    unfold HwQueue.committed
    cases (s.queue v q).held <;> rfl
  unfold commitEnd
  rw [← hqueue]
  rfl

section

variable {s : State} {v q : Nat} {l : Launch}

theorem commitEnd_launch (hl : s.launch l.id = some l) : (commitEnd v q l s).launch l.id = some (l.claimed s.time) :=
  (Assoc.find_upd_self s.launches l.id (fun l => l.claimed s.time)).trans (congrArg (Option.map _) hl)

theorem commitEnd_queue (hw : QueuesWf s) : (commitEnd v q l s).queue v q = (s.queue v q).committed (l.claimed s.time) :=
  (queueIs_setQueue _ v q _ hw).1

theorem commitEnd_inst (k : Nat) :
    (commitEnd v q l s).inst k = (s.inst k).map (fun i => if i.launch = l.id then { i with since := s.time } else i) :=
  find_map_where s.slots (fun i => i.launch = l.id) (fun i => { i with since := s.time }) k

theorem commitEnd_same : SameBytes s (commitEnd v q l s) := ⟨rfl, rfl⟩

end

theorem committed_spec (q : HwQueue) (l : Launch) : (q.committed l).spec = none := rfl

/-- The launch still stands at the head of its queue. -/
theorem committed_held {q : HwQueue} {l h : Launch} (hh : q.held = some h) (hid : h.id = l.id) :
    (q.committed l).held = none ∧ (q.committed l).head = q.head + 1 ∧ (q.committed l).last = some l.id := by
  unfold HwQueue.committed
  rw [hh]
  dsimp only
  rw [if_pos hid]
  exact ⟨rfl, rfl, rfl⟩

theorem committed_alone {q : HwQueue} (l : Launch) (hh : q.held = none) : (q.committed l).head = q.head := by
  unfold HwQueue.committed
  rw [hh]

end Sys2Proof.Machine

namespace Sys2Proof.Proofs

open Sys2Proof.Machine Sys2Proof.Safety

section

variable {s : State} {v q id : Nat} {l : Launch}

theorem exec_commitComplete : exec (.commitComplete v q) s = execCommitComplete v q s := rfl

theorem exec_speculationTimeout : exec (.speculationTimeout v q) s = execSpeculationTimeout v q s := rfl

/-- A speculation without a claim for 1 ms is doomed (R99). -/
theorem speculation_times_out (hq : (s.queue v q).spec = some id) (hl : s.launch id = some l) (hspec : l.spec = true)
    (hlate : l.since + 1000 * Config.ticksPerUs ≤ s.time) :
    exec (.speculationTimeout v q) s = .next (sweep (discardSpec .doom id s)) := by
  have hdue : (l.spec && decide (l.since + 1000 * usec ≤ s.time)) = true := by
    rw [hspec, Bool.true_and]
    exact decide_eq_true hlate
  rw [exec_speculationTimeout, execSpeculationTimeout, hq]
  dsimp only
  rw [hl]
  exact if_pos hdue

/-- A commit write puts its bytes in memory and nothing else (R100, R128). -/
theorem commit_performed {a : Access} {p : Part} {x : Nat} (hf : s.access a.id = some a) (hk : a.kind = .commit) (hp : a.parts = [p])
    (hh : a.atHome = false) (hl : s.launch a.launch = some l) (hspec : l.spec = false) (hmay : mayPerform s a = true)
    (hpp : onPacketPlane s a = true) (hd : DramPart s p x) (hm : MemWf s.mem) (hver : ∀ v ∈ s.versions, v.acc ≠ a.id) :
    Swept (.writeAcknowledge a.id none []) s (fun t => t.access a.id = none ∧
      (∀ n, n < p.len → homeByte t (x + n) = BitVec.ofNat 8 (p.x / 2 ^ (8 * n))) ∧ KeepsOutside s t x p.len) := by
  let t := writeCells (some a.launch) 257 (cellsOf x p.len p.x) s
  have htry : tryPart a p (visOf none) none s = .done 0 .ok t := by
    simp only [tryPart, placeOf_dram ⟨l, hl, hspec⟩ hd, cellPart, hk, ne_eq, not_true_eq_false, decide_false, Bool.and_false,
      Bool.false_eq_true, if_false]
    rfl
  have hgather : gathers s a p = none := by unfold gathers; rw [hk]
  obtain ⟨u, hx, hacc, hsame⟩ := write_acknowledged hf hmay (.inl hk) hh hpp hp hd.1 hgather htry
    ((spared_writeCells a.launch _ _ _).access _ _ hf rfl) (writeCells_versions _ _ _ hver)
  refine ⟨u, hx, hacc, fun n hn => ?_, keepsOutside_trans (keepsOutside_writeCells _ _ _ s (within_cellsOf x p.len p.x))
    (hsame.keepsOutside x p.len)⟩
  rw [hsame.homeByte, homeByte_writeCells _ _ _ s hm (nodup_cellsOf ..),
    find_cellsOf_in x p.len p.x (x + n) (Nat.le_add_right x n) (by omega), Nat.add_sub_cancel_left]
  rfl

/-- While a commit write is outstanding the claim stays (R100). -/
theorem claim_waits (hq : (s.queue v q).spec = some id) (hl : s.launch id = some l) (hid : l.id = id)
    (h : ∃ a ∈ s.acc, a.launch = id ∧ a.kind = .commit) : exec (.commitComplete v q) s = .next s := by
  have hbusy : committing s l.id = true := by
    obtain ⟨a, ha, hlaunch, hkind⟩ := h
    exact List.any_eq_true.mpr ⟨a, ha, by simp [hlaunch, hkind, hid]⟩
  rw [exec_commitComplete, execCommitComplete, hq]
  simp only [Option.bind_some, hl, hbusy, Bool.not_true, Bool.and_false, Bool.false_eq_true, if_false]

/-- With none of them left the claim is complete (R100). -/
theorem claim_completes (hq : (s.queue v q).spec = some id) (hl : s.launch id = some l) (hclaim : l.claiming = true) (hid : l.id = id)
    (h : ∀ a ∈ s.acc, a.launch = id → a.kind ≠ .commit) :
    exec (.commitComplete v q) s = .next (trySpec v q (sweep (commitEnd v q l s))) := by
  have hfree : committing s l.id = false := by
    rw [hid]
    refine List.any_eq_false.mpr (fun a ha => ?_)
    simpa using h a ha
  subst hid
  rw [exec_commitComplete, execCommitComplete, hq]
  simp only [Option.bind_some, hl, hclaim, hfree, Bool.not_false, Bool.and_self, if_true, endCommit_eq hl]

end

end Sys2Proof.Proofs

/-!
PROOFS. A step of the order, and the resumption that it decides (R90, R94).
-/
namespace Sys2Proof.Machine

open Sys2Proof.Safety

/-! ## A step of the order (R90) -/

/-- From s to t nothing changes but what the order keeps of itself. -/
structure OrderOnly (s t : State) : Prop where
  rest : t = { s with freed := t.freed, offered := t.offered, ordering := t.ordering, topped := t.topped, deficit := t.deficit }

/-- The evaluation has come to its next action. -/
def orderedState (s : State) : State :=
  { beginOrder s with deficit := (evaluate (beginOrder s)).deficit, topped := (evaluate (beginOrder s)).topped }

theorem orderOnly_ordered (s : State) : OrderOnly s (orderedState s) := by
  constructor
  unfold orderedState beginOrder
  split <;> rfl

theorem orderStep_act {act : Action → State → State} {s : State} {a : Action} (h : (beginOrder s).ordering = true)
    (ha : (evaluate (beginOrder s)).act = some a) : orderStep act s = act a (orderedState s) := by
  have hcase : orderStep act s = if !(beginOrder s).ordering then beginOrder s else match (evaluate (beginOrder s)).act with
      | none => { orderedState s with ordering := false }
      | some a => act a (orderedState s) := rfl
  rw [hcase, h, ha]
  rfl

section

variable {s t : State} (h : OrderOnly s t)
include h

theorem OrderOnly.slots : t.slots = s.slots := by rw [h.rest]
theorem OrderOnly.launches : t.launches = s.launches := by rw [h.rest]
theorem OrderOnly.saved : t.saved = s.saved := by rw [h.rest]
theorem OrderOnly.vfs : t.vfs = s.vfs := by rw [h.rest]
theorem OrderOnly.acc : t.acc = s.acc := by rw [h.rest]
theorem OrderOnly.out : t.out = s.out := by rw [h.rest]
theorem OrderOnly.time : t.time = s.time := by rw [h.rest]
theorem OrderOnly.granules : t.granules = s.granules := by rw [h.rest]
theorem OrderOnly.dieDown : t.dieDown = s.dieDown := by rw [h.rest]
theorem OrderOnly.same : SameBytes s t := ⟨by rw [h.rest], by rw [h.rest]⟩
theorem OrderOnly.inOperation : inOperation t = inOperation s := by rw [h.rest]; rfl
theorem OrderOnly.launchesAllowed : launchesAllowed t = launchesAllowed s := by rw [h.rest]; rfl

end

/-- An isle that holds nothing dooms no speculation (R99). -/
theorem doomOn_free {s : State} {ks : List Nat} (h : ∀ k ∈ ks, s.inst k = none) : doomOn ks s = s := by
  refine foldl_fixed _ s ks (fun k hk => if_neg ?_)
  simp [heldBySpec, h k hk]

/-- A quiet machine that takes isles that hold nothing stays as it is. -/
theorem takeOver_free {s : State} {ks : List Nat} (hq : Quiet s) (h : ∀ k ∈ ks, s.inst k = none) : takeOver ks s = s := by
  unfold takeOver
  rw [doomOn_free h, sweep_quiet s hq]

/-- A machine with the holders and launches of a quiet one is quiet. -/
theorem quiet_congr {s t : State} (h : Quiet s) (hs : t.slots = s.slots) (hl : t.launches = s.launches)
    (hsaved : ∀ id, (s.saved.filter (fun i => i.launch = id) ≠ []) → t.saved.filter (fun i => i.launch = id) ≠ []) : Quiet t := by
  refine ⟨by rw [hs]; exact h.slots, fun p hp => ?_⟩
  rw [hl] at hp
  obtain ⟨hret, hlive⟩ := h.launches p hp
  refine ⟨hret, hlive.imp_right (fun hne => ?_)⟩
  unfold unretired at hne ⊢
  rw [hs]
  rcases not_and_or.mp (fun e => hne (List.append_eq_nil_iff.mpr e)) with hne | hne
  · exact List.append_ne_nil_of_left_ne_nil hne _
  · exact List.append_ne_nil_of_right_ne_nil _ (hsaved p.1 hne)

theorem allFree_inst {s : State} {ks : List Nat} (h : allFree s ks = true) : ∀ k ∈ ks, s.inst k = none := by
  intro k hk
  have := List.all_eq_true.mp h k hk
  simp only [Bool.and_eq_true, Option.isNone_iff_eq_none] at this
  exact this.1

theorem allFree_congr {s t : State} (hs : t.slots = s.slots) (hd : t.dieDown = s.dieDown) (ks : List Nat) : allFree t ks = allFree s ks := by
  unfold allFree State.inst dieIsDown
  rw [hs, hd]

/-! ## Structures read again (R81, R113) -/

/-- The device reads its structures in t as in s. -/
structure SameReads (s t : State) : Prop where
  granules : t.granules = s.granules
  time : t.time = s.time
  home : ∀ a, homeByte t a = homeByte s a

theorem SameReads.structNat {s t : State} (h : SameReads s t) (a n : Nat) : structNat t a n = structNat s a n := by
  unfold Machine.structNat structByte granuleOf
  rw [h.granules, h.time]
  simp only [h.home]

theorem SameReads.segsAt {s t : State} (h : SameReads s t) (a : Nat) : segsAt t a = segsAt s a := by
  unfold Machine.segsAt
  simp only [h.structNat]

/-! ## What a saved holder has observed, shown to a die (R128) -/

/-- A version of one of the stores, shown to die d too. -/
def Version.shown (ids : List Nat) (d : Nat) (v : Version) : Version :=
  if v.acc ∈ ids then { v with vis := v.vis ||| BitVec.ofNat 8 (2 ^ d) } else v

theorem shown_acc (ids : List Nat) (d : Nat) (v : Version) : (v.shown ids d).acc = v.acc := by unfold Version.shown; split <;> rfl

theorem shown_cells (ids : List Nat) (d : Nat) (v : Version) : (v.shown ids d).cells = v.cells := by unfold Version.shown; split <;> rfl

theorem getLsbD_pow {d e : Nat} : (BitVec.ofNat 8 (2 ^ d)).getLsbD e = (decide (e < 8) && decide (d = e)) := by
  rw [BitVec.getLsbD_ofNat, Nat.testBit_two_pow]

/-- The other dies see of it what they saw. -/
theorem shown_vis_other (ids : List Nat) {d e : Nat} (h : e ≠ d) (v : Version) : (v.shown ids d).vis.getLsbD e = v.vis.getLsbD e := by
  unfold Version.shown
  split
  · rw [BitVec.getLsbD_or, getLsbD_pow, decide_eq_false h.symm, Bool.and_false, Bool.or_false]
  · rfl

theorem shown_vis_self {ids : List Nat} {d : Nat} (hd : d < 8) {v : Version} (h : v.acc ∈ ids) : (v.shown ids d).vis.getLsbD d = true := by
  unfold Version.shown
  rw [if_pos h, BitVec.getLsbD_or, getLsbD_pow, decide_eq_true hd, decide_eq_true rfl, Bool.and_self, Bool.or_true]

theorem shown_cons (a : Nat) (ids : List Nat) (d : Nat) (v : Version) :
    ((if v.acc = a then { v with vis := v.vis ||| BitVec.ofNat 8 (2 ^ d) } else v).shown ids d) = v.shown (a :: ids) d := by
  by_cases ha : v.acc = a
  · by_cases hi : a ∈ ids <;> simp [Version.shown, ha, hi, BitVec.or_assoc, BitVec.or_self]
  · simp [Version.shown, ha]

/-- The stores are shown to die d. -/
def showAll (ids : List Nat) (d : Nat) (s : State) : State := { s with versions := s.versions.map (Version.shown ids d) }

theorem foldl_showVersion (ids : List Nat) (d : Nat) (s : State) : ids.foldl (fun s a => showVersion a d s) s = showAll ids d s := by
  induction ids generalizing s with
  | nil =>
    have hid : s.versions.map (Version.shown [] d) = s.versions := by
      exact (List.map_congr_left (fun v _ => if_neg List.not_mem_nil)).trans (List.map_id' _)
    rw [showAll, hid]
    rfl
  | cons a ids ih =>
    rw [List.foldl_cons, ih]
    unfold showVersion showAll
    dsimp only
    rw [List.map_map]
    exact congrArg (fun vs => { s with versions := vs }) (List.map_congr_left (fun v _ => shown_cons a ids d v))

theorem newestByte_shown (ids : List Nat) (d : Nat) (vs : List Version) (y : Nat) :
    newestByte (vs.map (Version.shown ids d)) y = newestByte vs y := by
  induction vs with
  | nil => rfl
  | cons v vs ih => rw [List.map_cons, newestByte, newestByte, ih, shown_cells]

theorem versionByte_shown (ids : List Nat) {d e : Nat} (h : e ≠ d) (vs : List Version) (y : Nat) :
    versionByte e (vs.map (Version.shown ids d)) y = versionByte e vs y := by
  induction vs with
  | nil => rfl
  | cons v vs ih => rw [List.map_cons, versionByte, versionByte, ih, shown_cells, shown_vis_other ids h]

/-! ## Resumption (R94) -/

/-- The saved i is given isle k. -/
def goesTo (uid k : Nat) (s : State) : State :=
  { s with saved := s.saved.map (fun i => if i.uid = uid then { i with goes := some k } else i) }

section

variable {s t : State} {uid k : Nat} {i : Inst}

theorem find_goesTo (h : s.saved.find? (fun j => j.uid = uid) = some i) :
    (goesTo uid k s).saved.find? (fun j => j.uid = uid && j.goes = some k) = some { i with goes := some k } := by
  unfold goesTo
  dsimp only
  generalize s.saved = l at h
  induction l with
  | nil => cases h
  | cons j l ih =>
    by_cases e : j.uid = uid
    · have hij : j = i := by simpa [e] using h
      subst hij
      simp [e]
    · simp only [List.map_cons, e, if_false, List.find?_cons, decide_false, Bool.false_and] at h ⊢
      exact ih h

/-- Nobody leaves the saved. -/
theorem quiet_goesTo (h : Quiet s) : Quiet (goesTo uid k s) := by
  refine quiet_congr h rfl rfl (fun id hne => ?_)
  obtain ⟨j, hj⟩ := List.exists_mem_of_ne_nil _ hne
  obtain ⟨hmem, hid⟩ := List.mem_filter.mp hj
  refine List.ne_nil_of_mem (List.mem_filter.mpr
    ⟨List.mem_map.mpr ⟨j, hmem, rfl⟩, ?_⟩)
  split <;> exact hid

/-- The saved i comes to isle k in a state u that shows there what it has observed. -/
def comesBack (k : Nat) (i : Inst) (u : State) : State :=
  let s := u.updLaunch i.launch (fun l => { l with segs := segsAt u l.eff.segtab })
  let s := forgetRota k { s with saved := s.saved.filter (fun x => x.uid ≠ i.uid), freed := true }
  s.setInst k { i with life := .running, since := s.time, refill := upto i.counts.spad, goes := none }

theorem restore_eq :
    restore k i s = comesBack k i (showAll (seenStores s i) (k / 32) s) := by
  show comesBack k i ((seenStores s i).foldl (fun s a => showVersion a (k / 32) s) s) = _
  rw [foldl_showVersion]

theorem comesBack_inst :
    (comesBack k i s).inst k = some { i with life := .running, since := s.time, refill := List.range i.counts.spad, goes := none } :=
  inst_setInst_self _ _ _

theorem comesBack_inst_other {n : Nat} (h : n ≠ k) : (comesBack k i s).inst n = s.inst n := inst_setInst_other _ _ _ _ h

theorem comesBack_launch : (comesBack k i s).launch i.launch = (s.launch i.launch).map (fun l => { l with segs := segsAt s l.eff.segtab }) :=
  Assoc.find_upd_self s.launches i.launch (fun l => { l with segs := segsAt s l.eff.segtab })

theorem comesBack_launch_other {n : Nat} (h : n ≠ i.launch) : (comesBack k i s).launch n = s.launch n :=
  Assoc.find_upd_other s.launches i.launch n (fun l => { l with segs := segsAt s l.eff.segtab }) h

theorem comesBack_saved : (comesBack k i s).saved = s.saved.filter (fun j => j.uid ≠ i.uid) := rfl

theorem comesBack_same : SameBytes s (comesBack k i s) := ⟨rfl, rfl⟩

theorem comesBack_rest : (comesBack k i s).vfs = s.vfs ∧ (comesBack k i s).acc = s.acc ∧ (comesBack k i s).out = s.out :=
  ⟨rfl, rfl, rfl⟩

/-! What a resumption finds: the isle, its segment table read again, and what it has observed visible on the die. -/

theorem restore_inst :
    (restore k i s).inst k = some { i with life := .running, since := s.time, refill := List.range i.counts.spad, goes := none } := by
  rw [restore_eq]
  exact comesBack_inst

theorem restore_inst_other {n : Nat} (h : n ≠ k) : (restore k i s).inst n = s.inst n := by
  rw [restore_eq]
  exact comesBack_inst_other h

theorem restore_saved : (restore k i s).saved = s.saved.filter (fun j => j.uid ≠ i.uid) := by
  rw [restore_eq, comesBack_saved]
  rfl

theorem restore_versions : (restore k i s).versions = s.versions.map (Version.shown (seenStores s i) (k / 32)) := by
  rw [restore_eq, comesBack_same.versions]
  rfl

theorem restore_mem : (restore k i s).mem = s.mem := by
  rw [restore_eq, comesBack_same.mem]
  rfl

theorem restore_rest : (restore k i s).vfs = s.vfs ∧ (restore k i s).acc = s.acc ∧ (restore k i s).out = s.out := by
  rw [restore_eq]
  exact comesBack_rest

theorem restore_homeByte (a : Nat) : homeByte (restore k i s) a = homeByte s a := by
  unfold homeByte memByte
  rw [restore_versions, restore_mem, newestByte_shown]

theorem restore_dieByte {d : Nat} (h : d ≠ k / 32) (a : Nat) : dieByte (restore k i s) d a = dieByte s d a := by
  unfold dieByte memByte
  rw [restore_versions, restore_mem, versionByte_shown _ h]

theorem restore_seen (hk : k < 256) : ∀ w ∈ (restore k i s).versions, w.acc ∈ seenStores s i → w.vis.getLsbD (k / 32) = true := by
  intro w hw hseen
  rw [restore_versions] at hw
  obtain ⟨v, _, rfl⟩ := List.mem_map.mp hw
  rw [shown_acc] at hseen
  exact shown_vis_self (by omega) hseen

/-- The reading of structures is not touched by what becomes visible. -/
theorem sameReads_showAll (ids : List Nat) (d : Nat) : SameReads s (showAll ids d s) :=
  ⟨rfl, rfl, fun y => congrArg (·.getD (memByte s y)) (newestByte_shown ids d s.versions y)⟩

theorem restore_launch :
    (restore k i s).launch i.launch = (s.launch i.launch).map (fun l => { l with segs := segsAt s l.eff.segtab }) := by
  rw [restore_eq, comesBack_launch]
  simp only [(sameReads_showAll _ _).segsAt]
  rfl

theorem restore_launch_other {n : Nat} (h : n ≠ i.launch) : (restore k i s).launch n = s.launch n := by
  rw [restore_eq]
  exact comesBack_launch_other h

end

end Sys2Proof.Machine

namespace Sys2Proof.Proofs

open Sys2Proof.Machine Sys2Proof.Safety

theorem exec_instanceResume (uid k : Nat) (s : State) : exec (.instanceResume uid k) s = execInstanceResume uid k s := rfl

/-- The holder that the order resumes is restored to its isle (R90, R94). -/
theorem exec_resume {s : State} {uid k : Nat} {i : Inst} (hq : Quiet s) (hord : (beginOrder s).ordering = true)
    (hact : (evaluate (beginOrder s)).act = some (.resume uid k)) (hfree : allFree s [k] = true)
    (hfind : s.saved.find? (fun j => j.uid = uid) = some i) :
    exec (.instanceResume uid k) s = .next (restore k { i with goes := some k } (goesTo uid k (orderedState s))) := by
  have ho := orderOnly_ordered s
  have hquiet : Quiet (goesTo uid k (orderedState s)) :=
    quiet_goesTo (quiet_congr hq ho.slots ho.launches (fun id hne => by rw [ho.saved]; exact hne))
  have hempty : ∀ n ∈ [k], (goesTo uid k (orderedState s)).inst n = none := by
    intro n hn
    show Assoc.find (orderedState s).slots n = none
    rw [ho.slots]
    exact allFree_inst hfree n hn
  have hstep : orderStep carryOut s = goesTo uid k (orderedState s) := by
    rw [orderStep_act hord hact]
    exact takeOver_free hquiet hempty
  have hfind' := find_goesTo (s := orderedState s) (k := k) (by rw [ho.saved]; exact hfind)
  have hfree' : allFree (goesTo uid k (orderedState s)) [k] = true :=
    (allFree_congr (s := s) (t := goesTo uid k (orderedState s)) ho.slots ho.dieDown [k]).trans hfree
  rw [exec_instanceResume, execInstanceResume, hstep, hfind']
  exact if_pos hfree'

/-- What a resumption finds and leaves (R59, R94, R113, R128). -/
theorem resumes {s : State} {uid k : Nat} {i : Inst} (hq : Quiet s) (hord : (beginOrder s).ordering = true)
    (hact : (evaluate (beginOrder s)).act = some (.resume uid k)) (hk : k < 256) (hfree : allFree s [k] = true)
    (hfind : s.saved.find? (fun j => j.uid = uid) = some i) :
    After (.instanceResume uid k) s (fun t =>
      t.inst k = some { i with life := .running, since := s.time, refill := List.range i.counts.spad, goes := none } ∧
      (∀ n, n ≠ k → t.inst n = s.inst n) ∧ (∀ j ∈ t.saved, j.uid ≠ uid) ∧ t.vfs = s.vfs ∧ t.acc = s.acc ∧ t.out = s.out ∧
      t.launch i.launch = (s.launch i.launch).map (fun l => { l with segs := segsAt s l.eff.segtab }) ∧
      (∀ n, n ≠ i.launch → t.launch n = s.launch n) ∧ (∀ a, homeByte t a = homeByte s a) ∧
      (∀ w ∈ t.versions, w.acc ∈ seenStores s i → w.vis.getLsbD (k / 32) = true) ∧
      ∀ d a, d ≠ k / 32 → dieByte t d a = dieByte s d a) := by
  have ho := orderOnly_ordered s
  have huid : i.uid = uid := by simpa using List.find?_some hfind
  -- the state in which the order has given the isle, and what it has of s
  let u := goesTo uid k (orderedState s)
  let j : Inst := { i with goes := some k }
  have hslots : u.slots = s.slots := ho.slots
  have hlaunches : u.launches = s.launches := ho.launches
  have hreads : SameReads s u := ⟨ho.granules, ho.time, ho.same.homeByte⟩
  obtain ⟨hvfs, hacc, hout⟩ := restore_rest (s := u) (k := k) (i := j)
  refine ⟨restore k j u, exec_resume hq hord hact hfree hfind, ?_, fun n hn => ?_, fun z hz => ?_, hvfs.trans ho.vfs, hacc.trans ho.acc,
    hout.trans ho.out, ?_, fun n hn => ?_, fun a => ?_, fun w hw hseen => ?_, fun d a hd => ?_⟩
  · rw [restore_inst, hreads.time]
  · rw [restore_inst_other hn, State.inst, hslots]; rfl
  · rw [restore_saved] at hz
    have := (List.mem_filter.mp hz).2
    rw [← huid]
    simpa using this
  · show (restore k j u).launch j.launch = _
    rw [restore_launch, State.launch, hlaunches]
    simp only [hreads.segsAt]
    rfl
  · rw [restore_launch_other (i := j) hn, State.launch, hlaunches]; rfl
  · rw [restore_homeByte, hreads.home]
  · refine restore_seen hk w hw ?_
    have hsame : seenStores u j = seenStores s i := by
      unfold seenStores
      rw [show u.acc = s.acc from ho.acc]
    rw [hsame]
    exact hseen
  · rw [restore_dieByte hd]
    exact ho.same.dieByte d a

end Sys2Proof.Proofs

/-!
PROOFS. Region blocks read again, the start of a launch, and when the head of a queue is ready (R76, R81, R90).
-/
namespace Sys2Proof.Machine

open Sys2Proof.Safety

/-! ## Region blocks read again (R81 to R87) -/

section

variable {s t : State}

theorem SameReads.structNat_fun (h : SameReads s t) : Machine.structNat t = Machine.structNat s := funext₂ h.structNat

theorem SameReads.blkOk (h : SameReads s t) (a : Nat) : blkOk t a = blkOk s a := by
  unfold Machine.blkOk blkOvr blkPrio blkFlags blkFrz blkSave blkMax blkSpad blkCirc blkCellar blkSegtab blkPart blkResmap
  rw [h.structNat_fun]

theorem SameReads.climb (h : SameReads s t) (root n a : Nat) : climb t root n a = climb s root n a := by
  induction n generalizing a with
  | zero => rw [Machine.climb, Machine.climb, h.blkOk]
  | succ n ih => rw [Machine.climb, Machine.climb, h.blkOk, blkParent, blkParent, h.structNat, ih]

theorem SameReads.stepEff (h : SameReads s t) (r : Bool) (p : PreEff) (a : Nat) : stepEff t r p a = stepEff s r p a := by
  unfold Machine.stepEff blkOvr blkPrio blkFlags blkFrz blkSave blkMax blkSpad blkCirc blkCellar blkSegtab blkPart blkResmap
  rw [h.structNat_fun]

theorem SameReads.foldEff (h : SameReads s t) (r : Bool) (p : PreEff) (chain : List Nat) : foldEff t r p chain = foldEff s r p chain := by
  induction chain generalizing r p with
  | nil => rfl
  | cons a rest ih => rw [Machine.foldEff, Machine.foldEff, h.stepEff, ih]

theorem SameReads.foldBudgets (h : SameReads s t) (r : Bool) (p : PreEff) (chain : List Nat) :
    foldBudgets t r p chain = foldBudgets s r p chain := by
  induction chain generalizing r p with
  | nil => rfl
  | cons a rest ih => simp only [Machine.foldBudgets, h.stepEff, ih]

theorem SameReads.effOf (h : SameReads s t) (chain : List Nat) : effOf t chain = effOf s chain := by
  simp only [Machine.effOf, h.foldEff, h.foldBudgets]

theorem SameReads.chainOf (h : SameReads s t) {v : Nat} (hv : (t.vf v).rootrcb = (s.vf v).rootrcb) (rcb : Nat) :
    chainOf t v rcb = chainOf s v rcb := by
  unfold Machine.chainOf
  rw [hv, h.climb, funext h.effOf]

theorem SameReads.partAt (h : SameReads s t) (a : Nat) : partAt t a = partAt s a := by
  simp only [Machine.partAt, h.structNat]

theorem SameReads.tablesOf (h : SameReads s t) {v : Nat} (hv : (t.vf v).rootrcb = (s.vf v).rootrcb) (rcb : Nat) :
    tablesOf t v rcb = tablesOf s v rcb := by
  simp only [Machine.tablesOf, h.chainOf hv, h.segsAt, h.partAt]

theorem SameReads.domainsOf (h : SameReads s t) (chain : List Nat) : domainsOf t chain = domainsOf s chain := by
  unfold Machine.domainsOf
  refine List.filter_congr (fun a _ => ?_)
  simp only [isFaultDom, blkFlags, h.structNat]

end

/-- An update of a queue leaves the root of its virtual function. -/
theorem setQueue_rootrcb {s : State} (v q : Nat) (x : HwQueue) (h : QueuesWf s) : ((s.setQueue v q x).vf v).rootrcb = (s.vf v).rootrcb := by
  rw [State.setQueue, vf_setVf_self s v _ h.1]
  rfl

/-! ## The instances of a launch come to their isles (R33, R34, R76) -/

/-- Only isles and the count of instances change. -/
structure IslesOnly (s t : State) : Prop where
  rest : t = { s with slots := t.slots, nextUid := t.nextUid, rotaEnded := t.rotaEnded }

theorem IslesOnly.trans {s t u : State} (h : IslesOnly s t) (g : IslesOnly t u) : IslesOnly s u := by
  constructor
  rw [g.rest, h.rest]

theorem islesOnly_startInsts (l : Launch) (r : Nat) (ks : List Nat) (s : State) : IslesOnly s (startInsts l r ks s) := by
  induction ks generalizing r s with
  | nil => exact ⟨rfl⟩
  | cons k ks ih => exact IslesOnly.trans ⟨rfl⟩ (ih (r + 1) _)

theorem startInsts_other (l : Launch) (r : Nat) (ks : List Nat) (s : State) {n : Nat} (h : n ∉ ks) :
    (startInsts l r ks s).inst n = s.inst n := by
  induction ks generalizing r s with
  | nil => rfl
  | cons k ks ih =>
    obtain ⟨hne, hks⟩ := not_or.mp (fun e => h (List.mem_cons.mpr e))
    exact (ih (r + 1) _ hks).trans (inst_setInst_other _ _ _ _ hne)

/-- Ranks ascend with the places of the isles. -/
theorem startInsts_rank (l : Launch) (r : Nat) (ks : List Nat) (s : State) (hks : ks.Nodup) {n k : Nat} (h : ks[n]? = some k) :
    ∃ u uid, (startInsts l r ks s).inst k = some (Inst.start u l uid (r + n) k) := by
  induction ks generalizing r s n with
  | nil => cases h
  | cons k' ks ih =>
    obtain ⟨hnot, hks⟩ := List.nodup_cons.mp hks
    cases n with
    | zero =>
      have e : k' = k := by simpa using h
      subst e
      exact ⟨s, s.nextUid, (startInsts_other l (r + 1) ks _ hnot).trans (inst_setInst_self _ _ _)⟩
    | succ n =>
      obtain ⟨u, uid, hi⟩ := ih (r + 1) _ hks (by simpa using h)
      exact ⟨u, uid, by rw [show r + (n + 1) = r + 1 + n by omega]; exact hi⟩

/-! ## No speculation without a prediction (R96, R97) -/

/-- A history whose entries have all been seen once predicts nothing. -/
theorem bestHist_none {k : Key} {hs : List Hist} (h : ∀ e ∈ hs, e.count < 2) : bestHist k hs = none := by
  refine foldl_fixed _ none hs (fun e he => if_neg ?_)
  have := h e he
  simp only [Bool.and_eq_true, decide_eq_true_eq, not_and]
  omega

theorem trySpec_unlearned {s : State} {v q : Nat} (h : ∀ e ∈ (s.queue v q).history, e.count < 2) : trySpec v q s = s := by
  have hnone : (s.queue v q).want.bind (fun k => bestHist k (s.queue v q).history) = none := by
    cases (s.queue v q).want with
    | none => rfl
    | some k => exact bestHist_none h
  unfold trySpec
  dsimp only
  rw [hnone]
  exact ite_self s

/-- A queue without a history learns of its first launches once. -/
theorem dispatched_history {q : HwQueue} (h : q.history = []) (l : Launch) : ∀ e ∈ (q.dispatched l).history, e.count < 2 := by
  unfold HwQueue.dispatched
  dsimp only
  cases q.lastKey with
  | none => rw [h]; exact fun _ he => absurd he List.not_mem_nil
  | some p =>
    intro e he
    have e1 : e = ⟨p, l.key, l.packet, l.args, l.header, l.mask, 1⟩ := by simpa [learn, h] using he
    rw [e1]
    exact Nat.one_lt_two

/-! ## A launch at the head that is ready (R74, R90) -/

/-- The conditions of R74 and R90 on the launch l held by queue (v, q). -/
structure HeadReady (s : State) (v q : Nat) (l : Launch) : Prop where
  held : (s.queue v q).held = some l
  en : (s.queue v q).en = true
  stopped : (s.queue v q).stopped = false
  inOperation : inOperation s = true
  allowed : launchesAllowed s = true
  claiming : l.claiming = false
  isles : l.isles = []
  ends : holdEnds s (s.queue v q) l = true

theorem headReady_of_readyOf {s : State} {v q : Nat} {l : Launch} {r : Ready} (hh : (s.queue v q).held = some l)
    (h : readyOf s v q = some r) : HeadReady s v q l ∧ r.vf = v ∧ r.q = q ∧ r.l = l := by
  unfold readyOf at h
  simp only [hh] at h
  split at h
  · cases h
  case isFalse hq =>
    split at h
    · cases h
    case isFalse hl =>
      simp only [Bool.or_eq_true, Bool.not_eq_true', not_or, Bool.not_eq_false, Bool.not_eq_true, decide_eq_true_eq, not_not, ne_eq] at hq hl
      obtain ⟨⟨⟨hen, hstop⟩, hop⟩, hallow⟩ := hq
      obtain ⟨⟨hclaim, hisles⟩, hends⟩ := hl
      refine ⟨⟨hh, hen, hstop, hop, hallow, hclaim, hisles, hends⟩, ?_⟩
      split at h
      · split at h
        · cases h
        · cases h; exact ⟨rfl, rfl, rfl⟩
      · cases h; exact ⟨rfl, rfl, rfl⟩

/-- With its arguments inline it is ready. -/
theorem HeadReady.readyOf {s : State} {v q : Nat} {l : Launch} (h : HeadReady s v q l) (hargs : pkArgptr l.packet = false) :
    ∃ r, readyOf s v q = some r ∧ r.l = l := by
  have hlost : ∀ e, argsLost s l e = false := fun e => by rw [argsLost, hargs, Bool.false_and]
  unfold Machine.readyOf
  simp only [h.held, h.en, h.stopped, h.inOperation, h.allowed, h.claiming, h.isles, h.ends, hlost, Bool.not_true, Bool.or_self,
    Bool.false_eq_true, if_false, ne_eq, not_true_eq_false, decide_false]
  cases chainOf s v (pkRcb l.packet) with
  | none => exact ⟨_, rfl, rfl⟩
  | some x => exact ⟨_, rfl, rfl⟩

theorem HeadReady.congr {s t : State} {v q : Nat} {l : Launch} (h : HeadReady s v q l) (g : OrderOnly s t) : HeadReady t v q l := by
  have hqueue : t.queue v q = s.queue v q := by rw [State.queue, State.vf, g.vfs]; rfl
  have hends : holdEnds t (s.queue v q) l = holdEnds s (s.queue v q) l := by
    unfold holdEnds State.launch unretired
    rw [g.launches, g.slots, g.saved]
  refine ⟨by rw [hqueue]; exact h.held, by rw [hqueue]; exact h.en, by rw [hqueue]; exact h.stopped, g.inOperation.trans h.inOperation,
    g.launchesAllowed.trans h.allowed, h.claiming, h.isles, ?_⟩
  rw [hqueue, hends]
  exact h.ends

/-- The launch that is given isles ks at the head of its queue. -/
theorem committed_of_held {s : State} {v q : Nat} {l : Launch} (hh : (s.queue v q).held = some l) (hen : (s.queue v q).en = true)
    (hstop : (s.queue v q).stopped = false) (hclaim : l.claiming = false) (hisles : l.isles ≠ []) : committed s v q = some l := by
  unfold committed
  simp [hh, hen, hstop, hclaim, hisles]

end Sys2Proof.Machine

/-!
PROOFS. Dispatch (R76), and the events of the scheduler together (O51).
-/
namespace Sys2Proof.Machine

open Sys2Proof.Safety

/-! ## Dispatch (R76) -/

/-- The launch l of queue (v, q) as it becomes live under the tables T, its arguments inline. -/
def liveLaunch (s : State) (v q : Nat) (l : Launch) (T : Tables) : Launch :=
  let args := (l.packet.drop 0x20).take (pkArglen l.packet)
  { l with
    args := args, key := keyOf l.packet l.header args l.mask, chain := T.chain, doms := domainsOf s T.chain, eff := T.eff
    segs := T.segs, part := T.part, pred := (s.queue v q).last, since := s.time }

/-- The state in which launch l of queue (v, q) is live, before a speculation is tried. -/
def dispatchedState (s : State) (v q : Nat) (l : Launch) (T : Tables) : State :=
  startLaunch (liveLaunch s v q l T) (s.setQueue v q ((s.queue v q).dispatched (liveLaunch s v q l T)))

theorem dispatchTo_inline {s : State} {v q : Nat} {l : Launch} {T : Tables} (ext : List (Nat × Byte))
    (hT : tablesOf s v (pkRcb l.packet) = some T) (hargs : pkArgptr l.packet = false) :
    dispatchTo v q l ext s = trySpec v q (dispatchedState s v q l T) := by
  have hgot : argsOf s l T.segs T.part ext = .ok ((l.packet.drop 0x20).take (pkArglen l.packet)) := by
    unfold argsOf
    dsimp only
    rw [hargs]
    rfl
  unfold dispatchTo
  dsimp only
  rw [hT]
  dsimp only
  rw [hgot]
  rfl

section

variable {s : State} {v q : Nat} {l : Launch} {T : Tables}

/-- What the start of a launch leaves. -/
theorem startLaunch_rest (m : Launch) (u : State) :
    (startLaunch m u).vfs = u.vfs ∧ SameBytes u (startLaunch m u) ∧ (startLaunch m u).launch m.id = some m := by
  have h : IslesOnly { u with launches := Assoc.put u.launches m.id m } (startLaunch m u) := islesOnly_startInsts m 0 m.isles _
  refine ⟨?_, ⟨?_, ?_⟩, ?_⟩
  · rw [h.rest]
  · rw [h.rest]
  · rw [h.rest]
  · unfold State.launch
    rw [h.rest]
    exact Assoc.find_put_self _ _ _

theorem dispatchedState_queue (hw : QueuesWf s) :
    (dispatchedState s v q l T).queue v q = (s.queue v q).dispatched (liveLaunch s v q l T) := by
  unfold dispatchedState State.queue State.vf
  rw [(startLaunch_rest _ _).1]
  exact (queueIs_setQueue s v q _ hw).1

theorem dispatchedState_launch : (dispatchedState s v q l T).launch l.id = some (liveLaunch s v q l T) := (startLaunch_rest _ _).2.2

theorem dispatchedState_same : SameBytes s (dispatchedState s v q l T) :=
  SameBytes.trans (t := s.setQueue v q ((s.queue v q).dispatched (liveLaunch s v q l T))) ⟨rfl, rfl⟩ (startLaunch_rest _ _).2.1

theorem dispatchedState_other {k : Nat} (h : k ∉ l.isles) : (dispatchedState s v q l T).inst k = s.inst k :=
  startInsts_other (liveLaunch s v q l T) 0 l.isles _ h

theorem dispatchedState_rank (h : l.isles.Nodup) {n k : Nat} (hn : l.isles[n]? = some k) :
    ∃ u uid, (dispatchedState s v q l T).inst k = some (Inst.start u (liveLaunch s v q l T) uid n k) := by
  have hr := startInsts_rank (liveLaunch s v q l T) 0 l.isles
    { s.setQueue v q ((s.queue v q).dispatched (liveLaunch s v q l T)) with launches := Assoc.put s.launches l.id (liveLaunch s v q l T) } h hn
  rw [Nat.zero_add] at hr
  exact hr

end

/-! ## The order gives the isles (R75, R90) -/

/-- The launch l at the head of queue (v, q) is given isles ks. -/
def givenIsles (s : State) (v q : Nat) (l : Launch) : State := s.setQueue v q { s.queue v q with held := some l }

theorem giveIsles_free {s : State} {v q : Nat} {l : Launch} {r : Ready} {ks : List Nat} (hq : Quiet s) (hr : readyOf s v q = some r)
    (hl : r.l = l) (hfree : ∀ k ∈ ks, s.inst k = none) :
    giveIsles v q ks s = givenIsles s v q { l with isles := ks, chain := r.chain, eff := r.eff } := by
  subst hl
  unfold giveIsles
  rw [hr]
  exact takeOver_free (s := givenIsles s v q { r.l with isles := ks, chain := r.chain, eff := r.eff })
    (quiet_congr hq rfl rfl (fun _ h => h)) hfree

theorem givenIsles_queue {s : State} {v q : Nat} (l : Launch) (hw : QueuesWf s) :
    (givenIsles s v q l).queue v q = { s.queue v q with held := some l } := (queueIs_setQueue s v q _ hw).1

theorem queuesWf_givenIsles {s : State} {v q : Nat} (l : Launch) (hw : QueuesWf s) : QueuesWf (givenIsles s v q l) :=
  queuesWf_setQueue s v q _ hw

/-- A queue without a speculation has none to meet (R100). -/
theorem meetNext_none {s : State} {v q : Nat} {r : Ready} (ext : List (Nat × Byte)) (hr : readyOf s v q = some r) (hv : r.vf = v)
    (hq : r.q = q) (hspec : (s.queue v q).spec = none) : meetNext v q ext s = s := by
  have hmeets : meetsSpec s r = false := by
    unfold meetsSpec
    rw [hv, hq, hspec]
    rfl
  unfold meetNext
  rw [hr]
  dsimp only
  rw [hmeets]
  rfl

end Sys2Proof.Machine

namespace Sys2Proof.Proofs

open Sys2Proof.Machine Sys2Proof.Safety

theorem exec_launchDispatch (v q : Nat) (ext : List (Nat × Byte)) (s : State) :
    exec (.launchDispatch v q ext) s = execLaunchDispatch v q ext s := rfl

theorem packetNum_eq (p : List Byte) (off n : Nat) : packetNum p off n = pf p off n := rfl

theorem pkArgptr_eq (p : List Byte) (h : packetNum p 1 1 / 4 % 2 = 0) : pkArgptr p = false := by
  rw [packetNum_eq] at h
  unfold pkArgptr bitAt
  rw [show 2 ^ 2 = 4 from rfl, h]
  rfl

section

variable {s : State} {v q : Nat} {l : Launch} {T : Tables} {ks : List Nat} {r : Ready} {ext : List (Nat × Byte)}

/-- The launch that the order dispatches to free isles is live on them (R76, R90). -/
theorem exec_dispatch (hw : QueuesWf s) (hquiet : Quiet s) (hspec : (s.queue v q).spec = none) (hheld : (s.queue v q).held = some l)
    (hhist : (s.queue v q).history = []) (hr : readyOf s v q = some r) (hargs : pkArgptr l.packet = false)
    (hord : (beginOrder s).ordering = true) (hact : (evaluate (beginOrder s)).act = some (.dispatch v q ks)) (hfree : allFree s ks = true)
    (hks : ks ≠ []) (hT : tablesOf s v (pkRcb l.packet) = some T) :
    ∃ r' : Ready, let m : Launch := { l with isles := ks, chain := r'.chain, eff := r'.eff }
      exec (.launchDispatch v q ext) s = .next (dispatchedState (givenIsles (orderedState s) v q m) v q m T) := by
  have ho := orderOnly_ordered s
  obtain ⟨hhead, hrv, hrq, hrl⟩ := headReady_of_readyOf hheld hr
  obtain ⟨r', hr', hrl'⟩ := (hhead.congr ho).readyOf hargs
  refine ⟨r', ?_⟩
  intro m
  have hwo : QueuesWf (orderedState s) := by unfold QueuesWf; rw [ho.vfs]; exact hw
  have hhead' := hhead.congr ho
  -- the order gives the isles, which hold nothing
  let u := givenIsles (orderedState s) v q m
  have hstep : orderStep carryOut (meetNext v q ext s) = u := by
    rw [meetNext_none ext hr hrv hrq hspec, orderStep_act hord hact]
    refine giveIsles_free (quiet_congr hquiet ho.slots ho.launches (fun id h => by rw [ho.saved]; exact h)) hr' hrl' (fun k hk => ?_)
    unfold State.inst
    rw [ho.slots]
    exact allFree_inst hfree k hk
  have hqueue : u.queue v q = { (orderedState s).queue v q with held := some m } := givenIsles_queue m hwo
  have hcommitted : committed u v q = some m :=
    committed_of_held (by rw [hqueue]) (by rw [hqueue]; exact hhead'.en) (by rw [hqueue]; exact hhead'.stopped) hhead.claiming hks
  have hfree' : allFree u ks = true := (allFree_congr (s := s) (t := u) ho.slots ho.dieDown ks).trans hfree
  have hreads : SameReads s u := ⟨ho.granules, ho.time, ho.same.homeByte⟩
  have hroot : (u.vf v).rootrcb = (s.vf v).rootrcb := by
    show ((givenIsles (orderedState s) v q m).vf v).rootrcb = _
    rw [givenIsles, setQueue_rootrcb v q _ hwo, State.vf, ho.vfs]
    rfl
  have hT' : tablesOf u v (pkRcb m.packet) = some T := (hreads.tablesOf hroot _).trans hT
  have hunlearned : ∀ e ∈ ((dispatchedState u v q m T).queue v q).history, e.count < 2 := by
    rw [dispatchedState_queue (queuesWf_givenIsles m hwo)]
    refine dispatched_history ?_ _
    rw [hqueue]
    show ((orderedState s).queue v q).history = []
    rw [State.queue, State.vf, ho.vfs]
    exact hhist
  rw [exec_launchDispatch, execLaunchDispatch, hstep, hcommitted]
  dsimp only
  rw [if_pos hfree', dispatchTo_inline ext hT' hargs, trySpec_unlearned hunlearned]

/-- What a dispatch leaves (R33, R34, R76, R86). -/
theorem dispatches (hw : QueuesWf s) (hquiet : Quiet s) (hspec : (s.queue v q).spec = none) (hheld : (s.queue v q).held = some l)
    (hhist : (s.queue v q).history = []) (hr : readyOf s v q = some r) (hargs : packetNum l.packet 1 1 / 4 % 2 = 0)
    (hord : (beginOrder s).ordering = true) (hact : (evaluate (beginOrder s)).act = some (.dispatch v q ks)) (hfree : allFree s ks = true)
    (hks : ks ≠ []) (hnodup : ks.Nodup) (hT : tablesOf s v (packetNum l.packet 0x10 8) = some T) :
    After (.launchDispatch v q ext) s (fun t =>
      (∃ m, t.launch l.id = some m ∧ m.isles = ks ∧ m.args = (l.packet.drop 0x20).take (packetNum l.packet 4 2) ∧ m.packet = l.packet ∧
        m.header = l.header ∧ m.chain = T.chain ∧ m.doms = domainsOf s T.chain ∧ m.eff = T.eff ∧ m.segs = T.segs ∧ m.part = T.part ∧
        m.pred = (s.queue v q).last ∧ m.since = s.time) ∧
      (t.queue v q).held = none ∧ (t.queue v q).head = (s.queue v q).head + 1 ∧ (t.queue v q).last = some l.id ∧
      (∀ k, k ∉ ks → t.inst k = s.inst k) ∧ KeepsMemory s t ∧
      ∀ n k, ks[n]? = some k → ∃ i, t.inst k = some i ∧ i.launch = l.id ∧ i.rank = n ∧ i.life = .running ∧ i.vcyc = 0 ∧ i.fex = 0 ∧
        i.v = [] ∧ i.m = [] ∧ i.t = [] ∧ i.acc = [] ∧ i.h = [] ∧ i.qs = List.replicate 8 ⟨[], 0, []⟩ ∧
        i.win = BitVec.ofNat 12 (packetNum l.header 0x10 2) ∧
        ∀ c, (i.ctx c).pc = BitVec.ofNat 64 (packetNum l.packet 8 8 + 128) ∧ (i.ctx c).live = true ∧ (i.ctx c).g = [] ∧
          (i.ctx c).walk = 0 ∧ (i.ctx c).stack = []) := by
  obtain ⟨r', hx⟩ := exec_dispatch (ext := ext) hw hquiet hspec hheld hhist hr (pkArgptr_eq _ hargs) hord hact hfree hks hT
  have ho := orderOnly_ordered s
  have hwo : QueuesWf (orderedState s) := by unfold QueuesWf; rw [ho.vfs]; exact hw
  have hqo : (orderedState s).queue v q = s.queue v q := by rw [State.queue, State.vf, ho.vfs]; rfl
  let m : Launch := { l with isles := ks, chain := r'.chain, eff := r'.eff }
  let u := givenIsles (orderedState s) v q m
  have hqueue : u.queue v q = { s.queue v q with held := some m } := by rw [← hqo]; exact givenIsles_queue m hwo
  have hreads : SameReads s u := ⟨ho.granules, ho.time, ho.same.homeByte⟩
  have htq : (dispatchedState u v q m T).queue v q = (u.queue v q).dispatched (liveLaunch u v q m T) :=
    dispatchedState_queue (queuesWf_givenIsles m hwo)
  rw [hqueue] at htq
  refine ⟨_, hx, ⟨liveLaunch u v q m T, dispatchedState_launch, rfl, rfl, rfl, rfl, rfl, hreads.domainsOf T.chain, rfl, rfl, rfl, ?_, hreads.time⟩,
    ?_, ?_, ?_, fun k hk => ?_, ?_, fun n k hn => ?_⟩
  · show (u.queue v q).last = _
    rw [hqueue]
  · exact (congrArg HwQueue.held htq).trans rfl
  · exact (congrArg HwQueue.head htq).trans rfl
  · exact (congrArg HwQueue.last htq).trans rfl
  · refine (dispatchedState_other hk).trans ?_
    show (orderedState s).inst k = s.inst k
    rw [State.inst, ho.slots]
    rfl
  · exact (ho.same.trans (SameBytes.trans (t := u) ⟨rfl, rfl⟩ dispatchedState_same)).keepsMemory
  · obtain ⟨w, uid, hi⟩ := dispatchedState_rank (s := u) (v := v) (q := q) (T := T) (l := m) hnodup hn
    refine ⟨_, hi, rfl, rfl, rfl, rfl, rfl, rfl, rfl, rfl, rfl, rfl, rfl, rfl, fun c => ?_⟩
    cases c <;> exact ⟨rfl, rfl, rfl, rfl, rfl⟩

end

/-- Settles O51: dispatch, the save and its slot, resumption, the timeout of a speculation, the commit writes and the end of a claim. -/
theorem schedulerEvents : Obligations.SchedulerEvents := by
  unfold Obligations.SchedulerEvents
  refine ⟨fun s v q l T ks ext r hw hquiet hspec hheld hhist hr hargs hord hact hfree hks hnodup hT =>
      dispatches hw hquiet hspec hheld hhist hr hargs hord hact hfree hks hnodup hT,
    fun s k i hi hlife hb hblocks hn _ => save_completes s k i hi hlife hb hblocks hn,
    fun s i a n b hn hb => registers_in_slot s i a n b hn hb,
    fun s uid k i hquiet hord hact hk hfree hfind => resumes hquiet hord hact hk hfree hfind,
    fun s v q id l hq hl hspec hlate => speculation_times_out hq hl hspec hlate,
    fun s a p x l hf hk hp hh hl hspec hmay hpp hd hm hver => commit_performed hf hk hp hh hl hspec hmay hpp hd hm hver,
    fun s v q id l hq hl hclaim hid hw => ⟨claim_waits hq hl hid, fun h => ?_⟩⟩
  subst hid
  have htq := commitEnd_queue (s := s) (v := v) (q := q) (l := l) hw
  refine ⟨commitEnd v q l s, claim_completes hq hl hclaim rfl h, commitEnd_launch hl, ?_, fun h hh hid => ?_, fun hh => ?_,
    commitEnd_same.keepsMemory, commitEnd_inst⟩
  · rw [htq, committed_spec]
  · rw [htq]
    exact committed_held hh hid
  · rw [htq]
    exact committed_alone _ hh

end Sys2Proof.Proofs

/-!
PROOFS. FENCE, WAITVIS and WAIT (O22).
-/
namespace Sys2Proof.Machine

open Sys2Proof.Safety

/-- A word that holds leaves what it has done once, and its context is blocked (R308, R330). -/
theorem exec_of_hold {ins : Instr} {s t : State} {k : Nat} {c : Ctx} {i : Inst} {b : Block} {body : Env → Verdict}
    (h : Reached ins s k c i) (he : exec ins s = runWord ins s body) (hb : body ⟨s, k, c, i⟩ = .hold t b) :
    exec ins s = .next (t.updInst k (fun i => i.updCtx c (fun x => x.blocked b i.vcyc))) := by
  rw [he, runWord_reached h body, hb]; rfl

/-- Reading source fields pops queues, and no vc passes. -/
theorem readG_vcyc {c : Ctx} {i j : Inst} {gs : List (BitVec 5)} {vals : List Word} (h : readG c i gs = .ok vals j) :
    j.vcyc = i.vcyc := by
  have hafter : ∀ {x : Fetched} {v : Word} {vals : List Word}, x.after v = .ok vals j → ∃ vs, x = .ok vs j := by
    intro x v vals hx
    cases x with
    | wait b => cases hx
    | ok vs i => cases hx; exact ⟨vs, rfl⟩
  induction gs generalizing i vals with
  | nil => cases h; rfl
  | cons f fs ih =>
    by_cases hf : 24 ≤ f.toNat
    · rw [readG_queue c i f fs hf] at h
      split at h
      · cases h
      · split at h
        · cases h
        · obtain ⟨vs, hvs⟩ := hafter h
          exact (ih hvs).trans (updCtx_vcyc _ _ _)
    · rw [readG_reg c i f fs (by omega)] at h
      obtain ⟨vs, hvs⟩ := hafter h
      exact ih hvs

theorem hostFencePending_iff (s : State) (uid : Nat) (c : Ctx) :
    hostFencePending s uid c = true ↔ ∃ a ∈ s.acc, a.same uid c = true ∧ a.kind = .hostFence := by
  simp [hostFencePending]

/-- R139: no FENCE of isle or die scope reads the host link, nor one of a context that has not written to it. -/
theorem fencesHost_false {e : Env} {sc : Scope} (h : sc = .isle ∨ sc = .die ∨ e.x.hostWr = false) : fencesHost e sc = false := by
  unfold fencesHost
  obtain rfl | rfl | h := h
  · rfl
  · rfl
  · rw [h, Bool.and_false]

theorem fencesHost_true {e : Env} {sc : Scope} (h : sc = .dev ∨ sc = .dom) (hw : e.x.hostWr = true) : fencesHost e sc = true := by
  unfold fencesHost
  rw [hw, Bool.and_true]
  obtain rfl | rfl := h <;> rfl

section Fence

variable {o : FenceOp} {s : State} {k : Nat} {c : Ctx} {i : Inst} (h : Reached (.fence o) s k c i)

include h

/-- R304: a FENCE that has not read the host link yet, by its condition. -/
theorem fence_first (hf : (i.ctx c).fenced = false) :
    (fenceReady s k i.uid c (i.ctx c) o.scope = false → Waits (.fence o) s k c i .order) ∧
    (fenceReady s k i.uid c (i.ctx c) o.scope = true →
      ((o.scope = .isle ∨ o.scope = .die ∨ (i.ctx c).hostWr = false) → Completes (.fence o) s k c i) ∧
      ((o.scope = .dev ∨ o.scope = .dom) → (i.ctx c).hostWr = true →
        exec (.fence o) s = .next ((issueAccess ⟨s, k, c, i⟩ .hostFence false [hostFencePart] none i s).updInst k
          (fun i => i.updCtx c (fun x => { x with fenced := true }.blocked .order i.vcyc))))) := by
  refine ⟨fun hr => ?_, fun hr => ⟨fun hn => ?_, fun hsc hw => ?_⟩⟩
  · refine waits_of_block h (exec_fence o s) ?_
    simp [Env.x, hf, hr]
  · have hno : fencesHost ⟨s, k, c, i⟩ o.scope = false := fencesHost_false hn
    refine completes_of_same h (exec_fence o s) ?_
    simp [Env.x, hf, hr, hno]
  · have hyes : fencesHost ⟨s, k, c, i⟩ o.scope = true := fencesHost_true hsc hw
    refine (exec_of_hold h (exec_fence o s) (b := .order)
      (t := (issueAccess ⟨s, k, c, i⟩ .hostFence false [hostFencePart] none i s).updInst k
        (fun i => i.updCtx c (fun x => { x with fenced := true }))) ?_).trans ?_
    · simp [Env.x, hf, hr, hyes]
    · simp only [updInst_updInst, updCtx_updCtx, updCtx_vcyc]

/-- R139: a FENCE that reads the host link issues when that read is performed. -/
theorem fence_second (hf : (i.ctx c).fenced = true) :
    ((∃ a ∈ s.acc, a.same i.uid c = true ∧ a.kind = .hostFence) → Waits (.fence o) s k c i .order) ∧
    ((∀ a ∈ s.acc, a.same i.uid c = true → a.kind ≠ .hostFence) → Completes (.fence o) s k c i) := by
  refine ⟨fun hp => ?_, fun hn => ?_⟩
  · have hpend := (hostFencePending_iff s i.uid c).mpr hp
    refine waits_of_block h (exec_fence o s) ?_
    simp [Env.x, hf, hpend]
  · have hpend : hostFencePending s i.uid c = false := by
      rw [← Bool.not_eq_true, hostFencePending_iff]
      rintro ⟨a, ha, hs, hk⟩
      exact hn a ha hs hk
    refine completes_of_same h (exec_fence o s) ?_
    simp [Env.x, hf, hpend]

end Fence

/-- R311: WAITVIS, by the predecessor of its launch. -/
theorem waitvis_cases {o : TagOp} {s : State} {k : Nat} {c : Ctx} {i : Inst} {l : Launch} (h : Reached (.waitvis o) s k c i)
    (hl : Plain s i l) :
    ((l.pred = none ∨ ∃ p, l.pred = some p ∧ s.launch p = none) → Completes (.waitvis o) s k c i) ∧
    (∀ p m, l.pred = some p → s.launch p = some m → Waits (.waitvis o) s k c i .waitvis) := by
  have hspec : (Env.mk s k c i).spec = false := spec_of_plain hl.1 hl.2
  have hlaunch : (Env.mk s k c i).launch = some l := hl.1
  refine ⟨fun hp => completes_of_same h (exec_waitvis o s) ?_, fun p m hp hm => waits_of_block h (exec_waitvis o s) ?_⟩
  · obtain hp | ⟨p, hp, hm⟩ := hp
    · simp [hspec, Env.withLaunch, hlaunch, hp]
    · simp [hspec, Env.withLaunch, hlaunch, hp, hm]
  · simp [hspec, Env.withLaunch, hlaunch, hp, hm]

theorem countReached_true {cnt n : BitVec 32} (h : 0 ≤ (cnt - n).toInt) : countReached cnt n = true := decide_eq_true h

theorem countReached_false {cnt n : BitVec 32} (h : (cnt - n).toInt < 0) : countReached cnt n = false :=
  decide_eq_false (Int.not_le.mpr h)

section Wait

variable {o : WaitOp} {s : State} {k : Nat} {c : Ctx} {i : Inst} (h : Reached (.wait o) s k c i)

include h

/-- R330: WAIT with a count that it has read. -/
theorem wait_counted {n : BitVec 32} (hn : (i.ctx c).waitCount = some n) :
    (0 ≤ (i.cnt o.eng - n).toInt → Completes (.wait o) s k c (observeEngine c o.eng i)) ∧
    ((i.cnt o.eng - n).toInt < 0 → Waits (.wait o) s k c i .wait) := by
  refine ⟨fun hc => completes_of_go h (exec_wait o s) ?_, fun hc => waits_of_block h (exec_wait o s) ?_⟩
  · simp [Env.x, hn, countReached_true hc]
  · simp [Env.x, hn, countReached_false hc]

/-- R330: WAIT as it reads its count. -/
theorem wait_reads {x : Word} {j : Inst} (hn : (i.ctx c).waitCount = none) (hs : Sources i c [o.d] [] [x] j) :
    (0 ≤ (i.cnt o.eng - x.setWidth 32).toInt → Completes (.wait o) s k c (observeEngine c o.eng j)) ∧
    ((i.cnt o.eng - x.setWidth 32).toInt < 0 → ∃ t, exec (.wait o) s = .next t ∧ OnlyIsle k s t ∧
      t.inst k = some (j.updCtx c (fun y => { y with waitCount := some (x.setWidth 32) } |>.blocked .wait i.vcyc))) := by
  have hsrc := fun body => withSources_ok (e := ⟨s, k, c, i⟩) (vs := []) hs (by simp) body
  refine ⟨fun hc => completes_of_go h (exec_wait o s) ?_, fun hc => ?_⟩
  · simp only [Env.x, hn]
    refine (hsrc _).trans ?_
    simp [src, countReached_true hc]
  · refine ⟨_, exec_of_hold h (exec_wait o s) (b := .wait)
      (t := (s.setInst k j).setInst k (j.updCtx c (fun y => { y with waitCount := some (x.setWidth 32) }))) ?_, ?_, ?_⟩
    · simp only [Env.x, hn]
      refine (hsrc _).trans ?_
      simp [src, countReached_false hc]
    · exact onlyIsle_updInst k s _ _ (onlyIsle_setInst k s _ _ (onlyIsle_setInst k s s j (onlyIsle_refl k s)))
    · rw [inst_updInst_self, inst_setInst_self, Option.map_some, updCtx_updCtx, updCtx_vcyc, readG_vcyc hs.read]

end Wait

end Sys2Proof.Machine

namespace Sys2Proof.Proofs

open Sys2Proof.Machine Sys2Proof.Safety

/-- Settles O22: FENCE before and after its read of the host link, WAITVIS by its predecessor, WAIT with its count read or to be read. -/
theorem fencesAndWaits : Obligations.FencesAndWaits := by
  unfold Obligations.FencesAndWaits
  refine ⟨fun o s k c i h => ⟨fun hf => (fence_first h hf).1, fun hf => (fence_first h hf).2, fence_second h⟩,
    fun o s k c i l => waitvis_cases, fun o s k c i h => ⟨fun n => wait_counted h, fun x j => wait_reads h⟩⟩

end Sys2Proof.Proofs

/-!
PROOFS. A write of the device and the speculations that it dooms, completion records, and settling (O47).
-/
namespace Sys2Proof.Machine

open Sys2Proof.Safety

/-! ## What a write of the device leaves of launches and queues (R99) -/

theorem keys_del_sublist {α : Type} (l : List (Nat × α)) (k : Nat) :
    ((Assoc.del l k).map Prod.fst).Sublist (l.map Prod.fst) := by
  show ((Sparse.erase l k).map Prod.fst).Sublist _
  induction l with
  | nil => exact .slnil
  | cons p l ih =>
    unfold Sparse.erase
    split
    · exact List.sublist_cons_self _ _
    · exact ih.cons_cons _

/-- In a table without double keys a record is what its key finds. -/
theorem find_of_mem {α : Type} {l : List (Nat × α)} (hn : (l.map Prod.fst).Nodup) {p : Nat × α} (hp : p ∈ l) :
    Assoc.find l p.1 = some p.2 := by
  induction l with
  | nil => cases hp
  | cons q l ih =>
    obtain ⟨hq, hl⟩ := List.nodup_cons.mp hn
    unfold Assoc.find
    obtain rfl | hp := List.mem_cons.mp hp
    · exact if_pos rfl
    · have hne : q.1 ≠ p.1 := fun e => hq (e ▸ List.mem_map_of_mem hp)
      rw [if_neg hne]
      exact ih hl hp

/-- From s to t no launch has come, and the queues have changed in their speculations alone. -/
structure Discards (s t : State) : Prop where
  keys : (t.launches.map Prod.fst).Sublist (s.launches.map Prod.fst)
  tables : QueuesWf s → QueuesWf t
  queue : QueuesWf s → ∀ v q, ∃ x, t.queue v q = { s.queue v q with spec := x }

theorem Discards.trans {s t u : State} (h : Discards s t) (g : Discards t u) : Discards s u := by
  refine ⟨g.keys.trans h.keys, fun hw => g.tables (h.tables hw), fun hw v q => ?_⟩
  obtain ⟨x, hx⟩ := h.queue hw v q
  obtain ⟨y, hy⟩ := g.queue (h.tables hw) v q
  exact ⟨y, by rw [hy, hx]⟩

theorem Discards.of_eq {s t : State} (hl : t.launches = s.launches) (hv : t.vfs = s.vfs) : Discards s t := by
  refine ⟨by rw [hl], fun h => ?_, fun _ v q => ⟨(s.queue v q).spec, ?_⟩⟩
  · unfold QueuesWf; rw [hv]; exact h
  · rw [State.queue, State.vf, hv]; rfl

theorem discards_discardSpec (id : Nat) (s : State) : Discards s (discardSpec .doom id s) := by
  cases hl : s.launch id with
  | none =>
    have he : discardSpec .doom id s = s := by unfold discardSpec; rw [hl]
    rw [he]; exact .of_eq rfl rfl
  | some l =>
    rw [discardSpec_doom hl]
    refine ⟨keys_del_sublist _ _, fun hw => ⟨Sparse.wf_set _ _ _ _ hw.1, fun p hp => ?_⟩, fun hw v q => ?_⟩
    · obtain rfl | hp := mem_set _ _ _ _ _ hp
      · exact Sparse.wf_set _ _ _ _ (queuesWf_vf s l.vf hw)
      · exact hw.2 p hp
    · by_cases hv : v = l.vf
      · subst hv
        refine (?_ : ∃ x, Vf.queue (State.vf (s.setVf l.vf _) l.vf) q = _)
        rw [vf_setVf_self s l.vf _ hw.1]
        by_cases hq : q = l.q
        · subst hq
          exact ⟨none, Sparse.get_set_self _ _ _ _ (queuesWf_vf s l.vf hw)⟩
        · exact ⟨(s.queue l.vf q).spec, Sparse.get_set_other _ _ _ _ _ hq⟩
      · exact ⟨(s.queue v q).spec, congrArg (Vf.queue · q) (vf_setVf_other s l.vf v _ hv)⟩

theorem discards_foldl (ids : List Nat) (s : State) : Discards s (ids.foldl (fun s id => discardSpec .doom id s) s) := by
  induction ids generalizing s with
  | nil => exact .of_eq rfl rfl
  | cons id ids ih => exact (discards_discardSpec id s).trans (ih _)

/-- A launch that is none of the discarded stands as it stood. -/
theorem foldl_discardSpec_launch (ids : List Nat) (s : State) {n : Nat} (h : n ∉ ids) :
    (ids.foldl (fun s id => discardSpec .doom id s) s).launch n = s.launch n := by
  induction ids generalizing s with
  | nil => rfl
  | cons id ids ih =>
    obtain ⟨hne, hids⟩ := not_or.mp (fun e => h (List.mem_cons.mpr e))
    exact (ih _ hids).trans (spared_discardSpec .doom n id s (Ne.symm hne)).launch

/-- What is discarded from s to t are speculations. -/
structure Dooms (s t : State) : Prop extends Discards s t where
  plain : (s.launches.map Prod.fst).Nodup → ∀ n m, s.launch n = some m → m.spec = false → t.launch n = some m

theorem Dooms.trans {s t u : State} (h : Dooms s t) (g : Dooms t u) : Dooms s u :=
  ⟨h.toDiscards.trans g.toDiscards, fun hn n m hm hp => g.plain (hn.sublist h.keys) n m (h.plain hn n m hm hp) hp⟩

theorem Dooms.of_eq {s t : State} (hl : t.launches = s.launches) (hv : t.vfs = s.vfs) : Dooms s t :=
  ⟨.of_eq hl hv, fun _ n m h _ => by rw [← h, State.launch, hl]; rfl⟩

theorem dooms_doomWritten (w : Writer) (cells : List (Nat × Byte)) (s : State) : Dooms s (doomWritten w cells s) := by
  refine ⟨discards_foldl _ s, fun hn n m hm hp => (foldl_discardSpec_launch _ s (fun hd => ?_)).trans hm⟩
  obtain ⟨p, hp', rfl⟩ := List.mem_map.mp hd
  obtain ⟨hmem, hcond⟩ := List.mem_filter.mp hp'
  have hsame : some p.2 = some m := (find_of_mem hn hmem).symm.trans hm
  cases hsame
  simp [hp] at hcond

theorem dooms_writeHome (cells : List (Nat × Byte)) (s : State) : Dooms s (writeHome cells s) := by
  unfold writeHome writeCells
  split
  · exact .of_eq rfl rfl
  · exact Dooms.trans (t := markDirty 257 cells (clearPoison cells (putCells cells s))) (.of_eq rfl rfl) (dooms_doomWritten none cells _)

theorem dooms_ownPerform (a : Nat) (kind : ReqKind) (s : State) : Dooms s (ownPerform a kind s) := by
  unfold ownPerform
  split
  · exact dooms_writeHome _ s
  · exact dooms_writeHome _ s
  · exact dooms_writeHome _ s
  · exact .of_eq rfl rfl

theorem dooms_ownRequest {a : Nat} {s : State} (h : AtHome s a) (kind : ReqKind) : Dooms s (ownRequest a kind s) := by
  rw [ownRequest_atHome a kind s h]
  exact dooms_ownPerform a kind s

/-! ## Completion records (R79, R80) -/

/-- R409: byte va of a structure that a launch writes is DRAM byte a. -/
theorem launchTgt_dram {l : Launch} {va a : Nat}
    (h : ∃ g, findSeg l.segs va = .ok g ∧ g.w = true ∧ segTgt (selfOf l.part) g va = .dram a) :
    ∃ g, launchTgt l.segs (selfOf l.part) (fun e => e.w) va = some (g, .dram a) := by
  obtain ⟨g, hg, hw, ht⟩ := h
  exact ⟨g, by simp [launchTgt, hg, hw, ht]⟩

theorem recordAmo_dram {segs : List Seg} {part : Partition} {va a : Nat} (f : AmoFn) (x : Nat) (s : State)
    (h : ∃ g, launchTgt segs (selfOf part) (fun e => e.w) va = some (g, .dram a)) :
    recordAmo segs part va f x s = ownRequest a (.amo f x 8 false) s := by
  obtain ⟨g, h⟩ := h
  simp only [recordAmo, h]

/-- STATUS bits due are joined to the 8 bytes at a (R80). -/
def joinStatus (a status : Nat) (s : State) : State := if status = 0 then s else ownRequest a (.amo .or status 8 false) s

/-- The record at DRAM byte a: STATUS first, then COUNT (R80). -/
theorem completionAt_dram {segs : List Seg} {part : Partition} {caddr a : Nat} (status : Nat) (s : State) (hc : caddr ≠ 0)
    (h : ∃ g, launchTgt segs (selfOf part) (fun e => e.w) caddr = some (g, .dram a))
    (h8 : ∃ g, launchTgt segs (selfOf part) (fun e => e.w) (caddr + 8) = some (g, .dram (a + 8))) :
    completionAt s segs part caddr status = ownRequest a (.amo .add 1 8 false) (joinStatus (a + 8) status s) := by
  unfold completionAt joinStatus
  rw [if_neg hc, recordAmo_dram .or status s h8]
  exact recordAmo_dram .add 1 _ h

/-- The cells of STATUS bits that are due. -/
def statusCells (a status : Nat) (s : State) : List (Nat × Byte) := if status = 0 then [] else cellsOf a 8 (homeNat s a 8 ||| status)

theorem wrote_joinStatus {a : Nat} {s : State} (status : Nat) (hm : MemWf s.mem) (h : AtHome s a) :
    Wrote (statusCells a status s) s (joinStatus a status s) := by
  unfold statusCells joinStatus
  split
  · exact .refl s hm
  · exact wrote_ownRequest_or a 8 status s hm h false

theorem dooms_joinStatus {a : Nat} {s : State} (status : Nat) (h : AtHome s a) : Dooms s (joinStatus a status s) := by
  unfold joinStatus
  split
  · exact .of_eq rfl rfl
  · exact dooms_ownRequest h _

theorem find_statusCells_out (a status y : Nat) (s : State) (h : y < a ∨ a + 8 ≤ y) : Assoc.find (statusCells a status s) y = none := by
  unfold statusCells
  split
  · rfl
  · exact find_cellsOf_out _ _ _ _ h

theorem homeNat_joinStatus {a status : Nat} {s : State} (hm : MemWf s.mem) (h : AtHome s a) (hs : status < 2 ^ 64) :
    homeNat (joinStatus a status s) a 8 = homeNat s a 8 ||| status := by
  have hw := wrote_joinStatus status hm h
  by_cases h0 : status = 0
  · rw [h0, Nat.or_zero]; rfl
  · rw [statusCells, if_neg h0] at hw
    rw [hw.homeNat_in a 8 _ (fun y h1 h2 => find_cellsOf_in _ _ _ _ h1 h2)]
    exact Nat.mod_eq_of_lt (Nat.or_lt_two_pow (homeNat_lt s a 8) hs)

/-- COUNT and STATUS of a record at home after a completion; every other byte reads as before. -/
theorem completion_numbers {a status : Nat} {s : State} (hm : MemWf s.mem) (hh : ∀ n, n < 16 → AtHome s (a + n)) (hs : status < 2 ^ 64) :
    let t := ownRequest a (.amo .add 1 8 false) (joinStatus (a + 8) status s)
    homeNat t a 8 = (homeNat s a 8 + 1) % 2 ^ 64 ∧ homeNat t (a + 8) 8 = homeNat s (a + 8) 8 ||| status ∧
      ∀ x, (x < a ∨ a + 16 ≤ x) → homeByte t x = homeByte s x := by
  have hjoin := wrote_joinStatus status hm (hh 8 (by omega))
  have hadd := wrote_ownRequest_add a 8 1 _ hjoin.memWf ((hjoin.atHome a).mpr (hh 0 (by omega))) false
  have hcount := hjoin.homeNat_out a 8 (fun y _ h2 => find_statusCells_out _ _ _ _ (by omega))
  refine ⟨?_, ?_, fun x hx => ?_⟩
  · rw [hadd.homeNat_in a 8 _ (fun y h1 h2 => find_cellsOf_in _ _ _ _ h1 h2), hcount]
  · rw [hadd.homeNat_out (a + 8) 8 (fun y h1 _ => find_cellsOf_out _ _ _ _ (by omega)),
      homeNat_joinStatus hm (hh 8 (by omega)) hs]
  · rw [hadd.homeByte_out x (find_cellsOf_out _ _ _ _ (by omega)), hjoin.homeByte_out x (find_statusCells_out _ _ _ _ (by omega))]

/-! ## Settling (R78) -/

/-- A write of launch id is not acknowledged, or an isle holds a command of it. -/
def unfinished (id : Nat) (s : State) : Bool :=
  s.acc.any (fun a => a.launch = id && a.settles) || s.slots.any (fun p => p.2.launch = id && !p.2.cmds.isEmpty)

theorem unfinished_iff (id : Nat) (s : State) : unfinished id s = true ↔
    (∃ x ∈ s.acc, x.launch = id ∧ x.settles = true) ∨ ∃ p ∈ s.slots, p.2.launch = id ∧ p.2.cmds ≠ [] := by
  simp [unfinished]

/-- Launch l is gone from u, and its queue waits for it no more. -/
def settled (l : Launch) (id : Nat) (u : State) : State :=
  { u.setQueue l.vf l.q { u.queue l.vf l.q with unsettled := (u.queue l.vf l.q).unsettled.filter (fun x => x ≠ id) } with
    launches := Assoc.del u.launches id }

theorem settleLaunch_eq {id : Nat} {s : State} {l : Launch} (hl : s.launch id = some l) :
    settleLaunch id s = if l.retired && !unfinished id s && !l.claiming then
      settled l id (completionAt s l.segs l.part (packetField l.packet 0x18 8) l.status) else s := by
  unfold settleLaunch
  rw [hl]
  rfl

theorem settled_same (l : Launch) (id : Nat) (u : State) : SameBytes u (settled l id u) := ⟨rfl, rfl⟩

theorem settled_gone {l : Launch} {id : Nat} {u : State} (h : (u.launches.map Prod.fst).Nodup) : (settled l id u).launch id = none :=
  find_del_self u.launches id h

theorem settled_other {l : Launch} {id n : Nat} {u : State} (h : n ≠ id) : (settled l id u).launch n = u.launch n :=
  find_del_other u.launches id n h

theorem settled_queue {l : Launch} {id : Nat} {u : State} (h : QueuesWf u) : id ∉ ((settled l id u).queue l.vf l.q).unsettled := by
  have hq : (settled l id u).queue l.vf l.q = { u.queue l.vf l.q with unsettled := (u.queue l.vf l.q).unsettled.filter (fun x => x ≠ id) } :=
    (queueIs_setQueue u l.vf l.q _ h).1
  rw [hq]
  simp

end Sys2Proof.Machine

namespace Sys2Proof.Proofs

open Sys2Proof.Machine Sys2Proof.Safety

/-- A launch that has not retired, whose commit is under way or that is not finished does not settle (R78). -/
theorem settleLaunch_held {s : State} {id : Nat} {l : Launch} (hl : s.launch id = some l)
    (h : l.retired = false ∨ l.claiming = true ∨ unfinished id s = true) : settleLaunch id s = s := by
  rw [settleLaunch_eq hl]
  refine if_neg ?_
  obtain h | h | h := h <;> simp [h]

/-- A retired launch that is finished settles. -/
theorem settleLaunch_settles {s : State} {id : Nat} {l : Launch} (hl : s.launch id = some l) (hr : l.retired = true)
    (hc : l.claiming = false) (hu : unfinished id s = false) :
    settleLaunch id s = settled l id (completionAt s l.segs l.part (packetField l.packet 0x18 8) l.status) := by
  rw [settleLaunch_eq hl]
  exact if_pos (by simp [hr, hc, hu])

/-- Settles O47: the quiet sweep, the launch that settles with its record, and the launch that does not settle. -/
theorem settling : Obligations.Settling := by
  unfold Obligations.Settling
  refine ⟨sweep_quiet, ?_, fun s id l hl h => ?_⟩
  · intro s id l a hl hr hc hacc hslots hm hn hq caddr h0 h8 hh hc0 hs t
    have hu : unfinished id s = false := by
      rw [← Bool.not_eq_true, unfinished_iff]
      rintro (⟨x, hx, hid, -⟩ | ⟨p, hp, hid, hcmds⟩)
      · exact hacc x hx hid
      · exact hcmds (hslots p hp hid)
    have ht : t = settled l id (ownRequest a (.amo .add 1 8 false) (joinStatus (a + 8) l.status s)) :=
      (settleLaunch_settles hl hr hc hu).trans
        (congrArg (settled l id) (completionAt_dram l.status s hc0 (launchTgt_dram h0) (launchTgt_dram h8)))
    have hjoin := wrote_joinStatus l.status hm (hh 8 (by omega))
    have hdooms := (dooms_joinStatus l.status (hh 8 (by omega))).trans
      (dooms_ownRequest ((hjoin.atHome a).mpr (hh 0 (by omega))) (.amo .add 1 8 false))
    obtain ⟨hcount, hstatus, hrest⟩ := completion_numbers hm hh hs
    have hsame := settled_same l id (ownRequest a (.amo .add 1 8 false) (joinStatus (a + 8) l.status s))
    rw [ht]
    refine ⟨settled_gone (hn.sublist hdooms.keys), fun n hne hplain => ?_, ?_, ?_, fun x hx => ?_, settled_queue (hdooms.tables hq)⟩
    · obtain ⟨m, hm, hp⟩ := hplain
      rw [settled_other hne, hm]
      exact hdooms.plain hn n m hm hp
    · rw [hsame.homeNat, hcount]
    · rw [hsame.homeNat, hstatus]
    · rw [hsame.homeByte, hrest x hx]
  · refine settleLaunch_held hl ?_
    rwa [unfinished_iff]

end Sys2Proof.Proofs

/-!
PROOFS. Queues read again after an update, structures in local DRAM, and the packet at HEAD (R67 to R70).
-/
namespace Sys2Proof.Machine

open Sys2Proof.Safety

/-! ## Updates of one queue -/

theorem queueIs_trans {s t u : State} {v q : Nat} {x y : HwQueue} (h : QueueIs s t v q x) (g : QueueIs t u v q y) :
    QueueIs s u v q y := ⟨g.1, fun w r hne => (g.2 w r hne).trans (h.2 w r hne)⟩

theorem sameReads_setQueue (s : State) (v q : Nat) (x : HwQueue) : SameReads s (s.setQueue v q x) := ⟨rfl, rfl, fun _ => rfl⟩

theorem queueIs_stopQueue {s : State} {v q : Nat} (e : QErr) (hw : QueuesWf s) :
    QueueIs s (stopQueue v q e s) v q { s.queue v q with stopped := true, err := e } := queueIs_setQueue s v q _ hw

theorem stopQueue_rest (s : State) (v q : Nat) (e : QErr) :
    stopQueue v q e s = { s with vfs := (stopQueue v q e s).vfs, out := s.out ++ [.msix v 1] } := rfl

theorem queueIs_advanceHead {s : State} {v q : Nat} (hw : QueuesWf s) :
    QueueIs s (advanceHead v q s) v q { s.queue v q with head := (s.queue v q).head + 1 } := queueIs_setQueue s v q _ hw

/-- A queue that is set and then advanced. -/
theorem queueIs_set_advance {s : State} {v q : Nat} (x : HwQueue) (hw : QueuesWf s) :
    QueueIs s (advanceHead v q (s.setQueue v q x)) v q { x with head := x.head + 1 } := by
  have hx := queueIs_setQueue s v q x hw
  have h := queueIs_trans hx (queueIs_advanceHead (queuesWf_setQueue s v q x hw))
  rwa [hx.1] at h

theorem set_advance_rest (s : State) (v q : Nat) (x : HwQueue) :
    advanceHead v q (s.setQueue v q x) = { s with vfs := (advanceHead v q (s.setQueue v q x)).vfs } := rfl

theorem tablesOf_setQueue {s : State} {v q : Nat} (x : HwQueue) (hw : QueuesWf s) (rcb : Nat) :
    tablesOf (s.setQueue v q x) v rcb = tablesOf s v rcb :=
  (sameReads_setQueue s v q x).tablesOf (setQueue_rootrcb v q x hw) rcb

/-- The event stops queue (v, q), and nothing else. -/
theorem stops_of_exec {e : Instr} {s : State} {v q : Nat} {err : QErr} (hw : QueuesWf s) (he : exec e s = .next (stopQueue v q err s)) :
    Stops e s v q err := ⟨_, he, stopQueue_rest s v q err, queueIs_stopQueue err hw⟩

/-! ## Enable and TAIL (R68, R69) -/

/-- The tables of a queue's region, by its chain. -/
theorem queueSegs_eq (s : State) (v q : Nat) : queueSegs s v q =
    (chainOf s v (s.queue v q).rcb).map (fun x => (segsAt s x.2.segtab, partAt s x.2.part, x.1, x.2)) := by
  unfold queueSegs
  cases chainOf s v (s.queue v q).rcb <;> rfl

theorem queueSegs_setQueue {s : State} {v q : Nat} (x : HwQueue) (hw : QueuesWf s) : queueSegs (s.setQueue v q x) v q =
    (chainOf s v x.rcb).map (fun y => (segsAt s y.2.segtab, partAt s y.2.part, y.1, y.2)) := by
  have h := sameReads_setQueue s v q x
  rw [queueSegs_eq, (queueIs_setQueue s v q x hw).1, h.chainOf (setQueue_rootrcb v q x hw)]
  simp only [h.segsAt, h.partAt]

theorem structOk_of {s : State} {segs : List Seg} {part : Partition} {perm : Seg → Bool} {va n : Nat}
    (h : ∀ k, k < n → structAt s segs part perm (va + k) 1 ≠ none) : structOk s segs part perm va n = true :=
  List.all_eq_true.mpr (fun k hk => Option.isSome_iff_ne_none.mpr (h k (List.mem_range.mp hk)))

/-- R68: an enabled queue is good where its size, its region and its slots are. -/
theorem queueGood_of {s : State} {v q : Nat} {x : HwQueue} {c : List Nat} {e : Eff} (hw : QueuesWf s) (h4 : 4 ≤ x.logsz) (h16 : x.logsz ≤ 16)
    (hc : chainOf s v x.rcb = some (c, e))
    (hs : ∀ n, n < 64 → structAt s (segsAt s e.segtab) (partAt s e.part) (fun g => g.r) (x.base.toNat + n) 1 ≠ none) :
    queueGood (s.setQueue v q x) v q = true := by
  have hok : structOk (s.setQueue v q x) (segsAt s e.segtab) (partAt s e.part) (fun g => g.r) x.base.toNat 64 = true := structOk_of hs
  unfold queueGood
  simp [(queueIs_setQueue s v q x hw).1, queueSegs_setQueue x hw, h4, h16, hc, hok]

theorem queueGood_false {s : State} {v q : Nat} {x : HwQueue} (hw : QueuesWf s)
    (h : x.logsz < 4 ∨ 16 < x.logsz ∨ chainOf s v x.rcb = none) : queueGood (s.setQueue v q x) v q = false := by
  unfold queueGood
  simp only [(queueIs_setQueue s v q x hw).1, queueSegs_setQueue x hw]
  obtain h | h | h := h
  · simp [Nat.not_le.mpr h]
  · simp [Nat.not_le.mpr h]
  · simp [h]

section Enable

variable {s : State} {v q : Nat} {value : Word} (hs : servesQueue s v q = true) (hen : (s.queue v q).en = false) (hv : value.getLsbD 5 = true)

include hs hen hv

theorem exec_queueEnable_good (hg : queueGood (s.setQueue v q (enabledQueue (s.queue v q) value.toNat)) v q = true) :
    exec (.queueEnable v q value) s = .next (s.setQueue v q (enabledQueue (s.queue v q) value.toNat)) := by
  rw [exec_queueEnable]
  unfold execQueueEnable
  rw [bitAt_toNat, hs, hen, hv]
  exact if_pos hg

theorem exec_queueEnable_bad (hg : queueGood (s.setQueue v q (enabledQueue (s.queue v q) value.toNat)) v q = false) :
    exec (.queueEnable v q value) s = .next (stopQueue v q .badqueue (s.setQueue v q (enabledQueue (s.queue v q) value.toNat))) := by
  rw [exec_queueEnable]
  unfold execQueueEnable
  rw [bitAt_toNat, hs, hen, hv]
  exact if_neg (Bool.eq_false_iff.mp hg)

end Enable

theorem exec_queueDisable_plain {s : State} {v q : Nat} {value : Word} (hen : (s.queue v q).en = true) (hv : value.getLsbD 5 = false)
    (hspec : (s.queue v q).spec = none) : exec (.queueDisable v q value) s =
      .next (s.setQueue v q { s.queue v q with en := false, held := none, fence := none, signal := none, want := none }) := by
  rw [exec_queueDisable]
  unfold execQueueDisable
  simp only [bitAt_toNat, hen, hv, hspec, Bool.not_true, Bool.or_self, Bool.false_eq_true, if_false]

theorem exec_tailWrite_alone {s : State} {v q : Nat} {value : Word} (h : appending s v q = false) :
    exec (.tailWrite v q value) s = .next (putTail v q (value.setWidth 32) s) := by
  rw [exec_tailWrite]
  unfold execTailWrite
  simp [h]

section Tail

variable {s : State} {v q : Nat} {new : BitVec 32}

theorem putTail_off (h : (s.queue v q).en = false ∨ (s.queue v q).stopped = true) : putTail v q new s = s := by
  have hj : judgeTail (s.queue v q) new = .off := by
    unfold judgeTail
    exact if_pos (by obtain h | h := h <;> simp [h])
  unfold putTail
  rw [hj]

variable (hen : (s.queue v q).en = true) (hstop : (s.queue v q).stopped = false)

include hen hstop

/-- R69: a TAIL write to a working queue, by its distance from HEAD. -/
theorem judgeTail_works : judgeTail (s.queue v q) new =
    if 2 ^ (s.queue v q).logsz < (new - (s.queue v q).head).toNat then .overflow
    else if (new - (s.queue v q).head).toNat < ((s.queue v q).tail - (s.queue v q).head).toNat then .ignored
    else .taken := by
  unfold judgeTail
  exact if_neg (by simp [hen, hstop])

theorem putTail_overflow (h : 2 ^ (s.queue v q).logsz < (new - (s.queue v q).head).toNat) :
    putTail v q new s = stopQueue v q .overflow s := by
  unfold putTail
  rw [judgeTail_works hen hstop, if_pos h]

theorem putTail_ignored (h : (new - (s.queue v q).head).toNat ≤ 2 ^ (s.queue v q).logsz)
    (hlt : (new - (s.queue v q).head).toNat < ((s.queue v q).tail - (s.queue v q).head).toNat) : putTail v q new s = s := by
  unfold putTail
  rw [judgeTail_works hen hstop, if_neg (Nat.not_lt.mpr h), if_pos hlt]

theorem putTail_taken (h : (new - (s.queue v q).head).toNat ≤ 2 ^ (s.queue v q).logsz)
    (hle : ((s.queue v q).tail - (s.queue v q).head).toNat ≤ (new - (s.queue v q).head).toNat) :
    putTail v q new s = s.setQueue v q { s.queue v q with tail := new } := by
  unfold putTail
  rw [judgeTail_works hen hstop, if_neg (Nat.not_lt.mpr h), if_neg (Nat.not_lt.mpr hle)]

end Tail

/-! ## Bytes of structures in local DRAM (R409) -/

theorem tgtByte_home {s : State} {a : Nat} (h : AtHome s a) (va : Nat) (ext : List (Nat × Byte)) :
    tgtByte s va ext (.dram a) = .ok (homeByte s a) := by
  obtain ⟨hd, hp, -⟩ := h
  simp [tgtByte, dramPlace_home hd hp]

/-- Bytes that lie in local DRAM, at their home, are at hand. -/
theorem extBytes_home {s : State} {segs : List Seg} {part : Partition} {perm : Seg → Bool} (ext : List (Nat × Byte)) {va : Nat} {bs : List Byte}
    (h : ∀ n, n < bs.length → ∃ a, structAt s segs part perm (va + n) 1 = some (.dram a) ∧ AtHome s a ∧ bs[n]? = some (homeByte s a)) :
    extBytes s segs part perm ext bs.length va = .ok bs := by
  induction bs generalizing va with
  | nil => rfl
  | cons b bs ih =>
    obtain ⟨a, hat, hh, hb⟩ := h 0 (Nat.zero_lt_succ _)
    have hfirst : extByte s segs part perm ext va = .ok b := by
      unfold extByte
      rw [Nat.add_zero] at hat
      rw [hat]
      exact (tgtByte_home hh va ext).trans (congrArg Got.ok (Option.some.inj hb).symm)
    have hrest : extBytes s segs part perm ext bs.length (va + 1) = .ok bs :=
      ih (fun n hn => by rw [Nat.add_assoc, Nat.add_comm 1 n]; exact h (n + 1) (Nat.succ_lt_succ hn))
    rw [List.length_cons, extBytes, hfirst, hrest]

/-- A counter of 8 bytes in local DRAM, at their home (R72). -/
theorem counterValue_home {s : State} {a : Nat} (h : ∀ n, n < 8 → AtHome s (a + n)) (ext : List (Nat × Byte)) (va : Nat) :
    counterValue s ext va (.dram a) = some (BitVec.ofNat 64 (homeNat s a 8)) := by
  have hbytes : (upto 8).map (fun k => tgtByte s (va + k) ext (.dram (a + k))) = (homeBytes s a 8).map Got.ok := by
    unfold homeBytes
    rw [List.map_map]
    exact List.map_congr_left (fun k hk => tgtByte_home (h k (List.mem_range.mp hk)) _ ext)
  have hlen : (homeBytes s a 8).length = 8 := by simp [homeBytes, upto]
  have hvals : (homeBytes s a 8).filterMap some = homeBytes s a 8 := List.filterMap_some
  unfold counterValue
  dsimp only
  rw [hbytes, List.filterMap_map]
  refine (if_pos ((congrArg List.length hvals).trans hlen)).trans ?_
  exact congrArg (fun bs => some (BitVec.ofNat 64 (leNat bs))) hvals

/-! ## The packet at HEAD (R70) -/

theorem packetNum_lt (p : List Byte) (off n : Nat) : packetNum p off n < 2 ^ (8 * n) :=
  Nat.lt_of_lt_of_le (leNat_lt _) (Nat.pow_le_pow_right (by omega) (Nat.mul_le_mul_left 8 (List.length_take_le n _)))

/-- The high bits of a number that has some. -/
theorem field_high_ne_zero {x lo n : Nat} (h : 2 ^ lo ≤ x) (hx : x < 2 ^ (lo + n)) : field x lo n ≠ 0 := by
  unfold field
  rw [Nat.mod_eq_of_lt (by rw [Nat.div_lt_iff_lt_mul (Nat.two_pow_pos lo), ← Nat.pow_add, Nat.add_comm]; exact hx)]
  exact Nat.pos_iff_ne_zero.mp (Nat.div_pos h (Nat.two_pow_pos lo))

section Head

variable {s : State} {v q : Nat} {segs : List Seg} {part : Partition} {chain : List Nat} {p : List Byte} (h : HeadPacket s v q segs part chain p)

include h

theorem mayParse_head : mayParse s (s.queue v q) = true := by
  obtain ⟨hboot, hfail⟩ := h.works
  obtain ⟨hen, hstop, hne⟩ := h.parses
  obtain ⟨hheld, hfence, hsignal⟩ := h.idle
  simp [mayParse, inOperation, hboot, hfail, hen, hstop, hne, hheld, hfence, hsignal]

/-- The packet opens, whatever bytes come with the event. -/
theorem openPacket_head (ext : List (Nat × Byte)) : openPacket s v q ext = .packet segs part chain p := by
  obtain ⟨e, hchain, hsegs, hpart⟩ := h.region
  have hregion : queueSegs s v q = some (segs, part, chain, e) := by rw [queueSegs_eq, hchain, hsegs, hpart]; rfl
  have hbytes : extBytes s segs part (fun g => g.r) ext 64 (slotVa (s.queue v q) (s.queue v q).head) = .ok p := by
    have hb := extBytes_home (va := slotVa (s.queue v q) (s.queue v q).head) (bs := p) ext (fun n hn => h.bytes n (h.size ▸ hn))
    rwa [h.size] at hb
  unfold openPacket
  simp only [mayParse_head h, hregion, hbytes, Bool.not_true, Bool.false_eq_true, if_false]

/-- A packet of its type is parsed by the event. -/
theorem parseAs_head {type : Nat} (ht : packetNum p 0 1 = type) (h4 : type < 4) (ext : List (Nat × Byte))
    (k : List Seg → Partition → List Nat → List Byte → State) : parseAs type v q ext s k = k segs part chain p := by
  have hpf : pf p 0 1 = type := ht
  unfold parseAs
  rw [openPacket_head h ext]
  simp only [hpf, Nat.not_le.mpr h4, if_false, if_true]

/-- A packet of an unknown type stops its queue, whichever event opens it. -/
theorem parseAs_unknown (ht : 4 ≤ packetNum p 0 1) (type : Nat) (ext : List (Nat × Byte))
    (k : List Seg → Partition → List Nat → List Byte → State) : parseAs type v q ext s k = stopQueue v q .badpkt s := by
  have hpf : 4 ≤ pf p 0 1 := ht
  unfold parseAs
  rw [openPacket_head h ext]
  simp only [hpf, if_true]

end Head

/-! ## LAUNCH (R70, R71, R77, R410) -/

theorem launchBadpkt_of {p : List Byte} (h : 8 ≤ packetNum p 1 1 ∨ packetNum p 6 2 ≠ 0 ∨ 2 ^ 48 ≤ packetNum p 8 8 ∨
    2 ^ 45 ≤ packetNum p 0x10 8 ∨ 2 ^ 48 ≤ packetNum p 0x18 8) : launchBadpkt p = true := by
  have hflags : 8 ≤ packetNum p 1 1 → field (pf p 1 1) 3 5 ≠ 0 := fun h => field_high_ne_zero (lo := 3) (n := 5) h (packetNum_lt p 1 1)
  have hkaddr : 2 ^ 48 ≤ packetNum p 8 8 → field (pkKaddr p) 48 16 ≠ 0 := fun h => field_high_ne_zero h (packetNum_lt p 8 8)
  have hrcb : 2 ^ 45 ≤ packetNum p 0x10 8 → field (pkRcb p) 45 19 ≠ 0 := fun h => field_high_ne_zero h (packetNum_lt p 0x10 8)
  have hcaddr : 2 ^ 48 ≤ packetNum p 0x18 8 → field (pkCaddr p) 48 16 ≠ 0 := fun h => field_high_ne_zero h (packetNum_lt p 0x18 8)
  have hres : packetNum p 6 2 ≠ 0 → pf p 6 2 ≠ 0 := fun h => h
  unfold launchBadpkt
  obtain h | h | h | h | h := h
  · simp [hflags h]
  · simp [hres h]
  · simp [hkaddr h]
  · simp [hrcb h]
  · simp [hcaddr h]

theorem pkMasked_bit (p : List Byte) : pkMasked p = decide (packetNum p 1 1 / 2 % 2 = 1) := rfl

theorem pkArgptr_bit (p : List Byte) : pkArgptr p = decide (packetNum p 1 1 / 4 % 2 = 1) := rfl

/-- R77: a mask without pointers. -/
theorem judgeLaunch_unpointed {s : State} {v q : Nat} {ext : List (Nat × Byte)} {p : List Byte} (hm : packetNum p 1 1 / 2 % 2 = 1)
    (ha : packetNum p 1 1 / 4 % 2 = 0) : judgeLaunch s v q ext p = .reject 6 := by
  unfold judgeLaunch
  rw [pkMasked_bit, pkArgptr_bit, hm, ha]
  rfl

/-- R77: a region whose chain fails. -/
theorem judgeLaunch_regionless {s : State} {v q : Nat} {ext : List (Nat × Byte)} {p : List Byte}
    (hp : packetNum p 1 1 / 2 % 2 = 0 ∨ packetNum p 1 1 / 4 % 2 = 1) (ht : tablesOf s v (packetNum p 0x10 8) = none) :
    judgeLaunch s v q ext p = .reject 4 := by
  have ht' : tablesOf s v (pkRcb p) = none := ht
  unfold judgeLaunch
  rw [pkMasked_bit, pkArgptr_bit, ht']
  refine if_neg ?_
  obtain hp | hp := hp <;> simp [hp]

/-- The entry of a rejected LAUNCH (R77, R374). -/
def rejectEntry (q c : Nat) (p : List Byte) : FaultEntry := ⟨cREJECT, q * 256 + c, 0, 0, 0, BitVec.ofNat 64 (pkKaddr p), 0, false⟩

/-- Without a region of its own a LAUNCH is entered in its queue's. -/
theorem rejectLaunch_regionless {s : State} {v q c own : Nat} {p : List Byte} (ht : tablesOf s v (packetNum p 0x10 8) = none) :
    rejectLaunch v q c p own s = recordEntry own (rejectEntry q c p) s := by
  have ht' : tablesOf s v (pkRcb p) = none := ht
  unfold rejectLaunch
  simp only [ht']
  rfl

/-- Without a completion record a LAUNCH is entered in its region's record, and that is all. -/
theorem rejectLaunch_recordless {s : State} {v q c own : Nat} {p : List Byte} (ht : tablesOf s v (packetNum p 0x10 8) ≠ none)
    (hc : packetNum p 0x18 8 = 0) : rejectLaunch v q c p own s = recordEntry (packetNum p 0x10 8) (rejectEntry q c p) s := by
  obtain ⟨t, ht'⟩ := Option.ne_none_iff_exists'.mp ht
  have hrcb : tablesOf s v (pkRcb p) = some t := ht'
  have hcaddr : pkCaddr p = 0 := hc
  unfold rejectLaunch
  simp only [hrcb, hcaddr, completionAt, if_true, ite_self]
  rfl

/-! ## FENCE (R72) -/

/-- A FENCE of one counter with its unused fields zero. -/
theorem fenceBadpkt_one {p : List Byte} (hflags : packetNum p 1 1 = 0) (hn : packetNum p 2 1 = 1) (hres : packetNum p 3 5 = 0)
    (hlist : packetNum p 8 8 = 0) (hrest : ∀ k, k < 4 → packetNum p (0x20 + 8 * k) 8 = 0) : fenceBadpkt p = false := by
  have h1 : pf p 1 1 = 0 := hflags
  have h2 : pf p 2 1 = 1 := hn
  have h3 : pf p 3 5 = 0 := hres
  have h8 : pf p 8 8 = 0 := hlist
  have h20 : pf p 0x20 8 = 0 := hrest 0 (by omega)
  have h28 : pf p 0x28 8 = 0 := hrest 1 (by omega)
  have h30 : pf p 0x30 8 = 0 := hrest 2 (by omega)
  have h38 : pf p 0x38 8 = 0 := hrest 3 (by omega)
  have hk : upto 3 = [0, 1, 2] := rfl
  simp [fenceBadpkt, h1, h2, h3, h8, hk, h20, h28, h30, h38]

theorem packetNum_drop (p : List Byte) (m off n : Nat) : packetNum (p.drop m) off n = packetNum p (m + off) n := by
  unfold packetNum
  rw [List.drop_drop]

/-- The pair of a FENCE of one counter. -/
theorem fencePairs_one (p : List Byte) : fencePairs 1 (p.drop 0x10) = [(packetNum p 0x10 8, BitVec.ofNat 64 (packetNum p 0x18 8))] := by
  have h0 : pf (p.drop 0x10) 0 8 = packetNum p 0x10 8 := packetNum_drop p 0x10 0 8
  have h8 : pf (p.drop 0x10) 8 8 = packetNum p 0x18 8 := packetNum_drop p 0x10 8 8
  rw [fencePairs, fencePairs, h0, h8]

theorem fencePairs_none (bs : List Byte) : fencePairs 0 bs = [] := rfl

theorem fenceTargets_unaligned {s : State} {segs : List Seg} {part : Partition} {a : Nat} {x : Word} (h : a % 8 ≠ 0) :
    fenceTargets s segs part [(a, x)] = none := by
  rw [fenceTargets, if_pos h]

theorem fenceTargets_one {s : State} {segs : List Seg} {part : Partition} {va : Nat} {t : Tgt} {x : Word} (h : va % 8 = 0)
    (ht : structAt s segs part (fun e => e.r) va 8 = some t) : fenceTargets s segs part [(va, x)] = some [(va, t, x)] := by
  rw [fenceTargets, if_neg (not_not.mpr h), ht]
  rfl

section Counter

variable {s : State} {v q a va : Nat} {x : Word} (h : ∀ n, n < 8 → AtHome s (a + n)) (ext : List (Nat × Byte))

include h

theorem pairMet_home : pairMet s ext (va, .dram a, x) = decide (0 ≤ (BitVec.ofNat 64 (homeNat s a 8) - x).toInt) := by
  unfold pairMet
  rw [counterValue_home h ext va]

/-- The counter has reached its value: the FENCE is passed. -/
theorem readFence_met (hx : 0 ≤ (BitVec.ofNat 64 (homeNat s a 8) - x).toInt) :
    readFence v q ext [(va, .dram a, x)] s = advanceHead v q (s.setQueue v q { s.queue v q with fence := none }) := by
  unfold readFence
  simp only [List.filter_cons, List.filter_nil, pairMet_home h, hx, decide_true, Bool.not_true, Bool.false_eq_true, if_false, if_true]

/-- The counter has not: the FENCE waits for it. -/
theorem readFence_unmet (hx : (BitVec.ofNat 64 (homeNat s a 8) - x).toInt < 0) :
    readFence v q ext [(va, .dram a, x)] s = s.setQueue v q { s.queue v q with fence := some ⟨[(va, .dram a, x)], s.time⟩ } := by
  unfold readFence
  simp only [List.filter_cons, List.filter_nil, pairMet_home h, Int.not_le.mpr hx, decide_false, Bool.not_false, if_true,
    List.cons_ne_nil, if_false]

end Counter

/-! ## SIGNAL (R73) -/

theorem leNat_eq_zero {bs : List Byte} (h : leNat bs = 0) : ∀ b ∈ bs, b = 0 := by
  induction bs with
  | nil => simp
  | cons x bs ih =>
    rw [leNat] at h
    intro b hb
    obtain rfl | hb := List.mem_cons.mp hb
    · exact BitVec.eq_of_toNat_eq (show b.toNat = 0 by omega)
    · exact ih (by omega) b hb

/-- The bytes of a packet from off on are zero where the numbers of 8 bytes there are. -/
theorem drop_eq_zero {p : List Byte} {off m : Nat} (hlen : p.length ≤ off + 8 * m)
    (h : ∀ k, k < m → packetNum p (off + 8 * k) 8 = 0) : ∀ b ∈ p.drop off, b = 0 := by
  induction m generalizing off with
  | zero => intro b hb; rw [List.drop_eq_nil_of_le (by omega)] at hb; cases hb
  | succ m ih =>
    intro b hb
    rw [← List.take_append_drop 8 (p.drop off), List.drop_drop] at hb
    obtain hb | hb := List.mem_append.mp hb
    · exact leNat_eq_zero (h 0 (by omega)) b hb
    · exact ih (by omega) (fun k hk => by rw [show off + 8 + 8 * k = off + 8 * (k + 1) by ring]; exact h (k + 1) (by omega)) b hb

theorem signalBadpkt_false {p : List Byte} (hsize : p.length = 64) (hflags : packetNum p 1 1 < 2) (hres : packetNum p 2 6 = 0)
    (hrest : ∀ k, k < 5 → packetNum p (0x18 + 8 * k) 8 = 0) : signalBadpkt p = false := by
  have h1 : ¬ 1 < pf p 1 1 := Nat.not_lt.mpr (Nat.le_of_lt_succ hflags)
  have h2 : pf p 2 6 = 0 := hres
  have h3 : (p.drop 0x18).any (fun b => b ≠ 0) = false :=
    List.any_eq_false.mpr (fun b hb => by simp [drop_eq_zero (m := 5) (by omega) hrest b hb])
  unfold signalBadpkt
  rw [h2, h3]
  simp [h1]

/-- SETTLED of a SIGNAL without other flags. -/
theorem settled_flag {p : List Byte} (h : packetNum p 1 1 < 2) : bitAt (pf p 1 1) 0 = decide (packetNum p 1 1 = 1) := by
  show (packetNum p 1 1 / 2 ^ 0 % 2 == 1) = _
  rw [Nat.pow_zero, Nat.div_one, Nat.mod_eq_of_lt h]
  rfl

/-- The addition of a SIGNAL at a counter that is at home. -/
theorem signalAdd_home {s : State} {w : SignalWait} {a : Nat} (ht : w.tgt = .dram a) (h : AtHome s a) :
    signalAdd w s = .done (ownPerform a (.amo .add w.value.toNat 8 false) s) := by
  obtain ⟨hd, hp, -⟩ := h
  unfold signalAdd
  simp only [ht, dramPlace_home hd hp]

/-- The SIGNAL at the head of queue (v, q) is over. -/
def signalPast (v q : Nat) (t : State) : State := advanceHead v q (t.setQueue v q { t.queue v q with signal := none })

theorem signalPast_rest (v q : Nat) (t : State) : signalPast v q t = { t with vfs := (signalPast v q t).vfs } := rfl

theorem signalPast_same (v q : Nat) (t : State) : SameBytes t (signalPast v q t) := ⟨rfl, rfl⟩

theorem queueIs_signalPast {t : State} {v q : Nat} (hw : QueuesWf t) :
    QueueIs t (signalPast v q t) v q { t.queue v q with signal := none, head := (t.queue v q).head + 1 } := queueIs_set_advance _ hw

section SignalAdd

variable {s : State} {v q : Nat} {w : SignalWait} (hw : (s.queue v q).signal = some w)

include hw

theorem exec_signalAdd_sent (hs : w.sent = true) : exec (.signalAdd v q) s = .next (signalPast v q s) := by
  rw [exec_signalAdd]
  unfold execSignalAdd
  simp only [hw, hs, if_true]
  rfl

theorem exec_signalAdd_waits (hs : w.sent = false) (hset : w.settled = true) (hu : (s.queue v q).unsettled ≠ []) :
    exec (.signalAdd v q) s = .next s := by
  rw [exec_signalAdd]
  unfold execSignalAdd
  simp [hw, hs, hset, hu]

theorem exec_signalAdd_home {a : Nat} (hs : w.sent = false) (hset : w.settled = true → (s.queue v q).unsettled = []) (ht : w.tgt = .dram a)
    (h : AtHome s a) : exec (.signalAdd v q) s = .next (signalPast v q (ownPerform a (.amo .add w.value.toNat 8 false) s)) := by
  have hgo : (w.settled && decide ((s.queue v q).unsettled ≠ [])) = false := by
    cases hw : w.settled with
    | false => rfl
    | true => simp [hset hw]
  rw [exec_signalAdd]
  unfold execSignalAdd
  simp only [hw, hs, hgo, signalAdd_home ht h, Bool.false_eq_true, if_false]
  rfl

end SignalAdd

/-- An addition of the device at a counter: it and nothing else. -/
theorem addition_home {a : Nat} {s : State} (x : Nat) (hm : MemWf s.mem) :
    homeNat (ownPerform a (.amo .add x 8 false) s) a 8 = (homeNat s a 8 + x) % 2 ^ 64 ∧
      KeepsOutside s (ownPerform a (.amo .add x 8 false) s) a 8 := by
  have hw := wrote_writeHome (cellsOf a 8 (homeNat s a 8 + x)) s hm (map_fst_cellsOf a 8 _ ▸ List.nodup_range')
  exact ⟨hw.homeNat_in a 8 _ (fun y h1 h2 => find_cellsOf_in _ _ _ _ h1 h2),
    keepsOutside_writeCells none 257 _ s (within_cellsOf a 8 _)⟩

end Sys2Proof.Machine

/-!
PROOFS. The events of hardware queues (O50).
-/
namespace Sys2Proof.Proofs

open Sys2Proof.Machine Sys2Proof.Safety

/-- Enabling queue (v, q), which becomes x, clears and checks it (R68). -/
theorem queue_enables {s : State} {v q : Nat} {value : Word} {x : HwQueue} (hw : QueuesWf s) (hs : servesQueue s v q = true)
    (hen : (s.queue v q).en = false) (hv : value.getLsbD 5 = true) (hx : enabledQueue (s.queue v q) value.toNat = x) :
    (∀ c e, 4 ≤ x.logsz → x.logsz ≤ 16 → chainOf s v x.rcb = some (c, e) →
      (∀ n, n < 64 → structAt s (segsAt s e.segtab) (partAt s e.part) (fun g => g.r) (x.base.toNat + n) 1 ≠ none) →
      After (.queueEnable v q value) s (fun t => t = { s with vfs := t.vfs } ∧ QueueIs s t v q x)) ∧
    ((x.logsz < 4 ∨ 16 < x.logsz ∨ chainOf s v x.rcb = none) → After (.queueEnable v q value) s (fun t =>
      t = { s with vfs := t.vfs, out := s.out ++ [.msix v 1] } ∧ QueueIs s t v q { x with stopped := true, err := .badqueue })) := by
  have hgood := exec_queueEnable_good hs hen hv
  have hbad := exec_queueEnable_bad hs hen hv
  rw [hx] at hgood hbad
  refine ⟨fun c e h4 h16 hc hslot => setsQueue_of_exec hw (hgood (queueGood_of hw h4 h16 hc hslot)), fun h => ?_⟩
  have hq := queueIs_setQueue s v q x hw
  have hstop := queueIs_trans hq (queueIs_stopQueue .badqueue (queuesWf_setQueue s v q x hw))
  rw [hq.1] at hstop
  exact ⟨_, hbad (queueGood_false hw h), stopQueue_rest (s.setQueue v q x) v q .badqueue, hstop⟩

/-- A TAIL write, by its distance from HEAD (R69). -/
theorem tail_writes {s : State} {v q : Nat} {value : Word} (hw : QueuesWf s) (happ : appending s v q = false) :
    let new : BitVec 32 := value.setWidth 32
    let far := (new - (s.queue v q).head).toNat
    (((s.queue v q).en = false ∨ (s.queue v q).stopped = true) → exec (.tailWrite v q value) s = .next s) ∧
    ((s.queue v q).en = true → (s.queue v q).stopped = false →
      (2 ^ (s.queue v q).logsz < far → Stops (.tailWrite v q value) s v q .overflow) ∧
      (far ≤ 2 ^ (s.queue v q).logsz → far < ((s.queue v q).tail - (s.queue v q).head).toNat → exec (.tailWrite v q value) s = .next s) ∧
      (far ≤ 2 ^ (s.queue v q).logsz → ((s.queue v q).tail - (s.queue v q).head).toNat ≤ far →
        After (.tailWrite v q value) s (fun t => t = { s with vfs := t.vfs } ∧ QueueIs s t v q { s.queue v q with tail := new }))) := by
  intro new far
  have he : exec (.tailWrite v q value) s = .next (putTail v q new s) := exec_tailWrite_alone happ
  refine ⟨fun h => he.trans (congrArg _ (putTail_off h)), fun hen hstop => ⟨fun h => ?_, fun h hlt => ?_, fun h hle => ?_⟩⟩
  · exact stops_of_exec hw (he.trans (congrArg _ (putTail_overflow hen hstop h)))
  · exact he.trans (congrArg _ (putTail_ignored hen hstop h hlt))
  · exact setsQueue_of_exec hw (he.trans (congrArg _ (putTail_taken hen hstop h hle)))

/-- The event leaves everything but queue (v, q), which becomes x. -/
theorem after_queueIs {e : Instr} {s t : State} {v q : Nat} {x y : HwQueue} (he : exec e s = .next t) (hr : t = { s with vfs := t.vfs })
    (h : QueueIs s t v q x) (hxy : x = y) : After e s (fun t => t = { s with vfs := t.vfs } ∧ QueueIs s t v q y) :=
  ⟨t, he, hr, hxy ▸ h⟩

section Parse

variable {s : State} {v q : Nat} {segs : List Seg} {part : Partition} {chain : List Nat} {p : List Byte} (ext : List (Nat × Byte))
  (h : HeadPacket s v q segs part chain p)

include h

theorem unknown_stops (ht : 4 ≤ packetNum p 0 1) :
    ∀ e ∈ [Instr.parseNop v q ext, .parseLaunch v q ext, .parseFence v q ext, .parseSignal v q ext], Stops e s v q .badpkt := by
  intro e he
  simp only [List.mem_cons, List.not_mem_nil, or_false] at he
  obtain rfl | rfl | rfl | rfl := he
  · exact stops_of_exec h.tables ((exec_parseNop v q ext s).trans (congrArg _ (parseAs_unknown h ht 0 ext _)))
  · exact stops_of_exec h.tables ((exec_parseLaunch v q ext s).trans (congrArg _ (parseAs_unknown h ht 1 ext _)))
  · exact stops_of_exec h.tables ((exec_parseFence v q ext s).trans (congrArg _ (parseAs_unknown h ht 2 ext _)))
  · exact stops_of_exec h.tables ((exec_parseSignal v q ext s).trans (congrArg _ (parseAs_unknown h ht 3 ext _)))

theorem nop_advances (ht : packetNum p 0 1 = 0) : exec (.parseNop v q ext) s = .next (advanceHead v q s) :=
  (exec_parseNop v q ext s).trans (congrArg _ (parseAs_head h ht (by omega) ext _))

section Launch

variable (ht : packetNum p 0 1 = 1)

include ht

theorem launch_stops (hbad : launchBadpkt p = true) : Stops (.parseLaunch v q ext) s v q .badpkt := by
  refine stops_of_exec h.tables ((exec_parseLaunch v q ext s).trans (congrArg _ ((parseAs_head h ht (by omega) ext _).trans ?_)))
  exact if_pos hbad

theorem launch_rejected {c : Nat} (hok : launchBadpkt p = false) (hj : judgeLaunch s v q ext p = .reject c) :
    exec (.parseLaunch v q ext) s =
      .next (advanceHead v q (rejectLaunch v q c p (chain.headD 0) (s.setQueue v q { s.queue v q with want := none }))) := by
  refine (exec_parseLaunch v q ext s).trans (congrArg _ ((parseAs_head h ht (by omega) ext _).trans ?_))
  simp only [hok, hj, Bool.false_eq_true, if_false]

theorem launch_held {l : Launch} (hok : launchBadpkt p = false) (hj : judgeLaunch s v q ext p = .good l) :
    exec (.parseLaunch v q ext) s = .next { s.setQueue v q { s.queue v q with
      held := some l, want := none, unsettled := (s.queue v q).unsettled ++ [l.id] } with nextLaunch := s.nextLaunch + 1 } := by
  refine (exec_parseLaunch v q ext s).trans (congrArg _ ((parseAs_head h ht (by omega) ext _).trans ?_))
  simp only [hok, hj, Bool.false_eq_true, if_false]

end Launch

section Fence

variable (ht : packetNum p 0 1 = 2) (hok : fenceBadpkt p = false) (hn : packetNum p 2 1 = 1)

include ht hok hn

theorem fence_stops (hts : fenceTargets s segs part (fencePairs 1 (p.drop 0x10)) = none) : Stops (.parseFence v q ext) s v q .badaddr := by
  have hpf : pf p 2 1 = 1 := hn
  refine stops_of_exec h.tables ((exec_parseFence v q ext s).trans (congrArg _ ((parseAs_head h ht (by omega) ext _).trans ?_)))
  simp [hok, hpf, fencePairs_none, hts]

theorem fence_reads {ps : List (Nat × Tgt × Word)} (hts : fenceTargets s segs part (fencePairs 1 (p.drop 0x10)) = some ps) :
    exec (.parseFence v q ext) s = .next (readFence v q ext ps s) := by
  have hpf : pf p 2 1 = 1 := hn
  refine (exec_parseFence v q ext s).trans (congrArg _ ((parseAs_head h ht (by omega) ext _).trans ?_))
  simp [hok, hpf, fencePairs_none, hts]

end Fence

section Signal

variable (ht : packetNum p 0 1 = 3) (hok : signalBadpkt p = false)

include ht hok

theorem signal_stops (ha : packetNum p 8 8 % 8 ≠ 0) : Stops (.parseSignal v q ext) s v q .badaddr := by
  have hpf : pf p 8 8 % 8 ≠ 0 := ha
  refine stops_of_exec h.tables ((exec_parseSignal v q ext s).trans (congrArg _ ((parseAs_head h ht (by omega) ext _).trans ?_)))
  simp only [hok, Bool.false_eq_true, if_false, if_pos hpf]

theorem signal_waits {g : Tgt} (ha : packetNum p 8 8 % 8 = 0) (hg : structAt s segs part (fun g => g.w) (packetNum p 8 8) 8 = some g) :
    exec (.parseSignal v q ext) s = .next (s.setQueue v q { s.queue v q with
      signal := some ⟨g, BitVec.ofNat 64 (packetNum p 0x10 8), bitAt (pf p 1 1) 0, part, false⟩ }) := by
  have hpf : ¬ pf p 8 8 % 8 ≠ 0 := not_not.mpr ha
  have hat : structAt s segs part (fun g => g.w) (pf p 8 8) 8 = some g := hg
  refine (exec_parseSignal v q ext s).trans (congrArg _ ((parseAs_head h ht (by omega) ext _).trans ?_))
  simp only [hok, Bool.false_eq_true, if_false, if_neg hpf, hat]
  rfl

end Signal

end Parse

/-- A LAUNCH that is rejected is entered in the record of its queue's region, or of its own (R77). -/
theorem launch_rejections {s : State} {v q : Nat} {segs : List Seg} {part : Partition} {chain : List Nat} {p : List Byte} {c : Nat}
    (ext : List (Nat × Byte)) (h : HeadPacket s v q segs part chain p) (ht : packetNum p 0 1 = 1) (hok : launchBadpkt p = false)
    (hj : judgeLaunch s v q ext p = .reject c) :
    let clear := s.setQueue v q { s.queue v q with want := none }
    (tablesOf s v (packetNum p 0x10 8) = none →
      exec (.parseLaunch v q ext) s = .next (advanceHead v q (recordEntry (chain.headD 0) (rejectEntry q c p) clear))) ∧
    (tablesOf s v (packetNum p 0x10 8) ≠ none → packetNum p 0x18 8 = 0 →
      exec (.parseLaunch v q ext) s = .next (advanceHead v q (recordEntry (packetNum p 0x10 8) (rejectEntry q c p) clear))) := by
  intro clear
  have hx := launch_rejected ext h ht hok hj
  have hT : ∀ rcb, tablesOf clear v rcb = tablesOf s v rcb := tablesOf_setQueue _ h.tables
  refine ⟨fun hn => ?_, fun hs hc => ?_⟩
  · rw [hx, rejectLaunch_regionless ((hT _).trans hn)]
  · rw [hx, rejectLaunch_recordless (fun e => hs ((hT _).symm.trans e)) hc]

/-- A FENCE whose counter is read, at its head or as it is parsed (R72). -/
theorem fence_read {e : Instr} {s : State} {v q a va : Nat} {x : Word} (ext : List (Nat × Byte)) (hw : QueuesWf s)
    (hh : ∀ n, n < 8 → AtHome s (a + n)) (he : exec e s = .next (readFence v q ext [(va, .dram a, x)] s)) :
    (0 ≤ (BitVec.ofNat 64 (homeNat s a 8) - x).toInt → After e s (fun t => t = { s with vfs := t.vfs } ∧
      QueueIs s t v q { s.queue v q with fence := none, head := (s.queue v q).head + 1 })) ∧
    ((BitVec.ofNat 64 (homeNat s a 8) - x).toInt < 0 → After e s (fun t => t = { s with vfs := t.vfs } ∧
      QueueIs s t v q { s.queue v q with fence := some ⟨[(va, .dram a, x)], s.time⟩ })) := by
  refine ⟨fun hx => ?_, fun hx => ?_⟩
  · rw [readFence_met hh ext hx] at he
    exact ⟨_, he, set_advance_rest .., queueIs_set_advance _ hw⟩
  · rw [readFence_unmet hh ext hx] at he
    exact setsQueue_of_exec hw he

/-- The addition of a SIGNAL in local DRAM (R73). -/
theorem signal_adds {s : State} {v q a : Nat} {w : SignalWait} (hw : QueuesWf s) (hsig : (s.queue v q).signal = some w)
    (hs : w.sent = false) (hset : w.settled = true → (s.queue v q).unsettled = []) (ht : w.tgt = .dram a) (hh : AtHome s a)
    (hm : MemWf s.mem) :
    After (.signalAdd v q) s (fun t => homeNat t a 8 = (homeNat s a 8 + w.value.toNat) % 2 ^ 64 ∧ KeepsOutside s t a 8 ∧
      (t.queue v q).head = (s.queue v q).head + 1 ∧ (t.queue v q).signal = none) := by
  have hdooms := dooms_ownPerform a (.amo .add w.value.toNat 8 false) s
  obtain ⟨hadd, hkeep⟩ := addition_home (a := a) w.value.toNat hm
  have hx := exec_signalAdd_home hsig hs hset ht hh
  generalize ownPerform a (.amo .add w.value.toNat 8 false) s = u at hdooms hadd hkeep hx
  have hsame := signalPast_same v q u
  have hq := (queueIs_signalPast (v := v) (q := q) (hdooms.tables hw)).1
  obtain ⟨x, hu⟩ := hdooms.queue hw v q
  refine ⟨_, hx, (hsame.homeNat a 8).trans hadd, keepsOutside_trans hkeep (hsame.keepsOutside a 8), ?_, ?_⟩
  · rw [hq, hu]
  · rw [hq]

/-- R68: what an enable makes of a queue. -/
theorem enabledQueue_eq (q : HwQueue) (value : Nat) : enabledQueue q value = { q with
    rcb := value / 2 ^ 7 % 2 ^ 38 * 2 ^ 7, logsz := value % 2 ^ 5, en := true, head := 0, tail := 0, stopped := false, err := .none,
    last := none, lastKey := none, unsettled := [], held := none, fence := none, signal := none, history := [], want := none } := by
  unfold enabledQueue field
  rw [Nat.pow_zero, Nat.div_one]

/-- Settles O50: enable and disable, TAIL, the four packets, the read of a FENCE's counter and the addition of a SIGNAL. -/
theorem queueEvents : Obligations.QueueEvents := by
  unfold Obligations.QueueEvents
  refine ⟨?enable, ?disable, fun s v q value hw happ => tail_writes hw happ, ?parse, ?fence, ?signal⟩
  case enable =>
    intro s v q value hw hboot _ h1 h64 hq hen hv size rcb on
    exact queue_enables hw (servesQueue_of s v q hboot h1 h64 hq) hen hv (enabledQueue_eq (s.queue v q) value.toNat)
  case disable =>
    exact fun s v q value hw hen hv hspec => setsQueue_of_exec hw (exec_queueDisable_plain hen hv hspec)
  case parse =>
    intro s v q segs part chain p ext h num at_ next
    obtain ⟨-, hfence, -⟩ := h.idle
    refine ⟨unknown_stops ext h, fun ht => ?nop, fun ht hbad => launch_stops ext h ht (launchBadpkt_of hbad),
      fun c ht hok hj => launch_rejections ext h ht hok hj, judgeLaunch_unpointed, judgeLaunch_regionless,
      fun l ht hok hj => ?held, fun ht hflags hn hres hlist hrest => ?counters, fun ht hflags hres hrest => ?adds⟩
    case nop => exact setsQueue_of_exec h.tables (nop_advances ext h ht)
    case held => exact ⟨_, launch_held ext h ht hok hj, rfl, queueIs_setQueue s v q _ h.tables⟩
    case counters =>
      have hok := fenceBadpkt_one hflags hn hres hlist hrest
      refine ⟨fun ha => ?_, fun a hc => ?_⟩
      · refine fence_stops ext h ht hok hn ?_
        rw [fencePairs_one]
        exact fenceTargets_unaligned ha
      · obtain ⟨ha, hat, hh⟩ := hc
        have hpairs : fenceTargets s segs part (fencePairs 1 (p.drop 0x10)) =
            some [(packetNum p 0x10 8, .dram a, BitVec.ofNat 64 (packetNum p 0x18 8))] := by
          rw [fencePairs_one]
          exact fenceTargets_one ha hat
        have hread := fence_read ext h.tables hh (fence_reads ext h ht hok hn hpairs)
        have hnone : { s.queue v q with fence := none, head := (s.queue v q).head + 1 } = next := by
          rw [← hfence]
        exact hnone ▸ hread
    case adds =>
      have hok := signalBadpkt_false h.size hflags hres hrest
      refine ⟨fun ha => signal_stops ext h ht hok ha, fun g ha hg => ?_⟩
      exact settled_flag hflags ▸ setsQueue_of_exec h.tables (signal_waits ext h ht hok ha hg)
  case fence =>
    intro s v q ext f va a value hw hf hpairs hh
    have hx : exec (.fenceCounterRead v q ext) s = .next (readFence v q ext f.pairs s) := by
      rw [exec_fenceCounterRead, execFenceCounterRead, hf]
    rw [hpairs] at hx ⊢
    exact fence_read ext hw hh hx
  case signal =>
    intro s v q w hw hsig
    refine ⟨fun hs => ⟨_, exec_signalAdd_sent hsig hs, signalPast_rest v q s, queueIs_signalPast hw⟩,
      exec_signalAdd_waits hsig, fun a hs hset ht hh hm => signal_adds hw hsig hs hset ht hh hm⟩

end Sys2Proof.Proofs
